-- ==== Sys2Proof/Word.lean ====
section
/-! DEFINITION. The word types of the Imley X6 (00_scope R5) and the sparse tables in which State keeps registers and memories. -/

namespace Sys2Proof

/-- A quad: 64 bits (R5). -/
abbrev Word := BitVec 64

/-- One byte of memory (R5). -/
abbrev Byte := BitVec 8

/-- A register number of a 6-bit field (R77). -/
abbrev Reg := BitVec 6

/-- An effective immediate after lending (R68): the value L × 2^n + imm, in two's complement. -/
abbrev Imm := BitVec 64

/-- A sparse table: strictly rising keys, and no entry equal to the table's default value. -/
abbrev Tbl (V : Type) := List (Nat × V)

end Sys2Proof
end

