-- ==== Sys2Proof/Syntax.lean ====
section
/-! DEFINITION. The syntax of every step of the Imley X6: one constructor of Instr for each row of the opcode table, with the operands its description gives it. Operands of bundle ops are the fields of the op word after lending (R68); operands of events are what the event carries. -/

namespace Sys2Proof

/-- Scopes of phase, fence and publish (05 R82, 11 R186). -/
inductive Scope | seq | cluster | layer | package | gang
  deriving DecidableEq, Repr

/-- The type that a scalar floating-point major names (09 R169). -/
inductive FTy | f64 | f32 | f16 | bf16
  deriving DecidableEq, Repr

/-- Rounding modes, codes 0b000 to 0b101 (07 R111). -/
inductive Rm | ne | tz | up | dn | na | odd
  deriving DecidableEq, Repr

/-- TY of majors 0x28 and 0x2B (05 R82). -/
inductive VTy | f32 | f64 | i32 | n32
  deriving DecidableEq, Repr

/-- T of majors 0x30 to 0x32 (05 R82). -/
inductive RTy | f32 | f64 | bf16 | f16
  deriving DecidableEq, Repr

/-- OP of vred and vscan (15 R272). -/
inductive RedOp | add | min | max | and | or | xor
  deriving DecidableEq, Repr

/-- Spaces of copyx (05 R82, 27 R444). -/
inductive Space | global | own | remote | acc | host
  deriving DecidableEq, Repr

/-- Lazy units (03 R59). -/
inductive UnitKind | bank | hot | group
  deriving DecidableEq, Repr

/-- Sources of condition-word updates, in the order in which those of one cycle are applied (03 R39). -/
inductive CondSrc | packet | deadline | gwcond
  deriving DecidableEq, Repr

/-- What an update does to the condition word (03 R39, 09 R150). -/
inductive CondOp | set | clr | ins | replace
  deriving DecidableEq, Repr

/-- An update on its way to the graph of a context in a slot of a graph walker (03 R39). -/
structure CondUpdate where
  ctx : Nat
  cl : Nat
  slot : Nat
  src : CondSrc
  op : CondOp
  value : Word
  mask : Word
  deriving DecidableEq, Repr

/-- What a straggler notice carries beside its gang (25 R427): the rank of the member that lacks, and for a gang publication its context and entry (11 R201). -/
structure Straggler where
  rank : Nat
  pub : Option (Nat × Nat)
  deriving DecidableEq, Repr

/-- A response of the pool (23 R369): header fields, the bytes of its lines, and the port at which it arrives, as 16 × layer + port. -/
structure PoolRsp where
  kind : BitVec 4
  status : BitVec 4
  pkg : BitVec 16
  object : BitVec 40
  seq : BitVec 32
  value : Word
  addr : BitVec 48
  bytes : List Byte
  port : Nat
  deriving DecidableEq, Repr

/-- A fabric packet (25 R396). good is the result of its header check, and sealsGood that of the seals of its payload lines (R396). For an aggregate acknowledgement of a multicast, answers lists peer and status of each member below the router (R414); for a completion notice, waves lists the last sequence number of each data wavelength (R420); for a multicast write and its aggregate, each member served with the number of its stream (R414). reserved says that a reserved field of the header is not zero, port is where the packet arrives (0 to 31, or 32 and 33 for the electrical ports), and via the intermediate that it is still on its way to, if any (R397); the header has no field for these three. -/
structure Packet where
  kind : BitVec 4
  hops : BitVec 3
  src : BitVec 10
  dst : BitVec 10
  ctx : BitVec 12
  export_ : BitVec 16
  seq : BitVec 32
  group : BitVec 12
  wave : BitVec 4
  len : BitVec 5
  offset : Word
  info : Word
  payload : List Byte
  good : Bool
  sealsGood : Bool
  answers : List (Nat × Nat)
  waves : List (Nat × BitVec 32)
  reserved : Bool := false
  port : Nat := 0
  via : Option (BitVec 10) := none
  deriving DecidableEq, Repr

/-- What management gives to create a partition (27 R452): roles is the whole role map; overflow, egress and parked are the HBM areas reserved for pre-emption overflow, virtual egress queues and parked traffic, by base and bytes; vf is its PCI Express virtual function; bar2 and bar2Size are the physical address and the bytes of the BAR2 window (R453). -/
structure PartitionRec where
  num : Nat
  layers : List Nat
  roles : List Bool
  service : BitVec 52
  spillKey : BitVec 6
  cacheKey : BitVec 6
  overflow : Nat × Nat
  egress : Nat × Nat
  parked : Nat × Nat
  vf : Nat
  bar2 : Nat
  bar2Size : Nat
  deriving DecidableEq, Repr

/-- What management gives to create a context (27 R452). spill gives, for a logical cluster and core, RS.SPILL and RS.LIMIT. -/
structure ContextRec where
  id : Nat
  part : Nat
  root : Nat
  handler : BitVec 52
  tidBase : BitVec 52
  spill : List (Nat × Nat × Nat × Nat)
  parked : Nat
  deriving DecidableEq, Repr

/-- A message of the IEEE 1588 clock on an electrical port (25 R421), by port and sequence number: a one-step Sync with the grandmaster's time of sending, a two-step Sync and its follow-up, and a delay response with the time at which the grandmaster received the request. Times are in ns. -/
inductive SyncMsg
  | oneStep (port seq : Nat) (t1 : Int)
  | twoStep (port seq : Nat)
  | followUp (port seq : Nat) (t1 : Int)
  | delayResp (port seq : Nat) (t4 : Int)
  deriving DecidableEq, Repr

/-- Flags of a router-table entry (25 R395). -/
inductive RouteFlag | absent | present | pending
  deriving DecidableEq, Repr

/-- A router-table entry (25 R395): flag, minimal ports, link loss in 0.1 dB, intermediates. -/
structure RouterEntry where
  flag : RouteFlag
  minimal : List Nat
  loss : Nat
  mids : List Nat
  deriving DecidableEq, Repr

/-- What the boot ROM finds (27 R455): the image, or none where it cannot be read, the results of the two signature checks, the image's version, and the value to which the fused counter rises with it. -/
structure BootImage where
  bytes : Option (List Byte)
  ed25519 : Bool
  mldsa : Bool
  version : Nat
  fuse : Nat
  deriving DecidableEq, Repr

/-- A host access (27 R453, R454): through the BAR2 window of a partition, with the CRC-32C of each line in the prefix when it carries one; a read of a stream register (21 R342); what management reads through the mailbox: the error counter of a pool port (23 R369) or a peer port (25 R396), the lines marked poisoned (01 R28), a prefetcher's status (21 R364), the HBM space left to the pool cache (13 R222); the peer number that management gives the package (25 R393); and the enabling of an MSI-X vector of a function (21 R355). -/
inductive HostAcc
  | read (part off len : Nat)
  | write (part off : Nat) (bytes : List Byte) (crc : List (BitVec 32))
  | streamReg (part stream reg : Nat)
  | portErrors (port : Nat)
  | peerErrors (port : Nat)
  | poisoned
  | prefetchStatus (part stream : Nat)
  | cacheSpace
  | peerNumber (n : Nat)
  | vectorEnable (fn vector : Nat) (on : Bool)
  deriving DecidableEq, Repr

/-- A command that waits in the management mailbox (27 R457): role maps, partitions and contexts, stream binding and ERROR, capability slots, handle entries, package id and fence number, router and export entries, keys, the power cap, pre-emption, the start of a core, attestation, reads and settings of management's, and the reset of a fabric stream. A host write that a lease delays waits as one too (11 R207). -/
inductive MailCmd
  | roleMap (roles : List Bool)
  | partition (r : PartitionRec)
  | context (r : ContextRec)
  | destroy (ctx : Nat)
  | bind (part stream ctx : Nat) (base : BitVec 52) (size : Nat)
  | clearError (part stream : Nat)
  | capSlot (ctx slot : Nat) (value : BitVec 128) (tag : Bool)
  | handle (ctx idx : Nat) (q0 q1 q2 : Word)
  | fence (pkg : BitVec 16) (fence : Word)
  | leaveFenced (pkg : BitVec 16) (fence : Word)
  | router (part peer : Nat) (entry : RouterEntry)
  | exportEntry (idx : Nat) (q0 q1 q2 q3 : Word)
  | key (idx : Nat) (key : BitVec 512)
  | powerCap (watts : Nat)
  | preempt (ctx : Nat)
  | start (cl core : Nat)
  | attest (nonce : BitVec 256)
  | host (acc : HostAcc)
  | resetStream (ctx peer : Nat)
  deriving DecidableEq, Repr


/-- One constructor for each row of the opcode table. -/
inductive Instr where
  /-- RET (R138). Branches to the address held in a scalar register, popping loop entries. -/
  | ret (a : Reg) (pop : BitVec 3)
  /-- RDTIME (R154). Reads gang time into a scalar register. -/
  | rdtime (d : Reg)
  /-- RDCTR (R155). Reads one of the core's event counters into a scalar register. -/
  | rdctr (d : Reg) (sel : BitVec 6)
  /-- XCHK (R156). Compares two scalar registers and raises a duplicate-mismatch trap if they differ. -/
  | xchk (a b : Reg)
  /-- XCHK_V (R156). Compares a vector row with a shadow vector row and raises a duplicate-mismatch trap if they differ. -/
  | xchkV (a b : Reg)
  /-- GWCOND_SET (R150). ORs a value into the condition word of the launching graph. -/
  | gwcondSet (a : Reg)
  /-- GWCOND_CLR (R150). Clears bits of the condition word of the launching graph. -/
  | gwcondClr (a : Reg)
  /-- GWCOND_INS (R150). Inserts masked bits into the condition word of the launching graph. -/
  | gwcondIns (a b : Reg)
  /-- PBR (R134). Loads a branch-target register from a scalar register. -/
  | pbr (t : BitVec 2) (a : Reg)
  /-- PBRI (R135). Loads a branch-target register with a PC-relative address. -/
  | pbri (t : BitVec 2) (imm : Imm)
  /-- BR (R136). Redirects fetch to a branch-target register when its condition holds, popping loop entries. -/
  | br (t : BitVec 2) (cond pop : BitVec 3) (a : Reg)
  /-- BRL (R137). Branches unconditionally and writes the link address. -/
  | brl (t : BitVec 2) (pop : BitVec 3) (d : Reg)
  /-- LOOP (R142). Pushes a hardware loop entry whose count is taken from a register. -/
  | loop (a : Reg) (imm : Imm)
  /-- LOOPI (R143). Pushes a hardware loop entry with an immediate count. -/
  | loopi (cnt : Imm) (imm : BitVec 13)
  /-- TRAP (R147). Raises a software trap that is delivered to the context's handler. -/
  | trap (code : BitVec 24)
  /-- SVC (R147). Raises a service call that is delivered to the partition's service handler. -/
  | svc (code : BitVec 24)
  /-- PHASE (R151). Ends the sequencer's phase at a scope, with release and acquire. -/
  | phase (sc : Scope)
  /-- PHASE_PROBE (R203). A phase boundary with remote-scope promotion of held writes over an address range. -/
  | phaseProbe (sc : Scope) (a b : Reg)
  /-- FENCE (R152). Orders the sequencer's own memory operations at a scope. -/
  | fence (sc : Scope)
  /-- STAGE (R148). Advances a copy-stage counter of the cluster. -/
  | stage (e : BitVec 1) (n : Reg)
  /-- ADD (R159). Integer add. -/
  | add (w : Bool) (d a b : Reg)
  /-- SUB (R159). Integer subtract. -/
  | sub (w : Bool) (d a b : Reg)
  /-- AND (R159). Bitwise AND. -/
  | and (w : Bool) (d a b : Reg)
  /-- OR (R159). Bitwise OR. -/
  | or (w : Bool) (d a b : Reg)
  /-- XOR (R159). Bitwise XOR. -/
  | xor (w : Bool) (d a b : Reg)
  /-- SHL (R159). Shift left by a register count. -/
  | shl (w : Bool) (d a b : Reg)
  /-- SHR (R159). Logical shift right by a register count. -/
  | shr (w : Bool) (d a b : Reg)
  /-- SAR (R159). Arithmetic shift right by a register count. -/
  | sar (w : Bool) (d a b : Reg)
  /-- ROT (R159). Rotate left by a register count. -/
  | rot (w : Bool) (d a b : Reg)
  /-- MIN (R159). Signed minimum. -/
  | min (w : Bool) (d a b : Reg)
  /-- MAX (R159). Signed maximum. -/
  | max (w : Bool) (d a b : Reg)
  /-- MINN (R159). Unsigned minimum. -/
  | minn (w : Bool) (d a b : Reg)
  /-- MAXN (R159). Unsigned maximum. -/
  | maxn (w : Bool) (d a b : Reg)
  /-- SEQ (R159). Sets the result to 1 when the operands are equal. -/
  | seq (w : Bool) (d a b : Reg)
  /-- SLT (R159). Signed less-than test. -/
  | slt (w : Bool) (d a b : Reg)
  /-- SLTN (R159). Unsigned less-than test. -/
  | sltn (w : Bool) (d a b : Reg)
  /-- CLZ (R159). Counts leading zero bits. -/
  | clz (w : Bool) (d a : Reg)
  /-- CTZ (R159). Counts trailing zero bits. -/
  | ctz (w : Bool) (d a : Reg)
  /-- POPC (R159). Counts one bits. -/
  | popc (w : Bool) (d a : Reg)
  /-- SEL (R159). Selects one of two operands on the value held in gD. -/
  | sel (w : Bool) (d a b : Reg)
  /-- LEA (R159). Adds a shifted register to another register. -/
  | lea (w : Bool) (sh : BitVec 2) (d a b : Reg)
  /-- MUL (R160). Integer multiply, low bits of the product. -/
  | mul (w : Bool) (d a b : Reg)
  /-- MULH (R160). High bits of the signed product. -/
  | mulh (w : Bool) (d a b : Reg)
  /-- MULHN (R160). High bits of the unsigned product. -/
  | mulhn (w : Bool) (d a b : Reg)
  /-- DIV (R160). Signed division. -/
  | div (w : Bool) (d a b : Reg)
  /-- DIVN (R160). Unsigned division. -/
  | divn (w : Bool) (d a b : Reg)
  /-- REM (R160). Signed remainder. -/
  | rem (w : Bool) (d a b : Reg)
  /-- REMN (R160). Unsigned remainder. -/
  | remn (w : Bool) (d a b : Reg)
  /-- ADDI (R162). Adds a signed immediate. -/
  | addi (d a : Reg) (imm : Imm)
  /-- ANDI (R163). AND with an unsigned immediate. -/
  | andi (d a : Reg) (imm : Imm)
  /-- ORI (R163). OR with an unsigned immediate. -/
  | ori (d a : Reg) (imm : Imm)
  /-- XORI (R163). XOR with an unsigned immediate. -/
  | xori (d a : Reg) (imm : Imm)
  /-- SHLI (R164). Shift left by an immediate count. -/
  | shli (w : Bool) (d a sh : Reg)
  /-- SHRI (R164). Logical shift right by an immediate count. -/
  | shri (w : Bool) (d a sh : Reg)
  /-- SARI (R164). Arithmetic shift right by an immediate count. -/
  | sari (w : Bool) (d a sh : Reg)
  /-- BFX (R165). Extracts a bit field. -/
  | bfx (d a pos len : Reg)
  /-- BFI (R165). Inserts a bit field. -/
  | bfi (d a pos len : Reg)
  /-- MOVI (R166). Loads a sign-extended immediate. -/
  | movi (d : Reg) (imm : Imm)
  /-- MOVHI (R166). Shifts gD left by 31 and ORs in an immediate. -/
  | movhi (d : Reg) (imm : Imm)
  /-- FADD (R170). Scalar floating-point add. -/
  | fadd (t : FTy) (rm : Rm) (d a b : Reg)
  /-- FSUB (R170). Scalar floating-point subtract. -/
  | fsub (t : FTy) (rm : Rm) (d a b : Reg)
  /-- FMUL (R170). Scalar floating-point multiply. -/
  | fmul (t : FTy) (rm : Rm) (d a b : Reg)
  /-- FDIV (R170). Scalar floating-point divide. -/
  | fdiv (t : FTy) (rm : Rm) (d a b : Reg)
  /-- FFMA (R171). Fused multiply-add into the destination, rounded once. -/
  | ffma (t : FTy) (rm : Rm) (d a b : Reg)
  /-- FMIN (R172). Floating-point minimum. -/
  | fmin (t : FTy) (d a b : Reg)
  /-- FMAX (R172). Floating-point maximum. -/
  | fmax (t : FTy) (d a b : Reg)
  /-- FCMP (R173). Floating-point compare into a 0 or 1 integer. -/
  | fcmp (t : FTy) (c : BitVec 3) (d a b : Reg)
  /-- FSQRT (R175). Square root, correctly rounded. -/
  | fsqrt (t : FTy) (rm : Rm) (d a : Reg)
  /-- FEXP2 (R176). Base-2 exponential. -/
  | fexp2 (t : FTy) (rm : Rm) (d a : Reg)
  /-- FLOG2 (R176). Base-2 logarithm. -/
  | flog2 (t : FTy) (rm : Rm) (d a : Reg)
  /-- FEXP (R176). Natural exponential. -/
  | fexp (t : FTy) (rm : Rm) (d a : Reg)
  /-- FLOG (R176). Natural logarithm. -/
  | flog (t : FTy) (rm : Rm) (d a : Reg)
  /-- FSIN (R176). Sine. -/
  | fsin (t : FTy) (rm : Rm) (d a : Reg)
  /-- FCOS (R176). Cosine. -/
  | fcos (t : FTy) (rm : Rm) (d a : Reg)
  /-- FTANH (R176). Hyperbolic tangent. -/
  | ftanh (t : FTy) (rm : Rm) (d a : Reg)
  /-- FERF (R176). Error function. -/
  | ferf (t : FTy) (rm : Rm) (d a : Reg)
  /-- FRCPA (R177). Approximate reciprocal. -/
  | frcpa (t : FTy) (rm : Rm) (d a : Reg)
  /-- FRSQA (R177). Approximate reciprocal square root. -/
  | frsqa (t : FTy) (rm : Rm) (d a : Reg)
  /-- FCLASS (R178). Writes the class word of a floating-point value. -/
  | fclass (t : FTy) (d a : Reg)
  /-- FRND (R179). Rounds to an integral value. -/
  | frnd (t : FTy) (rm : Rm) (d a : Reg)
  /-- FCVT (R180). Converts from the major's type to format c. -/
  | fcvt (t : FTy) (rm : Rm) (c : BitVec 4) (d a : Reg)
  /-- FCVT_FROM_INT (R181). Converts from an integer format into the major's type. -/
  | fcvtFromInt (t : FTy) (rm : Rm) (c : BitVec 4) (d a : Reg)
  /-- LD (R235). Loads a scalar from scratch into a g register. -/
  | ld (ty : BitVec 3) (wait clear : Bool) (d a : Reg) (imm : Imm)
  /-- ST (R235). Stores a scalar from a g register into scratch. -/
  | st (ty : BitVec 3) (d a : Reg) (imm : Imm)
  /-- VLD (R236). Loads a 256-byte row from scratch. -/
  | vld (wait clear : Bool) (d a : Reg) (imm : Imm)
  /-- VST (R236). Stores a 256-byte row to scratch. -/
  | vst (d a : Reg) (imm : Imm)
  /-- VLDM (R237). Strided column load of 32-bit elements into rows. -/
  | vldm (wait clear : Bool) (d a cnt : Reg)
  /-- VSTM (R237). Strided column store of 32-bit elements. -/
  | vstm (d a cnt : Reg)
  /-- TLD (R238). Loads a tile view from scratch into the arena. -/
  | tld (wait clear : Bool) (tv : BitVec 4) (a : Reg) (imm : Imm)
  /-- TST (R238). Stores a tile view from the arena into scratch. -/
  | tst (tv : BitVec 4) (a : Reg) (imm : Imm)
  /-- FESET (R240). Sets a range of granules full. -/
  | feset (a b : Reg)
  /-- FECLR (R240). Sets a range of granules empty. -/
  | feclr (a b : Reg)
  /-- ATOM (R241). Scratch atomic performed at its bank; the old value goes to a q register. -/
  | atom (i32 : Bool) (op : BitVec 4) (q : BitVec 3) (a b : Reg)
  /-- SBIND (R243). Binds a q register as an empty return stream. -/
  | sbind (q : BitVec 3) (a : Reg)
  /-- SUNBIND (R243). Discards a return stream and unbinds the q register. -/
  | sunbind (q : BitVec 3)
  /-- SSTAT_VAL (R244). Reads and consumes the head value of a return stream. -/
  | sstatVal (d : Reg) (q : BitVec 3)
  /-- SSTAT_Q (R244). Reads the status of a return stream. -/
  | sstatQ (d : Reg) (q : BitVec 3)
  /-- SSTAT_CE (R244). Reads the progress of a copy engine. -/
  | sstatCe (d : Reg) (e : BitVec 1)
  /-- SSTAT_CF (R244). Reads the fault status of a copy engine. -/
  | sstatCf (d : Reg) (e : BitVec 1)
  /-- SSTAT_PUT (R244). Reads the count of completed gput ops. -/
  | sstatPut (d : Reg)
  /-- GGET (R245). Moves global memory into scratch granules. -/
  | gget (d a b : Reg)
  /-- GPUT (R245). Moves scratch bytes to global memory. -/
  | gput (d a b : Reg)
  /-- PLD (R247). Loads a scalar from a pool object into a return stream. -/
  | pld (ty q : BitVec 3) (k : BitVec 4) (a : Reg)
  /-- PST (R247). Stores a scalar into a pool object through the pool write buffer. -/
  | pst (ty : BitVec 3) (k : BitVec 4) (a b : Reg)
  /-- PATOM (R248). Tagged 64-bit atomic performed at the pool. -/
  | patom (op q : BitVec 3) (k : BitVec 4) (a b : Reg)
  /-- PGET (R249). Copies bytes of a pool object into scratch. -/
  | pget (k : BitVec 4) (a b l : Reg)
  /-- LEASE (R250). Requests or renews a strided range lease. -/
  | lease (k : BitVec 4) (a b : Reg)
  /-- LREL (R250). Releases a range lease. -/
  | lrel (k : BitVec 4) (a b : Reg)
  /-- CAPLD (R251). Loads a tagged capability from a scratch granule. -/
  | capld (k : BitVec 4) (a : Reg)
  /-- CAPST (R251). Stores a capability to scratch and tags the granule. -/
  | capst (k : BitVec 4) (a : Reg)
  /-- CAPDER (R252). Derives a narrower capability. -/
  | capder (k kb : BitVec 4) (a b : Reg)
  /-- CAPCHK (R253). Tests a capability and traps if the test fails. -/
  | capchk (k : BitVec 4) (a b : Reg)
  /-- PUBLISH (R255). Requests an exchange of the live and shadow backings of a registered buffer. -/
  | publish (sc : Scope) (a : Reg)
  /-- RESH_PIN (R256). The context takes a pin on a handle's range. -/
  | reshPin (a : Reg)
  /-- RESH_UNPIN (R256). Removes the context's pin on a handle's range. -/
  | reshUnpin (a : Reg)
  /-- RESH_PRIO (R256). Sets the priority of a handle entry. -/
  | reshPrio (a b : Reg)
  /-- EVICT (R256). Evicts a handle's range from HBM. -/
  | evict (a : Reg)
  /-- EVICT_DEMOTE (R256). Demotes a handle's range to LPDDR6. -/
  | evictDemote (a : Reg)
  /-- PREF (R256). Promotes a handle's range into HBM. -/
  | pref (a : Reg)
  /-- VADD (R264). Vector floating-point add. -/
  | vadd (f64 : Bool) (rm : Rm) (m : BitVec 3) (d a b : Reg)
  /-- VSUB (R264). Vector floating-point subtract. -/
  | vsub (f64 : Bool) (rm : Rm) (m : BitVec 3) (d a b : Reg)
  /-- VMUL (R264). Vector floating-point multiply. -/
  | vmul (f64 : Bool) (rm : Rm) (m : BitVec 3) (d a b : Reg)
  /-- VFMA (R264). Vector fused multiply-add. -/
  | vfma (f64 : Bool) (rm : Rm) (m : BitVec 3) (d a b : Reg)
  /-- VFMS (R264). Vector fused multiply-subtract. -/
  | vfms (f64 : Bool) (rm : Rm) (m : BitVec 3) (d a b : Reg)
  /-- VDIV (R264). Vector floating-point divide. -/
  | vdiv (f64 : Bool) (rm : Rm) (m : BitVec 3) (d a b : Reg)
  /-- VSQRT (R265). Vector square root. -/
  | vsqrt (f64 : Bool) (rm : Rm) (m : BitVec 3) (d a : Reg)
  /-- VRCPA (R265). Vector approximate reciprocal. -/
  | vrcpa (f64 : Bool) (rm : Rm) (m : BitVec 3) (d a : Reg)
  /-- VRSQA (R265). Vector approximate reciprocal square root. -/
  | vrsqa (f64 : Bool) (rm : Rm) (m : BitVec 3) (d a : Reg)
  /-- VEXP2 (R265). Vector base-2 exponential. -/
  | vexp2 (f64 : Bool) (rm : Rm) (m : BitVec 3) (d a : Reg)
  /-- VLOG2 (R265). Vector base-2 logarithm. -/
  | vlog2 (f64 : Bool) (rm : Rm) (m : BitVec 3) (d a : Reg)
  /-- VEXP (R265). Vector natural exponential. -/
  | vexp (f64 : Bool) (rm : Rm) (m : BitVec 3) (d a : Reg)
  /-- VLOG (R265). Vector natural logarithm. -/
  | vlog (f64 : Bool) (rm : Rm) (m : BitVec 3) (d a : Reg)
  /-- VSIN (R265). Vector sine. -/
  | vsin (f64 : Bool) (rm : Rm) (m : BitVec 3) (d a : Reg)
  /-- VCOS (R265). Vector cosine. -/
  | vcos (f64 : Bool) (rm : Rm) (m : BitVec 3) (d a : Reg)
  /-- VTANH (R265). Vector hyperbolic tangent. -/
  | vtanh (f64 : Bool) (rm : Rm) (m : BitVec 3) (d a : Reg)
  /-- VERF (R265). Vector error function. -/
  | verf (f64 : Bool) (rm : Rm) (m : BitVec 3) (d a : Reg)
  /-- VABS (R265). Vector floating-point absolute value. -/
  | vabs (f64 : Bool) (m : BitVec 3) (d a : Reg)
  /-- VNEG (R265). Vector floating-point negation. -/
  | vneg (f64 : Bool) (m : BitVec 3) (d a : Reg)
  /-- VCLASS (R265). Vector class word. -/
  | vclass (f64 : Bool) (m : BitVec 3) (d a : Reg)
  /-- VADD_I32 (R266). Vector integer add. -/
  | vaddI32 (m : BitVec 3) (d a b : Reg)
  /-- VSUB_I32 (R266). Vector integer subtract. -/
  | vsubI32 (m : BitVec 3) (d a b : Reg)
  /-- VMUL_I32 (R266). Vector integer multiply. -/
  | vmulI32 (m : BitVec 3) (d a b : Reg)
  /-- VMADI (R266). Accumulates dot products of signed bytes into 32-bit lanes. -/
  | vmadi (m : BitVec 3) (d a b : Reg)
  /-- VAND (R266). Vector AND. -/
  | vand (m : BitVec 3) (d a b : Reg)
  /-- VOR (R266). Vector OR. -/
  | vor (m : BitVec 3) (d a b : Reg)
  /-- VXOR (R266). Vector XOR. -/
  | vxor (m : BitVec 3) (d a b : Reg)
  /-- VNOT (R266). Vector NOT. -/
  | vnot (m : BitVec 3) (d a : Reg)
  /-- VSHL (R266). Vector shift left. -/
  | vshl (m : BitVec 3) (d a b : Reg)
  /-- VSHR (R266). Vector logical shift right. -/
  | vshr (m : BitVec 3) (d a b : Reg)
  /-- VSAR (R266). Vector arithmetic shift right. -/
  | vsar (m : BitVec 3) (d a b : Reg)
  /-- VABS_I32 (R266). Vector integer absolute value. -/
  | vabsI32 (m : BitVec 3) (d a : Reg)
  /-- VNEG_I32 (R266). Vector integer negation. -/
  | vnegI32 (m : BitVec 3) (d a : Reg)
  /-- VMIN (R267). Vector minimum. -/
  | vmin (ty : VTy) (m : BitVec 3) (d a b : Reg)
  /-- VMAX (R267). Vector maximum. -/
  | vmax (ty : VTy) (m : BitVec 3) (d a b : Reg)
  /-- VCMP (R268). Vector compare into a mask register. -/
  | vcmp (ty : VTy) (cond c m : BitVec 3) (a b : Reg)
  /-- VSEL (R269). Selects whole elements under a mask. -/
  | vsel (ty : VTy) (m : BitVec 3) (d a b : Reg)
  /-- VCVT (R270). Converts the leading elements of a row into another format. -/
  | vcvt (tf ff : BitVec 4) (rm : Rm) (sat : Bool) (d a : Reg)
  /-- VPACK (R271). Packs the low halves of the elements of two rows. -/
  | vpack (w : BitVec 2) (d a b : Reg)
  /-- VUNPACK (R271). Widens half of a row's elements. -/
  | vunpack (w : BitVec 2) (hi sx : Bool) (d a : Reg)
  /-- VBCAST (R271). Broadcasts a scalar to every element. -/
  | vbcast (w : BitVec 2) (d a : Reg)
  /-- VPERM (R271). Permutes the elements of one row by an index row. -/
  | vperm (w : BitVec 2) (d a b : Reg)
  /-- VSHUF (R271). Shuffles from a pair of rows by the indices held in vD. -/
  | vshuf (w : BitVec 2) (d a b : Reg)
  /-- VSLIDE (R271). Slides elements by a signed scalar count. -/
  | vslide (w : BitVec 2) (d a b : Reg)
  /-- VRED (R273). Tree reduction of a row into element 0. -/
  | vred (op : RedOp) (ty : VTy) (rm : Rm) (m : BitVec 3) (d a : Reg)
  /-- VSCAN (R274). Ordered prefix scan of a row. -/
  | vscan (op : RedOp) (ty : VTy) (rm : Rm) (m : BitVec 3) (d a : Reg)
  /-- VRNG (R276). Fills a row with counter-based random words. -/
  | vrng (d a b : Reg)
  /-- VMAND (R277). Mask AND. -/
  | vmand (d a b : BitVec 3)
  /-- VMOR (R277). Mask OR. -/
  | vmor (d a b : BitVec 3)
  /-- VMNOT (R277). Mask NOT. -/
  | vmnot (d a : BitVec 3)
  /-- VMPOPC (R277). Counts the set bits of a mask into a g register. -/
  | vmpopc (d : Reg) (a : BitVec 3)
  /-- VSCALE (R279). Computes E8M0 block scale bytes for a target format. -/
  | vscale (fmt : BitVec 6) (rm : Rm) (m : BitVec 3) (d a : Reg)
  /-- VW2ENC (R280). Encodes FP32 lanes into W2P8 under block scales. -/
  | vw2enc (rm : Rm) (m : BitVec 3) (d a b : Reg)
  /-- RVMUL (R301). Multiplies and pushes the remainder record. -/
  | rvmul (t : RTy) (rm : Rm) (d a b : Reg)
  /-- URMUL (R301). Pops the record and restores the multiplicand. -/
  | urmul (t : RTy) (rm : Rm) (d a b : Reg)
  /-- RVFMA (R301). Fused multiply-add that pushes the remainder record. -/
  | rvfma (t : RTy) (rm : Rm) (d a b : Reg)
  /-- URFMA (R301). Pops the record and restores the addend. -/
  | urfma (t : RTy) (rm : Rm) (d a b : Reg)
  /-- RVADD (R301). Adds and pushes the remainder record. -/
  | rvadd (t : RTy) (rm : Rm) (d a b : Reg)
  /-- URADD (R301). Pops the record and restores the first addend. -/
  | uradd (t : RTy) (rm : Rm) (d a b : Reg)
  /-- RVCVT (R302). Narrowing conversion that pushes the remainder record. -/
  | rvcvt (tf ff : BitVec 4) (rm : Rm) (d a : Reg)
  /-- URCVT (R302). Pops the record and restores the wide operand. -/
  | urcvt (tf ff : BitVec 4) (rm : Rm) (d a : Reg)
  /-- RVRELU (R304). Zeroes negative elements and pushes their values. -/
  | rvrelu (bf : Bool) (d a : Reg)
  /-- URRELU (R304). Pops the record and restores the negative elements. -/
  | urrelu (bf : Bool) (d a : Reg)
  /-- RVSCALE (R305). Scales by powers of two and pushes the remainder record. -/
  | rvscale (bf : Bool) (rm : Rm) (d a b : Reg)
  /-- URSCALE (R305). Pops the record and restores the scaled operand. -/
  | urscale (bf : Bool) (rm : Rm) (d a b : Reg)
  /-- RVDROP (R306). Zeroes the dropped elements and pushes their values. -/
  | rvdrop (bf : Bool) (d a : Reg) (m : BitVec 3)
  /-- URDROP (R306). Pops the record and restores the dropped elements. -/
  | urdrop (bf : Bool) (d a : Reg) (m : BitVec 3)
  /-- PUSHT (R308). Pushes a whole tile view onto the remainder stack. -/
  | pusht (v : BitVec 4) (b : Reg)
  /-- POPT (R308). Pops a tile record into a tile view. -/
  | popt (v : BitVec 4) (b : Reg)
  /-- RSMARK (R309). Reads RS.TOP and sets the mark word. -/
  | rsmark (d a : Reg)
  /-- RSCK (R309). Checks RS.TOP and the mark word, trapping on a mismatch. -/
  | rsck (a b : Reg)
  /-- MCALL (R318). Starts a matrix routine, or counts a rerun call without starting one. -/
  | mcall (ent : BitVec 14)
  /-- UXSET (R325). Sets an index register to an immediate. -/
  | uxset (x : BitVec 2) (imm : BitVec 16)
  /-- UXADD (R325). Adds a signed immediate to an index register. -/
  | uxadd (x : BitVec 2) (imm : BitVec 16)
  /-- UXLDP (R325). Loads an index register from a half of a p register. -/
  | uxldp (x : BitVec 2) (p : BitVec 3) (h : BitVec 2)
  /-- UKADD (R325). Adds an immediate or index register to the k counter. -/
  | ukadd (src : Bool) (x : BitVec 2) (imm : BitVec 16)
  /-- ULOOP (R326). Pushes a micro loop. -/
  | uloop (last : BitVec 14) (src : Bool) (count : BitVec 12)
  /-- UBNZ (R325). Branches when an index register is nonzero. -/
  | ubnz (x : BitVec 2) (target : BitVec 14)
  /-- UWAIT (R325). Waits n cycles. -/
  | uwait (n : BitVec 12)
  /-- UWLD (R327). Loads weight rows of B into the array. -/
  | uwld (xb : BitVec 2) (kn : BitVec 8)
  /-- UMAC (R327). Multiplies A rows by the weights and accumulates. -/
  | umac (xa xk xc : BitVec 2) (n : Reg) (kn : BitVec 8) (adv : Bool)
  /-- UZERO (R325). Zeroes working accumulator rows. -/
  | uzero (xc : BitVec 2) (n : Reg)
  /-- UXMOV (R325). Copies an index register. -/
  | uxmov (xd xs : BitVec 2)
  /-- MPARM (R329). Writes a matrix parameter register. -/
  | mparm (p : BitVec 3) (a : Reg)
  /-- MFOFF_SET (R330). Sets a feed offset register. -/
  | mfoffSet (o : BitVec 3) (a : Reg)
  /-- MFOFF (R330). Feeds a latch row from scratch and post-increments the offset. -/
  | mfoff (o : BitVec 3) (a l : Reg)
  /-- MGATH (R331). Gathers scratch rows chosen by an index vector into latch rows. -/
  | mgath (n a b : Reg)
  /-- DQPOP (R334). Pops a drain descriptor into a g register. -/
  | dqpop (d : Reg) (q : BitVec 2)
  /-- DQST (R335). Pops a drain entry and stores the target tile to scratch. -/
  | dqst (q : BitVec 2) (b : Reg)
  /-- MACST (R338). Spills an accumulator view with its side storage to scratch. -/
  | macst (v : BitVec 2) (b : Reg)
  /-- MACLD (R338). Refills an accumulator view with its side storage from scratch. -/
  | macld (v : BitVec 2) (b : Reg)
  /-- MLOAD (R339). Loads microprogram store words from scratch; privileged. -/
  | mload (d a b : Reg)
  /-- FWR (R407). Writes scratch bytes to peer memory. -/
  | fwr (ntf : Bool) (k : BitVec 4) (a b : Reg)
  /-- FATOM (R408). 64-bit atomic at a peer. -/
  | fatom (op : BitVec 3) (q : BitVec 2) (k : BitVec 4) (a b : Reg)
  /-- FREQ (R409). Places a request record in a peer's request ring. -/
  | freq (q : BitVec 2) (k : BitVec 4) (b : Reg)
  /-- FMC (R410). Writes the same bytes to every member of a multicast group. -/
  | fmc (ntf : Bool) (k : BitVec 4) (a b : Reg)
  /-- FSTAT_OUT (R412). Reads the count of unacknowledged packets. -/
  | fstatOut (d : Reg)
  /-- FSTAT_DONE (R412). Reads the count of completed fabric ops. -/
  | fstatDone (d : Reg)
  /-- FSTAT_ERR (R412). Reads the last nonzero fabric status. -/
  | fstatErr (d : Reg)
  /-- FSTAT_PEER (R412). Reads the reachability of a peer. -/
  | fstatPeer (d a : Reg)
  /-- FGRP (R413). Writes a multicast group entry; privileged. -/
  | fgrp (a b : Reg)
  /-- CSRR (R440). Reads a control register. -/
  | csrr (d : Reg) (csr : BitVec 12)
  /-- CSRW (R440). Writes a control register that has no row of its own. -/
  | csrw (d : Reg) (csr : BitVec 12)
  /-- CSRW_FLAGS (R118). Writes FLAGS, then ORs in flags set in the same cycle. -/
  | csrwFlags (d : Reg)
  /-- CSRW_MODE (R440). Sets the mode that the next eret installs. -/
  | csrwMode (d : Reg)
  /-- CSRW_STAGE (R78). Sets both copy-stage counters in service mode. -/
  | csrwStage (d : Reg)
  /-- CSRW_RS_SPILL (R284). Writes RS.SPILL or RS.LIMIT and empties the remainder stack. -/
  | csrwRsSpill (limit : Bool) (d : Reg)
  /-- TLBINV (R451). Schedules a translation shootdown at instant Ti. -/
  | tlbinv (d a b : Reg)
  /-- VWSET (R441). Sets one view register. -/
  | vwset (view a b : Reg)
  /-- TIDSET (R442). Writes an entry of the cluster's copy of the tensor identifier table. -/
  | tidset (a b : Reg)
  /-- COPYX (R444). Copies bytes between any two spaces; privileged. -/
  | copyx (dst src : Space) (d a b : Reg)
  /-- LAUNCH_TASK (R348). Launch packet that starts the task its record describes. -/
  | launchTask (pre : Bool) (addr : Word)
  /-- LAUNCH_GRAPH (R362). Launch packet that loads a graph record into a walker slot and starts it. -/
  | launchGraph (pre : Bool) (addr : Word)
  /-- LAUNCH_GRAPH_RESIDENT (R362). Launch packet that starts a graph already loaded in a slot. -/
  | launchGraphResident (pre : Bool) (cluster : BitVec 16) (graph : BitVec 3)
  /-- TIMED (R349). Timed packet that launches at a gang-time instant on every member. -/
  | timed (pre kind : Bool) (t addr gang : Word)
  /-- INDIRECT (R350). Executes a buffer as the next level of the stream. -/
  | indirect (addr : Word) (len : BitVec 32)
  /-- PRED (R351). Tests a memory word and executes or skips its span. -/
  | pred (sense : Bool) (span : BitVec 12) (addr mask value : Word)
  /-- LOOP_PACKET (R351). Executes its span a given number of times. -/
  | loopPacket (span : BitVec 12) (rep : BitVec 32)
  /-- WRITE_MEMORY (R352). Writes data words to memory. -/
  | writeMemory (addr : Word) (data : List (BitVec 32))
  /-- WRITE_COND_WORD (R352). Replaces the condition word of a graph. -/
  | writeCondWord (cluster : BitVec 16) (graph : BitVec 3) (value : Word)
  /-- WAIT (R353). Holds the stream until a masked memory word meets a condition. -/
  | waitPacket (cond : BitVec 2) (addr mask value : Word)
  /-- SCHED (R363). Loads the step and eviction schedules, sets the look-ahead and advances the current step. -/
  | sched (load : Bool) (look : BitVec 4) (step saddr : Word) (scount : BitVec 32) (eaddr : Word) (ecount : BitVec 32)
  /-- EVENT (R355). Optionally waits and pre-empts, writes a completion value and sends an MSI-X message. -/
  | event (pre after : Bool) (vector : BitVec 11) (addr value : Word) (ctx : BitVec 12)
  /-- BUDGET (R355). Sets the budget of an activity class for the partition. -/
  | budget (cls : BitVec 3) (value : BitVec 24)
  /-- NOP (R70). Does nothing and occupies no slot or arena bank. -/
  | nop
  /-- TEND (R145). Stops the sequencer; if it is the last running sequencer of its core, it checks the drain queues and unbinds the stream-bound registers. -/
  | tend
  /-- YIELD (R146). Marks an iteration boundary; when the primary issues it, the next cycle is a yield cycle for the secondary. -/
  | yieldOp
  /-- ROUTINE_START (R320). A routine starts once its call and the unit are ready, and reads the accumulator into the working copy. -/
  | routineStart (cl core : Nat)
  /-- ROUTINE_TIMEOUT (R324). A routine that has run 2^22 cycles stops with reason 29. -/
  | routineTimeout (cl core : Nat)
  /-- DRAIN_PUSH (R323). The drained target lands, the descriptor is pushed onto its queue and the flags are ORed into FLAGS. -/
  | drainPush (cl core : Nat)
  /-- UNOP (R325). Micro-op that does nothing. -/
  | unop
  /-- UEND (R320). Ends the routine and writes back the working accumulator. -/
  | uend
  /-- ERET (R438). Returns from a handler to the saved checkpoints. -/
  | eret
  /-- HALT (R443). Halts both sequencers of the core. -/
  | halt
  /-- YIELD_CYCLE (R42). After 256 withheld cycles of the secondary, the next cycle gives the secondary priority. -/
  | yieldCycle (cl core : Nat)
  /-- SCRATCH_BUFFER_DRAIN (R211). A buffered scratch line drains into its bank and parity bank. -/
  | scratchBufferDrain (cl bank : Nat)
  /-- LINE_LANDING (R216). A copy, get, pget or incoming fabric write lands in scratch and sets its granules full. -/
  | lineLanding (xfer line : Nat)
  /-- STREAM_SLOT_LAND (R242). A returned value lands in its reserved slot of a return stream. -/
  | streamSlotLand (arrival : Nat)
  /-- COPY_ENTRY_START (R227). A copy engine starts the next schedule entry once the previous entry has issued and its stage is released. -/
  | copyEntryStart (cl e : Nat)
  /-- COPY_ENTRY_COMPLETE (R232). An entry completes once every line is performed, and DONE_e is counted. -/
  | copyEntryComplete (cl e : Nat)
  /-- SPILL_LINE (R291). The spill engine writes a line of a remainder stack to LPDDR6. -/
  | spillLine (cl core : Nat)
  /-- REFILL_LINE (R291). The spill engine reads a line of a remainder stack back into the hot region. -/
  | refillLine (cl core : Nat)
  /-- LAZY_UNIT_MOVE (R60). A lazy unit touched under another owner tag is written out, loaded and retagged. -/
  | lazyUnitMove (cl core : Nat) (kind : UnitKind) (idx : Nat)
  /-- PREEMPT_WATCHDOG (R57). 2 ms after a pre-emption request, a sequencer still running is stopped at its checkpoint. -/
  | preemptWatchdog (ctx cl : Nat)
  /-- CONTEXT_HALT (R58). Once every drain has finished, the context's cores halt and its eager state is saved. -/
  | contextHalt (ctx cl : Nat)
  /-- TASK_COMPLETE (R35). A task completes once all its sequencers have stopped and its copies, drains and stores are complete and released. -/
  | taskComplete (cl task : Nat)
  /-- GRAPH_NODE_LAUNCH (R37). A ready task node with a live incoming edge is launched. -/
  | graphNodeLaunch (cl slot node : Nat)
  /-- CONDITIONAL_NODE_EVAL (R37). A ready conditional node reads the condition word and makes its true or false edges live. -/
  | conditionalNodeEval (cl slot node : Nat)
  /-- WHILE_NODE_EVAL (R37). A while node tests the condition word and runs its body again or exits. -/
  | whileNodeEval (cl slot node : Nat)
  /-- GRAPH_COMPLETE (R362). A graph with nothing left running writes its status word and counts as completed. -/
  | graphComplete (cl slot : Nat)
  /-- COND_WORD_UPDATE (R39). An update arriving at the walker is applied atomically to a condition word. -/
  | condWordUpdate (update : CondUpdate)
  /-- POOL_RESPONSE (R369). A pool response arrives and retires its request. -/
  | poolResponse (rsp : PoolRsp)
  /-- POOL_RETRANSMIT (R370). A request with no response after 20 µs is sent again; after the eighth send it counts as answered with status 1. -/
  | poolRetransmit (req : Nat)
  /-- LEASE_GRANT (R379). A lease grant arrives and the lease takes effect, unless it expires too soon. -/
  | leaseGrant (rsp : PoolRsp)
  /-- LEASE_EXPIRY (R379). 1 µs before its expiry instant the holder treats a lease as expired. -/
  | leaseExpiry (ctx idx : Nat)
  /-- PROMOTION_COMPLETE (R225). A residency promotion completes, and a pending eviction may then proceed. -/
  | promotionComplete (range : Nat)
  /-- DEADLINE_MISS (R365). At a step-schedule deadline, a range that is not resident sets the named condition bit. -/
  | deadlineMiss (part stream watch : Nat)
  /-- BUDGET_WINDOW (R24). An 8 µs window begins, budgets renew and held lines issue. -/
  | budgetWindow
  /-- PUBLISH_EXCHANGE (R199). At Tp the live and shadow backings of a buffer exchange, and Tp is recorded. -/
  | publishExchange (ctx idx : Nat)
  /-- DOORBELL (R342). The host writes TAIL to make packets of a stream valid. -/
  | doorbell (part stream : Nat) (tail : BitVec 32)
  /-- NOP_PACKET (R347). Nop command packet; its payload is skipped. -/
  | nopPacket
  /-- LAUNCH_START (R359). A waiting launch proceeds: cores reset, items and stages applied, engines armed, sequencers started. -/
  | launchStart (part stream : Nat)
  /-- WAIT_IDLE (R353). Holds the stream until COMPLETED reaches LAUNCHED. -/
  | waitIdle
  /-- WAIT_POLL (R353). At least every 1 µs a waiting packet rereads its word and releases the stream when the condition holds. -/
  | waitPoll (part stream : Nat)
  /-- FFENCE (R354). Discards the fetch-ahead window. -/
  | ffence
  /-- GANG_INJECT_HALT (R425). At T − 2 µs a member stops injection for the launch's contexts and may request pre-emption. -/
  | gangInjectHalt (part stream : Nat)
  /-- READY_REPORT (R425). A ready report from another gang member is received. -/
  | readyReport (gang : BitVec 32) (src : Nat)
  /-- TIMED_LAUNCH_INSTANT (R425). At T, or at readiness if later, a ready member launches. -/
  | timedLaunchInstant (part stream : Nat)
  /-- STRAGGLER_CHECK (R427). At T + tol a member that lacks a ready report sends straggler notices. -/
  | stragglerCheck (part stream : Nat)
  /-- STRAGGLER_NOTICE (R427). A received straggler notice faults the launched gang context, or cancels its launch. -/
  | stragglerNotice (gang : BitVec 32) (notice : Straggler)
  /-- BARRIER_TOKEN (R429). A barrier token of a clock-lost timed launch is received. -/
  | barrierToken (gang : BitVec 32) (t : Word) (src : Nat)
  /-- FABRIC_WRITE_ARRIVAL (R399). An incoming write packet is resolved, ordered and committed at its home. -/
  | fabricWriteArrival (pkt : Packet)
  /-- FABRIC_ATOMIC_ARRIVAL (R399). An incoming atomic packet is resolved, ordered and performed. -/
  | fabricAtomicArrival (pkt : Packet)
  /-- FABRIC_REQUEST_ARRIVAL (R404). An incoming request record is appended to a request ring. -/
  | fabricRequestArrival (pkt : Packet)
  /-- MULTICAST_ARRIVAL (R414). A multicast copy is written locally and forwarded to further members. -/
  | multicastArrival (pkt : Packet)
  /-- FABRIC_ACK (R400). An acknowledgement arrives for a sent packet. -/
  | fabricAck (pkt : Packet)
  /-- FABRIC_RETRANSMIT (R400). A packet unacknowledged after 20 µs is resent; after the eighth send it ends unreachable. -/
  | fabricRetransmit (out : Nat)
  /-- COMPLETION_NOTICE (R420). A completion notice is delivered once its packets are committed, incrementing the notice word. -/
  | completionNotice (pkt : Packet)
  /-- RESUME_MARKER (R418). A resume marker returns a destination's traffic from the electrical path to optics. -/
  | resumeMarker (pkt : Packet)
  /-- PACKET_FORWARD (R397). A router forwards a transit packet on a minimal port, or discards it. -/
  | packetForward (pkt : Packet)
  /-- VIRTUAL_EGRESS_SEND (R417). Packets held for a pending destination are sent once a route exists. -/
  | virtualEgressSend (part dst : Nat)
  /-- SYNC_MESSAGE (R421). An IEEE 1588 message is received, valid or not, and GANG.NOW is slewed. -/
  | syncMessage (valid : Bool) (msg : SyncMsg)
  /-- HOLDOVER_ENTRY (R422). After 250 ms without a valid Sync the clock enters holdover. -/
  | holdoverEntry
  /-- CLOCK_LOST_ENTRY (R422). 2 s after entering holdover the clock enters clock-lost state. -/
  | clockLostEntry
  /-- CLOCK_LOCK (R423). After 1 s of unbroken locked conditions, the clock enters locked state. -/
  | clockLock
  /-- SHOOTDOWN_INSTANT (R451). At Ti matching translations are dropped across the partition. -/
  | shootdownInstant
  /-- ROLE_MAP_SET (R17). Management sets a role map, holding packets and draining the affected layers. -/
  | roleMapSet (roles : List Bool)
  /-- ROLE_FLUSH (R17). Once the drain ends, dirty lines and pre-emption stores are written back and TLBs are invalidated. -/
  | roleFlush
  /-- ROLE_DARK (R17). Once write-backs are acknowledged, the affected ports go dark and traffic is diverted. -/
  | roleDark
  /-- ROLE_REENUMERATE (R17). Logical cluster numbers, the slice hash and the clocks are rewritten. -/
  | roleReenumerate
  /-- ROLE_RELIGHT (R17). Ports relight, held packets run and drained tasks resume. -/
  | roleRelight
  /-- PARTITION_CREATE (R452). Management creates a partition. -/
  | partitionCreate (r : PartitionRec)
  /-- CONTEXT_CREATE (R452). Management creates a context. -/
  | contextCreate (r : ContextRec)
  /-- CONTEXT_DESTROY (R452). Management destroys a context: halts it, releases its leases and frees its id. -/
  | contextDestroy (ctx : Nat)
  /-- STREAM_BIND (R342). Management binds a command stream to a context. -/
  | streamBind (part stream ctx : Nat) (base : BitVec 52) (size : Nat)
  /-- ERROR_CLEAR (R342). Management clears a stream's ERROR, restarting the stream. -/
  | errorClear (part stream : Nat)
  /-- CAP_SLOT_WRITE (R376). Management writes a capability-table slot. -/
  | capSlotWrite (ctx slot : Nat) (value : BitVec 128) (tag : Bool)
  /-- HANDLE_WRITE (R224). Management writes a handle-table entry. -/
  | handleWrite (ctx idx : Nat) (q0 q1 q2 : Word)
  /-- FENCE_ASSIGN (R384). Management writes the package id and fence number from the pool. -/
  | fenceAssign (pkg : BitVec 16) (fence : Word)
  /-- FENCED_STATE_EXIT (R387). Management takes the package out of fenced state with a new id and fence number. -/
  | fencedStateExit (pkg : BitVec 16) (fence : Word)
  /-- ROUTER_TABLE_WRITE (R395). Management rewrites a router table entry. -/
  | routerTableWrite (part peer : Nat) (entry : RouterEntry)
  /-- EXPORT_TABLE_WRITE (R403). Management writes an export table entry. -/
  | exportTableWrite (idx : Nat) (q0 q1 q2 q3 : Word)
  /-- KEY_LOAD (R448). Management loads an encryption key. -/
  | keyLoad (idx : Nat) (key : BitVec 512)
  /-- POWER_CAP_SET (R456). Management sets the power cap. -/
  | powerCapSet (watts : Nat)
  /-- MGMT_PREEMPT (R56). Management requests pre-emption of a context. -/
  | mgmtPreempt (ctx : Nat)
  /-- MGMT_START (R443). Management starts halted cores. -/
  | mgmtStart (cl core : Nat)
  /-- ATTESTATION_REPORT (R455). Returns a signed report of the measurements and the requester's nonce. -/
  | attestationReport (nonce : BitVec 256)
  /-- POWER_ON (R455). The boot ROM reads, verifies and measures firmware, then starts the control cores, or enters recovery. -/
  | powerOn (img : BootImage)
  /-- THERMAL_TRIP (R456). A die reaching 110 °C pre-empts every context and tells management. -/
  | thermalTrip (layer : Nat)
  /-- THERMAL_RESUME (R456). Issue resumes when the die falls below 95 °C. -/
  | thermalResume (layer : Nat)
  /-- HOST_ACCESS (R453). A host access arrives through BAR2 or the stream registers. -/
  | hostAccess (acc : HostAcc)
  /-- PACKAGE_RESET (R423). At reset the package restarts in clock-lost state with GANG.NOW counting from 0, budgets at 0xFF_FFFF and lazy units untagged. -/
  | packageReset
  /-- RECOVERY_EXIT (R423). The package leaves the recovery state, restarting GANG.NOW from 0 in clock-lost state. -/
  | recoveryExit
  /-- PUBLISH_NOTICE (R201). A member package receives the notice of a gang-scope publish before its Tp. -/
  | publishNotice (ctx idx : Nat) (tp : Word)
  /-- FABRIC_STREAM_RESET (R400). Management resets a context's fabric stream towards a target that has become unreachable. -/
  | fabricStreamReset (ctx peer : Nat)
  /-- PEER_PORT_FAILURE (R397). A peer port becomes failed, so that routing stops choosing it and uses intermediates. -/
  | peerPortFailure (port : Nat)
  /-- CIRCUIT_CHANGE (R418). A circuit change darkens peer ports, diverting their traffic to the electrical path. -/
  | circuitChange (ports : List Nat)
  /-- PORT_RELIGHT (R418). A peer port darkened by a circuit change relights, sending resume markers and returning diverted traffic to optics. -/
  | portRelight (port : Nat)
  /-- CLUSTER_CACHE_EVICTION (R192). The cluster cache evicts a line on its own, making released writes visible outside the cluster and freeing room for waiting writes. -/
  | clusterCacheEviction (cl line : Nat)
  /-- GPUT_COMPLETE (R245). A gput completes when all its writes are performed at cluster scope, and sstat.put counts it. -/
  | gputComplete (xfer : Nat)
  deriving DecidableEq, Repr

end Sys2Proof
end

