-- ==== Sys2Proof/Decode.lean ====
section
/-! DEFINITION. The decoders and encoders of bundle words (05), matrix micro-ops (19 R325) and command packets (21 R347). A word that is no instruction is refused by the reason of R85, or by the error code of R356. -/

namespace Sys2Proof

/-- The field of bits hi to lo of a word, as a number. -/
def fieldOf (w : BitVec 32) (hi lo : Nat) : Nat := (w.extractLsb' lo (hi + 1 - lo)).toNat

/-- Slots in their order (05 R64): C 0, V 1, M 2, X 3. -/
abbrev slotC : Nat := 0
abbrev slotV : Nat := 1
abbrev slotM : Nat := 2
abbrev slotX : Nat := 3

/-! ## Layouts of op words with S == 0 (05 R79, R80) -/

def layR (maj d a b : BitVec 6) (f : BitVec 7) : BitVec 32 := (0 : BitVec 1) ++ maj ++ d ++ a ++ b ++ f
def layRF (maj d a b : BitVec 6) (rm : BitVec 3) (f : BitVec 4) : BitVec 32 := layR maj d a b (rm ++ f)
def layVF (maj d a b : BitVec 6) (rm m : BitVec 3) (t : BitVec 1) : BitVec 32 := layR maj d a b (rm ++ m ++ t)
def layImm (maj d a : BitVec 6) (imm : BitVec 13) : BitVec 32 := (0 : BitVec 1) ++ maj ++ d ++ a ++ imm
def layBody (maj : BitVec 6) (body : BitVec 25) : BitVec 32 := (0 : BitVec 1) ++ maj ++ body
def bit (x : Bool) : BitVec 1 := if x then 1 else 0

def z6 : BitVec 6 := 0

/-! ## Codes -/

def Rm.code : Rm → BitVec 3
  | .ne => 0 | .tz => 1 | .up => 2 | .dn => 3 | .na => 4 | .odd => 5

def Rm.ofCode : Nat → Option Rm
  | 0 => some .ne | 1 => some .tz | 2 => some .up | 3 => some .dn | 4 => some .na | 5 => some .odd
  | _ => none

def Scope.code : Scope → BitVec 3
  | .seq => 0 | .cluster => 1 | .layer => 2 | .package => 3 | .gang => 4

def Scope.ofCode : Nat → Option Scope
  | 0 => some .seq | 1 => some .cluster | 2 => some .layer | 3 => some .package | 4 => some .gang
  | _ => none

def FTy.major : FTy → BitVec 6
  | .f64 => 0x10 | .f32 => 0x11 | .f16 => 0x12 | .bf16 => 0x13

def VTy.code : VTy → BitVec 2
  | .f32 => 0 | .f64 => 1 | .i32 => 2 | .n32 => 3

def VTy.ofCode : Nat → VTy
  | 0 => .f32 | 1 => .f64 | 2 => .i32 | _ => .n32

def RTy.code : RTy → BitVec 3
  | .f32 => 0 | .f64 => 1 | .bf16 => 2 | .f16 => 3

def RTy.ofCode : Nat → Option RTy
  | 0 => some .f32 | 1 => some .f64 | 2 => some .bf16 | 3 => some .f16 | _ => none

def RedOp.code : RedOp → BitVec 3
  | .add => 0 | .min => 1 | .max => 2 | .and => 3 | .or => 4 | .xor => 5

def RedOp.ofCode : Nat → Option RedOp
  | 0 => some .add | 1 => some .min | 2 => some .max | 3 => some .and | 4 => some .or | 5 => some .xor
  | _ => none

def Space.code : Space → BitVec 3
  | .global => 0 | .own => 1 | .remote => 2 | .acc => 3 | .host => 4

def Space.ofCode : Nat → Option Space
  | 0 => some .global | 1 => some .own | 2 => some .remote | 3 => some .acc | 4 => some .host
  | _ => none

/-- Element width of a floating-point format code 0 to 5 (07 R96). -/
def cvtWidth : Nat → Nat
  | 0 => 64 | 1 => 32 | 2 => 16 | 3 => 16 | 4 => 8 | 5 => 8 | _ => 0

/-! ## Lending (05 R68) -/

/-- The effective value of a signed immediate of n bits under lent bits l. -/
def effS (n : Nat) (imm : Nat) (l : BitVec 14) : Imm :=
  BitVec.ofInt 64 (l.toInt * 2 ^ n + (BitVec.ofNat n imm).toInt)

/-- The effective value of an unsigned immediate of n bits under lent bits l. -/
def effU (n : Nat) (imm : Nat) (l : BitVec 14) : Imm :=
  BitVec.ofNat 64 (l.toNat * 2 ^ n + imm)

/-- The n low bits that stand in the field, and the lent bits, of a signed effective immediate. -/
def immField (n : Nat) (v : Imm) : BitVec n := v.truncate n
def lentS (n : Nat) (v : Imm) : BitVec 14 :=
  BitVec.ofInt 14 ((v.toInt - (v.truncate n).toInt) / 2 ^ n)
def lentU (n : Nat) (v : Imm) : BitVec 14 := BitVec.ofNat 14 (v.toNat / 2 ^ n)

/-- The value has the form that R68 gives to an immediate of n bits with or without lending. -/
def okS (n : Nat) (v : Imm) : Bool := effS n (immField n v).toNat (lentS n v) == v
def okU (n : Nat) (v : Imm) : Bool := effU n (immField n v).toNat (lentU n v) == v

/-! ## Decoding one op word -/

/-- The checks of step 2 of R85 that follow the major and the slot, in their order: function (18), duplicate form (20), reserved fields (19), codes (21), field values (22). -/
def checks (dup rsv code val : Bool) (i : Instr) : Except Nat Instr :=
  if !dup then .error 20 else if !rsv then .error 19 else if !code then .error 21
  else if !val then .error 22 else .ok i

/-- An op whose rounding-mode code must be legal (reason 21), checked after its reserved fields. -/
def withRm (rsv : Bool) (rm : Nat) (val : Bool) (k : Rm → Instr) : Except Nat Instr :=
  if !rsv then .error 19 else
  match Rm.ofCode rm with
  | none => .error 21
  | some r => if !val then .error 22 else .ok (k r)

def hi6 (n : Nat) : Bool := decide (32 ≤ n)
def r6 (n : Nat) : BitVec 6 := BitVec.ofNat 6 n
def low3 (n : Nat) : BitVec 3 := BitVec.ofNat 3 n

/-- Field numbers of layout R. -/
structure FieldsR where
  d : Nat
  a : Nat
  b : Nat
  f : Nat

def fieldsR (w : BitVec 32) : FieldsR :=
  { d := fieldOf w 24 19, a := fieldOf w 18 13, b := fieldOf w 12 7, f := fieldOf w 6 0 }

/-- Major 0x00 (09 R133). -/
def dec00 (w : BitVec 32) : Except Nat Instr :=
  let r := fieldsR w
  let d0 := r.d == 0
  let a0 := r.a == 0
  let b0 := r.b == 0
  match r.f with
  | 0 => checks true (d0 && a0 && b0) true true .nop
  | 1 => checks true (d0 && a0 && b0) true true .tend
  | 2 => checks true (d0 && a0 && b0) true true .yieldOp
  | 3 => checks true (d0 && r.b / 8 == 0) true (r.b % 8 != 7) (.ret (r6 r.a) (low3 r.b))
  | 4 => checks true (a0 && b0) true true (.rdtime (r6 r.d))
  | 5 => checks true b0 true (decide (r.a ≤ 6)) (.rdctr (r6 r.d) (r6 r.a))
  | 6 => checks true (r.d / 2 == 0) true true
      (if r.d % 2 == 0 then .xchk (r6 r.a) (r6 r.b) else .xchkV (r6 r.a) (r6 r.b))
  | 7 => checks true (r.d / 4 == 0 && (r.d % 4 == 2 || b0)) true (r.d % 4 != 3)
      (match r.d % 4 with
       | 0 => .gwcondSet (r6 r.a)
       | 1 => .gwcondClr (r6 r.a)
       | _ => .gwcondIns (r6 r.a) (r6 r.b))
  | 8 => checks true (r.d / 4 == 0 && b0) true true (.pbr (BitVec.ofNat 2 r.d) (r6 r.a))
  | _ => .error 18

/-- Majors 0x01 to 0x07 (09 R135 to R137, R142, R143, R147, R151, R153). -/
def dec01 (w : BitVec 32) (l : BitVec 14) : Except Nat Instr :=
  .ok (.pbri (BitVec.ofNat 2 (fieldOf w 24 23)) (effS 23 (fieldOf w 22 0) l))

def dec02 (w : BitVec 32) : Except Nat Instr :=
  let c := fieldOf w 22 20
  let p := fieldOf w 19 17
  let a := fieldOf w 16 11
  checks true ((c != 0 || a == 0) && fieldOf w 10 0 == 0) (c != 7) (p != 7)
    (.br (BitVec.ofNat 2 (fieldOf w 24 23)) (low3 c) (low3 p) (r6 a))

def dec03 (w : BitVec 32) : Except Nat Instr :=
  let p := fieldOf w 22 20
  checks true (fieldOf w 13 0 == 0) true (p != 7)
    (.brl (BitVec.ofNat 2 (fieldOf w 24 23)) (low3 p) (r6 (fieldOf w 19 14)))

def dec04 (w : BitVec 32) (l : BitVec 14) : Except Nat Instr :=
  checks true (fieldOf w 24 19 == 0) true true
    (.loop (r6 (fieldOf w 18 13)) (effU 13 (fieldOf w 12 0) l))

def dec05 (w : BitVec 32) (l : BitVec 14) : Except Nat Instr :=
  .ok (.loopi (effU 12 (fieldOf w 24 13) l) (BitVec.ofNat 13 (fieldOf w 12 0)))

def dec06 (w : BitVec 32) : Except Nat Instr :=
  .ok (if fieldOf w 24 24 == 0 then .trap (BitVec.ofNat 24 (fieldOf w 23 0))
       else .svc (BitVec.ofNat 24 (fieldOf w 23 0)))

def dec07 (w : BitVec 32) : Except Nat Instr :=
  let p := fieldOf w 21 21
  let f := fieldOf w 20 20
  let a := fieldOf w 18 13
  let b := fieldOf w 12 7
  let rsv := fieldOf w 19 19 == 0 && fieldOf w 6 0 == 0 && (p == 0 || f == 0) && (p == 1 || (a == 0 && b == 0))
  if !rsv then .error 19 else
  match Scope.ofCode (fieldOf w 24 22) with
  | none => .error 21
  | some sc =>
    if p == 1 then
      (if sc == .package || sc == .gang then .ok (.phaseProbe sc (r6 a) (r6 b)) else .error 22)
    else .ok (if f == 0 then .phase sc else .fence sc)

/-- Major 0x08 (09 R159). dup is true in slots V, M and X (05 R75). -/
def dec08 (w : BitVec 32) (dup : Bool) : Except Nat Instr :=
  let r := fieldsR w
  let ww := decide (64 ≤ r.f)
  let d := r6 r.d
  let a := r6 r.a
  let b := r6 r.b
  let ok3 := !dup || (hi6 r.d && hi6 r.a && hi6 r.b)
  let ok2 := !dup || (hi6 r.d && hi6 r.a)
  match r.f % 64 with
  | 0 => checks ok3 true true true (.add ww d a b)
  | 1 => checks ok3 true true true (.sub ww d a b)
  | 2 => checks ok3 true true true (.and ww d a b)
  | 3 => checks ok3 true true true (.or ww d a b)
  | 4 => checks ok3 true true true (.xor ww d a b)
  | 5 => checks ok3 true true true (.shl ww d a b)
  | 6 => checks ok3 true true true (.shr ww d a b)
  | 7 => checks ok3 true true true (.sar ww d a b)
  | 8 => checks ok3 true true true (.rot ww d a b)
  | 9 => checks ok3 true true true (.min ww d a b)
  | 10 => checks ok3 true true true (.max ww d a b)
  | 11 => checks ok3 true true true (.minn ww d a b)
  | 12 => checks ok3 true true true (.maxn ww d a b)
  | 13 => checks ok3 true true true (.seq ww d a b)
  | 14 => checks ok3 true true true (.slt ww d a b)
  | 15 => checks ok3 true true true (.sltn ww d a b)
  | 16 => checks ok2 (r.b == 0) true true (.clz ww d a)
  | 17 => checks ok2 (r.b == 0) true true (.ctz ww d a)
  | 18 => checks ok2 (r.b == 0) true true (.popc ww d a)
  | 19 => checks ok3 true true true (.sel ww d a b)
  | 20 => checks ok3 true true true (.lea ww 0 d a b)
  | 21 => checks ok3 true true true (.lea ww 1 d a b)
  | 22 => checks ok3 true true true (.lea ww 2 d a b)
  | 23 => checks ok3 true true true (.lea ww 3 d a b)
  | _ => .error 18

/-- Major 0x09 (09 R160). -/
def dec09 (w : BitVec 32) (dup : Bool) : Except Nat Instr :=
  let r := fieldsR w
  let ww := decide (64 ≤ r.f)
  let d := r6 r.d
  let a := r6 r.a
  let b := r6 r.b
  let ok3 := !dup || (hi6 r.d && hi6 r.a && hi6 r.b)
  match r.f % 64 with
  | 0 => checks ok3 true true true (.mul ww d a b)
  | 1 => checks ok3 true true true (.mulh ww d a b)
  | 2 => checks ok3 true true true (.mulhn ww d a b)
  | 3 => checks ok3 true true true (.div ww d a b)
  | 4 => checks ok3 true true true (.divn ww d a b)
  | 5 => checks ok3 true true true (.rem ww d a b)
  | 6 => checks ok3 true true true (.remn ww d a b)
  | _ => .error 18

/-- Majors 0x0A to 0x0E (09 R162 to R166). -/
def dec0A (w : BitVec 32) (l : BitVec 14) (dup : Bool) : Except Nat Instr :=
  let d := fieldOf w 24 19
  let a := fieldOf w 18 13
  checks (!dup || (hi6 d && hi6 a)) true true true (.addi (r6 d) (r6 a) (effS 13 (fieldOf w 12 0) l))

def dec0B (w : BitVec 32) (l : BitVec 14) (dup : Bool) : Except Nat Instr :=
  let d := fieldOf w 24 19
  let a := fieldOf w 18 13
  let imm := effU 11 (fieldOf w 10 0) l
  let okd := !dup || (hi6 d && hi6 a)
  match fieldOf w 12 11 with
  | 0 => checks okd true true true (.andi (r6 d) (r6 a) imm)
  | 1 => checks okd true true true (.ori (r6 d) (r6 a) imm)
  | 2 => checks okd true true true (.xori (r6 d) (r6 a) imm)
  | _ => .error 18

def dec0C (w : BitVec 32) (dup : Bool) : Except Nat Instr :=
  let d := fieldOf w 24 19
  let a := fieldOf w 18 13
  let sh := fieldOf w 5 0
  let ww := fieldOf w 6 6 == 1
  let okd := !dup || (hi6 d && hi6 a)
  let rsv := fieldOf w 10 7 == 0
  let val := !ww || decide (sh < 32)
  match fieldOf w 12 11 with
  | 0 => checks okd rsv true val (.shli ww (r6 d) (r6 a) (r6 sh))
  | 1 => checks okd rsv true val (.shri ww (r6 d) (r6 a) (r6 sh))
  | 2 => checks okd rsv true val (.sari ww (r6 d) (r6 a) (r6 sh))
  | _ => .error 18

def dec0D (w : BitVec 32) (dup : Bool) : Except Nat Instr :=
  let d := fieldOf w 24 19
  let a := fieldOf w 18 13
  let pos := fieldOf w 11 6
  let len := fieldOf w 5 0
  checks (!dup || (hi6 d && hi6 a)) true true (decide (pos + len + 1 ≤ 64))
    (if fieldOf w 12 12 == 0 then .bfx (r6 d) (r6 a) (r6 pos) (r6 len)
     else .bfi (r6 d) (r6 a) (r6 pos) (r6 len))

def dec0E (w : BitVec 32) (l : BitVec 14) (dup : Bool) : Except Nat Instr :=
  let d := fieldOf w 24 19
  let okd := !dup || hi6 d
  match fieldOf w 18 17 with
  | 0 => checks okd true true true (.movi (r6 d) (effS 17 (fieldOf w 16 0) l))
  | 1 => checks okd true true true (.movhi (r6 d) (effU 17 (fieldOf w 16 0) l))
  | _ => .error 18

/-- Majors 0x10 to 0x13 (09 R169, R174). -/
def decFU (t : FTy) (w : BitVec 32) : Except Nat Instr :=
  let d := r6 (fieldOf w 24 19)
  let a := r6 (fieldOf w 18 13)
  let sel := fieldOf w 12 7
  let rm := fieldOf w 6 4
  match sel with
  | 0 => withRm true rm true (fun r => .fsqrt t r d a)
  | 1 => withRm true rm true (fun r => .fexp2 t r d a)
  | 2 => withRm true rm true (fun r => .flog2 t r d a)
  | 3 => withRm true rm true (fun r => .fexp t r d a)
  | 4 => withRm true rm true (fun r => .flog t r d a)
  | 5 => withRm true rm true (fun r => .fsin t r d a)
  | 6 => withRm true rm true (fun r => .fcos t r d a)
  | 7 => withRm true rm true (fun r => .ftanh t r d a)
  | 8 => withRm true rm true (fun r => .ferf t r d a)
  | 9 => withRm true rm true (fun r => .frcpa t r d a)
  | 10 => withRm true rm true (fun r => .frsqa t r d a)
  | 11 => checks true (rm == 0) true true (.fclass t d a)
  | 12 => withRm true rm true (fun r => .frnd t r d a)
  | n =>
    if n < 16 || 48 ≤ n then .error 18
    else if n < 32 then
      (if 13 ≤ n - 16 then .error 21 else withRm true rm true (fun r => .fcvt t r (BitVec.ofNat 4 (n - 16)) d a))
    else if n - 32 < 7 || 10 < n - 32 then .error 21
    else withRm true rm true (fun r => .fcvtFromInt t r (BitVec.ofNat 4 (n - 32)) d a)

def decF (t : FTy) (w : BitVec 32) : Except Nat Instr :=
  let d := r6 (fieldOf w 24 19)
  let a := r6 (fieldOf w 18 13)
  let b := r6 (fieldOf w 12 7)
  let rm := fieldOf w 6 4
  match fieldOf w 3 0 with
  | 0 => withRm true rm true (fun r => .fadd t r d a b)
  | 1 => withRm true rm true (fun r => .fsub t r d a b)
  | 2 => withRm true rm true (fun r => .fmul t r d a b)
  | 3 => withRm true rm true (fun r => .fdiv t r d a b)
  | 4 => withRm true rm true (fun r => .ffma t r d a b)
  | 5 => checks true (rm == 0) true true (.fmin t d a b)
  | 6 => checks true (rm == 0) true true (.fmax t d a b)
  | 7 => .ok (.fcmp t (low3 rm) d a b)
  | 15 => decFU t w
  | _ => .error 18

/-- Majors 0x14 to 0x1F (13, 09 R148). -/
def dec14 (w : BitVec 32) (l : BitVec 14) : Except Nat Instr :=
  let ty := fieldOf w 12 10
  checks true true (ty != 7) true
    (.ld (low3 ty) (fieldOf w 8 8 == 1) (fieldOf w 9 9 == 1) (r6 (fieldOf w 24 19)) (r6 (fieldOf w 18 13)) (effU 8 (fieldOf w 7 0) l))

def dec15 (w : BitVec 32) (l : BitVec 14) : Except Nat Instr :=
  let ty := fieldOf w 12 10
  checks true true (ty != 7) (fieldOf w 9 8 == 0)
    (.st (low3 ty) (r6 (fieldOf w 24 19)) (r6 (fieldOf w 18 13)) (effU 8 (fieldOf w 7 0) l))

def dec16 (w : BitVec 32) (l : BitVec 14) : Except Nat Instr :=
  let imm := effU 10 (fieldOf w 9 0) l
  let d := r6 (fieldOf w 24 19)
  let a := r6 (fieldOf w 18 13)
  if fieldOf w 12 12 == 0 then .ok (.vld (fieldOf w 10 10 == 1) (fieldOf w 11 11 == 1) d a imm)
  else checks true true true (fieldOf w 11 10 == 0) (.vst d a imm)

def dec17 (w : BitVec 32) : Except Nat Instr :=
  let d := fieldOf w 24 19
  let a := r6 (fieldOf w 18 13)
  let cnt := fieldOf w 9 4
  let rsv := fieldOf w 3 0 == 0
  let fits := decide (d + cnt + 1 ≤ 64)
  if fieldOf w 12 12 == 0 then
    checks true rsv true fits (.vldm (fieldOf w 10 10 == 1) (fieldOf w 11 11 == 1) (r6 d) a (r6 cnt))
  else checks true rsv true (fits && fieldOf w 11 10 == 0) (.vstm (r6 d) a (r6 cnt))

def dec18 (w : BitVec 32) (l : BitVec 14) : Except Nat Instr :=
  let tv := BitVec.ofNat 4 (fieldOf w 24 21)
  let a := r6 (fieldOf w 18 13)
  let imm := effU 10 (fieldOf w 9 0) l
  let rsv := fieldOf w 20 19 == 0
  if fieldOf w 12 12 == 0 then
    checks true rsv true true (.tld (fieldOf w 10 10 == 1) (fieldOf w 11 11 == 1) tv a imm)
  else checks true rsv true (fieldOf w 11 10 == 0) (.tst tv a imm)

/-- The compare-and-swap forms need an even B of at most 62 (13 R241, R248, 25 R408). -/
def casOk (op b : Nat) : Bool := op != 5 || b % 2 == 0

def dec19 (w : BitVec 32) : Except Nat Instr :=
  let d := fieldOf w 24 19
  let a := r6 (fieldOf w 18 13)
  let b := fieldOf w 12 7
  let op := fieldOf w 3 0
  let q := low3 d
  match fieldOf w 6 4 with
  | 0 => checks true (d == 0 && op == 0) true true (.feset a (r6 b))
  | 1 => checks true (d == 0 && op == 0) true true (.feclr a (r6 b))
  | 2 => checks true (d / 8 == 0) (decide (op < 10)) (casOk op b) (.atom false (BitVec.ofNat 4 op) q a (r6 b))
  | 3 => checks true (d / 8 == 0) (decide (op < 10)) (casOk op b) (.atom true (BitVec.ofNat 4 op) q a (r6 b))
  | _ => .error 18

def dec1A (w : BitVec 32) : Except Nat Instr :=
  let r := fieldsR w
  match r.f with
  | 0 => .ok (.gget (r6 r.d) (r6 r.a) (r6 r.b))
  | 1 => .ok (.gput (r6 r.d) (r6 r.a) (r6 r.b))
  | _ => .error 18

def dec1B (w : BitVec 32) : Except Nat Instr :=
  let k := BitVec.ofNat 4 (fieldOf w 24 21)
  let a := r6 (fieldOf w 20 15)
  let b := fieldOf w 14 9
  let c := fieldOf w 8 6
  let op := fieldOf w 2 0
  match fieldOf w 5 3 with
  | 0 => checks true (b == 0) (op != 7) true (.pld (low3 op) (low3 c) k a)
  | 1 => checks true (c == 0) (op != 7) true (.pst (low3 op) k a (r6 b))
  | 2 => checks true true true (casOk op b) (.patom (low3 op) (low3 c) k a (r6 b))
  | 3 => .ok (.pget k a (r6 b) (r6 (c * 8 + op)))
  | _ => .error 18

def dec1C (w : BitVec 32) : Except Nat Instr :=
  let k := BitVec.ofNat 4 (fieldOf w 24 21)
  let a := r6 (fieldOf w 20 15)
  let b := r6 (fieldOf w 14 9)
  let rsv := fieldOf w 5 0 == 0
  match fieldOf w 8 6 with
  | 0 => checks true rsv true true (.lease k a b)
  | 1 => checks true rsv true true (.lrel k a b)
  | _ => .error 18

def dec1D (w : BitVec 32) : Except Nat Instr :=
  let k := BitVec.ofNat 4 (fieldOf w 24 21)
  let kb := fieldOf w 20 17
  let a := r6 (fieldOf w 16 11)
  let b := fieldOf w 10 5
  let rsv := fieldOf w 1 0 == 0
  match fieldOf w 4 2 with
  | 0 => checks true (rsv && kb == 0 && b == 0) true true (.capld k a)
  | 1 => checks true (rsv && kb == 0 && b == 0) true true (.capst k a)
  | 2 => checks true rsv true true (.capder k (BitVec.ofNat 4 kb) a (r6 b))
  | 3 => checks true (rsv && kb == 0) true true (.capchk k a (r6 b))
  | _ => .error 18

def dec1E (w : BitVec 32) : Except Nat Instr :=
  let r := fieldsR w
  let d := r6 r.d
  match r.f with
  | 0 => checks true (r.d / 8 == 0 && r.b == 0) true true (.sbind (low3 r.d) (r6 r.a))
  | 1 => checks true (r.d / 8 == 0 && r.a == 0 && r.b == 0) true true (.sunbind (low3 r.d))
  | 2 =>
    (match r.b with
     | 0 => checks true true true (decide (r.a < 8)) (.sstatVal d (low3 r.a))
     | 1 => checks true true true (decide (r.a < 8)) (.sstatQ d (low3 r.a))
     | 2 => checks true true true (decide (r.a < 2)) (.sstatCe d (BitVec.ofNat 1 r.a))
     | 3 => checks true true true (decide (r.a < 2)) (.sstatCf d (BitVec.ofNat 1 r.a))
     | 4 => checks true (r.a == 0) true true (.sstatPut d)
     | _ => .error 22)
  | _ => .error 18

def dec1F (w : BitVec 32) : Except Nat Instr :=
  let r := fieldsR w
  let a := r6 r.a
  let b0 := r.b == 0
  let hi0 := r.d / 4 == 0
  match r.f with
  | 0 =>
    if !(r.d / 8 == 0 && b0) then .error 19 else
    (match r.d % 8 with
     | 1 => .ok (.publish .cluster a)
     | 2 => .ok (.publish .layer a)
     | 3 => .ok (.publish .package a)
     | 4 => .ok (.publish .gang a)
     | _ => .error 21)
  | 1 =>
    (match r.d % 4 with
     | 0 => checks true (hi0 && b0) true true (.reshPin a)
     | 1 => checks true (hi0 && b0) true true (.reshUnpin a)
     | 2 => checks true hi0 true true (.reshPrio a (r6 r.b))
     | _ => if !(hi0 && b0) then .error 19 else .error 22)
  | 2 =>
    (match r.d % 4 with
     | 0 => checks true (hi0 && b0) true true (.evict a)
     | 1 => checks true (hi0 && b0) true true (.evictDemote a)
     | _ => if !(hi0 && b0) then .error 19 else .error 22)
  | 3 => checks true (hi0 && b0) true (r.d % 4 == 0) (.pref a)
  | 4 => checks true (r.d / 2 == 0 && r.a == 0) true (r.b != 0) (.stage (BitVec.ofNat 1 r.d) (r6 r.b))
  | _ => .error 18

/-- Majors 0x20 to 0x2D (15). -/
def decVF (k : Bool → Rm → BitVec 3 → Reg → Reg → Reg → Instr) (w : BitVec 32) : Except Nat Instr :=
  let r := fieldsR w
  withRm true (r.f / 16) true
    (fun rm => k (r.f % 2 == 1) rm (low3 (r.f / 2 % 8)) (r6 r.d) (r6 r.a) (r6 r.b))

def dec26 (w : BitVec 32) : Except Nat Instr :=
  let r := fieldsR w
  let t := r.f % 2 == 1
  let m := low3 (r.f / 2 % 8)
  let rm := r.f / 16
  let d := r6 r.d
  let a := r6 r.a
  match r.b with
  | 0 => withRm true rm true (fun x => .vsqrt t x m d a)
  | 1 => withRm true rm true (fun x => .vrcpa t x m d a)
  | 2 => withRm true rm true (fun x => .vrsqa t x m d a)
  | 3 => withRm true rm true (fun x => .vexp2 t x m d a)
  | 4 => withRm true rm true (fun x => .vlog2 t x m d a)
  | 5 => withRm true rm true (fun x => .vexp t x m d a)
  | 6 => withRm true rm true (fun x => .vlog t x m d a)
  | 7 => withRm true rm true (fun x => .vsin t x m d a)
  | 8 => withRm true rm true (fun x => .vcos t x m d a)
  | 9 => withRm true rm true (fun x => .vtanh t x m d a)
  | 10 => withRm true rm true (fun x => .verf t x m d a)
  | 11 => checks true (rm == 0) true true (.vabs t m d a)
  | 12 => checks true (rm == 0) true true (.vneg t m d a)
  | 13 => checks true (rm == 0) true true (.vclass t m d a)
  | _ => .error 18

def dec27 (w : BitVec 32) : Except Nat Instr :=
  let r := fieldsR w
  let m := low3 (r.f / 16)
  let d := r6 r.d
  let a := r6 r.a
  let b := r6 r.b
  match r.f % 16 with
  | 0 => .ok (.vaddI32 m d a b)
  | 1 => .ok (.vsubI32 m d a b)
  | 2 => .ok (.vmulI32 m d a b)
  | 3 => .ok (.vmadi m d a b)
  | 4 => .ok (.vand m d a b)
  | 5 => .ok (.vor m d a b)
  | 6 => .ok (.vxor m d a b)
  | 7 => checks true (r.b == 0) true true (.vnot m d a)
  | 8 => .ok (.vshl m d a b)
  | 9 => .ok (.vshr m d a b)
  | 10 => .ok (.vsar m d a b)
  | 11 => checks true (r.b == 0) true true (.vabsI32 m d a)
  | 12 => checks true (r.b == 0) true true (.vnegI32 m d a)
  | _ => .error 18

def dec28 (w : BitVec 32) : Except Nat Instr :=
  let r := fieldsR w
  let m := r.f / 16
  let ty := VTy.ofCode (r.f / 4 % 4)
  let a := r6 r.a
  let b := r6 r.b
  match r.f % 4 with
  | 0 => .ok (.vmin ty (low3 m) (r6 r.d) a b)
  | 1 => .ok (.vmax ty (low3 m) (r6 r.d) a b)
  | 2 => .ok (.vcmp ty (low3 (r.d / 8)) (low3 r.d) (low3 m) a b)
  | _ => checks true true true (m != 0) (.vsel ty (low3 m) (r6 r.d) a b)

def dec29 (w : BitVec 32) : Except Nat Instr :=
  let tf := fieldOf w 12 9
  let ff := fieldOf w 8 5
  let sat := fieldOf w 1 0
  if 13 ≤ tf || 13 ≤ ff || 2 ≤ sat then .error 21
  else withRm true (fieldOf w 4 2) true
    (fun rm => .vcvt (BitVec.ofNat 4 tf) (BitVec.ofNat 4 ff) rm (sat == 1) (r6 (fieldOf w 24 19)) (r6 (fieldOf w 18 13)))

def dec2A (w : BitVec 32) : Except Nat Instr :=
  let r := fieldsR w
  let ww := r.f % 8
  let wd := BitVec.ofNat 2 ww
  let d := r6 r.d
  let a := r6 r.a
  let b := r6 r.b
  let cw := decide (ww < 4)
  match r.f / 8 with
  | 0 => checks true true cw (ww != 3) (.vpack wd d a b)
  | 1 => checks true (r.b / 4 == 0) cw (ww != 3) (.vunpack wd (r.b % 2 == 1) (r.b / 2 % 2 == 1) d a)
  | 2 => checks true (r.b == 0) cw true (.vbcast wd d a)
  | 3 => checks true true cw true (.vperm wd d a b)
  | 4 => checks true true cw true (.vshuf wd d a b)
  | 5 => checks true true cw true (.vslide wd d a b)
  | _ => .error 18

/-- A reduction takes a rounding mode only for .add on a floating-point type (15 R272). -/
def redRounds (op : RedOp) (ty : VTy) : Bool := op == .add && (ty == .f32 || ty == .f64)

/-- The logical reductions take integer types only (15 R272). -/
def redLegal (op : RedOp) (ty : VTy) : Bool :=
  !((op == .and || op == .or || op == .xor) && (ty == .f32 || ty == .f64))

def dec2B (w : BitVec 32) : Except Nat Instr :=
  let d := r6 (fieldOf w 24 19)
  let a := r6 (fieldOf w 18 13)
  let ty := VTy.ofCode (fieldOf w 9 8)
  let rm := fieldOf w 7 5
  let m := low3 (fieldOf w 4 2)
  let f := fieldOf w 1 0
  if 2 ≤ f then .error 18 else
  match RedOp.ofCode (fieldOf w 12 10) with
  | none => if rm != 0 then .error 19 else .error 21
  | some op =>
    if !redRounds op ty && rm != 0 then .error 19 else
    match Rm.ofCode rm with
    | none => .error 21
    | some r =>
      if !redLegal op ty then .error 22
      else .ok (if f == 0 then .vred op ty r m d a else .vscan op ty r m d a)

def dec2C (w : BitVec 32) : Except Nat Instr :=
  let r := fieldsR w
  let rsv := r.f % 8 == 0
  let d3 := r.d / 8 == 0
  let a3 := r.a / 8 == 0
  let b3 := r.b / 8 == 0
  match r.f / 8 with
  | 0 => checks true rsv true (r.a % 2 == 0) (.vrng (r6 r.d) (r6 r.a) (r6 r.b))
  | 1 => checks true (rsv && d3 && a3 && b3) true true (.vmand (low3 r.d) (low3 r.a) (low3 r.b))
  | 2 => checks true (rsv && d3 && a3 && b3) true true (.vmor (low3 r.d) (low3 r.a) (low3 r.b))
  | 3 => checks true (rsv && d3 && a3 && r.b == 0) true true (.vmnot (low3 r.d) (low3 r.a))
  | 4 => checks true (rsv && a3 && r.b == 0) true true (.vmpopc (r6 r.d) (low3 r.a))
  | _ => .error 18

/-- Target formats of vscale (15 R279). -/
def scaleFmt (n : Nat) : Bool := n == 4 || n == 5 || n == 6 || n == 11 || n == 12

def dec2D (w : BitVec 32) : Except Nat Instr :=
  let r := fieldsR w
  let m := low3 (r.f / 2 % 8)
  if r.f % 2 == 0 then
    withRm true (r.f / 16) true (fun rm => .vw2enc rm m (r6 r.d) (r6 r.a) (r6 r.b))
  else
    withRm true (r.f / 16) (scaleFmt r.b) (fun rm => .vscale (r6 r.b) rm m (r6 r.d) (r6 r.a))

/-- Majors 0x30 to 0x35 (17). -/
def decRv (fwd undo : RTy → Rm → Reg → Reg → Reg → Instr) (w : BitVec 32) : Except Nat Instr :=
  let r := fieldsR w
  match RTy.ofCode (r.f % 8) with
  | none => .error 21
  | some t =>
    withRm true (r.f / 16) true
      (fun rm => (if r.f / 8 % 2 == 0 then fwd else undo) t rm (r6 r.d) (r6 r.a) (r6 r.b))

/-- Narrowing conversions of rvcvt (17 R302). -/
def narrows (tf ff : Nat) : Bool :=
  decide (1 ≤ tf && tf ≤ 5 && ff ≤ 3) && decide (cvtWidth tf < cvtWidth ff)

def dec33 (w : BitVec 32) : Except Nat Instr :=
  let tf := fieldOf w 12 9
  let ff := fieldOf w 8 5
  let d := r6 (fieldOf w 24 19)
  let a := r6 (fieldOf w 18 13)
  withRm (fieldOf w 0 0 == 0) (fieldOf w 4 2) (narrows tf ff)
    (fun rm => if fieldOf w 1 1 == 0 then .rvcvt (BitVec.ofNat 4 tf) (BitVec.ofNat 4 ff) rm d a
               else .urcvt (BitVec.ofNat 4 tf) (BitVec.ofNat 4 ff) rm d a)

def dec34 (w : BitVec 32) : Except Nat Instr :=
  let r := fieldsR w
  let bf := r.f % 2 == 1
  let u := r.f / 8 % 2 == 1
  let rm := r.f / 16
  let d := r6 r.d
  let a := r6 r.a
  match r.f / 2 % 4 with
  | 0 => checks true (rm == 0 && r.b == 0) true true (if u then .urrelu bf d a else .rvrelu bf d a)
  | 1 => withRm true rm true (fun x => if u then .urscale bf x d a (r6 r.b) else .rvscale bf x d a (r6 r.b))
  | 2 => checks true (rm == 0 && r.b / 8 == 0) true (r.b != 0)
      (if u then .urdrop bf d a (low3 r.b) else .rvdrop bf d a (low3 r.b))
  | _ => .error 18

def dec35 (w : BitVec 32) : Except Nat Instr :=
  let r := fieldsR w
  let rsv := r.f % 16 == 0
  match r.f / 16 with
  | 0 => checks true (rsv && r.d == 0 && r.a / 16 == 0) true true (.pusht (BitVec.ofNat 4 r.a) (r6 r.b))
  | 1 => checks true (rsv && r.a == 0 && r.d / 16 == 0) true true (.popt (BitVec.ofNat 4 r.d) (r6 r.b))
  | 2 => checks true (rsv && r.b == 0) true true (.rsmark (r6 r.d) (r6 r.a))
  | 3 => checks true (rsv && r.d == 0) true true (.rsck (r6 r.a) (r6 r.b))
  | _ => .error 18

/-- Majors 0x38 to 0x3B (19). -/
def dec38 (w : BitVec 32) : Except Nat Instr :=
  checks true (fieldOf w 10 0 == 0) true true (.mcall (BitVec.ofNat 14 (fieldOf w 24 11)))

def dec39 (w : BitVec 32) : Except Nat Instr :=
  let r := fieldsR w
  match r.f with
  | 0 => checks true (r.d / 8 == 0 && r.b == 0) true true (.mparm (low3 r.d) (r6 r.a))
  | 1 =>
    (match r.d / 8 with
     | 0 => .ok (.mfoff (low3 r.d) (r6 r.a) (r6 r.b))
     | 1 => checks true (r.b == 0) true true (.mfoffSet (low3 r.d) (r6 r.a))
     | _ => .error 22)
  | 2 => .ok (.mgath (r6 r.d) (r6 r.a) (r6 r.b))
  | _ => .error 18

def dec3A (w : BitVec 32) : Except Nat Instr :=
  let r := fieldsR w
  match r.f with
  | 0 => checks true (r.a / 4 == 0 && r.b == 0) true true (.dqpop (r6 r.d) (BitVec.ofNat 2 r.a))
  | 1 => checks true (r.d == 0 && r.a / 4 == 0) true true (.dqst (BitVec.ofNat 2 r.a) (r6 r.b))
  | _ => .error 18

def dec3B (w : BitVec 32) : Except Nat Instr :=
  let r := fieldsR w
  match r.f with
  | 0 => checks true (r.d / 4 == 0 && r.a == 0) true true (.macst (BitVec.ofNat 2 r.d) (r6 r.b))
  | 1 => checks true (r.d / 4 == 0 && r.a == 0) true true (.macld (BitVec.ofNat 2 r.d) (r6 r.b))
  | 2 => .ok (.mload (r6 r.d) (r6 r.a) (r6 r.b))
  | _ => .error 18

/-- Majors 0x3C and 0x3D (25 R406, R412, R413). -/
def dec3C (w : BitVec 32) : Except Nat Instr :=
  let r := fieldsR w
  let k := BitVec.ofNat 4 r.d
  let q := BitVec.ofNat 2 (r.d / 16)
  let op := r.f / 16
  let a := r6 r.a
  let b := r6 r.b
  match r.f % 16 with
  | 0 => checks true (r.d / 16 == 0 && op / 2 == 0) true true (.fwr (op == 1) k a b)
  | 1 => checks true true true (casOk op r.b) (.fatom (low3 op) q k a b)
  | 2 => checks true (r.a == 0 && op == 0) true true (.freq q k b)
  | 3 => checks true (r.d / 16 == 0 && op / 2 == 0) true (r.b % 2 == 0) (.fmc (op == 1) k a b)
  | _ => .error 18

def dec3D (w : BitVec 32) : Except Nat Instr :=
  let r := fieldsR w
  match r.f with
  | 0 =>
    (match r.b with
     | 0 => checks true (r.a == 0) true true (.fstatOut (r6 r.d))
     | 1 => checks true (r.a == 0) true true (.fstatDone (r6 r.d))
     | 2 => checks true (r.a == 0) true true (.fstatErr (r6 r.d))
     | 3 => .ok (.fstatPeer (r6 r.d) (r6 r.a))
     | _ => .error 22)
  | 1 => checks true (r.d == 0) true true (.fgrp (r6 r.a) (r6 r.b))
  | _ => .error 18

/-- Control registers that exist (05 R78). -/
def csrExists (n : Nat) : Bool :=
  n == 0x001 || n == 0x002 || (decide (0x008 ≤ n) && decide (n ≤ 0x00D)) || (decide (0x010 ≤ n) && decide (n ≤ 0x013))
  || (decide (0x020 ≤ n) && decide (n ≤ 0x023)) || n == 0x030 || n == 0x031 || n == 0x040 || n == 0x041
  || n == 0x050 || n == 0x060 || n == 0x070 || n == 0x080

/-- Major 0x3E (27 R439). The csrw of FLAGS, MODE, STAGE, RS.SPILL and RS.LIMIT have rows of their own. -/
def dec3E (w : BitVec 32) : Except Nat Instr :=
  let r := fieldsR w
  let csr := fieldOf w 18 7
  let d := r6 r.d
  let a := r6 r.a
  let b := r6 r.b
  match r.f with
  | 0 => checks true true true (csrExists csr) (.csrr d (BitVec.ofNat 12 csr))
  | 1 => checks true true true (csrExists csr)
      (match csr with
       | 0x001 => .csrwFlags d
       | 0x070 => .csrwMode d
       | 0x060 => .csrwStage d
       | 0x022 => .csrwRsSpill false d
       | 0x023 => .csrwRsSpill true d
       | n => .csrw d (BitVec.ofNat 12 n))
  | 2 => checks true (r.d == 0 && r.a == 0 && r.b == 0) true true .eret
  | 3 => .ok (.tlbinv d a b)
  | 4 => checks true true true (decide (r.d ≤ 21)) (.vwset d a b)
  | 5 => checks true (r.d == 0) true true (.tidset a b)
  | 7 => checks true (r.d == 0 && r.a == 0 && r.b == 0) true true .halt
  | n =>
    if n < 64 then .error 18 else
    match Space.ofCode (n / 8 % 8), Space.ofCode (n % 8) with
    | some ds, some ss => .ok (.copyx ds ss d a b)
    | _, _ => .error 21

/-- Majors 0x08 to 0x0E may stand in V, M and X in duplicate form, 0x20 to 0x2D in X (05 R74). -/
def slotOk (maj slot : Nat) : Bool :=
  if maj ≤ 0x07 || (0x10 ≤ maj && maj ≤ 0x13) || maj == 0x3E then slot == slotC
  else if 0x08 ≤ maj && maj ≤ 0x0E then true
  else if 0x14 ≤ maj && maj ≤ 0x1F then slot == slotM
  else if 0x20 ≤ maj && maj ≤ 0x2D then slot == slotV || slot == slotX
  else if 0x30 ≤ maj && maj ≤ 0x35 then slot == slotV
  else if maj == 0x3A then slot == slotV || slot == slotM || slot == slotX
  else slot == slotX

/-- Reserved majors (05 R80). -/
def majorReserved (maj : Nat) : Bool :=
  maj == 0x0F || maj == 0x2E || maj == 0x2F || maj == 0x36 || maj == 0x37

/-- The major of an op word (05 R69). -/
def majorOf (w : BitVec 32) : Nat := fieldOf w 30 25

/-- The nop encoding (05 R70). -/
def isNopWord (w : BitVec 32) : Bool := fieldOf w 30 0 == 0

/-- The body of an op word by its major (05 R80). -/
def decBody (maj : Nat) (dup : Bool) (w : BitVec 32) (l : BitVec 14) : Except Nat Instr :=
  match maj with
  | 0x00 => dec00 w
  | 0x01 => dec01 w l
  | 0x02 => dec02 w
  | 0x03 => dec03 w
  | 0x04 => dec04 w l
  | 0x05 => dec05 w l
  | 0x06 => dec06 w
  | 0x07 => dec07 w
  | 0x08 => dec08 w dup
  | 0x09 => dec09 w dup
  | 0x0A => dec0A w l dup
  | 0x0B => dec0B w l dup
  | 0x0C => dec0C w dup
  | 0x0D => dec0D w dup
  | 0x0E => dec0E w l dup
  | 0x10 => decF .f64 w
  | 0x11 => decF .f32 w
  | 0x12 => decF .f16 w
  | 0x13 => decF .bf16 w
  | 0x14 => dec14 w l
  | 0x15 => dec15 w l
  | 0x16 => dec16 w l
  | 0x17 => dec17 w
  | 0x18 => dec18 w l
  | 0x19 => dec19 w
  | 0x1A => dec1A w
  | 0x1B => dec1B w
  | 0x1C => dec1C w
  | 0x1D => dec1D w
  | 0x1E => dec1E w
  | 0x1F => dec1F w
  | 0x20 => decVF .vadd w
  | 0x21 => decVF .vsub w
  | 0x22 => decVF .vmul w
  | 0x23 => decVF .vfma w
  | 0x24 => decVF .vfms w
  | 0x25 => decVF .vdiv w
  | 0x26 => dec26 w
  | 0x27 => dec27 w
  | 0x28 => dec28 w
  | 0x29 => dec29 w
  | 0x2A => dec2A w
  | 0x2B => dec2B w
  | 0x2C => dec2C w
  | 0x2D => dec2D w
  | 0x30 => decRv .rvmul .urmul w
  | 0x31 => decRv .rvfma .urfma w
  | 0x32 => decRv .rvadd .uradd w
  | 0x33 => dec33 w
  | 0x34 => dec34 w
  | 0x35 => dec35 w
  | 0x38 => dec38 w
  | 0x39 => dec39 w
  | 0x3A => dec3A w
  | 0x3B => dec3B w
  | 0x3C => dec3C w
  | 0x3D => dec3D w
  | 0x3E => dec3E w
  | _ => .error 17

/-- Decode one op word standing in a slot, under lent bits l (0 for an op that is not the lend target). The error is the reason of R85, checked in its order: reserved major, slot, then the rest. The nop encoding is legal in every slot (R70). -/
def decodeOp (slot : Nat) (w : BitVec 32) (l : BitVec 14) : Except Nat Instr :=
  let maj := majorOf w
  if isNopWord w then .ok .nop
  else if majorReserved maj then .error 17
  else if !slotOk maj slot then .error 16
  else decBody maj (slot != slotC) w l

/-- Majors whose op has a lendable immediate (05 R80); loopi's is its count, movi's and movhi's theirs. -/
def lendable (w : BitVec 32) : Bool :=
  let maj := majorOf w
  !isNopWord w && (maj == 0x01 || maj == 0x04 || maj == 0x05 || maj == 0x0A || maj == 0x0B || maj == 0x0E
    || maj == 0x14 || maj == 0x15 || maj == 0x16 || maj == 0x18)

/-! ## Bundles (05 R62 to R68) -/

/-- A bundle as its words give it: length in bytes, fold, restart, and the op words by slot with the lent bits of each. -/
structure Bundle where
  len : Nat
  fold : Nat
  restart : Bool
  ops : List (Nat × BitVec 32 × BitVec 14)
  stop : Bool
  deriving DecidableEq, Repr

/-- The length that a first word gives, or the reason of its illegal-encoding trap (R62 to R65). -/
def bundleLen (w : BitVec 32) : Except Nat Nat :=
  if fieldOf w 31 25 == 0b0111111 then
    (let n := fieldOf w 24 24 + fieldOf w 23 23 + fieldOf w 22 22 + fieldOf w 21 21
     if n == 4 then .error 3 else .ok (4 * (1 + n)))
  else if fieldOf w 31 31 == 1 && fieldOf w 30 25 == 0b111111 then .error 2
  else .ok 16

/-- Words of a compact bundle given to the slots whose presence bits are set (R65). -/
def placeWords : List Nat → List (BitVec 32) → List (Nat × BitVec 32)
  | s :: ss, w :: ws => (s, w) :: placeWords ss ws
  | _, _ => []

/-- The slots whose presence bit is set, in slot order (R64). -/
def presentSlots (h : BitVec 32) : List Nat :=
  (if fieldOf h 24 24 == 1 then [slotC] else []) ++ (if fieldOf h 23 23 == 1 then [slotV] else [])
  ++ (if fieldOf h 22 22 == 1 then [slotM] else []) ++ (if fieldOf h 21 21 == 1 then [slotX] else [])

/-- Form a bundle from its words, making the bundle-level checks of R85 step 1 other than the crossing: major 0x3F (reason 4), then lending without a target (reason 5). -/
def bundleOf (words : List (BitVec 32)) : Except Nat Bundle :=
  match words with
  | [] => .error 1
  | h :: rest =>
    match bundleLen h with
    | .error r => .error r
    | .ok len =>
      if fieldOf h 31 25 == 0b0111111 then
        let ops := placeWords (presentSlots h) rest
        let lent := BitVec.ofNat 14 (fieldOf h 13 0)
        let tgt := fieldOf h 15 14
        let bad := lent != 0 && !(ops.any (fun o => o.1 == tgt && lendable o.2))
        if ops.any (fun o => majorOf o.2 == 0x3F) then .error 4
        else if bad then .error 5
        else .ok { len := len, fold := fieldOf h 20 17, restart := fieldOf h 16 16 == 1,
                   ops := ops.map (fun o => (o.1, o.2, if o.1 == tgt then lent else 0)),
                   stop := ops.any (fun o => fieldOf o.2 31 31 == 1) }
      else
        let ops := placeWords [slotC, slotV, slotM, slotX] (h :: rest)
        if ops.any (fun o => majorOf o.2 == 0x3F) then .error 4
        else .ok { len := len, fold := 0, restart := false,
                   ops := ops.map (fun o => (o.1, o.2, 0)),
                   stop := ops.any (fun o => fieldOf o.2 31 31 == 1) }

/-! ## Micro-ops (19 R325) -/

/-- Decode a word of the microprogram store; none for a reserved code or a nonzero reserved field. -/
def decodeMicro (w : BitVec 32) : Option Instr :=
  let x := BitVec.ofNat 2 (fieldOf w 26 25)
  let imm := BitVec.ofNat 16 (fieldOf w 15 0)
  match fieldOf w 31 27 with
  | 0 => if fieldOf w 26 0 == 0 then some .unop else none
  | 1 => if fieldOf w 26 0 == 0 then some .uend else none
  | 2 => if fieldOf w 24 16 == 0 then some (.uxset x imm) else none
  | 3 => if fieldOf w 24 16 == 0 then some (.uxadd x imm) else none
  | 4 => if fieldOf w 19 0 == 0 then
           some (.uxldp x (BitVec.ofNat 3 (fieldOf w 24 22)) (BitVec.ofNat 2 (fieldOf w 21 20))) else none
  | 5 => if fieldOf w 23 16 == 0 && (fieldOf w 26 26 == 0 || fieldOf w 15 0 == 0) then
           some (.ukadd (fieldOf w 26 26 == 1) (BitVec.ofNat 2 (fieldOf w 25 24)) imm) else none
  | 6 => if fieldOf w 12 12 == 0 || fieldOf w 11 2 == 0 then
           some (.uloop (BitVec.ofNat 14 (fieldOf w 26 13)) (fieldOf w 12 12 == 1) (BitVec.ofNat 12 (fieldOf w 11 0))) else none
  | 7 => if fieldOf w 24 14 == 0 then some (.ubnz x (BitVec.ofNat 14 (fieldOf w 13 0))) else none
  | 8 => if fieldOf w 26 12 == 0 then some (.uwait (BitVec.ofNat 12 (fieldOf w 11 0))) else none
  | 9 => if fieldOf w 16 0 == 0 then some (.uwld x (BitVec.ofNat 8 (fieldOf w 24 17))) else none
  | 10 => if fieldOf w 5 0 == 0 then
           some (.umac x (BitVec.ofNat 2 (fieldOf w 24 23)) (BitVec.ofNat 2 (fieldOf w 22 21))
             (r6 (fieldOf w 20 15)) (BitVec.ofNat 8 (fieldOf w 14 7)) (fieldOf w 6 6 == 1)) else none
  | 11 => if fieldOf w 24 21 == 0 && fieldOf w 14 0 == 0 then some (.uzero x (r6 (fieldOf w 20 15))) else none
  | 12 => if fieldOf w 22 0 == 0 then some (.uxmov x (BitVec.ofNat 2 (fieldOf w 24 23))) else none
  | _ => none

/-- The instruction of a table row's bits: only the micro-ops have bits in the table, and they are single words of 32 bits. -/
def decodeTableWord (nbits w : Nat) : Option Instr :=
  if nbits == 32 then decodeMicro (BitVec.ofNat 32 w) else none

/-! ## Command packets (21 R346, R347) -/

/-- A quad from two payload words, the low word first. -/
def quadOf (lo hi : BitVec 32) : Word := hi ++ lo

/-- Decode a packet from its header and payload; the error is the code of R356. The count is checked before the reserved bits. -/
def decodePacket (h : BitVec 32) (p : List (BitVec 32)) : Except Nat Instr :=
  let f15 := fieldOf h 15 15 == 1
  let f14 := fieldOf h 14 14 == 1
  match fieldOf h 31 27 with
  | 0 => if fieldOf h 15 0 == 0 then .ok .nopPacket else .error 3
  | 1 =>
    (match p with
     | [a, b] =>
       if fieldOf h 12 0 != 0 then .error 3
       else if fieldOf h 13 13 == 1 then
         (if !f14 then .error 3
          else if fieldOf a 31 19 != 0 || b != 0 then .error 3
          else .ok (.launchGraphResident f15 (BitVec.ofNat 16 (fieldOf a 15 0)) (BitVec.ofNat 3 (fieldOf a 18 16))))
       else .ok (if f14 then .launchGraph f15 (quadOf a b) else .launchTask f15 (quadOf a b))
     | _ => .error 2)
  | 2 =>
    (match p with
     | [a, b, c, d, e, f] =>
       if fieldOf h 13 0 != 0 then .error 3 else .ok (.timed f15 f14 (quadOf a b) (quadOf c d) (quadOf e f))
     | _ => .error 2)
  | 3 =>
    (match p with
     | [a, b, c] => if fieldOf h 15 0 != 0 then .error 3 else .ok (.indirect (quadOf a b) c)
     | _ => .error 2)
  | 4 =>
    (match p with
     | [a, b, c, d, e, f] =>
       if fieldOf h 14 12 != 0 || fieldOf h 11 0 == 0 then .error 3
       else .ok (.pred f15 (BitVec.ofNat 12 (fieldOf h 11 0)) (quadOf a b) (quadOf c d) (quadOf e f))
     | _ => .error 2)
  | 5 =>
    (match p with
     | [a] =>
       if fieldOf h 15 12 != 0 || fieldOf h 11 0 == 0 then .error 3
       else .ok (.loopPacket (BitVec.ofNat 12 (fieldOf h 11 0)) a)
     | _ => .error 2)
  | 6 =>
    (match fieldOf h 15 14 with
     | 0 =>
       (match p with
        | a :: b :: x :: ds =>
          if 2045 < (x :: ds).length then .error 2
          else if fieldOf h 13 0 != 0 then .error 3 else .ok (.writeMemory (quadOf a b) (x :: ds))
        | _ => .error 2)
     | 1 =>
       (match p with
        | [a, b, c, d] =>
          if fieldOf h 13 0 != 0 || fieldOf a 31 19 != 0 || b != 0 then .error 3
          else .ok (.writeCondWord (BitVec.ofNat 16 (fieldOf a 15 0)) (BitVec.ofNat 3 (fieldOf a 18 16)) (quadOf c d))
        | _ => .error 2)
     | _ => if p.length < 3 then .error 2 else .error 3)
  | 7 =>
    if fieldOf h 13 13 == 1 then
      (match p with
       | [] => if fieldOf h 12 0 != 0 || fieldOf h 15 14 != 0 then .error 3 else .ok .waitIdle
       | _ => .error 2)
    else
      (match p with
       | [a, b, c, d, e, f] =>
         if fieldOf h 12 0 != 0 then .error 3
         else .ok (.waitPacket (BitVec.ofNat 2 (fieldOf h 15 14)) (quadOf a b) (quadOf c d) (quadOf e f))
       | _ => .error 2)
  | 8 =>
    (match p with
     | [] => if fieldOf h 15 0 != 0 then .error 3 else .ok .ffence
     | _ => .error 2)
  | 9 =>
    (match p with
     | [a, b, c, d, e, f, g, i] =>
       if fieldOf h 15 13 != 0 || fieldOf h 7 0 != 0 || 8 < fieldOf h 11 8 then .error 3
       else if fieldOf h 12 12 == 0 && (c != 0 || d != 0 || e != 0 || f != 0 || g != 0 || i != 0) then .error 3
       else .ok (.sched (fieldOf h 12 12 == 1) (BitVec.ofNat 4 (fieldOf h 11 8)) (quadOf a b) (quadOf c d) e (quadOf f g) i)
     | _ => .error 2)
  | 10 =>
    (match p with
     | [a, b, c, d, e] =>
       if fieldOf h 13 11 != 0 || fieldOf e 31 12 != 0 then .error 3
       else .ok (.event f15 f14 (BitVec.ofNat 11 (fieldOf h 10 0)) (quadOf a b) (quadOf c d) (BitVec.ofNat 12 (fieldOf e 11 0)))
     | _ => .error 2)
  | 11 =>
    (match p with
     | [a] =>
       if fieldOf h 15 3 != 0 || fieldOf a 31 24 != 0 || 6 ≤ fieldOf h 2 0 then .error 3
       else .ok (.budget (BitVec.ofNat 3 (fieldOf h 2 0)) (BitVec.ofNat 24 (fieldOf a 23 0)))
     | _ => .error 2)
  | _ => .error 1

/-! ## Encoders, written from the same tables -/

/-- The op word, with S == 0, of a well-formed bundle op (R80); 0 for instructions that are no op of a bundle. -/
def encodeOp : Instr → BitVec 32
  | .nop => 0
  | .tend => layR 0x00 0 0 0 1
  | .yieldOp => layR 0x00 0 0 0 2
  | .ret a pop => layR 0x00 0 a ((0 : BitVec 3) ++ pop) 3
  | .rdtime d => layR 0x00 d 0 0 4
  | .rdctr d sel => layR 0x00 d sel 0 5
  | .xchk a b => layR 0x00 0 a b 6
  | .xchkV a b => layR 0x00 1 a b 6
  | .gwcondSet a => layR 0x00 0 a 0 7
  | .gwcondClr a => layR 0x00 1 a 0 7
  | .gwcondIns a b => layR 0x00 2 a b 7
  | .pbr t a => layR 0x00 ((0 : BitVec 4) ++ t) a 0 8
  | .pbri t imm => layBody 0x01 (t ++ immField 23 imm)
  | .br t cond pop a => layBody 0x02 (t ++ cond ++ pop ++ a ++ (0 : BitVec 11))
  | .brl t pop d => layBody 0x03 (t ++ pop ++ d ++ (0 : BitVec 14))
  | .loop a imm => layImm 0x04 0 a (immField 13 imm)
  | .loopi cnt imm => layBody 0x05 (immField 12 cnt ++ imm)
  | .trap code => layBody 0x06 ((0 : BitVec 1) ++ code)
  | .svc code => layBody 0x06 ((1 : BitVec 1) ++ code)
  | .phase sc => layBody 0x07 (sc.code ++ (0 : BitVec 22))
  | .phaseProbe sc a b => layBody 0x07 (sc.code ++ (0b100 : BitVec 3) ++ a ++ b ++ (0 : BitVec 7))
  | .fence sc => layBody 0x07 (sc.code ++ (0b010 : BitVec 3) ++ (0 : BitVec 19))
  | .stage e n => layR 0x1F ((0 : BitVec 5) ++ e) 0 n 4
  | .add w d a b => layR 0x08 d a b (bit w ++ (0 : BitVec 6))
  | .sub w d a b => layR 0x08 d a b (bit w ++ (1 : BitVec 6))
  | .and w d a b => layR 0x08 d a b (bit w ++ (2 : BitVec 6))
  | .or w d a b => layR 0x08 d a b (bit w ++ (3 : BitVec 6))
  | .xor w d a b => layR 0x08 d a b (bit w ++ (4 : BitVec 6))
  | .shl w d a b => layR 0x08 d a b (bit w ++ (5 : BitVec 6))
  | .shr w d a b => layR 0x08 d a b (bit w ++ (6 : BitVec 6))
  | .sar w d a b => layR 0x08 d a b (bit w ++ (7 : BitVec 6))
  | .rot w d a b => layR 0x08 d a b (bit w ++ (8 : BitVec 6))
  | .min w d a b => layR 0x08 d a b (bit w ++ (9 : BitVec 6))
  | .max w d a b => layR 0x08 d a b (bit w ++ (10 : BitVec 6))
  | .minn w d a b => layR 0x08 d a b (bit w ++ (11 : BitVec 6))
  | .maxn w d a b => layR 0x08 d a b (bit w ++ (12 : BitVec 6))
  | .seq w d a b => layR 0x08 d a b (bit w ++ (13 : BitVec 6))
  | .slt w d a b => layR 0x08 d a b (bit w ++ (14 : BitVec 6))
  | .sltn w d a b => layR 0x08 d a b (bit w ++ (15 : BitVec 6))
  | .clz w d a => layR 0x08 d a 0 (bit w ++ (16 : BitVec 6))
  | .ctz w d a => layR 0x08 d a 0 (bit w ++ (17 : BitVec 6))
  | .popc w d a => layR 0x08 d a 0 (bit w ++ (18 : BitVec 6))
  | .sel w d a b => layR 0x08 d a b (bit w ++ (19 : BitVec 6))
  | .lea w sh d a b => layR 0x08 d a b (bit w ++ (0b0101 : BitVec 4) ++ sh)
  | .mul w d a b => layR 0x09 d a b (bit w ++ (0 : BitVec 6))
  | .mulh w d a b => layR 0x09 d a b (bit w ++ (1 : BitVec 6))
  | .mulhn w d a b => layR 0x09 d a b (bit w ++ (2 : BitVec 6))
  | .div w d a b => layR 0x09 d a b (bit w ++ (3 : BitVec 6))
  | .divn w d a b => layR 0x09 d a b (bit w ++ (4 : BitVec 6))
  | .rem w d a b => layR 0x09 d a b (bit w ++ (5 : BitVec 6))
  | .remn w d a b => layR 0x09 d a b (bit w ++ (6 : BitVec 6))
  | .addi d a imm => layImm 0x0A d a (immField 13 imm)
  | .andi d a imm => layImm 0x0B d a ((0 : BitVec 2) ++ immField 11 imm)
  | .ori d a imm => layImm 0x0B d a ((1 : BitVec 2) ++ immField 11 imm)
  | .xori d a imm => layImm 0x0B d a ((2 : BitVec 2) ++ immField 11 imm)
  | .shli w d a sh => layImm 0x0C d a ((0 : BitVec 2) ++ (0 : BitVec 4) ++ bit w ++ sh)
  | .shri w d a sh => layImm 0x0C d a ((1 : BitVec 2) ++ (0 : BitVec 4) ++ bit w ++ sh)
  | .sari w d a sh => layImm 0x0C d a ((2 : BitVec 2) ++ (0 : BitVec 4) ++ bit w ++ sh)
  | .bfx d a pos len => layImm 0x0D d a ((0 : BitVec 1) ++ pos ++ len)
  | .bfi d a pos len => layImm 0x0D d a ((1 : BitVec 1) ++ pos ++ len)
  | .movi d imm => layBody 0x0E (d ++ (0 : BitVec 2) ++ immField 17 imm)
  | .movhi d imm => layBody 0x0E (d ++ (1 : BitVec 2) ++ immField 17 imm)
  | .fadd t rm d a b => layRF t.major d a b rm.code 0
  | .fsub t rm d a b => layRF t.major d a b rm.code 1
  | .fmul t rm d a b => layRF t.major d a b rm.code 2
  | .fdiv t rm d a b => layRF t.major d a b rm.code 3
  | .ffma t rm d a b => layRF t.major d a b rm.code 4
  | .fmin t d a b => layRF t.major d a b 0 5
  | .fmax t d a b => layRF t.major d a b 0 6
  | .fcmp t c d a b => layRF t.major d a b c 7
  | .fsqrt t rm d a => layRF t.major d a 0 rm.code 15
  | .fexp2 t rm d a => layRF t.major d a 1 rm.code 15
  | .flog2 t rm d a => layRF t.major d a 2 rm.code 15
  | .fexp t rm d a => layRF t.major d a 3 rm.code 15
  | .flog t rm d a => layRF t.major d a 4 rm.code 15
  | .fsin t rm d a => layRF t.major d a 5 rm.code 15
  | .fcos t rm d a => layRF t.major d a 6 rm.code 15
  | .ftanh t rm d a => layRF t.major d a 7 rm.code 15
  | .ferf t rm d a => layRF t.major d a 8 rm.code 15
  | .frcpa t rm d a => layRF t.major d a 9 rm.code 15
  | .frsqa t rm d a => layRF t.major d a 10 rm.code 15
  | .fclass t d a => layRF t.major d a 11 0 15
  | .frnd t rm d a => layRF t.major d a 12 rm.code 15
  | .fcvt t rm c d a => layRF t.major d a ((0b01 : BitVec 2) ++ c) rm.code 15
  | .fcvtFromInt t rm c d a => layRF t.major d a ((0b10 : BitVec 2) ++ c) rm.code 15
  | .ld ty wt cl d a imm => layImm 0x14 d a (ty ++ bit cl ++ bit wt ++ immField 8 imm)
  | .st ty d a imm => layImm 0x15 d a (ty ++ (0 : BitVec 2) ++ immField 8 imm)
  | .vld wt cl d a imm => layImm 0x16 d a ((0 : BitVec 1) ++ bit cl ++ bit wt ++ immField 10 imm)
  | .vst d a imm => layImm 0x16 d a ((1 : BitVec 1) ++ (0 : BitVec 2) ++ immField 10 imm)
  | .vldm wt cl d a cnt => layImm 0x17 d a ((0 : BitVec 1) ++ bit cl ++ bit wt ++ cnt ++ (0 : BitVec 4))
  | .vstm d a cnt => layImm 0x17 d a ((1 : BitVec 1) ++ (0 : BitVec 2) ++ cnt ++ (0 : BitVec 4))
  | .tld wt cl tv a imm => layImm 0x18 (tv ++ (0 : BitVec 2)) a ((0 : BitVec 1) ++ bit cl ++ bit wt ++ immField 10 imm)
  | .tst tv a imm => layImm 0x18 (tv ++ (0 : BitVec 2)) a ((1 : BitVec 1) ++ (0 : BitVec 2) ++ immField 10 imm)
  | .feset a b => layR 0x19 0 a b 0
  | .feclr a b => layR 0x19 0 a b 0b0010000
  | .atom i32 op q a b => layR 0x19 ((0 : BitVec 3) ++ q) a b ((0b01 : BitVec 2) ++ bit i32 ++ op)
  | .sbind q a => layR 0x1E ((0 : BitVec 3) ++ q) a 0 0
  | .sunbind q => layR 0x1E ((0 : BitVec 3) ++ q) 0 0 1
  | .sstatVal d q => layR 0x1E d ((0 : BitVec 3) ++ q) 0 2
  | .sstatQ d q => layR 0x1E d ((0 : BitVec 3) ++ q) 1 2
  | .sstatCe d e => layR 0x1E d ((0 : BitVec 5) ++ e) 2 2
  | .sstatCf d e => layR 0x1E d ((0 : BitVec 5) ++ e) 3 2
  | .sstatPut d => layR 0x1E d 0 4 2
  | .gget d a b => layR 0x1A d a b 0
  | .gput d a b => layR 0x1A d a b 1
  | .pld ty q k a => layBody 0x1B (k ++ a ++ z6 ++ q ++ (0 : BitVec 3) ++ ty)
  | .pst ty k a b => layBody 0x1B (k ++ a ++ b ++ (0 : BitVec 3) ++ (1 : BitVec 3) ++ ty)
  | .patom op q k a b => layBody 0x1B (k ++ a ++ b ++ q ++ (2 : BitVec 3) ++ op)
  | .pget k a b l => layBody 0x1B (k ++ a ++ b ++ l.extractLsb' 3 3 ++ (3 : BitVec 3) ++ l.extractLsb' 0 3)
  | .lease k a b => layBody 0x1C (k ++ a ++ b ++ (0 : BitVec 3) ++ z6)
  | .lrel k a b => layBody 0x1C (k ++ a ++ b ++ (1 : BitVec 3) ++ z6)
  | .capld k a => layBody 0x1D (k ++ (0 : BitVec 4) ++ a ++ z6 ++ (0 : BitVec 3) ++ (0 : BitVec 2))
  | .capst k a => layBody 0x1D (k ++ (0 : BitVec 4) ++ a ++ z6 ++ (1 : BitVec 3) ++ (0 : BitVec 2))
  | .capder k kb a b => layBody 0x1D (k ++ kb ++ a ++ b ++ (2 : BitVec 3) ++ (0 : BitVec 2))
  | .capchk k a b => layBody 0x1D (k ++ (0 : BitVec 4) ++ a ++ b ++ (3 : BitVec 3) ++ (0 : BitVec 2))
  | .publish sc a => layR 0x1F ((0 : BitVec 3) ++ sc.code) a 0 0
  | .reshPin a => layR 0x1F 0 a 0 1
  | .reshUnpin a => layR 0x1F 1 a 0 1
  | .reshPrio a b => layR 0x1F 2 a b 1
  | .evict a => layR 0x1F 0 a 0 2
  | .evictDemote a => layR 0x1F 1 a 0 2
  | .pref a => layR 0x1F 0 a 0 3
  | .vadd t rm m d a b => layVF 0x20 d a b rm.code m (bit t)
  | .vsub t rm m d a b => layVF 0x21 d a b rm.code m (bit t)
  | .vmul t rm m d a b => layVF 0x22 d a b rm.code m (bit t)
  | .vfma t rm m d a b => layVF 0x23 d a b rm.code m (bit t)
  | .vfms t rm m d a b => layVF 0x24 d a b rm.code m (bit t)
  | .vdiv t rm m d a b => layVF 0x25 d a b rm.code m (bit t)
  | .vsqrt t rm m d a => layVF 0x26 d a 0 rm.code m (bit t)
  | .vrcpa t rm m d a => layVF 0x26 d a 1 rm.code m (bit t)
  | .vrsqa t rm m d a => layVF 0x26 d a 2 rm.code m (bit t)
  | .vexp2 t rm m d a => layVF 0x26 d a 3 rm.code m (bit t)
  | .vlog2 t rm m d a => layVF 0x26 d a 4 rm.code m (bit t)
  | .vexp t rm m d a => layVF 0x26 d a 5 rm.code m (bit t)
  | .vlog t rm m d a => layVF 0x26 d a 6 rm.code m (bit t)
  | .vsin t rm m d a => layVF 0x26 d a 7 rm.code m (bit t)
  | .vcos t rm m d a => layVF 0x26 d a 8 rm.code m (bit t)
  | .vtanh t rm m d a => layVF 0x26 d a 9 rm.code m (bit t)
  | .verf t rm m d a => layVF 0x26 d a 10 rm.code m (bit t)
  | .vabs t m d a => layVF 0x26 d a 11 0 m (bit t)
  | .vneg t m d a => layVF 0x26 d a 12 0 m (bit t)
  | .vclass t m d a => layVF 0x26 d a 13 0 m (bit t)
  | .vaddI32 m d a b => layRF 0x27 d a b m 0
  | .vsubI32 m d a b => layRF 0x27 d a b m 1
  | .vmulI32 m d a b => layRF 0x27 d a b m 2
  | .vmadi m d a b => layRF 0x27 d a b m 3
  | .vand m d a b => layRF 0x27 d a b m 4
  | .vor m d a b => layRF 0x27 d a b m 5
  | .vxor m d a b => layRF 0x27 d a b m 6
  | .vnot m d a => layRF 0x27 d a 0 m 7
  | .vshl m d a b => layRF 0x27 d a b m 8
  | .vshr m d a b => layRF 0x27 d a b m 9
  | .vsar m d a b => layRF 0x27 d a b m 10
  | .vabsI32 m d a => layRF 0x27 d a 0 m 11
  | .vnegI32 m d a => layRF 0x27 d a 0 m 12
  | .vmin ty m d a b => layR 0x28 d a b (m ++ ty.code ++ (0 : BitVec 2))
  | .vmax ty m d a b => layR 0x28 d a b (m ++ ty.code ++ (1 : BitVec 2))
  | .vcmp ty cond c m a b => layR 0x28 (cond ++ c) a b (m ++ ty.code ++ (2 : BitVec 2))
  | .vsel ty m d a b => layR 0x28 d a b (m ++ ty.code ++ (3 : BitVec 2))
  | .vcvt tf ff rm sat d a => layImm 0x29 d a (tf ++ ff ++ rm.code ++ (0 : BitVec 1) ++ bit sat)
  | .vpack w d a b => layR 0x2A d a b ((0 : BitVec 4) ++ (0 : BitVec 1) ++ w)
  | .vunpack w hi sx d a => layR 0x2A d a ((0 : BitVec 4) ++ bit sx ++ bit hi) ((1 : BitVec 4) ++ (0 : BitVec 1) ++ w)
  | .vbcast w d a => layR 0x2A d a 0 ((2 : BitVec 4) ++ (0 : BitVec 1) ++ w)
  | .vperm w d a b => layR 0x2A d a b ((3 : BitVec 4) ++ (0 : BitVec 1) ++ w)
  | .vshuf w d a b => layR 0x2A d a b ((4 : BitVec 4) ++ (0 : BitVec 1) ++ w)
  | .vslide w d a b => layR 0x2A d a b ((5 : BitVec 4) ++ (0 : BitVec 1) ++ w)
  | .vred op ty rm m d a => layImm 0x2B d a (op.code ++ ty.code ++ rm.code ++ m ++ (0 : BitVec 2))
  | .vscan op ty rm m d a => layImm 0x2B d a (op.code ++ ty.code ++ rm.code ++ m ++ (1 : BitVec 2))
  | .vrng d a b => layR 0x2C d a b 0
  | .vmand d a b => layR 0x2C ((0 : BitVec 3) ++ d) ((0 : BitVec 3) ++ a) ((0 : BitVec 3) ++ b) 8
  | .vmor d a b => layR 0x2C ((0 : BitVec 3) ++ d) ((0 : BitVec 3) ++ a) ((0 : BitVec 3) ++ b) 16
  | .vmnot d a => layR 0x2C ((0 : BitVec 3) ++ d) ((0 : BitVec 3) ++ a) 0 24
  | .vmpopc d a => layR 0x2C d ((0 : BitVec 3) ++ a) 0 32
  | .vscale fmt rm m d a => layVF 0x2D d a fmt rm.code m 1
  | .vw2enc rm m d a b => layVF 0x2D d a b rm.code m 0
  | .rvmul t rm d a b => layR 0x30 d a b (rm.code ++ (0 : BitVec 1) ++ t.code)
  | .urmul t rm d a b => layR 0x30 d a b (rm.code ++ (1 : BitVec 1) ++ t.code)
  | .rvfma t rm d a b => layR 0x31 d a b (rm.code ++ (0 : BitVec 1) ++ t.code)
  | .urfma t rm d a b => layR 0x31 d a b (rm.code ++ (1 : BitVec 1) ++ t.code)
  | .rvadd t rm d a b => layR 0x32 d a b (rm.code ++ (0 : BitVec 1) ++ t.code)
  | .uradd t rm d a b => layR 0x32 d a b (rm.code ++ (1 : BitVec 1) ++ t.code)
  | .rvcvt tf ff rm d a => layImm 0x33 d a (tf ++ ff ++ rm.code ++ (0 : BitVec 1) ++ (0 : BitVec 1))
  | .urcvt tf ff rm d a => layImm 0x33 d a (tf ++ ff ++ rm.code ++ (1 : BitVec 1) ++ (0 : BitVec 1))
  | .rvrelu bf d a => layR 0x34 d a 0 ((0 : BitVec 3) ++ (0 : BitVec 1) ++ (0 : BitVec 2) ++ bit bf)
  | .urrelu bf d a => layR 0x34 d a 0 ((0 : BitVec 3) ++ (1 : BitVec 1) ++ (0 : BitVec 2) ++ bit bf)
  | .rvscale bf rm d a b => layR 0x34 d a b (rm.code ++ (0 : BitVec 1) ++ (1 : BitVec 2) ++ bit bf)
  | .urscale bf rm d a b => layR 0x34 d a b (rm.code ++ (1 : BitVec 1) ++ (1 : BitVec 2) ++ bit bf)
  | .rvdrop bf d a m => layR 0x34 d a ((0 : BitVec 3) ++ m) ((0 : BitVec 3) ++ (0 : BitVec 1) ++ (2 : BitVec 2) ++ bit bf)
  | .urdrop bf d a m => layR 0x34 d a ((0 : BitVec 3) ++ m) ((0 : BitVec 3) ++ (1 : BitVec 1) ++ (2 : BitVec 2) ++ bit bf)
  | .pusht v b => layR 0x35 0 ((0 : BitVec 2) ++ v) b 0
  | .popt v b => layR 0x35 ((0 : BitVec 2) ++ v) 0 b 0b0010000
  | .rsmark d a => layR 0x35 d a 0 0b0100000
  | .rsck a b => layR 0x35 0 a b 0b0110000
  | .mcall ent => layBody 0x38 (ent ++ (0 : BitVec 11))
  | .mparm p a => layR 0x39 ((0 : BitVec 3) ++ p) a 0 0
  | .mfoffSet o a => layR 0x39 ((1 : BitVec 3) ++ o) a 0 1
  | .mfoff o a l => layR 0x39 ((0 : BitVec 3) ++ o) a l 1
  | .mgath n a b => layR 0x39 n a b 2
  | .dqpop d q => layR 0x3A d ((0 : BitVec 4) ++ q) 0 0
  | .dqst q b => layR 0x3A 0 ((0 : BitVec 4) ++ q) b 1
  | .macst v b => layR 0x3B ((0 : BitVec 4) ++ v) 0 b 0
  | .macld v b => layR 0x3B ((0 : BitVec 4) ++ v) 0 b 1
  | .mload d a b => layR 0x3B d a b 2
  | .fwr ntf k a b => layRF 0x3C ((0 : BitVec 2) ++ k) a b ((0 : BitVec 2) ++ bit ntf) 0
  | .fatom op q k a b => layRF 0x3C (q ++ k) a b op 1
  | .freq q k b => layRF 0x3C (q ++ k) 0 b 0 2
  | .fmc ntf k a b => layRF 0x3C ((0 : BitVec 2) ++ k) a b ((0 : BitVec 2) ++ bit ntf) 3
  | .fstatOut d => layR 0x3D d 0 0 0
  | .fstatDone d => layR 0x3D d 0 1 0
  | .fstatErr d => layR 0x3D d 0 2 0
  | .fstatPeer d a => layR 0x3D d a 3 0
  | .fgrp a b => layR 0x3D 0 a b 1
  | .csrr d csr => layBody 0x3E (d ++ csr ++ (0 : BitVec 7))
  | .csrw d csr => layBody 0x3E (d ++ csr ++ (1 : BitVec 7))
  | .csrwFlags d => layBody 0x3E (d ++ (0x001 : BitVec 12) ++ (1 : BitVec 7))
  | .csrwMode d => layBody 0x3E (d ++ (0x070 : BitVec 12) ++ (1 : BitVec 7))
  | .csrwStage d => layBody 0x3E (d ++ (0x060 : BitVec 12) ++ (1 : BitVec 7))
  | .csrwRsSpill limit d => layBody 0x3E (d ++ (if limit then 0x023 else 0x022 : BitVec 12) ++ (1 : BitVec 7))
  | .eret => layR 0x3E 0 0 0 2
  | .tlbinv d a b => layR 0x3E d a b 3
  | .vwset v a b => layR 0x3E v a b 4
  | .tidset a b => layR 0x3E 0 a b 5
  | .halt => layR 0x3E 0 0 0 7
  | .copyx ds ss d a b => layR 0x3E d a b ((1 : BitVec 1) ++ ds.code ++ ss.code)
  | _ => 0

/-- The lent bits that the op's effective immediate needs (R68); 0 for ops that have none. -/
def lentOf : Instr → BitVec 14
  | .pbri _ imm => lentS 23 imm
  | .loop _ imm => lentU 13 imm
  | .loopi cnt _ => lentU 12 cnt
  | .addi _ _ imm => lentS 13 imm
  | .andi _ _ imm => lentU 11 imm
  | .ori _ _ imm => lentU 11 imm
  | .xori _ _ imm => lentU 11 imm
  | .movi _ imm => lentS 17 imm
  | .movhi _ imm => lentU 17 imm
  | .ld _ _ _ _ _ imm => lentU 8 imm
  | .st _ _ _ imm => lentU 8 imm
  | .vld _ _ _ _ imm => lentU 10 imm
  | .vst _ _ imm => lentU 10 imm
  | .tld _ _ _ _ imm => lentU 10 imm
  | .tst _ _ imm => lentU 10 imm
  | _ => 0

/-- The word of a micro-op (19 R325); 0 for other instructions. -/
def encodeMicro : Instr → BitVec 32
  | .unop => 0
  | .uend => (1 : BitVec 5) ++ (0 : BitVec 27)
  | .uxset x imm => (2 : BitVec 5) ++ x ++ (0 : BitVec 9) ++ imm
  | .uxadd x imm => (3 : BitVec 5) ++ x ++ (0 : BitVec 9) ++ imm
  | .uxldp x p h => (4 : BitVec 5) ++ x ++ p ++ h ++ (0 : BitVec 20)
  | .ukadd src x imm => (5 : BitVec 5) ++ bit src ++ x ++ (0 : BitVec 8) ++ imm
  | .uloop last src count => (6 : BitVec 5) ++ last ++ bit src ++ count
  | .ubnz x target => (7 : BitVec 5) ++ x ++ (0 : BitVec 11) ++ target
  | .uwait n => (8 : BitVec 5) ++ (0 : BitVec 15) ++ n
  | .uwld xb kn => (9 : BitVec 5) ++ xb ++ kn ++ (0 : BitVec 17)
  | .umac xa xk xc n kn adv => (10 : BitVec 5) ++ xa ++ xk ++ xc ++ n ++ kn ++ bit adv ++ (0 : BitVec 6)
  | .uzero xc n => (11 : BitVec 5) ++ xc ++ (0 : BitVec 4) ++ n ++ (0 : BitVec 15)
  | .uxmov xd xs => (12 : BitVec 5) ++ xd ++ xs ++ (0 : BitVec 23)
  | _ => 0

/-- The low and high words of a quad. -/
def loWord (q : Word) : BitVec 32 := q.truncate 32
def hiWord (q : Word) : BitVec 32 := (q >>> 32).truncate 32

/-- A packet header (21 R346). -/
def packetHeader (ty : BitVec 5) (count : Nat) (fields : BitVec 16) : BitVec 32 := ty ++ BitVec.ofNat 11 count ++ fields

/-- Header and payload of a command packet (21 R347); the empty list for other instructions. -/
def encodePacket : Instr → List (BitVec 32)
  | .nopPacket => [packetHeader 0 0 0]
  | .launchTask pre addr => [packetHeader 1 2 (bit pre ++ (0 : BitVec 15)), loWord addr, hiWord addr]
  | .launchGraph pre addr => [packetHeader 1 2 (bit pre ++ (0b10 : BitVec 2) ++ (0 : BitVec 13)), loWord addr, hiWord addr]
  | .launchGraphResident pre cl g =>
    [packetHeader 1 2 (bit pre ++ (0b11 : BitVec 2) ++ (0 : BitVec 13)), (0 : BitVec 13) ++ g ++ cl, 0]
  | .timed pre kind t addr gang =>
    [packetHeader 2 6 (bit pre ++ bit kind ++ (0 : BitVec 14)), loWord t, hiWord t, loWord addr, hiWord addr, loWord gang, hiWord gang]
  | .indirect addr len => [packetHeader 3 3 0, loWord addr, hiWord addr, len]
  | .pred sense span addr mask value =>
    [packetHeader 4 6 (bit sense ++ (0 : BitVec 3) ++ span), loWord addr, hiWord addr, loWord mask, hiWord mask, loWord value, hiWord value]
  | .loopPacket span rep => [packetHeader 5 1 ((0 : BitVec 4) ++ span), rep]
  | .writeMemory addr data => packetHeader 6 (2 + data.length) 0 :: loWord addr :: hiWord addr :: data
  | .writeCondWord cl g value =>
    [packetHeader 6 4 ((1 : BitVec 2) ++ (0 : BitVec 14)), (0 : BitVec 13) ++ g ++ cl, 0, loWord value, hiWord value]
  | .waitPacket cond addr mask value =>
    [packetHeader 7 6 (cond ++ (0 : BitVec 14)), loWord addr, hiWord addr, loWord mask, hiWord mask, loWord value, hiWord value]
  | .waitIdle => [packetHeader 7 0 ((0b001 : BitVec 3) ++ (0 : BitVec 13))]
  | .ffence => [packetHeader 8 0 0]
  | .sched load look step saddr scount eaddr ecount =>
    [packetHeader 9 8 ((0 : BitVec 3) ++ bit load ++ look ++ (0 : BitVec 8)), loWord step, hiWord step, loWord saddr, hiWord saddr,
     scount, loWord eaddr, hiWord eaddr, ecount]
  | .event pre after vector addr value ctx =>
    [packetHeader 10 5 (bit pre ++ bit after ++ (0 : BitVec 3) ++ vector), loWord addr, hiWord addr, loWord value, hiWord value,
     (0 : BitVec 20) ++ ctx]
  | .budget cls value => [packetHeader 11 1 ((0 : BitVec 13) ++ cls), (0 : BitVec 8) ++ value]
  | _ => []

end Sys2Proof
end

