-- ==== Sys2Proof/Machine/State.lean ====
section
/-! DEFINITION. The state of one Imley X6 package as plain data: every register, memory, table, queue and engine the manual names, the acts that say who moves next, and the state after reset. INVENTORY.md lists each field with its rule and its reset value. -/

namespace Sys2Proof.Machine

open Sys2Proof

/-! ## Registers and records of one core -/

/-- A capability: 128 bits and its tag (23 R373). -/
structure Cap where
  bits : BitVec 128 := 0
  tag : Bool := false
  deriving DecidableEq, Repr

/-- A view register (21 R358, 27 R441): base, rows, cols, pitch in 64-byte units, tensor identifier. -/
structure View where
  base : BitVec 18 := 0
  rows : BitVec 16 := 0
  cols : BitVec 16 := 0
  pitch : BitVec 16 := 0
  tid : BitVec 8 := 0
  deriving DecidableEq, Repr

/-- A 32-byte table entry as its four quads: tensor identifiers (07 R106), handles (13 R224), publications (13 R254), exports (25 R403), graph nodes (21 R361), copy-schedule entries (13 R228). -/
structure Quads where
  q0 : Word := 0
  q1 : Word := 0
  q2 : Word := 0
  q3 : Word := 0
  deriving DecidableEq, Repr

/-- An entry of a loop stack (03 R45). -/
structure LoopEntry where
  first : BitVec 52
  last : BitVec 52
  count : BitVec 32
  index : BitVec 32
  deriving DecidableEq, Repr

/-- A checkpoint (03 R50; RS.TOP and mark word 17 R285; CN 19 R322; o0 to o7 19 R330). order is the count of ops the core had issued. -/
structure Ckpt where
  pc : BitVec 52 := 0
  loops : List LoopEntry := []
  rsTop : Nat := 0
  mark : BitVec 32 := 0
  cn : BitVec 32 := 0
  o : Tbl (BitVec 32) := []
  order : Nat := 0
  deriving DecidableEq, Repr

/-- One slot of a return stream (13 R242): its identity, its value once landed, the sequencer and order of the op that reserved it, and of the read that consumed it. -/
structure QSlot where
  id : Nat
  val : Option Word
  bySec : Bool
  byOrder : Nat
  usedBy : Option (Bool × Nat)
  deriving DecidableEq, Repr

/-- An entry of a drain queue (19 R333): pushed in cycle at_ when desc is there, otherwise reserved by call number cn of sequencer sec. -/
structure DqEntry where
  desc : Option Word
  sec : Bool
  cn : BitVec 32
  at_ : Nat
  deriving DecidableEq, Repr

/-- A register or arena write of a fixed-latency op (03 R48). -/
inductive PWrite
  | g (n : Nat) (v : Word)
  | m (n : Nat) (v : Word)
  | b (n : Nat) (v : BitVec 52)
  | o (n : Nat) (v : BitVec 32)
  | p (n : Nat) (v : Word)
  | k (n : Nat) (c : Cap)
  | arena (bytes : List (Nat × Byte)) (clear : List Nat)
  | side (words : List (Nat × BitVec 4))
  | latch (row : Nat) (bytes : List Byte)
  | store (a : Nat) (ws : List (BitVec 32))
  | hot (off : Nat) (bytes : List Byte)
  | csr (n : Nat) (v : Word)
  | mark (v : BitVec 32)
  | view (n : Nat) (v : View)
  | pool (object : BitVec 40) (addr : Nat) (bytes : List Byte) (fence : Word)
  | stage (e : Nat) (n : Nat)
  | tid (n : Nat) (q : Quads)
  deriving DecidableEq, Repr

/-- Bytes of scratch that a result takes, in ascending offset: n bytes into the arena, or nibbles of side storage (19 R337), or words of the microprogram store. -/
inductive Src
  | arena (off addr n : Nat)
  | nibs (off : Nat) (words : List Nat)
  | words (off at_ n : Nat)
  deriving DecidableEq, Repr

/-- A fixed-latency result in flight (03 R48): it lands at the start of cycle land. flags are ORed into FLAGS in that cycle (07 R118); when one of them is enabled the writes are dropped and an arithmetic trap is raised (07 R119). srcs says which scratch bytes the writes hold, for the lines of later beats are read in their own cycles (13 R213); late marks one whose write waits for room or for a fence, as no fixed-latency result does (03 R49). -/
structure Pend where
  id : Nat
  land : Nat
  issued : Nat
  sec : Bool
  slot : Nat
  pc : BitVec 52
  writes : List PWrite
  flags : BitVec 6
  srcs : List Src := []
  late : Bool := false
  deriving DecidableEq, Repr

/-- An atomic performed at a scratch bank (13 R241): address, size in bytes, operation, operands, and the stream slot of q that takes the old value. -/
structure BankAtomic where
  a : Nat
  n : Nat
  op : BitVec 4
  b : Word
  c : Word
  core : Nat
  q : Nat
  slot : Option Nat
  deriving DecidableEq, Repr

/-- A scratch landing of a core op (11 R195, 13 R257): issued in cycle issued, performed at the end of cycle land. after is the number in flight before which the sequencer's gets must have landed, for a feset (11 R196). -/
structure Landing where
  id : Nat
  land : Nat
  issued : Nat
  core : Nat
  sec : Bool
  slot : Nat
  pc : BitVec 52
  bytes : List (Nat × Byte)
  tagSet : Option Nat
  setFull : List Nat
  setEmpty : List Nat
  atomic : Option BankAtomic
  after : Nat
  deriving DecidableEq, Repr

/-- A fixed-latency line read of a core, to be arbitrated in its cycle (13 R211, R213); refill lists the granules that its op's .clear empties, clear those of this line, which a later beat empties in its own cycle; gather marks a row of an mgath (19 R331). -/
structure BankRead where
  cycle : Nat
  line : Nat
  core : Nat
  sec : Bool
  pend : Nat
  refill : List Nat
  clear : List Nat := []
  gather : Bool := false
  deriving DecidableEq, Repr

/-- A trap to be taken: code of 27 R433, TRAP.INFO, TRAP.ADDR, whether it arose in an engine, response or notice, and whether a pool request raised it (23 R378). -/
structure TrapRec where
  code : BitVec 8
  info : Word
  addr : Word
  async : Bool
  ofPool : Bool := false
  deriving DecidableEq, Repr

/-- The bytes that firmware computes an emulated call's effects from, as they stood at its trap (07 R110, 19 R314): arena, side storage, operand latch and scratch. -/
structure Snap where
  arena : Tbl Byte
  side : Tbl (BitVec 4)
  latch : Tbl Byte
  scratch : Tbl Byte
  deriving DecidableEq, Repr

/-- A call of a matrix routine as mcall left it (19 R318): p0 to p7, the views and tensor identifier entries of A, B, C and the drain target, and the address of its bundle. aLatch says that A is the operand latch. snap holds what an emulated call computes from (R314). -/
structure Call where
  sec : Bool
  cn : BitVec 32
  pc : BitVec 52
  ent : BitVec 14
  issued : Nat
  p : Tbl Word
  aLatch : Bool
  aView : View
  aTid : Quads
  bView : View
  bTid : Quads
  cView : View
  cTid : Quads
  tView : View
  tTid : Quads
  snap : Option Snap := none
  deriving DecidableEq, Repr

/-- The recorded effects of an emulated bundle (07 R110): the bundle's address, for each op by slot its writes and flags, and for an mcall the call as it stood at the trap. -/
structure EmuRec where
  pc : BitVec 52
  effects : List (Nat × List PWrite × BitVec 6)
  call : Option Call := none
  deriving DecidableEq, Repr

/-- Things that the group check compares (05 R72): named registers of the files g, m, b, o, p and k, and arena byte ranges. -/
inductive Res
  | g (n : Nat)
  | m (n : Nat)
  | b (n : Nat)
  | o (n : Nat)
  | p (n : Nat)
  | k (n : Nat)
  | arena (lo len : Nat)
  deriving DecidableEq, Repr

/-- The current group of a sequencer (05 R71, R72). -/
structure Group where
  counted : Nat := 0
  reads : List Res := []
  writes : List Res := []
  deriving DecidableEq, Repr

/-- What a read of a location that had a choice returned: the number of the write, the phase of the read, and the number of writes made until then (11 R187, R190). -/
structure Seen where
  loc : Nat
  w : Nat
  phase : Nat
  at_ : Nat
  deriving DecidableEq, Repr

/-- A boundary whose release is not complete (11 R188): its number in flight and scope, the range that it probes, and, once the members of the gang have been asked to promote (R203), those that have not acknowledged. -/
structure Bound where
  n : Nat
  sc : Scope
  base : Nat
  len : Nat
  asked : Option (List Nat) := none
  deriving DecidableEq, Repr

/-- One sequencer (03 R40). taken: the bundle being issued redirects fetch (05 R66). preempted: stopped by pre-emption (03 R56, R57). resumed: at the bundle of a checkpoint after a trap, which it does not take anew (03 R55). wasRunning: it ran when its core halted, so that management may start it (27 R443). savedPaused: it stood stopped by pre-emption when a trap was taken, and does so again after the return. fences and bounds: the number in flight and scope of fences that still order its operations (09 R152) and the boundaries whose release is not complete; passed is the number in flight and the instant of the last boundary at cluster scope or wider that is. -/
structure Seq where
  running : Bool := false
  preempted : Bool := false
  pc : BitVec 52 := 0
  loops : List LoopEntry := []
  ckpt : Ckpt := {}
  saved : Ckpt := {}
  savedRunning : Bool := false
  savedPaused : Bool := false
  emu : Option EmuRec := none
  group : Group := {}
  restartNext : Bool := true
  newGroup : Bool := true
  nextIssue : Nat := 0
  bWritten : Tbl Nat := []
  timingRow : Nat := 0
  priority : Bool := false
  cntIssued : Word := 0
  cntStalled : Word := 0
  cntLost : Word := 0
  puts : Word := 0
  cn : BitVec 32 := 0
  started : BitVec 32 := 0
  phase : Nat := 0
  seen : List Seen := []
  fabDone : Word := 0
  fabErr : Word := 0
  popped : Bool := false
  pushed : Nat := 0
  taken : Bool := false
  resumed : Bool := false
  wasRunning : Bool := false
  fences : List (Nat × Scope) := []
  bounds : List Bound := []
  passed : Option (Nat × Nat) := none
  pend : List TrapRec := []
  deriving DecidableEq, Repr

/-- One element of the working accumulator (07 R121, R120): encoding, guard bits, sticky bit, and for FP64 the products of the open block, as pairs of encodings, and the block's number. -/
structure AccElem where
  enc : Word := 0
  guard : BitVec 3 := 0
  sticky : Bool := false
  open_ : List (Word × Word) := []
  blk : Nat := 0
  deriving DecidableEq, Repr

/-- An entry of the micro loop stack (19 R326). -/
structure MicroLoop where
  first : Nat
  last : Nat
  count : Nat
  deriving DecidableEq, Repr

/-- A running routine (19 R320, R325): micro PC, index registers, K, loop stack, weights and their scale bytes by 64 j + c, k-rows loaded, working accumulator by 65,536 × row + column, flags, cycles run, and the cycle and row of the micro-op in progress. -/
structure Routine where
  call : Call
  upc : Nat
  x : Tbl (BitVec 16)
  kctr : BitVec 32
  loops : List MicroLoop
  w : Tbl Word
  wScale : Tbl Byte
  loaded : Nat
  acc : Tbl AccElem
  flags : BitVec 6
  cycles : Nat
  sub : Nat
  deriving DecidableEq, Repr

/-- A drain after its routine's end (19 R323): it lands in cycle land. -/
structure Drain where
  land : Nat
  queue : Nat
  sec : Bool
  cn : BitVec 32
  bytes : List (Nat × Byte)
  clear : List Nat
  desc : Word
  flags : BitVec 6
  deriving DecidableEq, Repr

/-- An mgath in progress (19 R331): the latch rows still to be read, each with its cycle, row and scratch offset. -/
structure Gather where
  id : Nat
  issued : Nat
  sec : Bool
  slot : Nat
  pc : BitVec 52
  rows : List (Nat × Nat × Nat)
  deriving DecidableEq, Repr

/-- The eager registers of a core (03 R59), copied to and from the shadow area as one. raised holds the flags set in this cycle, which FLAGS shows from the next on (07 R118). -/
structure CoreE where
  g : Tbl Word := []
  m : Tbl Word := []
  b : Tbl (BitVec 52) := []
  o : Tbl (BitVec 32) := []
  p : Tbl Word := []
  k : Tbl Cap := []
  q : Tbl (List QSlot) := []
  qBound : List Nat := []
  dq : Tbl (List DqEntry) := []
  vBase : BitVec 18 := 0
  svBase : BitVec 18 := 0
  tv : Tbl View := []
  av : Tbl View := []
  flags : Word := 0
  raised : BitVec 6 := 0
  fpen : Word := 0
  trapCause : Word := 0
  trapPc : Word := 0
  trapInfo : Word := 0
  trapAddr : Word := 0
  mode : Bool := false
  rsTop : Nat := 0
  rsBase : Nat := 0
  rsSpill : Nat := 0
  rsLimit : Nat := 0
  mark : BitVec 32 := 0
  cntRun : Word := 0
  cntTiming : Word := 0
  cntYield : Word := 0
  trapSec : Bool := false
  prim : Seq := {}
  second : Seq := {}
  deriving DecidableEq, Repr

/-- A mark that a 64-byte line carries in place of a valid seal (01 R26 to R28, 13 R215): kind 0 seal mismatch, 1 uncorrectable ECC error, 2 poisoned; and the last hop it left to come where it lies. -/
structure LineMark where
  kind : BitVec 2
  hop : BitVec 4
  deriving DecidableEq, Repr

/-- One core (01 R11). Owner tags are the context id plus one, 0 for none (03 R60). withheld is 1 in a cycle whose issue is withheld (27 R456); trapAt is one more than the cycle of the last trap taken (27 R435). -/
structure Core where
  e : CoreE := {}
  arena : Tbl Byte := []
  side : Tbl (BitVec 4) := []
  arenaBad : Tbl Bool := []
  hot : Tbl Byte := []
  hotMarks : Tbl (Option LineMark) := []
  bankTag : Tbl Nat := []
  hotTag : Tbl Nat := []
  portBusy : List Nat := []
  recBusy : List (Nat × Nat) := []
  latch : Tbl Byte := []
  store : Tbl (BitVec 32) := []
  mloadUntil : Nat := 0
  run : Option Routine := none
  call : Option Call := none
  wait : Option Call := none
  drains : List Drain := []
  pending : List Pend := []
  gathers : List Gather := []
  secWait : Nat := 0
  yieldNow : Bool := false
  usedSlots : List Nat := []
  usedBanks : List Nat := []
  order : Nat := 0
  halted : Bool := true
  task : Option Nat := none
  withheld : Nat := 0
  trapAt : Nat := 0
  deriving DecidableEq, Repr

/-! ## Engines and records of one cluster -/

/-- A byte written by a sequencer that is held in the cluster cache (11 R189 to R192): location, value, writer, the number of the write, the instant of its release at cluster scope, op the number in flight of the first put whose write stands there (R199), key the key index of the page that it was written through (27 R448), ctx the writer's context, and mark that of the line that a put brought whole (01 R25, R28). -/
structure Held where
  pa : Nat
  byte : Byte
  core : Nat
  sec : Bool
  id : Nat
  released : Option Nat
  op : Nat := 0
  key : Nat := 0
  ctx : Nat := 0
  mark : Option LineMark := none
  deriving DecidableEq, Repr

/-- An entry of the pool write buffer (23 R371): object, line address, the writes that it merges, and its writers, by core, sequencer and the numbers in flight of the first and last pst; req is the request once the entry has left. -/
structure PoolWb where
  object : BitVec 40
  line : Nat
  held : List Held
  writers : List (Nat × Bool × Nat × Nat)
  fence : Word
  req : Option Nat
  deriving DecidableEq, Repr

/-- A copy engine (13 R227, R231, R232, R244). entry is the index in progress; xfer its transfer while one runs; stopped after a fault until eret. -/
structure CopyEng where
  sched : BitVec 52 := 0
  count : Nat := 0
  task : Option Nat := none
  entry : BitVec 16 := 0
  xfer : Option Nat := none
  progress : Word := 0
  done : BitVec 16 := 0
  bytes : BitVec 32 := 0
  faultKind : BitVec 4 := 0
  faultReason : BitVec 8 := 0
  faultAddr : BitVec 52 := 0
  stopped : Bool := false
  deriving DecidableEq, Repr

/-- States of a graph node (03 R38). -/
inductive NState | notStarted | running | completed | skipped
  deriving DecidableEq, Repr

/-- Who launched a task (03 R35): a stream's packet at an address, a node of a graph slot, or a timed packet at an address that has been counted as completed (25 R427). -/
inductive Origin
  | stream (part stream packet : Nat)
  | node (cl slot node : Nat)
  | counted (part stream packet : Nat)
  deriving DecidableEq, Repr

/-- A launch waiting under R33 (21 R359): the record, its items, the cluster and mask in force (with a node's override), and the number in flight at which it was asked for. -/
structure LaunchWait where
  asked : Nat
  ctx : Nat
  record : Nat
  header : List Word
  items : List Quads
  cluster : Nat
  mask : BitVec 8
  pre : Bool
  origin : Origin
  deriving DecidableEq, Repr

/-- A slot of a graph walker (03 R36 to R38, 21 R360 to R362). origin is the partition and stream whose launch started it, pre says that the launch named pre-emption (21 R348), counted says that its packet counts as completed already (25 R427); truth holds the side taken by a conditional node; iter the iterations of a while node; waits the launches of nodes that wait, as they were first tried (21 R357, R359), doneAt one more than the last cycle in which a node completed (11 R193), and statusNo that at which the write of its status first waited (11 R199). -/
structure GraphSlot where
  loaded : Bool := false
  running : Bool := false
  ctx : Nat := 0
  nodes : List Quads := []
  cond0 : Word := 0
  status : BitVec 52 := 0
  cond : Word := 0
  st : Tbl NState := []
  truth : Tbl Bool := []
  iter : Tbl Nat := []
  statusBits : BitVec 2 := 0
  faulted : Bool := false
  origin : Nat × Nat := (0, 0)
  pre : Bool := false
  counted : Bool := false
  waits : List (Nat × LaunchWait) := []
  doneAt : Nat := 0
  statusNo : Option Nat := none
  deriving DecidableEq, Repr

/-- A running task (03 R32, R35). -/
structure Task where
  id : Nat
  ctx : Nat
  mask : BitVec 8
  origin : Origin
  record : Nat
  deriving DecidableEq, Repr

/-- The eager state of a cluster (03 R59). spillFault is the fault that the spill engine's status records (01 R26, 17 R293). -/
structure ClusterE where
  ce0 : CopyEng := {}
  ce1 : CopyEng := {}
  stage0 : BitVec 32 := 0
  stage1 : BitVec 32 := 0
  tid : Tbl Quads := []
  spillNext : Nat := 0
  spilling : Tbl Nat := []
  spillFault : Option TrapRec := none
  deriving DecidableEq, Repr

/-- One cluster (01 R11), by logical number (01 R19). fe and capTag are indexed by granule, marks by line. touched lists the lazy units waited for, by core, kind and index, with the time of the first touch (03 R60). spillAt is one more than the last cycle in which the spill engine moved a line (17 R291). -/
structure Cluster where
  e : ClusterE := {}
  cores : Tbl Core := []
  scratch : Tbl Byte := []
  fe : Tbl Bool := []
  capTag : Tbl Bool := []
  marks : Tbl (Option LineMark) := []
  groupTag : Tbl Nat := []
  buf : Tbl (List Nat) := []
  reads : List BankRead := []
  portUsed : List (Nat × Bool) := []
  landings : List Landing := []
  spillAt : Nat := 0
  touched : List (Nat × UnitKind × Nat × Nat) := []
  held : List Held := []
  pwb : List PoolWb := []
  ctx : Option Nat := none
  tasks : List Task := []
  graphs : Tbl GraphSlot := []
  deriving DecidableEq, Repr

/-! ## Transfers, requests and packets -/

/-- One end of a line transfer: scratch of a logical cluster, a virtual address of a context, a pool object, host memory, or the arena of a core. -/
inductive End
  | scratch (cl off : Nat)
  | glob (va : Nat)
  | pool (k : Cap) (off : Nat)
  | host (addr : Nat)
  | arena (cl core off : Nat)
  | side (cl core off : Nat)
  deriving DecidableEq, Repr

/-- Bytes that a line transfer assembles: len bytes from an end, given bytes (fill), or one byte of an end whose high nibble is replaced (13 R230, E2M1). -/
inductive Seg
  | src (e : End) (len : Nat)
  | half (e : End) (hi : BitVec 4)
  | fill (bytes : List Byte)
  deriving DecidableEq, Repr

/-- A line of a transfer: its destination and the segments that make its bytes. -/
structure Line where
  idx : Nat
  dst : End
  segs : List Seg
  sent : Bool
  deriving DecidableEq, Repr

/-- What a transfer is (13 R227, R245, R249, 27 R444). -/
inductive XKind | gget | gput | pget | copy | copyx
  deriving DecidableEq, Repr

/-- A transfer in progress: its lines not yet landed, the issuing site, the start of the phase in which it reads (11 R190), the instant at which the operation started (11 R202), for copyx the stream slot that takes the length, pooled for a copy of space 2, whose lines are charged with their pool requests, capReg its capability register, pieces the first byte and length of each piece by page of the side that is not scratch (13 R231), by the key of each line, and fences FENCE.NUM as it stood at the start of each piece (23 R368). -/
structure Xfer where
  id : Nat
  kind : XKind
  ctx : Nat
  part : Nat
  cl : Nat
  core : Nat
  sec : Bool
  engine : Nat
  phase : Nat
  born : Nat
  lines : List Line
  total : Nat
  notify : Option (Nat × Nat × Word)
  stopped : Bool
  pooled : Bool
  capReg : Nat
  pieces : Tbl (Nat × Nat)
  fences : Tbl Word
  waitCore : Option (Nat × Nat)
  deriving DecidableEq, Repr

/-- A value on its way to a reserved slot of a return stream (13 R242). -/
structure Arrival where
  id : Nat
  due : Nat
  cl : Nat
  core : Nat
  q : Nat
  slot : Nat
  value : Word
  deriving DecidableEq, Repr

/-- Where the response of a pool request goes (23 R369): a slot of a return stream for a scalar, or for an atomic's old value; the lines of a pget; the write buffer; a line of a copy; a context's lease; a range that is promoted. -/
inductive PoolDest
  | slot (q slot : Nat) (off : Nat) (ty : BitVec 3)
  | atomSlot (q : Nat) (slot : Option Nat)
  | scratch (xfer : Nat)
  | wb (line : Nat)
  | copyOut (xfer line : Nat)
  | lease (ctx : Nat)
  | promote (range : Nat)
  | none
  deriving DecidableEq, Repr

/-- A pool request (23 R368), with its sends (R370) and the site that made it. For a read or get, need is the first pool address and the count of bytes wanted of its line, enables and data hold those found in the package, and phase is that in which the sequencer reads; arg1 of a lease request holds the offset of element 0, and arg0 of a promotion's get marks the lines to be asked for again. -/
structure PoolReq where
  id : Nat
  need : Nat × Nat
  phase : Nat
  kind : BitVec 4
  right : BitVec 4
  pkg : BitVec 16
  object : BitVec 40
  fence : Word
  seq : BitVec 32
  len : Nat
  op : BitVec 4
  addr : Nat
  enables : Word
  data : List Byte
  arg0 : Word
  arg1 : Word
  ctx : Nat
  part : Nat
  cl : Nat
  core : Nat
  sec : Bool
  ofSeq : Bool
  dest : PoolDest
  port : Nat
  sends : Nat
  lastSend : Nat
  held : Bool
  deriving DecidableEq, Repr

/-- A lease that a context has requested or holds (23 R379, R380): object, offset and pool address of element 0, operand quad, expiry in ns, grant instant; asked counts its requests not yet answered. -/
structure Lease where
  cap : Cap
  off : Nat
  object : BitVec 40
  addr : Nat
  opnd : Word
  granted : Option Nat
  expiry : Nat
  asked : Nat
  deriving DecidableEq, Repr

/-- A residency range of the HBM cache of pool pages of a partition (13 R222 to R225, 23 R388). -/
structure RangeRec where
  part : Nat
  object : BitVec 40
  base : Nat
  length : Nat
  resident : Bool
  demoted : Bool
  promoting : Bool
  pendingEvict : Option Bool
  pins : List Nat
  promotedAt : Nat
  left : Nat
  waiting : Bool
  deriving DecidableEq, Repr

/-- A line of a partition's HBM cache of pool pages: filled or updated at instant at_, last updated by a write of this package at wrote (23 R383, R388), with its mark (01 R28). -/
structure CachedLine where
  part : Nat
  object : BitVec 40
  line : Nat
  bytes : List Byte
  at_ : Nat
  wrote : Nat := 0
  mark : Option LineMark := none
  deriving DecidableEq, Repr

/-- A fabric op in progress (25 R405 to R412): kind 0 fwr, 1 fatom, 2 freq, 3 fmc; left counts packets without a final status; off is the offset that a fault reports; slot the return register and slot; members and answers serve fmc (R414, R415), statusAt is where its record lands; waves holds, by 16 × peer + wavelength, the last number sent (R420), until the notice has gone. -/
structure FabOp where
  id : Nat
  kind : Nat
  ctx : Nat
  cl : Nat
  core : Nat
  sec : Bool
  off : Nat
  left : Nat
  slot : Option (Nat × Nat)
  statusAt : Nat
  ntf : Bool
  group : Nat
  members : List Nat
  answers : List (Nat × Nat)
  waves : Tbl (BitVec 32)
  exportIdx : BitVec 16
  deriving DecidableEq, Repr

/-- What a source finds for a destination (25 R397): itself, a lit port, a dark minimal port whose traffic takes the electrical path, a pending destination without a route, or nothing. -/
inductive Route
  | itself
  | lit (port : Nat)
  | dark (port : Nat)
  | pending
  | none
  deriving DecidableEq, Repr

/-- A packet not yet acknowledged: sends is 0 while it waits in egress (25 R399, R400, R426); route is the one chosen at injection, which it keeps (R395); lines counts those charged so far (01 R24); firstRefusal and refused serve status 5 (R405); waiting marks the virtual egress queue of its destination (R417). -/
structure OutPkt where
  id : Nat
  op : Nat
  part : Nat
  pkt : Packet
  sends : Nat
  lastSend : Nat
  lines : Nat
  firstRefusal : Option Nat
  refused : Bool
  waiting : Bool
  route : Route
  deriving DecidableEq, Repr

/-- A reorder window of an owner context for one source package and context (25 R399): the next expected number, the packets held or parked (R426), and the acknowledgements given, which a repeated packet gets again (R400). waits is the number in flight at which the write of the next packet first waited, with its address and bytes (11 R199). -/
structure Window where
  owner : Nat
  src : Nat
  ctx : Nat
  next : BitVec 32
  heldPkts : List Packet
  acks : List (BitVec 32 × Nat × List Byte)
  waits : Option (Nat × Nat × Nat) := none
  deriving DecidableEq, Repr

/-- A multicast copy that this package replicates as a router (25 R414): its source, the members it serves with their numbers, and the answers gathered. -/
structure Agg where
  id : Nat
  origin : Nat
  ctx : Nat
  members : List (Nat × BitVec 32)
  got : List (Nat × Nat)
  deriving DecidableEq, Repr

/-- The last number of a stream that left by the electrical path while a port was dark (25 R418): the stream's source, context and destination. -/
structure Divert where
  port : Nat
  src : Nat
  ctx : Nat
  dst : Nat
  seq : BitVec 32
  deriving DecidableEq, Repr

/-- A stream towards a target package (25 R399, R400). -/
structure FabStream where
  peer : Nat
  next : BitVec 32
  unreachable : Bool
  deriving DecidableEq, Repr

/-- A publication in progress (11 R199, R200): its entry, scope, publishing cluster, the number in flight before which it was asked for, the instant Tp of a gang publication once chosen, and in clock-lost state whether its barrier token has been sent; at gang scope waits lists the members whose own writes are still to be performed, once they have been asked. A gang exchange that has taken place stays as done, with the Tp before it, so that a straggler can undo it (R201). -/
structure PubReq where
  ctx : Nat
  idx : Nat
  scope : Scope
  cl : Nat
  asked : Nat
  tp : Option Nat
  token : Bool
  waits : Option (List Nat) := none
  done : Bool := false
  before : Word := 0
  deriving DecidableEq, Repr

/-- A member's question whether the writes to a buffer's shadow issued here until now are performed, to be answered when they are (11 R199). -/
structure PubAsk where
  peer : Nat
  ctx : Nat
  idx : Nat
  asked : Nat
  deriving DecidableEq, Repr

/-- A shootdown to be made at Ti (27 R451). -/
structure Shootdown where
  part : Nat
  ti : Nat
  ctx : Nat
  all : Bool
  whole : Bool
  va : Nat
  n : Nat
  deriving DecidableEq, Repr

/-- A translation held in a TLB (27 R451, 03 R59): cluster (or none for the other walkers of a partition), context, page and size, and the leaf's two quads. -/
structure TlbEntry where
  part : Nat
  cl : Option Nat
  ctx : Nat
  page : Nat
  size : Nat
  q0 : Word
  q1 : Word
  deriving DecidableEq, Repr

/-! ## Command processor, contexts, partitions -/

/-- An active loop span of a level (21 R345). -/
structure SpanLoop where
  first : Nat
  last : Nat
  left : Nat
  deriving DecidableEq, Repr

/-- A level of a stream (21 R345): the ring or an indirect buffer, the offset of the next packet, and its active loop. -/
structure Level where
  base : Nat
  len : Nat
  pos : Nat
  loop : Option SpanLoop
  deriving DecidableEq, Repr

/-- A timed launch (21 R349, 25 R424 to R429): what it launches, a task or a graph with its walker, slot, nodes and header; halted lists the contexts whose injection it stopped; task is the number of the task that it started; ended says that R427 has been acted on. Times are in ns. -/
structure TimedRec where
  t : Nat
  pre : Bool
  gang : BitVec 32
  members : List Nat
  tol : Nat
  rank : Nat
  halted : Option (List Nat)
  ready : Option Nat
  tokenAt : Option Nat
  checked : Bool
  launched : Bool
  ended : Bool
  task : Option Nat
  launch : Option LaunchWait
  graph : Option (Nat × Nat × List Quads × List Word)
  deriving DecidableEq, Repr

/-- What a stream waits for (21 R343, R348, R349, R353, R355). -/
inductive CpWait
  | none
  | launch (l : LaunchWait)
  | graph (cl slot : Nat) (load : Option (List Quads × List Word)) (pre : Bool)
  | timed (t : TimedRec)
  | poll (cond : BitVec 2) (addr mask value : Word)
  | idle (target : Word)
  | eventIdle (target : Word) (pre : Bool) (vector : Nat) (addr value : Word) (ctx : Nat)
  | eventHalt (vector : Nat) (addr value : Word) (ctx : Nat)
  | eventSend (vector : Nat) (addr value : Word)
  deriving DecidableEq, Repr

/-- A deadline that the prefetcher watches (21 R365): the entry, the number of its range, and its instant in ns, none until the entry's step starts. -/
structure Watch where
  entry : Quads
  range : Nat
  due : Option Nat
  deriving DecidableEq, Repr

/-- A schedule prefetcher (21 R363 to R365). stepAt is the instant at which the current step started; held is the entry that it has read and not yet issued, evicts the eviction schedule as it was read, none for an entry that could not be. -/
structure Prefetcher where
  step : Word := 0
  look : Nat := 4
  saddr : Nat := 0
  scount : Nat := 0
  eaddr : Nat := 0
  ecount : Nat := 0
  next : Nat := 0
  stepAt : Nat := 0
  held : Option Quads := none
  evicts : List (Option (Word × Word)) := []
  watches : List Watch := []
  status : Word := 0
  deriving DecidableEq, Repr

/-- A command stream (21 R342 to R345). size is the log2 of the ring's bytes; levels has the innermost first; plen is the bytes of the packet in execution; window holds the bytes of the current buffer already read; toWrite the address and bytes that a packet which a publication keeps back is to write (11 R199); gangs holds the timed launches made (25 R427); began is the number in flight and the instant of the packet in execution, which is one phase (11 R202). -/
structure Stream where
  ctx : Nat
  base : BitVec 52
  size : Nat
  head : BitVec 32 := 0
  tail : BitVec 32 := 0
  launched : Word := 0
  completed : Word := 0
  error : Word := 0
  levels : List Level := []
  plen : Nat := 0
  window : Tbl (Option Byte) := []
  wait : CpWait := .none
  began : Option (Nat × Nat) := none
  toWrite : Option (Nat × Nat) := none
  gangs : List TimedRec := []
  pf : Prefetcher := {}
  deriving DecidableEq, Repr

/-- A group entry (25 R413): its first quad and the member peers. -/
structure GroupEntry where
  q0 : Word
  members : List Nat
  deriving DecidableEq, Repr

/-- A partition (27 R452). overflow, egress and parked are the HBM areas reserved at its set-up for pre-emption overflow, virtual egress queues and parked traffic, by base and bytes; vf its PCI Express virtual function; bar2 and bar2Size the window of BAR2 (R453). budgets and charged are indexed by class (21 R355); newBudgets take effect at the next window. -/
structure Partition where
  num : Nat
  layers : List Nat
  service : BitVec 52
  spillKey : BitVec 6
  cacheKey : BitVec 6
  overflow : Nat × Nat
  egress : Nat × Nat
  parked : Nat × Nat
  vf : Nat
  bar2 : Nat
  bar2Size : Nat
  streams : Tbl (Option Stream) := []
  budgets : List (Nat × BitVec 24) := []
  newBudgets : List (Nat × BitVec 24) := []
  charged : Tbl Nat := []
  router : List (Nat × RouterEntry) := []
  groups : List (Nat × GroupEntry) := []
  held : Bool := false
  clockTrap : Bool := false
  deriving DecidableEq, Repr

/-- States of a context (27 R452). -/
inductive CtxState | free | resident | running | halted
  deriving DecidableEq, Repr

/-- What the halt of a context writes to its parked-traffic area (25 R428): its reorder windows with the packets that they hold, its sender-side numbers, and its held egress packets. -/
structure Parked where
  windows : List Window := []
  fab : List FabStream := []
  out : List OutPkt := []
  deriving DecidableEq, Repr

/-- A context (27 R452) with its tables: capabilities (23 R376), handles (13 R224), publications (13 R254), leases, fabric streams (25 R399), what its halt wrote to its parked-traffic area (R428), the gang that launched it and its members in rank order (R424). preempt is the instant of a pending request for the clusters it lists (03 R56). -/
structure Context where
  id : Nat
  part : Nat
  root : Nat
  handler : BitVec 52
  tidBase : BitVec 52
  spill : List (Nat × Nat × Nat × Nat)
  parkedMax : Nat
  state : CtxState := .resident
  caps : List (Nat × BitVec 128) := []
  handles : Tbl Quads := []
  pubs : Tbl Quads := []
  leases : List Lease := []
  preempt : List (Nat × Nat) := []
  fab : List FabStream := []
  area : Option Parked := none
  noInject : Bool := false
  gang : BitVec 32 := 0
  gangMembers : List Nat := []
  deriving DecidableEq, Repr

/-- Eager state in the shadow area (03 R59, R60), by context and cluster, with the tasks halted on it and the graphs of its walker; graphsOnly marks a context that has not run on the cluster, of which only graphs are held. -/
structure Shadow where
  ctx : Nat
  part : Nat
  cl : Nat
  e : ClusterE
  cores : List (Nat × CoreE × Option Nat)
  tasks : List Task
  graphs : Tbl GraphSlot
  graphsOnly : Bool := false
  deriving DecidableEq, Repr

/-- A lazy unit in the bank area (03 R59, R60): its owner, logical place and contents. -/
structure Banked where
  ctx : Nat
  part : Nat
  cl : Nat
  core : Nat
  kind : UnitKind
  idx : Nat
  bytes : Tbl Byte
  side : Tbl (BitVec 4)
  fe : Tbl Bool
  capTag : Tbl Bool
  marks : Tbl (Option LineMark)
  deriving DecidableEq, Repr

/-- A write performed at a home (11 R187, R190): location, the value before it, the number of the write, the sequencer that made it if one did, and the instants of its release at cluster scope or wider, of its visibility outside the writer's cluster (11 R191, R192), and of its release to package scope or wider, when the readers of other layers see it (11 R190). -/
structure OldByte where
  pa : Nat
  byte : Byte
  w : Nat
  by_ : Option (Nat × Nat × Bool)
  rel : Option Nat
  vis : Option Nat
  wide : Option Nat
  deriving DecidableEq, Repr

/-- A lease over this package's own memory that it has granted to a peer (11 R206, R207): the strided range, by physical address, and its expiry in ns. -/
structure Grant where
  peer : Nat
  base : Nat
  stride : Nat
  count : Nat
  width : Nat
  expiry : Nat
  deriving DecidableEq, Repr

/-- An exchange of a publication's backings (11 R199, R200): its buffer, its instant, the number in flight before which the publish was issued, and, once every agent has passed a boundary at or after it, that at which it holds writes no longer. -/
structure Exch where
  ctx : Nat
  idx : Nat
  at_ : Nat
  asked : Nat
  freed : Option Nat := none
  deriving DecidableEq, Repr

/-- Steps of a change of role map (01 R17). -/
inductive RoleStep | drain | flush | dark | renumber | relight
  deriving DecidableEq, Repr

/-- A change of role map in progress (01 R17, R18); resume lists the contexts drained, with their clusters. -/
structure RoleChange where
  step : RoleStep
  old : List Bool
  new : List Bool
  changed : List Nat
  drained : List Nat
  resume : List (Nat × Nat)
  deriving DecidableEq, Repr

/-- States of boot (27 R455). -/
inductive Boot | off | recovery | up
  deriving DecidableEq, Repr

/-- A Sync message of an electrical port (25 R421): its sequence number, the time of its receipt, the grandmaster's time of sending once known (t1), and the time at which the delay request that answers it left. Times are GANG.NOW and grandmaster time in ns. -/
structure SyncRec where
  port : Nat
  seq : Nat
  t2 : Int
  t1 : Option Int
  t3 : Option Int
  deriving DecidableEq, Repr

/-- The gang clock and what R422 and R423 count. Instants are in the units of State.tick; corr is the correction still to be slewed, in the units of State.gang; syncs holds the last Sync of each port, and delays the mean path delay of each, in ns (R421). -/
structure GangClock where
  state : BitVec 2 := 2
  everLocked : Bool := false
  lastSync : Option Nat := none
  goodRun : Nat := 0
  goodSince : Option Nat := none
  holdAt : Nat := 0
  corr : Int := 0
  syncs : List SyncRec := []
  delays : Tbl Int := []
  deriving DecidableEq, Repr

/-- What leaves the package: MSI-X messages (21 R355), reports to management (27 R457), mailbox replies, pool requests sent (23 R368), fabric packets sent (25 R396), notices of gang publications (11 R201), requests for promotion and their acknowledgements (11 R203), questions about writes to a shadow and their answers (11 R199), delay requests of IEEE 1588 (25 R421), attestation reports with both signatures (27 R455), host words read. -/
inductive OutMsg
  | msix (part vector : Nat)
  | report (what : String) (value : Word)
  | status (code : Nat)
  | reply (value : Word)
  | pool (req : PoolReq)
  | packet (port : Nat) (electrical : Bool) (pkt : Packet)
  | hostRead (bytes : List Byte)
  | publish (peer ctx idx tp : Nat)
  | probe (peer ctx base len cl core : Nat) (sec : Bool) (n : Nat)
  | probed (peer ctx base len : Nat)
  | pubAsk (peer ctx idx : Nat)
  | pubDone (peer ctx idx : Nat)
  | delayReq (port seq : Nat)
  | attest (measure : BitVec 384) (nonce : BitVec 256) (ed25519 : BitVec 512) (mldsa : BitVec 26472)
  deriving DecidableEq, Repr

/-- The site at which exec runs an instruction. next is the address of the bundle after this one in memory, fold its fold count; pops lists the drain queues that earlier ops of the bundle pop, while the bundle is tested and no op has taken effect (19 R333). -/
structure Cur where
  cl : Nat := 0
  core : Nat := 0
  sec : Bool := false
  slot : Nat := 0
  pc : BitVec 52 := 0
  next : BitVec 52 := 0
  fold : Nat := 0
  beats : Nat := 1
  wbeats : Nat := 1
  pops : List Nat := []
  part : Nat := 0
  stream : Nat := 0
  deriving DecidableEq, Repr

/-- An act: who moves next. land performs the core landings of the cycle, before engines write scratch (11 R195); probeIn and probeAck are a gang member's request for promotion, and its acknowledgement of one (11 R203); pubIn and pubAck its question about writes to a shadow, and its answer to one (11 R199); leaseIn and leaseOut a peer's lease over this package's memory, and its release (11 R207); mail a command that has waited in the mailbox (27 R457); graphEnd the end of a walker's graph, which may write its status (11 R195, 21 R362). -/
inductive Act
  | issue (cl core : Nat) (sec : Bool)
  | micro (cl core : Nat)
  | cp (part stream : Nat)
  | event (i : Instr)
  | land
  | probeIn (peer ctx base len : Nat)
  | probeAck (peer cl core : Nat) (sec : Bool) (n : Nat)
  | pubIn (peer ctx idx : Nat)
  | pubAck (peer ctx idx : Nat)
  | leaseIn (g : Grant)
  | leaseOut (peer base : Nat)
  | mail (c : MailCmd)
  | graphEnd (cl slot : Nat)
  deriving DecidableEq, Repr

/-! ## The state of the package -/

/-- The memories of the package: physical memory (27 R448), by line the key value under which it was last written, none where that is no encryption, layer store by partition and offset with the frame address of each line filled, host memory and their marks; the writes performed at homes and publications' exchanges, for phases (11 R187, R200); leases granted to peers over it (11 R207); translations held; and the lines that each L2 slice holds (01 R20). -/
structure Mem where
  phys : Tbl Byte := []
  cipher : Tbl (Option (BitVec 512)) := []
  marks : Tbl (Option LineMark) := []
  layer : Tbl Byte := []
  layerFilled : Tbl (Option Nat) := []
  host : Tbl Byte := []
  hist : List OldByte := []
  exch : List Exch := []
  granted : List Grant := []
  l2 : Tbl (List Nat) := []
  tlb : List TlbEntry := []
  deriving DecidableEq, Repr

/-- The pool side of the package (23): errors counts, by port, the responses discarded (R369); hbmPages and lpddrPages are the residency pages that HBM and LPDDR6 hold (13 R222, log entry 16). -/
structure PoolSide where
  pkg : BitVec 16 := 0
  fence : Word := 1
  fenced : Bool := false
  seq : BitVec 32 := 0
  reqs : List PoolReq := []
  ranges : List RangeRec := []
  lines : List CachedLine := []
  errors : Tbl Nat := []
  hbmPages : Nat := 6291456
  lpddrPages : Nat := 8388608
  deriving DecidableEq, Repr

/-- The fabric side of the package (25): loop holds packets to the package itself, notices those not yet delivered (R420), gangIn the ready reports, straggler notices and barrier tokens received, by packet kind, gang id, source or rank, and T (R425 to R429), diverted the last numbers sent on the electrical path (R418), errors the packets discarded, by port (R396). -/
structure FabricSide where
  self : Nat := 0
  exports : Tbl Quads := []
  ops : List FabOp := []
  out : List OutPkt := []
  windows : List Window := []
  notices : List Packet := []
  aggs : List Agg := []
  loop : List Packet := []
  gangIn : List (Nat × BitVec 32 × Nat × Word) := []
  diverted : List Divert := []
  darkPorts : List Nat := []
  failedPorts : List Nat := []
  circuitDark : List Nat := []
  errors : Tbl Nat := []
  deriving DecidableEq, Repr

/-- The state of the package. clusters holds those that bear a logical number (01 R19), by partition and number; spare the other physical clusters, by 24 × layer + cluster (01 R11). A key that is not listed stands for a cluster as it is at reset. controls says which layers' control cores run (01 R11, 27 R455), msix which MSI-X vectors the host has enabled, by function and number (21 R355); function 6 is the physical one. keys holds the key values loaded (27 R448), mailQueue the commands that wait for the one under way (27 R457), and resumes the contexts, with their clusters, that management is to resume as soon as R33 lets it (01 R18), tripped those that a thermal trip pre-empted (27 R456). -/
structure State where
  cycle : Nat
  tick : Nat
  agenda : List Act
  schedule : List (Nat × Act)
  cur : Cur
  free : Nat
  trapped : Option TrapRec
  fresh : Nat
  stamp : Nat
  roles : List Bool
  partOf : List Nat
  clusters : Tbl Cluster
  spare : Tbl Cluster
  mem : Mem
  parts : List (Nat × Partition)
  ctxs : List (Nat × Context)
  shadow : List Shadow
  banked : List Banked
  xfers : List Xfer
  arrivals : List Arrival
  condQueue : List CondUpdate
  pubReqs : List PubReq
  pubAsks : List PubAsk
  shootdowns : List Shootdown
  pool : PoolSide
  fabric : FabricSide
  gang : Nat
  clock : GangClock
  window : Nat
  role : Option RoleChange
  darkPoolLayers : List Nat
  keys : Tbl (BitVec 512)
  mailQueue : List MailCmd
  resumes : List (Nat × Nat)
  tripped : List (Nat × Nat)
  powerCap : Nat
  hotDies : List Nat
  boot : Boot
  measure : BitVec 384
  fused : Nat
  poisonCount : Nat
  poisonLast : Nat
  controls : List Bool
  msix : List (Nat × Nat)
  outbox : List OutMsg
  deriving DecidableEq, Repr

/-- The package right after reset (25 R423, 01 R23, 03 R60): clock-lost, GANG.NOW 0, no lazy unit tagged, no partition, stream, context or task. Values that the spec does not give are those of log entries 1 and 2; the role map before management sets one is the model's choice, all six layers compute (log entry 30). -/
def State.reset : State where
  cycle := 0
  tick := 0
  agenda := []
  schedule := []
  cur := {}
  free := 0
  trapped := none
  fresh := 0
  stamp := 0
  roles := [true, true, true, true, true, true]
  partOf := [6, 6, 6, 6, 6, 6]
  clusters := []
  spare := []
  mem := {}
  parts := []
  ctxs := []
  shadow := []
  banked := []
  xfers := []
  arrivals := []
  condQueue := []
  pubReqs := []
  pubAsks := []
  shootdowns := []
  pool := {}
  fabric := {}
  gang := 0
  clock := {}
  window := 0
  role := none
  darkPoolLayers := []
  keys := []
  mailQueue := []
  resumes := []
  tripped := []
  powerCap := 3000
  hotDies := []
  boot := .off
  measure := 0
  fused := 0
  poisonCount := 0
  poisonLast := 0
  controls := [false, false, false, false, false, false]
  msix := []
  outbox := []

/-- Reasons for which the machine stops. Every trap and fault of the manual is a next state instead. -/
inductive Fault
  /-- A host access to a physical address that is neither HBM nor LPDDR6 (27 R448), raised by HOST_ACCESS. Safe: nothing is claimed of what follows. -/
  | noMemory (pa : Nat)
  deriving DecidableEq, Repr

/-- Reasons for which exec gives an instruction no meaning. -/
inductive Refusal
  /-- The instruction has no meaning yet; answered only by arms of exec. Safe. -/
  | notModelled (mnemonic : String)
  deriving DecidableEq, Repr

end Sys2Proof.Machine
end

