-- ==== Sys2Proof/Machine/Flags.lean ====
section
/-! DEFINITION. Floating-point flags and their trap enables (07 R117 to R119), and ROUND with the flags it sets (07 R97 to R99, R111, R112). -/

namespace Sys2Proof.Machine

open Sys2Proof

/-- A set of flags in the layout of FLAGS (R117): SAT, NV, DZ, OF, UF, NX from bit 5 to bit 0. -/
abbrev Fl := BitVec 6

def flNX : Fl := 1
def flUF : Fl := 2
def flOF : Fl := 4
def flDZ : Fl := 8
def flNV : Fl := 16
def flSAT : Fl := 32

/-- A flag, or none. -/
def flIf (b : Bool) (f : Fl) : Fl := if b then f else 0

/-- The enabled flags among those raised: FPEN has no bit for SAT (R117, R119). -/
def flEnabled (fpen : Word) (f : Fl) : BitVec 5 := (f.truncate 5) &&& (fpen.truncate 5)

/-- FLAGS after flags f are set (R118). -/
def flSet (flags : Word) (f : Fl) : Word := flags ||| f.zeroExtend 64

/-! ## Floating-point formats -/

/-- A floating-point format of R97: exponent and significand widths, bias, the encoding of the largest finite magnitude, and whether it has infinities and NaNs. -/
structure FFmt where
  eb : Nat
  mb : Nat
  bias : Nat
  maxFin : Nat
  hasInf : Bool
  hasNaN : Bool
  deriving DecidableEq, Repr

def fmt64 : FFmt := { eb := 11, mb := 52, bias := 1023, maxFin := 0x7FEFFFFFFFFFFFFF, hasInf := true, hasNaN := true }
def fmt32 : FFmt := { eb := 8, mb := 23, bias := 127, maxFin := 0x7F7FFFFF, hasInf := true, hasNaN := true }
def fmt16 : FFmt := { eb := 5, mb := 10, bias := 15, maxFin := 0x7BFF, hasInf := true, hasNaN := true }
def fmtBf : FFmt := { eb := 8, mb := 7, bias := 127, maxFin := 0x7F7F, hasInf := true, hasNaN := true }
def fmtE4M3 : FFmt := { eb := 4, mb := 3, bias := 7, maxFin := 0x7E, hasInf := false, hasNaN := true }
def fmtE5M2 : FFmt := { eb := 5, mb := 2, bias := 15, maxFin := 0x7B, hasInf := true, hasNaN := true }
def fmtE3M2 : FFmt := { eb := 3, mb := 2, bias := 3, maxFin := 0x1F, hasInf := false, hasNaN := false }
def fmtE2M1 : FFmt := { eb := 2, mb := 1, bias := 1, maxFin := 0x7, hasInf := false, hasNaN := false }

/-- Bits of a format's element value: sign, exponent and significand. -/
def FFmt.bits (f : FFmt) : Nat := 1 + f.eb + f.mb

def FFmt.signBit (f : FFmt) : Nat := 2 ^ (f.eb + f.mb)

/-- Significand width with the hidden bit. -/
def FFmt.p (f : FFmt) : Nat := f.mb + 1

/-- Exponent of the smallest normal (R98). -/
def FFmt.emin (f : FFmt) : Int := 1 - (f.bias : Int)

def FFmt.infBits (f : FFmt) : Nat := (2 ^ f.eb - 1) * 2 ^ f.mb

/-- The canonical NaN (R98); formats without NaN have +0 in its place (R113). -/
def FFmt.nan (f : FFmt) : Nat :=
  if !f.hasNaN then 0 else if f.hasInf then f.infBits + 2 ^ (f.mb - 1) else f.maxFin + 1

/-- An operand value. fin neg m e stands for (−1)^neg × m × 2^e. -/
inductive FVal
  | nan (signalling : Bool)
  | inf (neg : Bool)
  | fin (neg : Bool) (m : Nat) (e : Int)
  deriving DecidableEq, Repr

/-- The value of an encoding (R97, R98). -/
def FFmt.decode (f : FFmt) (x : Nat) : FVal :=
  let neg := decide (x / f.signBit % 2 = 1)
  let e := x / 2 ^ f.mb % 2 ^ f.eb
  let m := x % 2 ^ f.mb
  if f.hasInf && e == 2 ^ f.eb - 1 then
    (if m == 0 then .inf neg else .nan (decide (m < 2 ^ (f.mb - 1))))
  else if f.hasNaN && !f.hasInf && e == 2 ^ f.eb - 1 && m == 2 ^ f.mb - 1 then .nan false
  else if e == 0 then .fin neg m (f.emin - f.mb)
  else .fin neg (m + 2 ^ f.mb) ((e : Int) - f.bias - f.mb)

def FVal.isSNaN : FVal → Bool
  | .nan s => s
  | _ => false

def FVal.isNaN : FVal → Bool
  | .nan _ => true
  | _ => false

def FVal.isZero : FVal → Bool
  | .fin _ m _ => m == 0
  | _ => false

def FVal.neg : FVal → Bool
  | .nan _ => false
  | .inf n => n
  | .fin n _ _ => n

/-- The value with its sign inverted. -/
def FVal.flip : FVal → FVal
  | .nan s => .nan s
  | .inf n => .inf (!n)
  | .fin n m e => .fin (!n) m e

/-! ## ROUND -/

/-- n rounded up or kept under a rounding mode, from the remainder r of a division by d (R111). -/
def roundNat (rm : Rm) (neg : Bool) (n r d : Nat) : Nat :=
  if r = 0 then n else
  match rm with
  | .ne => if 2 * r < d then n else if d < 2 * r then n + 1 else n + n % 2
  | .na => if 2 * r < d then n else n + 1
  | .tz => n
  | .up => if neg then n else n + 1
  | .dn => if neg then n + 1 else n
  | .odd => if n % 2 = 0 then n + 1 else n

/-- num / den × 2^e at quantum 2^q: quotient, remainder and divisor. -/
def atQuantum (num den : Nat) (e q : Int) : Nat × Nat × Nat :=
  let a := num * 2 ^ (e - q).toNat
  let d := den * 2 ^ (q - e).toNat
  (a / d, a % d, d)

/-- The exponent E with 2^E ≤ num / den × 2^e < 2^(E + 1), for num and den not zero. -/
def expOf (num den : Nat) (e : Int) : Int :=
  let k : Int := (Nat.log2 num : Int) - Nat.log2 den
  let lt := if 0 ≤ k then decide (num < den * 2 ^ k.toNat) else decide (num * 2 ^ (-k).toNat < den)
  (if lt then k - 1 else k) + e

/-- The encoding of n × 2^q with n < 2^p, or n = 2^p, at a quantum of the format: exponent and significand without sign. -/
def FFmt.encodeMag (f : FFmt) (n : Nat) (q : Int) : Nat :=
  if n < 2 ^ f.mb then n else (q + f.mb + f.bias - 1).toNat * 2 ^ f.mb + n

/-- The result of an overflow under a mode (R112). -/
def FFmt.overflow (f : FFmt) (rm : Rm) (neg : Bool) : Nat :=
  let s := if neg then f.signBit else 0
  let toMax := match rm with
    | .tz => true | .odd => true | .up => neg | .dn => !neg | _ => false
  if toMax || !f.hasNaN then s + f.maxFin
  else if f.hasInf then s + f.infBits
  else f.nan

/-- ROUND of the value (−1)^neg × num / den × 2^e, not zero, into a format (R111, R112, R99). With sat an overflow gives the largest finite value and SAT (R112). -/
def FFmt.round (f : FFmt) (rm : Rm) (sat neg : Bool) (num den : Nat) (e : Int) : Nat × Fl :=
  let s := if neg then f.signBit else 0
  if num = 0 then (s, 0) else
  let ex := expOf num den e
  let q := max (ex - f.mb) (f.emin - f.mb)
  let (n0, r, d) := atQuantum num den e q
  let n := roundNat rm neg n0 r d
  let nx := decide (r ≠ 0)
  let mag := f.encodeMag n q
  if f.maxFin < mag then
    (if sat then (s + f.maxFin, flSAT ||| flNX) else (f.overflow rm neg, flOF ||| flNX))
  else
    let (m0, r1, d1) := atQuantum num den e (ex - f.mb)
    let tiny := decide (ex < f.emin) &&
      !(decide (ex + 1 = f.emin) && decide (roundNat rm neg m0 r1 d1 = 2 ^ f.p))
    (s + mag, flIf nx flNX ||| flIf (nx && tiny) flUF)

end Sys2Proof.Machine
end

