-- ==== Sys2Proof/Machine/Numbers.lean ====
section
/-! DEFINITION. Number formats and arithmetic on encodings (07 R96 to R116, R128): every result comes with the flags it sets. -/

namespace Sys2Proof.Machine

open Sys2Proof

/-- The floating-point format of a code of R96. -/
def fmtOf : Nat → FFmt
  | 0 => fmt64 | 1 => fmt32 | 2 => fmt16 | 3 => fmtBf | 4 => fmtE4M3 | 5 => fmtE5M2 | 11 => fmtE3M2 | _ => fmtE2M1

/-- Element width in bits of a format code (R96). -/
def widthOf : Nat → Nat
  | 0 => 64 | 1 => 32 | 2 => 16 | 3 => 16 | 8 => 16 | 9 => 32 | 12 => 4 | _ => 8

/-- Formats 11 and 12 are emulated (R96). -/
def emulatedFmt (c : Nat) : Bool := c == 11 || c == 12

/-- Integer formats (R96, R101): width and signedness. -/
def intFmt : Nat → Option (Nat × Bool)
  | 7 => some (8, true) | 8 => some (16, true) | 9 => some (32, true) | 10 => some (8, false) | _ => none

/-! ## Exact sums -/

/-- A finite term (−1)^neg × m × 2^e. -/
abbrev Term := Bool × Nat × Int

/-- The least exponent of a list of terms, no more than e. -/
def minExp (e : Int) : List Term → Int
  | [] => e
  | (_, _, x) :: r => minExp (min e x) r

/-- The exact sum of terms as a multiple of 2^e, where e is at most every exponent. -/
def sumAt (e : Int) : List Term → Int
  | [] => 0
  | (n, m, x) :: r =>
    let v : Int := (m * 2 ^ (x - e).toNat : Nat)
    (if n then -v else v) + sumAt e r

/-- The sign of an exact sum that is zero (R116). -/
def zeroSign (rm : Rm) (ts : List Term) : Bool :=
  if ts.all (fun t => t.2.1 == 0 && t.1) then true
  else if ts.all (fun t => t.2.1 == 0 && !t.1) then false
  else rm == .dn

/-- ROUND of the exact sum of finite terms (R115, R116). -/
def FFmt.sum (f : FFmt) (rm : Rm) (ts : List Term) : Nat × Fl :=
  let e := minExp 0 ts
  let v := sumAt e ts
  if v = 0 then (if zeroSign rm ts then f.signBit else 0, 0)
  else f.round rm false (decide (v < 0)) v.natAbs 1 e

def flSN (vs : List FVal) : Fl := flIf (vs.any FVal.isSNaN) flNV

def FFmt.inf (f : FFmt) (neg : Bool) : Nat := (if neg then f.signBit else 0) + f.infBits
def FFmt.zero (f : FFmt) (neg : Bool) : Nat := if neg then f.signBit else 0

/-- a + b (R170). -/
def FFmt.addV (f : FFmt) (rm : Rm) (a b : FVal) : Nat × Fl :=
  match a, b with
  | .nan _, _ => (f.nan, flSN [a, b])
  | _, .nan _ => (f.nan, flSN [a, b])
  | .inf x, .inf y => if x == y then (f.inf x, 0) else (f.nan, flNV)
  | .inf x, .fin _ _ _ => (f.inf x, 0)
  | .fin _ _ _, .inf y => (f.inf y, 0)
  | .fin x m d, .fin y n e => f.sum rm [(x, m, d), (y, n, e)]

def FFmt.add (f : FFmt) (rm : Rm) (a b : Nat) : Nat × Fl := f.addV rm (f.decode a) (f.decode b)
def FFmt.sub (f : FFmt) (rm : Rm) (a b : Nat) : Nat × Fl := f.addV rm (f.decode a) (f.decode b).flip

/-- a × b + c, rounded once, with ±0 and NaN by R114, R116 and R171. -/
def FFmt.fmaV (f : FFmt) (rm : Rm) (a b c : FVal) : Nat × Fl :=
  match a, b with
  | .nan _, _ => (f.nan, flSN [a, b, c])
  | _, .nan _ => (f.nan, flSN [a, b, c])
  | .fin x m d, .fin y n e =>
    (match c with
     | .nan s => (f.nan, flIf s flNV)
     | .inf z => (f.inf z, 0)
     | .fin z k g => f.sum rm [(xor x y, m * n, d + e), (z, k, g)])
  | x, y =>
    if x.isZero || y.isZero then (f.nan, flNV) else
    let s := xor x.neg y.neg
    match c with
    | .nan q => (f.nan, flIf q flNV)
    | .inf z => if z == s then (f.inf s, 0) else (f.nan, flNV)
    | .fin _ _ _ => (f.inf s, 0)

/-- a × b + c (R171). -/
def FFmt.fma (f : FFmt) (rm : Rm) (a b c : Nat) : Nat × Fl := f.fmaV rm (f.decode a) (f.decode b) (f.decode c)

/-- a × b − c. -/
def FFmt.fms (f : FFmt) (rm : Rm) (a b c : Nat) : Nat × Fl :=
  f.fmaV rm (f.decode a) (f.decode b) (f.decode c).flip

/-- a × b (R170). -/
def FFmt.mulV (f : FFmt) (rm : Rm) (a b : FVal) : Nat × Fl :=
  match a, b with
  | .nan _, _ => (f.nan, flSN [a, b])
  | _, .nan _ => (f.nan, flSN [a, b])
  | .fin x m d, .fin y n e => f.round rm false (xor x y) (m * n) 1 (d + e)
  | x, y => if x.isZero || y.isZero then (f.nan, flNV) else (f.inf (xor x.neg y.neg), 0)

def FFmt.mul (f : FFmt) (rm : Rm) (a b : Nat) : Nat × Fl := f.mulV rm (f.decode a) (f.decode b)

/-- a / b (R170). -/
def FFmt.divV (f : FFmt) (rm : Rm) (a b : FVal) : Nat × Fl :=
  let s := xor a.neg b.neg
  match a, b with
  | .nan _, _ => (f.nan, flSN [a, b])
  | _, .nan _ => (f.nan, flSN [a, b])
  | .inf _, .inf _ => (f.nan, flNV)
  | .inf _, .fin _ _ _ => (f.inf s, 0)
  | .fin _ _ _, .inf _ => (f.zero s, 0)
  | .fin _ m d, .fin _ n e =>
    if n = 0 then (if m = 0 then (f.nan, flNV) else (f.inf s, flDZ))
    else f.round rm false s m n (d - e)

def FFmt.div (f : FFmt) (rm : Rm) (a b : Nat) : Nat × Fl := f.divV rm (f.decode a) (f.decode b)

/-- The value √(m × 2^e) as a dyadic number k × 2^g that ROUND treats as the exact one: k has at least 64 bits, and an odd last bit stands for the discarded part. -/
def sqrtDyadic (m : Nat) (e : Int) : Nat × Int :=
  let sh : Nat := 160 + (if (e - 160) % 2 = 0 then 0 else 1)
  let a := m * 2 ^ sh
  let r := Nat.sqrt a
  (2 * r + (if r * r = a then 0 else 1), (e - sh) / 2 - 1)

/-- √a (R175). -/
def FFmt.sqrt (f : FFmt) (rm : Rm) (a : Nat) : Nat × Fl :=
  match f.decode a with
  | .nan s => (f.nan, flIf s flNV)
  | .inf n => if n then (f.nan, flNV) else (f.inf false, 0)
  | .fin n m e =>
    if m = 0 then (f.zero n, 0) else if n then (f.nan, flNV)
    else let (k, g) := sqrtDyadic m e; f.round rm false false k 1 g

/-- The order of two values that are not NaN, with −0 below +0 when zeros is set. -/
def ltV (zeros : Bool) (a b : FVal) : Bool :=
  let key : FVal → Int → Int := fun v e => match v with
    | .fin n m x => let k : Int := (m * 2 ^ (x - e).toNat : Nat); if n then -k else k
    | _ => 0
  match a, b with
  | .inf x, .inf y => x && !y
  | .inf x, _ => x
  | _, .inf y => !y
  | .fin x m d, .fin y n e =>
    let g := min d e
    let i := key (.fin x m d) g
    let j := key (.fin y n e) g
    if zeros && m == 0 && n == 0 then x && !y else decide (i < j)
  | _, _ => false

/-- Minimum and maximum (R114, R172): less says which operand is wanted. -/
def FFmt.minmax (f : FFmt) (isMax : Bool) (a b : Nat) : Nat × Fl :=
  let x := f.decode a
  let y := f.decode b
  let fl := flSN [x, y]
  match x.isNaN, y.isNaN with
  | true, true => (f.nan, fl)
  | true, false => (b, fl)
  | false, true => (a, fl)
  | false, false =>
    (if ltV true x y == isMax then b else a, fl)

/-- The comparisons of R173: result and flags. Code: eq, lt, le, un, neq, gt, ge, ord. -/
def FFmt.cmp (f : FFmt) (code : Nat) (a b : Nat) : Bool × Fl :=
  let x := f.decode a
  let y := f.decode b
  let un := x.isNaN || y.isNaN
  let ordered := code == 1 || code == 2 || code == 5 || code == 6
  let fl := flSN [x, y] ||| flIf (un && ordered) flNV
  let lt := ltV false x y
  let gt := ltV false y x
  let r := match code with
    | 0 => !un && !lt && !gt
    | 1 => !un && lt
    | 2 => !un && !gt
    | 3 => un
    | 4 => un || lt || gt
    | 5 => !un && gt
    | 6 => !un && !lt
    | _ => !un
  (r, fl)

/-- The class word of R178. -/
def FFmt.cls (f : FFmt) (a : Nat) : Nat :=
  match f.decode a with
  | .nan s => if s then 0x100 else 0x200
  | .inf n => if n then 0x1 else 0x80
  | .fin n m _ =>
    if m = 0 then (if n then 0x8 else 0x10)
    else if m < 2 ^ f.mb then (if n then 0x4 else 0x20)
    else (if n then 0x2 else 0x40)

/-- A finite value rounded to an integer: magnitude and whether it is inexact (R111). -/
def roundInt (rm : Rm) (neg : Bool) (m : Nat) (e : Int) : Nat × Bool :=
  let (n, r, d) := atQuantum m 1 e 0
  (roundNat rm neg n r d, decide (r ≠ 0))

/-- Rounding to an integral value (R179). -/
def FFmt.rnd (f : FFmt) (rm : Rm) (a : Nat) : Nat × Fl :=
  match f.decode a with
  | .nan s => (f.nan, flIf s flNV)
  | .inf n => (f.inf n, 0)
  | .fin neg m e =>
    let (n, nx) := roundInt rm neg m e
    ((f.round .tz false neg n 1 0).1, flIf nx flNX)

/-- A finite value into an integer format (R111, R113). -/
def toIntFmt (w : Nat) (signed : Bool) (rm : Rm) (sat : Bool) (v : FVal) : Nat × Fl :=
  let lo : Int := if signed then -(2 ^ (w - 1) : Nat) else 0
  let hi : Int := if signed then ((2 ^ (w - 1) - 1 : Nat) : Int) else ((2 ^ w - 1 : Nat) : Int)
  let enc : Int → Nat := fun i => (i % (2 ^ w : Nat)).toNat
  match v with
  | .nan _ => (0, flNV)
  | .inf n => (enc (if n then lo else hi), flNV)
  | .fin neg m e =>
    let (n, nx) := roundInt rm neg m e
    let i : Int := if neg then -(n : Int) else n
    if i < lo then (enc lo, if sat then flSAT else flNV)
    else if hi < i then (enc hi, if sat then flSAT else flNV)
    else (enc i, flIf nx flNX)

/-- The value of an integer encoding. -/
def ofIntFmt (w : Nat) (signed : Bool) (x : Nat) : FVal :=
  let y := x % 2 ^ w
  if signed && decide (2 ^ (w - 1) ≤ y) then .fin true (2 ^ w - y) 0 else .fin false y 0

/-! ## W2P8 (R102, R103) -/

/-- A term of a W2P8 byte, in units of 2^-6. -/
def w2Term (t : Nat) : Int :=
  if t % 8 = 7 then 0
  else let k : Int := (2 ^ (6 - t % 8) : Nat); if 8 ≤ t then -k else k

/-- The value of a W2P8 byte in units of 2^-6 (R102). -/
def w2Val (x : Nat) : Int := w2Term (x / 16 % 16) + w2Term (x % 16)

def w2Decode (x : Nat) : FVal :=
  let v := w2Val x
  .fin (decide (v < 0)) v.natAbs (-6)

def w2Terms (x : Nat) : Nat := (if x / 16 % 8 = 7 then 0 else 1) + (if x % 8 = 7 then 0 else 1)

/-- A zero term has sign 0 in every byte that the encoder writes (R103). -/
def w2Writable (x : Nat) : Bool := !(x / 16 % 16 == 15 || x % 16 == 15)

/-- How far byte x is from the value num / den (in units of 2^-6) under a mode, as a number to be made least; none if the mode does not allow it (R103). -/
def w2Key (rm : Rm) (num : Int) (den : Nat) (x : Nat) : Option Nat :=
  let c := w2Val x
  let cd := c * (den : Int)
  let dist := (cd - num).natAbs
  let ok := match rm with
    | .tz => decide (cd.natAbs ≤ num.natAbs) && (c == 0 || decide (c < 0) == decide (num < 0))
    | .odd => decide (cd.natAbs ≤ num.natAbs) && (c == 0 || decide (c < 0) == decide (num < 0))
    | .up => decide (num ≤ cd)
    | .dn => decide (cd ≤ num)
    | .ne => true
    | .na => true
  let mag := match rm with
    | .ne => c.natAbs
    | .na => 128 - c.natAbs
    | _ => 0
  if ok && w2Writable x then
    some (((((dist * 4 + w2Terms x) * 256 + mag) * 8 + x / 16 % 8) * 8 + x % 8) * 2 + x / 128)
  else none

/-- The byte of the list with the least key. -/
def w2Pick (rm : Rm) (num : Int) (den : Nat) : List Nat → Option (Nat × Nat) → Option (Nat × Nat)
  | [], best => best
  | x :: r, best =>
    match w2Key rm num den x, best with
    | none, _ => w2Pick rm num den r best
    | some k, none => w2Pick rm num den r (some (k, x))
    | some k, some (k0, x0) => w2Pick rm num den r (if k < k0 then some (k, x) else some (k0, x0))

/-- The W2P8 byte of a value already divided by its block scale (R103). -/
def w2Encode (rm : Rm) (v : FVal) : Nat × Fl :=
  match v with
  | .nan _ => (0x77, flNV)
  | .inf n => (if n then 0x88 else 0x00, flNV)
  | .fin neg m e =>
    let num : Int := (m * 2 ^ (e + 6).toNat : Nat)
    let den := 2 ^ (-(e + 6)).toNat
    if 128 * den < num.natAbs then (if neg then 0x88 else 0x00, flSAT ||| flNX)
    else
      let s := if neg then -num else num
      match w2Pick rm s den (List.range 256) none with
      | none => (0x77, 0)
      | some (_, x) => (x, flIf (w2Val x * (den : Int) != s) flNX)

/-! ## Conversions (R113, R180, R181) -/

/-- The value of an encoding of any format code 0 to 12. -/
def decodeFmt (c x : Nat) : FVal :=
  if c == 6 then w2Decode (x % 256)
  else match intFmt c with
    | some (w, s) => ofIntFmt w s x
    | none => (fmtOf c).decode (x % 2 ^ (fmtOf c).bits)

/-- A value into a floating-point format (R113). -/
def FFmt.ofVal (f : FFmt) (rm : Rm) (sat : Bool) (v : FVal) : Nat × Fl :=
  match v with
  | .nan s => if f.hasNaN then (f.nan, flIf s flNV) else (0, flNV)
  | .inf n =>
    let big := f.zero n + f.maxFin
    if f.hasInf then (if sat then (big, flSAT) else (f.inf n, 0))
    else if f.hasNaN then (if sat then (big, flSAT) else (f.nan, flNV))
    else (big, flNV)
  | .fin n m e => f.round rm sat n m 1 e

/-- A value into any format code (R113). -/
def encodeFmt (c : Nat) (rm : Rm) (sat : Bool) (v : FVal) : Nat × Fl :=
  if c == 6 then w2Encode rm v
  else match intFmt c with
    | some (w, s) => toIntFmt w s rm sat v
    | none => (fmtOf c).ofVal rm sat v

/-! ## Approximations (R128) -/

/-- num / den × 2^e rounded to 19 significant bits under nearest even: multiplier, exponent, and whether it is exact. -/
def round19 (num den : Nat) (e : Int) : Nat × Int × Bool :=
  let q := expOf num den e - 18
  let (n, r, d) := atQuantum num den e q
  (roundNat .ne false n r d, q, decide (r = 0))

/-- The approximation of a positive or negative value num / den × 2^e in a format (R128, R126). -/
def FFmt.approx (f : FFmt) (neg : Bool) (num den : Nat) (e : Int) : Nat × Fl :=
  if f.mb < 18 then f.round .ne false neg num den e
  else
    let (n, q, ex) := round19 num den e
    let (r, fl) := f.round .ne false neg n 1 q
    let nx := !ex || fl &&& flNX != 0
    let ovf := fl &&& flOF != 0
    let tiny := decide (r % f.signBit < 2 ^ f.mb)
    (r, flIf ovf flOF ||| flIf nx flNX ||| flIf (nx && tiny && !ovf) flUF)

/-- frcpa and vrcpa (R128). -/
def FFmt.rcpa (f : FFmt) (a : Nat) : Nat × Fl :=
  match f.decode a with
  | .nan s => (f.nan, flIf s flNV)
  | .inf n => (f.zero n, 0)
  | .fin n m e => if m = 0 then (f.inf n, flDZ) else f.approx n 1 m (-e)

/-- 1/√(m × 2^e) as a dyadic number that stands for the exact one under any rounding. -/
def rsqrtDyadic (m : Nat) (e : Int) : Nat × Int :=
  let par : Nat := if e % 2 = 0 then 0 else 1
  let k := 400 + Nat.log2 m
  let top := 2 ^ (2 * k)
  let mm := m * 2 ^ par
  let r := Nat.sqrt (top / mm)
  (2 * r + (if r * r * mm = top then 0 else 1), -((e - par) / 2) - k - 1)

/-- frsqa and vrsqa (R128). -/
def FFmt.rsqa (f : FFmt) (a : Nat) : Nat × Fl :=
  match f.decode a with
  | .nan s => (f.nan, flIf s flNV)
  | .inf n => if n then (f.nan, flNV) else (f.zero false, 0)
  | .fin n m e =>
    if m = 0 then (f.inf n, flDZ) else if n then (f.nan, flNV)
    else let (k, g) := rsqrtDyadic m e; f.approx false k 1 g

/-- Inverts the sign bit, or clears it, with NaN made canonical elsewhere (15 R267). -/
def FFmt.negBits (f : FFmt) (a : Nat) : Nat := if a / f.signBit % 2 = 1 then a - f.signBit else a + f.signBit
def FFmt.absBits (f : FFmt) (a : Nat) : Nat := a % f.signBit

end Sys2Proof.Machine
end

