-- ==== Sys2Proof/Config.lean ====
section
/-! DEFINITION. What the manual leaves open: free values, which no proof can see (notes/assumptions), and the constants that a part fixes. -/

namespace Sys2Proof.Config

open Sys2Proof

/-- The deviation of the y of R126 from f(x), in units of 2^-30 ulp, for a function number, a format's width and an operand encoding (log entry 7). It is cut to the bound of R126 where it is used. -/
opaque transDev : Nat → Nat → Nat → Int

/-- Whether a cluster-mate's write that is visible but not guaranteed is returned by a read (11 R191), at the n-th choice (log entry 8). -/
opaque mateEarly : Nat → Bool

/-- Whether a translation still held is used in place of new tables before a shootdown's instant (27 R451), at the n-th choice (log entry 15). -/
opaque staleTlb : Nat → Bool

/-- Whether a byte that the fetch window may hold is taken from it (21 R344), at the n-th choice (log entry 9). -/
opaque windowHit : Nat → Bool

/-- The Ed25519 signature over an attestation report (27 R455), by measurement and nonce (log entry 13). -/
opaque attestEd25519 : BitVec 384 → BitVec 256 → BitVec 512

/-- The ML-DSA-65 signature over an attestation report (27 R455), by measurement and nonce (log entry 13). -/
opaque attestMldsa : BitVec 384 → BitVec 256 → BitVec 26472

/-- The bytes that a line written under one key value gives when it is read under another (27 R448), by the two keys, the tweak and the bytes written; none is no encryption (log entry 31). -/
opaque recode : Option (BitVec 512) → Option (BitVec 512) → Nat → List Byte → List Byte

/-- Downstream free slots less queue depth of a peer port (25 R397), at the n-th choice: the slots are the neighbour's (log entry 21). -/
opaque portRoom : Nat → Nat → Int

/-- Whether the queue of a peer port is deeper than three quarters of its capacity (25 R397), at the n-th choice (log entry 21). -/
opaque portDeep : Nat → Nat → Bool

/-- The packets that a cluster's fabric egress queue holds (25 R399), which the manual does not size (log entry 21). -/
opaque egressCap : Nat

/-- The packets that the virtual egress queue of a destination holds (25 R417), which management reserves at partition set-up (log entry 21). -/
opaque virtualCap : Nat

/-- The data wavelength on which a packet leaves (25 R396), at the n-th packet (log entry 21). -/
opaque packetWave : Nat → BitVec 4

/-- What the slot of a fabric request receives when the request's packet is not sent because its source line is marked (01 R28, 25 R409), at the n-th choice (log entry 40). -/
opaque unsentStatus : Nat → Word

/-- Whether a core's issue is withheld for the power cap or for temperature (27 R456), at the n-th choice (log entry 11). -/
opaque withhold : Nat → Bool

end Sys2Proof.Config
end

