-- ==== Sys2Proof/Machine/Tables.lean ====
section
/-! DEFINITION. Sparse tables in canonical form, and byte order (00 R5). A table maps each key to a value, its default where no entry stands. -/

namespace Sys2Proof.Machine

open Sys2Proof

/-- The value at a key, d where none is listed. -/
def tget {V : Type} (d : V) : Tbl V → Nat → V
  | [], _ => d
  | (k, v) :: r, n => if n = k then v else tget d r n

/-- The table with v entered at a key, in rising order of keys. -/
def tins {V : Type} : Tbl V → Nat → V → Tbl V
  | [], n, v => [(n, v)]
  | (k, w) :: r, n, v =>
    if n < k then (n, v) :: (k, w) :: r
    else if n = k then (n, v) :: r
    else (k, w) :: tins r n v

/-- The table without an entry at a key. -/
def tdel {V : Type} : Tbl V → Nat → Tbl V
  | [], _ => []
  | (k, w) :: r, n => if n = k then tdel r n else (k, w) :: tdel r n

/-- The table after a write; writing the default removes the entry. -/
def tset {V : Type} [DecidableEq V] (d : V) (t : Tbl V) (n : Nat) (v : V) : Tbl V :=
  if v = d then tdel t n else tins t n v

/-- Canonical form: keys rise strictly and no entry equals the default. -/
def twf {V : Type} [DecidableEq V] (d : V) : Tbl V → Bool
  | [] => true
  | (_, v) :: [] => !decide (v = d)
  | (k, v) :: (k', v') :: r => !decide (v = d) && decide (k < k') && twf d ((k', v') :: r)

/-- The table with every entry from key lo up to, and not including, hi removed. -/
def tclear {V : Type} (t : Tbl V) (lo hi : Nat) : Tbl V := t.filter (fun p => decide (p.1 < lo) || decide (hi ≤ p.1))

/-- The entries with keys from lo up to, and not including, hi. -/
def tslice {V : Type} (t : Tbl V) (lo hi : Nat) : Tbl V := t.filter (fun p => decide (lo ≤ p.1) && decide (p.1 < hi))

/-! ## Lists searched by key -/

/-- The first value listed under a key. -/
def look {V : Type} : List (Nat × V) → Nat → Option V
  | [], _ => none
  | (k, v) :: r, n => if n = k then some v else look r n

/-- The list with v under a key. -/
def place {V : Type} : List (Nat × V) → Nat → V → List (Nat × V)
  | [], n, v => [(n, v)]
  | (k, w) :: r, n, v =>
    if n < k then (n, v) :: (k, w) :: r
    else if n = k then (n, v) :: r
    else (k, w) :: place r n v

/-- The list with one element replaced. -/
def setAt {V : Type} : List V → Nat → V → List V
  | [], _, _ => []
  | _ :: r, 0, v => v :: r
  | x :: r, n + 1, v => x :: setAt r n v

/-! ## Bytes, least significant first (R5) -/

/-- The n bytes of a number. -/
def bytesOf : Nat → Nat → List Byte
  | 0, _ => []
  | n + 1, x => BitVec.ofNat 8 x :: bytesOf n (x / 256)

/-- The number that bytes stand for. -/
def natOf : List Byte → Nat
  | [] => 0
  | b :: r => b.toNat + 256 * natOf r

def wordOf (bs : List Byte) : Word := BitVec.ofNat 64 (natOf bs)

/-- n bytes of a table from a key on. -/
def readB (t : Tbl Byte) (a : Nat) : Nat → List Byte
  | 0 => []
  | n + 1 => tget 0 t a :: readB t (a + 1) n

/-- The table after bytes are written from a key on. -/
def writeB (t : Tbl Byte) (a : Nat) : List Byte → Tbl Byte
  | [] => t
  | b :: r => writeB (tset 0 t a b) (a + 1) r

/-- The table after (address, byte) pairs are written in order. -/
def writeCells (t : Tbl Byte) : List (Nat × Byte) → Tbl Byte
  | [] => t
  | (a, b) :: r => writeCells (tset 0 t a b) r

/-- Bytes with their addresses from a on. -/
def cells (a : Nat) : List Byte → List (Nat × Byte)
  | [] => []
  | b :: r => (a, b) :: cells (a + 1) r

/-- The numbers from lo, n of them. -/
def span (lo : Nat) : Nat → List Nat
  | 0 => []
  | n + 1 => lo :: span (lo + 1) n

/-- The 64-byte lines, or other aligned units, that n bytes from a touch. -/
def unitsOf (u a n : Nat) : List Nat := if n = 0 then [] else span (a / u) ((a + n - 1) / u + 1 - a / u)

/-- A number that adds to the list only what it does not hold. -/
def addNew (x : Nat) (l : List Nat) : List Nat := if l.contains x then l else l ++ [x]

def distinct : List Nat → List Nat → List Nat
  | [], acc => acc
  | x :: r, acc => distinct r (addNew x acc)

/-- Quotient rounded up. -/
def ceilDiv (a b : Nat) : Nat := (a + b - 1) / b

/-- Bits hi to lo of a word as a number. -/
def bitsOf (w : Word) (hi lo : Nat) : Nat := w.toNat / 2 ^ lo % 2 ^ (hi + 1 - lo)

def bitOf (w : Word) (n : Nat) : Bool := w.getLsbD n

/-- The w-bit two's complement value of a number. -/
def sextN (w x : Nat) : Int := (BitVec.ofNat w x).toInt

def wordI (i : Int) : Word := BitVec.ofInt 64 i
def wordN (n : Nat) : Word := BitVec.ofNat 64 n

/-- CRC-32C of bytes (00 R8), by bits of the reflected polynomial. -/
def crcBits : Nat → BitVec 32 → BitVec 32
  | 0, c => c
  | n + 1, c => crcBits n (if c.getLsbD 0 then (c >>> 1) ^^^ 0x82F63B78 else c >>> 1)

def crcStep (c : BitVec 32) (b : Byte) : BitVec 32 := crcBits 8 (c ^^^ b.zeroExtend 32)

/-- SEAL of a line (R8). -/
def sealOf (bs : List Byte) : BitVec 32 := bs.foldl crcStep 0xFFFFFFFF ^^^ 0xFFFFFFFF

end Sys2Proof.Machine
end

