-- ==== Sys2Proof/Machine/Ops.lean ====
section
/-! DEFINITION. Named operations over State: reaching its parts, registers and fixed-latency results (03 R48, 05 R77), return streams (13 R242), checkpoints and restart (03 R50, R55), taking a trap and returning from one (27 R433 to R438), address checks (13 R233). -/

namespace Sys2Proof.Machine

open Sys2Proof

/-- The outcome of an instruction. -/
abbrev Out := Host.Outcome State Fault Refusal

/-! ## Reaching the parts of State -/

/-- The key of a partition's logical cluster (01 R19) in State.clusters. -/
def clKey (part logical : Nat) : Nat := 256 * part + logical

def State.cl (s : State) (c : Nat) : Cluster := tget {} s.clusters c
def State.setCl (s : State) (c : Nat) (x : Cluster) : State := { s with clusters := tset {} s.clusters c x }
def Cluster.co (x : Cluster) (k : Nat) : Core := tget {} x.cores k
def Cluster.setCo (x : Cluster) (k : Nat) (y : Core) : Cluster := { x with cores := tset {} x.cores k y }
def State.core (s : State) (c k : Nat) : Core := (s.cl c).co k
def State.setCore (s : State) (c k : Nat) (y : Core) : State := s.setCl c ((s.cl c).setCo k y)
def State.modCore (s : State) (c k : Nat) (f : Core → Core) : State := s.setCore c k (f (s.core c k))
def Core.setE (y : Core) (e : CoreE) : Core := { y with e := e }
def State.modE (s : State) (c k : Nat) (f : CoreE → CoreE) : State := s.modCore c k (fun y => y.setE (f y.e))
def CoreE.sq (e : CoreE) (sec : Bool) : Seq := if sec then e.second else e.prim
def CoreE.setSq (e : CoreE) (sec : Bool) (q : Seq) : CoreE :=
  if sec then { e with second := q } else { e with prim := q }
def State.sq (s : State) (c k : Nat) (sec : Bool) : Seq := (s.core c k).e.sq sec
def State.modSq (s : State) (c k : Nat) (sec : Bool) (f : Seq → Seq) : State :=
  s.modE c k (fun e => e.setSq sec (f (e.sq sec)))
def State.modCl (s : State) (c : Nat) (f : Cluster → Cluster) : State := s.setCl c (f (s.cl c))

/-- The cluster, core, eager registers and sequencer at the site of the instruction. -/
def State.hereCl (s : State) : Cluster := s.cl s.cur.cl
def State.here (s : State) : Core := s.core s.cur.cl s.cur.core
def State.e (s : State) : CoreE := s.here.e
def State.me (s : State) : Seq := s.e.sq s.cur.sec
def State.modHereCl (s : State) (f : Cluster → Cluster) : State := s.modCl s.cur.cl f
def State.modHere (s : State) (f : Core → Core) : State := s.modCore s.cur.cl s.cur.core f
def State.modHereE (s : State) (f : CoreE → CoreE) : State := s.modE s.cur.cl s.cur.core f
def State.modMe (s : State) (f : Seq → Seq) : State := s.modSq s.cur.cl s.cur.core s.cur.sec f

/-- The context that a cluster runs (03 R33). -/
def State.ctxOf (s : State) (c : Nat) : Option Context :=
  match (s.cl c).ctx with
  | none => none
  | some id => look s.ctxs id

def State.hereCtx (s : State) : Option Context := s.ctxOf s.cur.cl
def State.hereCtxId (s : State) : Nat := ((s.cl s.cur.cl).ctx).getD 0
def State.modCtx (s : State) (id : Nat) (f : Context → Context) : State :=
  match look s.ctxs id with
  | none => s
  | some x => { s with ctxs := place s.ctxs id (f x) }
def State.modPart (s : State) (id : Nat) (f : Partition → Partition) : State :=
  match look s.parts id with
  | none => s
  | some x => { s with parts := place s.parts id (f x) }
/-- The partition of a context, 0 where there is none. -/
def State.partOfCtx (s : State) (id : Nat) : Nat := match look s.ctxs id with | none => 0 | some x => x.part

/-- A change of a core's eager registers as a context has them: live where its cluster runs the context, else in the shadow area (03 R59). -/
def State.modEOf (s : State) (ctx c k : Nat) (f : CoreE → CoreE) : State :=
  if (s.cl c).ctx = some ctx then s.modE c k f
  else { s with shadow := s.shadow.map (fun x =>
    if x.ctx = ctx ∧ x.cl = c then
      { x with cores := x.cores.map (fun p => if p.1 = k then (p.1, f p.2.1, p.2.2) else p) } else x) }

def State.report (s : State) (what : String) (v : Nat) : State :=
  { s with outbox := s.outbox ++ [.report what (wordN v)] }

/-- A new number for something in flight. -/
def State.tick1 (s : State) : State := { s with fresh := s.fresh + 1 }

/-- Gang time in ns (25 R421): State.gang counts 1/3,570,000 ns. -/
def State.now (s : State) : Nat := s.gang / 3570000

/-! ## Registers -/

/-- g[n] (05 R77, 09 R131): g0 and g32 read zero. -/
def CoreE.rG (e : CoreE) (n : Nat) : Word := if n % 32 = 0 then 0 else tget 0 e.g n
/-- A write to g0 or g32 is discarded (05 R77). -/
def CoreE.wG (e : CoreE) (n : Nat) (v : Word) : CoreE := if n % 32 = 0 then e else { e with g := tset 0 e.g n v }
def State.g (s : State) (r : Reg) : Word := s.e.rG r.toNat
/-- m[n] as a predicate operand: 0 is unmasked (05 R77). -/
def State.mask (s : State) (n : BitVec 3) : Word := if n = 0 then BitVec.allOnes 64 else tget 0 s.e.m n.toNat
def State.m (s : State) (n : Nat) : Word := tget 0 s.e.m n
def State.b (s : State) (n : Nat) : BitVec 52 := tget 0 s.e.b n
def State.o (s : State) (n : Nat) : BitVec 32 := tget 0 s.e.o n
def State.p (s : State) (n : Nat) : Word := tget 0 s.e.p n
def State.k (s : State) (n : Nat) : Cap := tget {} s.e.k n

def CoreE.view (e : CoreE) (n : Nat) : View :=
  if n = 0 then { base := e.vBase, rows := 64, cols := 64, pitch := 4 }
  else if n = 1 then { base := e.svBase, rows := 64, cols := 64, pitch := 4 }
  else if n < 18 then tget {} e.tv (n - 2) else tget {} e.av (n - 18)

/-- A fixed-latency result of the instruction at this site, landing after lat cycles (03 R48); srcs says which scratch bytes it holds, where the op may read lines in later beats. -/
def State.pend (s : State) (lat : Nat) (ws : List PWrite) (fl : Fl := 0) (srcs : List Src := []) : State :=
  (s.modHere (fun y => { y with pending := y.pending ++
    [{ id := s.fresh, land := s.cycle + lat, issued := s.cycle, sec := s.cur.sec, slot := s.cur.slot,
       pc := s.cur.pc, writes := ws, flags := fl, srcs := srcs }] })).tick1

/-- g[D] := v at a latency (09 R131). -/
def State.wrG (s : State) (d : Reg) (v : Word) (lat : Nat) (fl : Fl := 0) : State := s.pend lat [.g d.toNat v] fl

/-! ## Return streams (13 R242) -/

def CoreE.stream (e : CoreE) (q : Nat) : List QSlot := tget [] e.q q
def CoreE.setStream (e : CoreE) (q : Nat) (l : List QSlot) : CoreE := { e with q := tset [] e.q q l }
def CoreE.bound (e : CoreE) (q : Nat) : Bool := e.qBound.contains q

/-- Unbinding discards every slot (R243). -/
def CoreE.unbind (e : CoreE) (q : Nat) : CoreE :=
  { e.setStream q [] with qBound := e.qBound.filter (· ≠ q) }

/-- The first slot not yet consumed. -/
def headSlot : List QSlot → Option QSlot
  | [] => none
  | x :: r => if x.usedBy.isSome then headSlot r else some x

/-- The number of this bundle's order at its core: ops of one bundle share it. -/
def State.ord (s : State) : Nat := s.here.order + 1

/-- Whether a reservation finds a free slot; an unbound register needs none (R242). -/
def State.canReserve (s : State) (q : Nat) : Bool := !s.e.bound q || decide ((s.e.stream q).length < 32)

/-- Reserves the next slot of a bound stream: the slot's number, and the state (R242). -/
def State.reserve (s : State) (q : Nat) : Option Nat × State :=
  if s.e.bound q then
    (some s.fresh, (s.modHereE (fun e => e.setStream q (e.stream q ++
      [{ id := s.fresh, val := none, bySec := s.cur.sec, byOrder := s.ord, usedBy := none }]))).tick1)
  else (none, s)

/-- A value on its way to a slot (R242). -/
def State.arrive (s : State) (q slot due : Nat) (v : Word) : State :=
  ({ s with arrivals := s.arrivals ++ 
    [{ id := s.fresh, due := due, cl := s.cur.cl, core := s.cur.core, q := q, slot := slot, value := v }] } : State).tick1

/-- The slot takes its value; a slot that is gone discards it (R242). -/
def landSlot (slot : Nat) (v : Word) : List QSlot → List QSlot
  | [] => []
  | x :: r => (if x.id = slot then { x with val := some v } else x) :: landSlot slot v r

/-- A trap cancels reservations made, and returns consumptions made, after the checkpoint (R242). -/
def rollSlots (sec : Bool) (order : Nat) (l : List QSlot) : List QSlot :=
  (l.filter (fun x => !(x.bySec == sec && decide (order < x.byOrder)))).map (fun x =>
    match x.usedBy with
    | some (z, o) => if z == sec && decide (order < o) then { x with usedBy := none } else x
    | none => x)

/-- A checkpoint retires the slots whose consumption it passes (R242). -/
def retireSlots (sec : Bool) (order : Nat) (l : List QSlot) : List QSlot :=
  l.filter (fun x => match x.usedBy with | some (z, o) => !(z == sec && decide (o ≤ order)) | none => true)

def CoreE.mapStreams (e : CoreE) (f : List QSlot → List QSlot) : CoreE :=
  { e with q := (e.q.map (fun p => (p.1, f p.2))).filter (fun p => !p.2.isEmpty) }

/-! ## Checkpoints and restart (03 R50, R52, R55) -/

/-- The sequencer's checkpoint becomes pc with the state that stands; order is the number of the last op it covers (R50, R52). -/
def CoreE.checkpoint (e : CoreE) (sec : Bool) (pc : BitVec 52) (order : Nat) : CoreE :=
  let q := e.sq sec
  let ck : Ckpt := { pc := pc, loops := q.loops, rsTop := e.rsTop, mark := e.mark, cn := q.cn, o := e.o, order := order }
  ((e.setSq sec { q with ckpt := ck, timingRow := 0, priority := false, popped := false, pushed := 0, emu := none }).mapStreams
    (retireSlots sec order))

/-- A sequencer resumes at a checkpoint with its loop stack and CN (R55, 19 R322). -/
def Seq.resumeAt (q : Seq) (ck : Ckpt) (cycle : Nat) : Seq :=
  { q with pc := ck.pc, loops := ck.loops, cn := ck.cn, group := {}, newGroup := true, bWritten := [],
           popped := false, pushed := 0, resumed := true, nextIssue := max q.nextIssue (cycle + 1) }

/-- RS.TOP, the mark word and o0 to o7 come from the primary's checkpoint (17 R285, 19 R330), where the primary runs. -/
def CoreE.restoreCk (e : CoreE) (runs : Bool) (ck : Ckpt) : CoreE :=
  if runs then { e with rsTop := ck.rsTop, mark := ck.mark, o := ck.o } else e

/-- Whether a sequencer returns to its checkpoint when one of its core traps: one that runs does, and the trapping one also where pre-emption has paused it since its op issued (R55, 27 R438). One that has stopped stays as it is. -/
def CoreE.rolls (e : CoreE) (trapping : Option Bool) (sec : Bool) : Bool :=
  (e.sq sec).running || (trapping == some sec && (e.sq sec).preempted)

/-- The sequencer at its checkpoint, where it returns there. -/
def Seq.rollback (q : Seq) (rolls : Bool) (cycle : Nat) : Seq := if rolls then q.resumeAt q.ckpt cycle else q

/-- The stream slots that a sequencer has used since its checkpoint are as they were at it (13 R242). -/
def CoreE.rollStreams (e : CoreE) (rolls sec : Bool) : CoreE :=
  if rolls then e.mapStreams (rollSlots sec (e.sq sec).ckpt.order) else e

/-- What R55 restores beside pc, loop stack and CN: streams, RS.TOP, the mark word, o0 to o7. -/
def CoreE.rollBoth (e : CoreE) (trapping : Option Bool) : CoreE :=
  ((e.rollStreams (e.rolls trapping false) false).rollStreams (e.rolls trapping true) true).restoreCk (e.rolls trapping false) e.prim.ckpt

/-- Both sequencers return to their checkpoints (R55). -/
def CoreE.restart (e : CoreE) (trapping : Option Bool) (cycle : Nat) : CoreE :=
  let e1 := e.rollBoth trapping
  { e1 with
    prim := e1.prim.rollback (e.rolls trapping false) cycle, second := e1.second.rollback (e.rolls trapping true) cycle }

/-! ## Traps (27 R433 to R438) -/

def codeTiming : BitVec 8 := 1
def codeEncoding : BitVec 8 := 2
def codeIllegal : BitVec 8 := 3
def codeBank : BitVec 8 := 4
def codeQueue : BitVec 8 := 5
def codeRemOrder : BitVec 8 := 6
def codeRemOver : BitVec 8 := 7
def codeFullEmpty : BitVec 8 := 8
def codeCap : BitVec 8 := 9
def codeLease : BitVec 8 := 10
def codeFence : BitVec 8 := 11
def codePage : BitVec 8 := 12
def codeData : BitVec 8 := 13
def codeDup : BitVec 8 := 14
def codeFormat : BitVec 8 := 15
def codeEmul : BitVec 8 := 16
def codeStraggler : BitVec 8 := 17
def codeClockLost : BitVec 8 := 18
def codeArith : BitVec 8 := 19
def codeTrap : BitVec 8 := 20
def codeSvc : BitVec 8 := 21

/-- TRAP.CAUSE (R433). -/
def causeWord (code : BitVec 8) (sec async mode : Bool) : Word :=
  (0 : BitVec 53) ++ BitVec.ofBool mode ++ BitVec.ofBool async ++ BitVec.ofBool sec ++ code

/-- A sequencer stops with its core (27 R443). -/
def Seq.haltNow (q : Seq) : Seq := { q with running := false, wasRunning := q.running || q.wasRunning }

/-- Halts a core: both sequencers stop, their checkpoints kept (27 R443, R437). -/
def Core.haltNow (y : Core) : Core :=
  { y with halted := true, e := { y.e with prim := y.e.prim.haltNow, second := y.e.second.haltNow } }

/-- A core that a halt or a trap has stopped in the middle of its task (27 R437, R443). -/
def CoreE.wasHalted (e : CoreE) : Bool := e.prim.wasRunning || e.second.wasRunning

/-- The entry of R436 on the core's registers: RS.TOP, the mark word and o0 to o7 restored (R55, 17 R296), checkpoints saved, TRAP registers written, MODE set, the trapping sequencer at the handler. -/
def CoreE.enter (e : CoreE) (sec : Bool) (r : TrapRec) (handler : BitVec 52) (cycle : Nat) : CoreE :=
  let e0 := e.rollBoth (some sec)
  let save (q : Seq) : Seq := { q with saved := q.ckpt, savedRunning := q.running, savedPaused := q.preempted, running := false,
                                       preempted := false, group := {}, newGroup := true, bWritten := [], timingRow := 0, priority := false }
  let e1 : CoreE := { e0 with prim := save e0.prim, second := save e0.second }
  let q := e1.sq sec
  { (e1.setSq sec { q with running := true, pc := handler, loops := [], restartNext := true, resumed := false,
                           nextIssue := cycle + 1 }) with
    trapCause := causeWord r.code sec r.async e.mode
    trapInfo := r.info
    trapAddr := r.addr
    trapPc := (e.sq sec).ckpt.pc.zeroExtend 64
    mode := true
    trapSec := sec }

/-- The handler address that takes a trap (R433): the partition's service handler for a service call and for clock-lost, else the context's. -/
def State.handlerOf (s : State) (c : Nat) (code : BitVec 8) : BitVec 52 :=
  match s.ctxOf c with
  | none => 0
  | some x =>
    if code = codeSvc ∨ code = codeClockLost then
      (match look s.parts x.part with | none => 0 | some p => p.service)
    else x.handler

/-- A handler address of 0 halts the context's cores (R436). -/
def State.haltCtx (s : State) (ctx : Nat) : State :=
  { s with clusters := s.clusters.map (fun p =>
      if p.2.ctx = some ctx then (p.1, { p.2 with cores := p.2.cores.map (fun q => (q.1, q.2.haltNow)) }) else p) }

/-- A write of a feed offset register (19 R330). -/
def PWrite.feed : PWrite → Option (Nat × BitVec 32)
  | .o n v => some (n, v)
  | _ => none

/-- A csrw of RS.TOP, or of RS.SPILL or RS.LIMIT, which empty the stack (17 R284). -/
def PWrite.ofStack : PWrite → Bool
  | .csr n _ => n == 0x020 || n == 0x022 || n == 0x023
  | _ => false

/-- A result in flight that holds such a csrw writes more after it. -/
def Pend.follow (p : Pend) (ws : List PWrite) : Pend := if p.writes.any PWrite.ofStack then { p with writes := p.writes ++ ws } else p

/-- The writes of RS.TOP and the mark word by a stack op come after those of a csrw in slot C of its bundle, which is in flight until the next cycle (05 R73, 27 R440). -/
def State.afterCsrw (s : State) (w : PWrite) : State :=
  s.modHere (fun y => { y with pending := y.pending.map (fun p => p.follow [w]) })

/-- o0 to o7 as they stand once every result in flight has landed. -/
def Core.feedsNow (y : Core) : Tbl (BitVec 32) :=
  (y.pending.map (fun p => p.writes.filterMap PWrite.feed)).flatten.foldl (fun t w => tset 0 t w.1 w.2) y.e.o

/-- Where the primary returns to its checkpoint, whose o0 to o7, RS.TOP and mark word are restored, no write in flight changes them (R55, 17 R285, 19 R330). -/
def Core.dropFeeds (trapping : Option Bool) (y : Core) : Core :=
  if y.e.rolls trapping false then { y with pending := y.pending.map (fun p =>
    ({ p with writes := p.writes.filter (fun w => w.feed.isNone) } : Pend).follow [.csr 0x020 (wordN y.e.prim.ckpt.rsTop), .mark y.e.prim.ckpt.mark]) } else y

/-- Taking a trap on a sequencer of a core: the one operation through which every trap goes (R55, R110, R433, R436, R437). -/
def State.deliver (s : State) (c k : Nat) (sec : Bool) (r : TrapRec) : State :=
  let s := s.modCore c k (fun y => { y with trapAt := s.cycle + 1 })
  let e := (s.core c k).e
  let q := e.sq sec
  let s1 := if r.code = codeTiming then s.modE c k (fun x => { x with cntTiming := x.cntTiming + 1 }) else s
  if r.code = codeTiming ∧ q.timingRow + 1 < 16 then
    (s1.modCore c k (Core.dropFeeds (some sec))).modE c k (fun x =>
      let y := x.restart (some sec) s.cycle
      y.setSq sec { (y.sq sec) with timingRow := q.timingRow + 1, priority := true })
  else
    let s2 := if r.code = codeData then s1.report "data-integrity" r.info.toNat else s1
    if e.mode ∧ r.code ≠ codeTiming then
      ((((((s2.modCore c k Core.haltNow).report "double trap" (causeWord r.code sec r.async e.mode).toNat).report
        "address" r.addr.toNat).report "first cause" e.trapCause.toNat).report "first pc" e.trapPc.toNat).report
        "first info" e.trapInfo.toNat).report "first address" e.trapAddr.toNat
    else if r.code = codeEmul then (s2.modCore c k (Core.dropFeeds (some sec))).modE c k (fun x => x.restart (some sec) s.cycle)
    else
      let h := s.handlerOf c r.code
      if h = 0 ∧ r.code ≠ codeSvc ∧ r.code ≠ codeClockLost then
        (s2.haltCtx (((s.cl c).ctx).getD 0)).report "unhandled trap" (causeWord r.code sec r.async e.mode).toNat
      else (s2.modCore c k (Core.dropFeeds (some sec))).modE c k (fun x => x.enter sec r h s.cycle)

/-- A trap at issue of the instruction at this site (R435 items 3 and 4): it is taken, and trapped tells the issue of a bundle to stop the bundle whole. -/
def State.raise (s : State) (r : TrapRec) : State :=
  { s.deliver s.cur.cl s.cur.core s.cur.sec r with trapped := some r }

/-- A precise trap's record: code, TRAP.INFO, TRAP.ADDR. -/
def trapR (code : BitVec 8) (info addr : Nat) : TrapRec :=
  { code := code, info := wordN info, addr := wordN addr, async := false }

/-- The address of the bundle, as TRAP.ADDR has it where no other is stated (05 R78). -/
def State.pcN (s : State) : Nat := s.cur.pc.toNat

/-- An illegal-instruction trap of the op at this site (05 R85). -/
def State.illegal (s : State) (reason : Nat) : TrapRec := trapR codeIllegal (s.cur.slot * 256 + reason) s.pcN

/-- A format fault (07 R108): identifier and reason. -/
def State.fmtFault (s : State) (tid reason : Nat) : TrapRec := trapR codeFormat (tid * 256 + reason) s.pcN

/-- A check: the trap, if its condition holds. -/
def trapIf (c : Bool) (r : TrapRec) : Option TrapRec := if c then some r else none

/-- The first check that fails (R435 item 4). -/
def firstTrap : List (Option TrapRec) → Option TrapRec
  | [] => none
  | some r :: _ => some r
  | none :: l => firstTrap l

/-- An instruction with its checks at issue: the trap, or its effect. -/
def State.checked (s : State) (t : Option TrapRec) (k : State → State) : Out :=
  match t with
  | some r => .next (s.raise r)
  | none => .next (k s)

/-- A pending fault of an engine, response or notice for a sequencer, taken at its next issue (R434). Of several that pool requests raised only the first is delivered (23 R378). -/
def State.postFault (s : State) (ctx c k : Nat) (sec : Bool) (r : TrapRec) : State :=
  s.modEOf ctx c k (fun e => let q := e.sq sec
    if r.ofPool && q.pend.any (fun x => x.ofPool) then e
    else e.setSq sec { q with pend := q.pend ++ [{ r with async := true }] })

/-- The primary sequencer of the lowest-numbered core of a mask (R434). -/
def lowestCore (mask : BitVec 8) : Nat := ((span 0 8).find? (fun i => mask.getLsbD i)).getD 0

/-- A sequencer that pre-emption stopped runs again (03 R56). -/
def Seq.unpause (q : Seq) (cycle : Nat) : Seq :=
  if q.preempted then { q with running := true, preempted := false, nextIssue := cycle + 1, group := {}, newGroup := true, bWritten := [] } else q

/-- Return from a trap (R438): MODE from TRAP.CAUSE bit 10, both sequencers to their saved checkpoints, the trapping one at TRAP.PC. One that pre-emption had stopped when the trap was taken stays stopped while a request stands, and goes on otherwise; it stands where it was stopped, the trapping one at its saved checkpoint (log entry 57). The fold cycles of a bundle that redirects by eret, trap or svc hold back nothing: 05 R66 lets no bundle issue in them, and counts taken branches and loop-backs only as redirects (DESIGN CHOICE, log entry 91). -/
def CoreE.leave (e : CoreE) (cycle : Nat) (asked : Bool) : CoreE :=
  let here (sec : Bool) : Bool := sec == e.trapSec && (e.sq sec).savedPaused
  let back (sec : Bool) (q : Seq) : Seq :=
    if q.savedRunning then { (q.resumeAt q.saved cycle) with ckpt := q.saved, running := true, bWritten := q.bWritten }
    else
      let r := if here sec then q.resumeAt q.saved cycle else q
      let p : Seq := { r with ckpt := q.saved, running := false, preempted := q.savedPaused, savedPaused := false }
      if asked then p else p.unpause cycle
  let e1 : CoreE := { e.restoreCk (e.prim.savedRunning || here false) e.prim.saved with
    mode := e.trapCause.getLsbD 10, prim := back false e.prim, second := back true e.second }
  let q := e1.sq e.trapSec
  e1.setSq e.trapSec { q with pc := e.trapPc.truncate 52, ckpt := { q.ckpt with pc := e.trapPc.truncate 52 } }

/-! ## Address checks (13 R233) -/

def pageFault (reason addr : Nat) : TrapRec := trapR codePage reason addr

/-- Range, alignment and length checks of a scratch access of n bytes at a. -/
def chkScratch (a n align : Nat) : Option TrapRec :=
  firstTrap [trapIf (decide (0x400000 < a + n)) (pageFault 4 a), trapIf (decide (a % align ≠ 0)) (pageFault 5 a)]

/-- The checks over several accesses of n bytes: every range check comes before any alignment check. -/
def chkScratchAll (as : List Nat) (n align : Nat) : Option TrapRec :=
  firstTrap [
    (as.find? (fun a => decide (0x400000 < a + n))).map (pageFault 4),
    (as.find? (fun a => decide (a % align ≠ 0))).map (pageFault 5)]

/-! ## The mailbox (27 R457) -/

/-- The turn of a command: before power-on nothing answers; while a change of role map is under way, which is one command until its last step, a command waits (R457, 01 R17). -/
def State.mailTurn (s : State) (i : MailCmd) (k : Out) : Out :=
  match s.boot, s.role with
  | .off, _ => .next s
  | .up, some _ => .next { s with mailQueue := s.mailQueue ++ [i] }
  | _, _ => k

/-- A status word: 0 done, 1 refused, 2 malformed. -/
def State.mailStatus (s : State) (n : Nat) : State := { s with outbox := s.outbox ++ [.status n] }

/-- A command of the mailbox in its turn, done or answered with another status; in recovery it is refused. -/
def State.mailbox (s : State) (i : MailCmd) (bad : Option Nat) (f : State → State) : Out :=
  s.mailTurn i (if s.boot = .recovery then .next (s.mailStatus 1)
    else match bad with
      | some n => .next (s.mailStatus n)
      | none => .next ((f s).mailStatus 0))

/-- The first condition that holds gives its status. -/
def refuseIf : List (Bool × Nat) → Option Nat
  | [] => none
  | (c, n) :: r => if c then some n else refuseIf r

end Sys2Proof.Machine
end

