-- ==== Sys2Proof/Machine/Operands.lean ====
section
/-! DEFINITION. Operand forms: scalar floating-point operands (09 R169), rows and elements of the vector views (15 R258 to R263), tensor identifier entries (07 R105 to R108), tile and accumulator views (13 R238), emulated ops (07 R110). -/

namespace Sys2Proof.Machine

open Sys2Proof

/-! ## Scalar floating-point operands -/

def ftyCode : FTy → Nat | .f64 => 0 | .f32 => 1 | .f16 => 2 | .bf16 => 3
def ftyFmt (t : FTy) : FFmt := fmtOf (ftyCode t)

/-- The operand bits that a type reads from a g register (R169). -/
def State.fOp (s : State) (t : FTy) (r : Reg) : Nat := (s.g r).toNat % 2 ^ (ftyFmt t).bits

/-- Latencies of R182. -/
def latArith : FTy → Nat := fun _ => 4
def latDiv : FTy → Nat | .f64 => 24 | .f32 => 14 | .f16 => 10 | .bf16 => 10
def latTrans : FTy → Nat | .f64 => 40 | .f32 => 22 | .f16 => 16 | .bf16 => 16

/-- A result written zero-extended to gD with its flags (R169). -/
def State.fRes (s : State) (d : Reg) (lat : Nat) (r : Nat × Fl) : State := s.wrG d (wordN r.1) lat r.2

/-- The condition codes of R173 as they are numbered. -/
def intCmp (code : Nat) (a b : Int) : Bool :=
  match code with
  | 0 => a == b
  | 1 => decide (a < b)
  | 2 => decide (a ≤ b)
  | 3 => false
  | 4 => a != b
  | 5 => decide (b < a)
  | 6 => decide (b ≤ a)
  | _ => true

/-! ## Tensor identifier entries -/

/-- The fields of an entry (R106). -/
structure TidE where
  valid : Bool
  format : Nat
  scale : Nat
  rows : Nat
  cols : Nat
  pitch : Nat
  scalebase : Nat
  fill : Word
  reserved : Bool
  deriving DecidableEq, Repr

def tidOf (q : Quads) : TidE where
  valid := bitOf q.q0 63
  format := bitsOf q.q0 59 56
  scale := bitsOf q.q0 55 54
  rows := bitsOf q.q0 47 32
  cols := bitsOf q.q0 31 16
  pitch := bitsOf q.q0 15 0
  scalebase := bitsOf q.q1 51 0
  fill := q.q2
  reserved := bitsOf q.q0 62 60 != 0 || bitsOf q.q0 53 48 != 0 || bitsOf q.q1 63 52 != 0 || q.q3 != 0

/-- Formats that may be block-scaled (R104). -/
def scalable (f : Nat) : Bool := f == 4 || f == 5 || f == 6 || f == 11 || f == 12

/-- The lowest reason for which an entry is ill-formed, 0 for none (R107, R108). A scale base that R106 says is 0 in the entry's scale mode, and is not, is ignored: R108 names no reason for it (log entry 33). -/
def TidE.bad (t : TidE) : Nat :=
  if !t.valid then 1
  else if 13 ≤ t.format then 2
  else if t.rows = 0 ∨ t.cols = 0 ∨ t.pitch = 0 then 3
  else if t.pitch * 64 < ceilDiv (t.cols * widthOf t.format) 8 then 4
  else if t.scale = 3 ∨ (t.scale ≠ 0 ∧ !scalable t.format) then 5
  else if t.scale = 1 ∧ 0x400000 < t.scalebase + t.rows * ceilDiv t.cols 32 then 6
  else if t.reserved then 7
  else 0

/-- The cluster's copy of the table (R105). -/
def Cluster.tid (x : Cluster) (n : Nat) : Quads := tget {} x.e.tid n
def State.tid (s : State) (n : Nat) : Quads := s.hereCl.tid n

/-- The format fault of an ill-formed entry (R108). -/
def State.chkTid (s : State) (n : Nat) : Option TrapRec :=
  let r := (tidOf (s.tid n)).bad
  trapIf (decide (r ≠ 0)) (s.fmtFault n r)

/-! ## Views -/

/-- Bytes of a view row (R72, R238). -/
def View.rb (v : View) (w : Nat) : Nat := ceilDiv (v.cols.toNat * w) 8
def View.row (v : View) (i : Nat) : Nat := v.base.toNat + 64 * v.pitch.toNat * i

/-- Whether a view is within the limits of R238, under the width and pitch of its entry. -/
def View.fits (v : View) (t : TidE) : Bool :=
  let rb := v.rb (widthOf t.format)
  !(decide (64 * v.pitch.toNat < rb) || decide (64 * t.pitch < rb) ||
    decide (0x40000 + 64 * v.pitch.toNat < v.base.toNat + 64 * v.pitch.toNat * v.rows.toNat + rb))

/-- The checks of a tile or accumulator view: its entry, then its limits (R108, R238 reason 8). -/
def State.chkView (s : State) (v : View) : Option TrapRec :=
  let n := v.tid.toNat
  firstTrap [s.chkTid n, trapIf (!v.fits (tidOf (s.tid n))) (s.fmtFault n 8)]

/-- The side-storage words that lose their bits when bytes at these arena offsets are written: those of elements of accumulator views in force (15 R261, 27 R444). -/
def sideWords (x : Cluster) (e : CoreE) (as : List Nat) : List Nat :=
  distinct ((e.av.map (fun p =>
    let v := p.2
    let w := widthOf (tidOf (x.tid v.tid.toNat)).format / 8
    let pb := 64 * v.pitch.toNat
    as.filterMap (fun a =>
      let off := a - v.base.toNat
      if v.base.toNat ≤ a ∧ 0 < pb ∧ 4 ≤ w ∧ off / pb < v.rows.toNat ∧ off % pb < v.cols.toNat * w
      then some ((a - off % pb % w) / 4) else none))).flatten) []

/-- An arena write of the core at this site, with the side words it clears. -/
def State.arenaW (s : State) (cs : List (Nat × Byte)) : PWrite :=
  .arena cs (sideWords s.hereCl s.e (cs.map (·.1)))

/-! ## Rows and elements of the vector views -/

/-- The arena offset of row n: of the shadow view for a duplicate in slot X (05 R76). Only ops of majors 0x20 to 0x2D use it in slot X. -/
def State.rowAt (s : State) (n : Nat) : Nat := (if s.cur.slot = 3 then s.e.svBase else s.e.vBase).toNat + 256 * n

/-- The 2,048-bit value of a row (R259). -/
def State.rowVal (s : State) (n : Nat) : Nat := natOf (readB s.here.arena (s.rowAt n) 256)

/-- Element e of width w of a row value (R259). -/
def elem (w row e : Nat) : Nat := row / 2 ^ (w * e) % 2 ^ w

/-- A data-integrity fault's TRAP.INFO (01 R27). -/
def integrityInfo (kind space check hop : Nat) : Nat := kind * 2048 + space * 512 + check * 16 + hop

/-- A read of arena bytes that meets an uncorrectable ECC error (R261). -/
def State.chkArena (s : State) (a n : Nat) : Option TrapRec :=
  ((span a n).find? (fun i => tget false s.here.arenaBad i)).map
    (fun i => trapR codeData (integrityInfo 1 3 11 11) (i / 64 * 64))

/-- The check of the rows that an op reads, each whole, its inactive elements and the bytes that the op does not use among them (DESIGN CHOICE, log entry 93). -/
def State.chkRows (s : State) (rs : List Nat) : Option TrapRec := firstTrap (rs.map (fun r => s.chkArena (s.rowAt r) 256))

/-- The active elements among n under a predicate (R260). -/
def State.active (s : State) (m : BitVec 3) (n : Nat) : List Nat := (span 0 n).filter (fun e => (s.mask m).getLsbD e)

/-- Elements of width w, at least 8, as arena bytes of a row from offset a. -/
def elemCells (a w : Nat) : List (Nat × Nat) → List (Nat × Byte)
  | [] => []
  | (e, v) :: r => cells (a + e * w / 8) (bytesOf (w / 8) v) ++ elemCells a w r

/-- A row value as arena bytes. -/
def rowCells (a row : Nat) : List (Nat × Byte) := cells a (bytesOf 256 row)

/-- The value with elements of width w, in ascending order. -/
def packRow (w : Nat) : List Nat → Nat
  | [] => 0
  | x :: r => x % 2 ^ w + 2 ^ w * packRow w r

def orFl : List (Nat × Fl) → Fl
  | [] => 0
  | (_, f) :: r => f ||| orFl r

/-- An elementwise op: f gives each active element of row D with its flags (R260, R263). -/
def State.vecW (s : State) (w : Nat) (m : BitVec 3) (d : Reg) (lat : Nat) (f : Nat → Nat × Fl) : State :=
  let es := s.active m (2048 / w)
  let rs := es.map (fun e => f e)
  s.pend lat [s.arenaW (elemCells (s.rowAt d.toNat) w (es.zip (rs.map (·.1))))] (orFl rs)

/-- A row written whole. -/
def State.rowW (s : State) (d : Reg) (lat : Nat) (row : Nat) (fl : Fl := 0) : State :=
  s.pend lat [s.arenaW (rowCells (s.rowAt d.toNat) row)] fl

def vtyWidth : VTy → Nat | .f64 => 64 | _ => 32
def tWidth (f64 : Bool) : Nat := if f64 then 64 else 32
def tFmt (f64 : Bool) : FFmt := if f64 then fmt64 else fmt32

/-! ## Emulated formats (07 R110) -/

/-- An op that decodes or encodes elements of format 11 or 12: with an emulation record of this bundle it writes the recorded effects; otherwise it does not issue, the trap goes to the control core, and the record of its effects is made. -/
def State.emulate (s : State) (lat : Nat) (ws : List PWrite) (fl : Fl) : Out :=
  let found := match s.me.emu with
    | none => none
    | some r => if r.pc = s.cur.pc then look r.effects s.cur.slot else none
  match found with
  | some (ws', fl') => .next (s.pend lat ws' fl')
  | none =>
    let old : EmuRec := match s.me.emu with
      | some r => if r.pc = s.cur.pc then r else { pc := s.cur.pc, effects := [] }
      | none => { pc := s.cur.pc, effects := [] }
    .next ((s.raise (trapR codeEmul 0 s.pcN)).modMe
      (fun q => { q with emu := some { old with effects := place old.effects s.cur.slot (ws, fl) } }))

/-! ## Scalar types (05 R82) -/

/-- Width in bytes of a scalar type code (05 R82). -/
def tyBytes (ty : BitVec 3) : Nat := 2 ^ (ty.toNat / 2)
/-- Even codes are the signed types. -/
def tySigned (ty : BitVec 3) : Bool := ty.toNat % 2 == 0

/-- The scalar of w bytes that a type extends to 64 bits. -/
def extendTy (ty : BitVec 3) (x : Nat) : Word := if tySigned ty then wordI (sextN (8 * tyBytes ty) x) else wordN x

end Sys2Proof.Machine
end

