-- ==== Sys2Proof/Machine/Memory.lean ====
section
/-! DEFINITION. Global memory: homes (11 R185, 13 R219 to R221), translation (27 R445 to R449), publication (11 R198 to R200), the snapshots of phases (11 R186 to R194, R459), and the seals of lines (01 R25 to R28). -/

namespace Sys2Proof.Machine

open Sys2Proof

/-! ## Clusters of a partition (01 R19) -/

/-- Computing layers of a partition, in ascending order. -/
def State.computeLayers (s : State) (p : Partition) : List Nat := p.layers.filter (fun l => s.roles.getD l true)

/-- Logical clusters of a partition (R19). -/
def State.clustersOf (s : State) (part : Nat) : Nat :=
  match look s.parts part with | none => 0 | some p => 24 * (s.computeLayers p).length

/-- The layer that bears a logical cluster. -/
def State.layerOf (s : State) (c : Nat) : Option Nat :=
  (look s.parts (c / 256)).bind (fun p => (s.computeLayers p)[c % 256 / 24]?)

/-! ## Instants (11 R188, R190)

An instant is the cycle, and within it a rank: publications first, then boundaries by layer, logical cluster, core, primary before secondary, then everything that counts as released when it is performed (R193, R459). -/

def instUnit : Nat := 2 ^ 20

/-- The instant of this cycle at which a boundary of a sequencer stands. -/
def State.boundInst (s : State) (cl k : Nat) (sec : Bool) : Nat :=
  s.cycle * instUnit + 1 + ((((s.layerOf cl).getD 6) * 256 + cl % 256) * 8 + k) * 2 + (if sec then 1 else 0)

/-- The instant of what counts as released when it is performed: after every boundary of its cycle. -/
def State.lateInst (s : State) : Nat := s.cycle * instUnit + (instUnit - 1)

/-- The instant of an exchange made in this cycle: before its boundaries (R200). -/
def State.exchInst (s : State) : Nat := s.cycle * instUnit

/-! ## Lines, granules and banks of scratch (13 R210, R211) -/

/-- Bank and parity group of a line number (R210). -/
def bankOf (line : Nat) : Nat := line % 32
def groupOf (line : Nat) : Nat := line % 32 / 8
/-- The parity group of a scratch offset (R210). -/
def groupAt (a : Nat) : Nat := a / 512 % 4

def setFE (t : Tbl Bool) (v : Bool) : List Nat → Tbl Bool
  | [] => t
  | g :: r => setFE (tset false t g v) v r

/-- The lines that accesses (offset, length) touch. -/
def linesOf (as : List (Nat × Nat)) : List Nat := distinct ((as.map (fun p => unitsOf 64 p.1 p.2)).flatten) []
/-- The granules that accesses touch. -/
def granulesOf (as : List (Nat × Nat)) : List Nat := distinct ((as.map (fun p => unitsOf 16 p.1 p.2)).flatten) []

/-- Bytes of a line that a set of writes covers. -/
def covered (cs : List (Nat × Byte)) (line : Nat) : Nat :=
  ((span (line * 64) 64).filter (fun a => cs.any (fun c => c.1 == a))).length

/-- Lines entering the write buffers of their banks (R211). -/
def bufAdd (t : Tbl (List Nat)) : List Nat → Tbl (List Nat)
  | [] => t
  | l :: r => bufAdd (tset [] t (bankOf l) (addNew l (tget [] t (bankOf l)))) r

/-- Whether every line finds room in its bank's buffer, of cap lines. -/
def bufRoom (t : Tbl (List Nat)) (cap : Nat) : List Nat → Bool
  | [] => true
  | l :: r =>
    let b := tget [] t (bankOf l)
    (b.contains l || decide (b.length < cap)) && bufRoom (tset [] t (bankOf l) (addNew l b)) cap r

/-- Bytes performed at the banks: every write of a granule clears its tag (R218); a line written whole loses its mark (01 R28). -/
def Cluster.put (x : Cluster) (cs : List (Nat × Byte)) : Cluster :=
  let ls := linesOf (cs.map (fun c => (c.1, 1)))
  { x with
    scratch := writeCells x.scratch cs
    capTag := setFE x.capTag false (granulesOf (cs.map (fun c => (c.1, 1))))
    marks := (ls.filter (fun l => covered cs l == 64)).foldl (fun t l => tset none t l none) x.marks
    buf := bufAdd x.buf ls }

/-- A byte of a parity bank: the XOR of the eight lines of its group at the row (R210). -/
def Cluster.parityByte (x : Cluster) (group row i : Nat) : Byte :=
  (span (8 * group) 8).foldl (fun b k => b ^^^ tget 0 x.scratch (2048 * row + 64 * k + i)) 0

/-- A byte of a line rebuilt from the other seven lines of its group and the parity bank (R212). -/
def Cluster.rebuiltByte (x : Cluster) (line i : Nat) : Byte :=
  let row := line / 32
  ((span (8 * groupOf line) 8).filter (· ≠ bankOf line)).foldl
    (fun b k => b ^^^ tget 0 x.scratch (2048 * row + 64 * k + i)) (x.parityByte (groupOf line) row i)

/-! ## Locations: bytes at their homes -/

/-- Where a location is: a physical address with the key index of its page (27 R448), an offset in a partition's layer store, or a scratch offset of a cluster. -/
inductive Loc
  | phys (pa : Nat) (key : Nat := 0)
  | layer (part off pa : Nat)
  | scratch (cl off : Nat)
  deriving DecidableEq, Repr

/-- The number under which phases and caches know a location. -/
def Loc.num : Loc → Nat
  | .phys pa _ => pa
  | .layer p off _ => 2 ^ 48 + p * 2 ^ 40 + off
  | .scratch c off => 2 ^ 52 + c * 2 ^ 22 + off

/-- HBM or LPDDR6 (27 R448). -/
def physOk (a : Nat) : Bool := decide (a < 0x6000000000) || (decide (0x8000000000 ≤ a) && decide (a < 0x10000000000))
def isLpddr (a : Nat) : Bool := decide (0x8000000000 ≤ a)

/-- The key value of a key index (27 R448): index 0 is no encryption, and an index without a loaded value has the value 0 (DESIGN CHOICE, log entry 31). -/
def State.keyVal (s : State) (i : Nat) : Option (BitVec 512) := if i = 0 then none else some (tget 0 s.keys i)

/-- A line of physical memory as it is read under a key (27 R448). Mem.phys holds what the key of its last write reads; another key gives free bytes (log entry 31). -/
def Mem.lineUnder (m : Mem) (key : Option (BitVec 512)) (line : Nat) : List Byte :=
  let w := tget none m.cipher line
  let bs := readB m.phys (64 * line) 64
  if w = key then bs else (span 0 64).map (fun i => (Config.recode w key line bs).getD i 0)

/-- A byte of physical memory as it is read under a key. -/
def Mem.byteUnder (m : Mem) (key : Option (BitVec 512)) (pa : Nat) : Byte :=
  if tget none m.cipher (pa / 64) = key then tget 0 m.phys pa else (m.lineUnder key (pa / 64)).getD (pa % 64) 0

/-- A line of physical memory encrypted anew under a key, as a write under the key needs. -/
def Mem.under (m : Mem) (key : Option (BitVec 512)) (line : Nat) : Mem :=
  if tget none m.cipher line = key then m
  else { m with phys := writeB m.phys (64 * line) (m.lineUnder key line), cipher := tset none m.cipher line key }

/-- Bytes read at physical addresses without a key, as page tables and the host's window are (DEDUCED, log entry 31). -/
def State.phys (s : State) (a n : Nat) : List Byte := (span a n).map (s.mem.byteUnder none)
def State.physQ (s : State) (a : Nat) : Word := wordOf (s.phys a 8)
def State.modMem (s : State) (f : Mem → Mem) : State := { s with mem := f s.mem }

def layerKey (p off : Nat) : Nat := p * 2 ^ 40 + off

/-- A layer-store line is filled from its frame at its first access, and takes the frame's mark (13 R221, 01 R28). -/
def State.fillLayer (s : State) (l : Loc) : State :=
  match l with
  | .layer p off pa =>
    let line := layerKey p (off / 64 * 64)
    if (tget none s.mem.layerFilled (line / 64)).isSome then s
    else s.modMem (fun m => { m with
      layer := writeB m.layer line (m.lineUnder none (pa / 64))
      layerFilled := tset none m.layerFilled (line / 64) (some (pa / 64 * 64))
      marks := tset none m.marks ((2 ^ 48 + line) / 64) ((tget none m.marks (pa / 64)).map (fun k => { k with hop := if isLpddr pa then 3 else 4 })) })
  | _ => s

/-- Whether a location's layer-store line has been filled. -/
def State.filled (s : State) (p off : Nat) : Bool := (tget none s.mem.layerFilled (layerKey p off / 64)).isSome

/-- The value at a home. -/
def State.homeByte (s : State) (l : Loc) : Byte :=
  match l with
  | .phys pa key => s.mem.byteUnder (s.keyVal key) pa
  | .layer p off pa =>
    if (tget none s.mem.layerFilled (layerKey p off / 64)).isSome then tget 0 s.mem.layer (layerKey p off) else s.mem.byteUnder none pa
  | .scratch c off => tget 0 (s.cl c).scratch off

/-- A new number for a write. -/
def State.bump (s : State) : State := { s with stamp := s.stamp + 1 }

/-- Who wrote a byte and from when on others see it: the number of the write, the sequencer if one made it, the instants of its release at cluster scope or wider, of its visibility outside its cluster (11 R189 to R193), and of its release to package scope or wider (R190). -/
structure WrInfo where
  w : Nat
  by_ : Option (Nat × Nat × Bool)
  rel : Option Nat
  vis : Option Nat
  wide : Option Nat
  deriving DecidableEq, Repr

/-- A write that counts as released when it is performed (R193, R459). -/
def State.openWr (s : State) (by_ : Option (Nat × Nat × Bool)) : WrInfo :=
  { w := s.stamp, by_ := by_, rel := some s.lateInst, vis := some s.lateInst, wide := some s.lateInst }

/-- A byte written at its home. The value before it is kept for the snapshots of phases in progress; a write of scratch enters its bank's buffer (13 R220). -/
def State.wrHome (s : State) (l : Loc) (b : Byte) (i : WrInfo) : State :=
  let s := s.fillLayer l
  let old := s.homeByte l
  let s := s.modMem (fun m => { m with hist := m.hist ++ [{ pa := l.num, byte := old, w := i.w, by_ := i.by_, rel := i.rel, vis := i.vis, wide := i.wide }] })
  match l with
  | .phys pa key => s.modMem (fun m => let m := m.under (s.keyVal key) (pa / 64)
                                     { m with phys := tset 0 m.phys pa b })
  | .layer p off _ => s.modMem (fun m => { m with layer := tset 0 m.layer (layerKey p off) b })
  | .scratch c off => s.modCl c (fun x => x.put [(off, b)])

/-- Bytes written at home at one instant. -/
def wrAll (i : WrInfo) : List (Loc × Byte) → State → State
  | [], s => s
  | (l, b) :: r, s => wrAll i r (s.wrHome l b i)

/-- Bytes that count as released when they are written; by_ is the sequencer that wrote them, if one did. -/
def State.wrHomes (s : State) (by_ : Option (Nat × Nat × Bool)) (l : List (Loc × Byte)) : State :=
  let t := s.bump
  wrAll (t.openWr by_) l t

/-! ## Line marks -/

def Loc.isScratch : Loc → Bool | .scratch _ _ => true | _ => false

/-- The mark of the line that holds a location (01 R26 to R28): a layer-store line not yet filled is its frame. -/
def State.markAt (s : State) (l : Loc) : Option LineMark :=
  match l with
  | .scratch c off => tget none (s.cl c).marks (off / 64)
  | .phys pa _ => tget none s.mem.marks (pa / 64)
  | .layer p off pa => if s.filled p off then tget none s.mem.marks (l.num / 64) else tget none s.mem.marks (pa / 64)

def State.setMark (s : State) (l : Loc) (m : Option LineMark) : State :=
  match l with
  | .scratch c off => s.modCl c (fun x => { x with marks := tset none x.marks (off / 64) m })
  | l => (s.fillLayer l).modMem (fun x => { x with marks := tset none x.marks (l.num / 64) m })

/-- Whether the line that holds a location is poisoned. -/
def State.poisoned (s : State) (l : Loc) : Bool := (s.markAt l).any (fun m => m.kind == 2)

/-- A line marked poisoned, counted for management (01 R28); one that is poisoned already is counted once. -/
def State.poison (s : State) (l : Loc) (hop : BitVec 4) : State :=
  let t := s.setMark l (some { kind := 2, hop := hop })
  if s.poisoned l then t else { t with poisonCount := s.poisonCount + 1, poisonLast := l.num / 64 * 64 }

/-- A data-integrity fault of a marked line that meets the check where it lies: the last hop is the one it left to come there (01 R26, R27). -/
def integrityTrap (m : LineMark) (space check addr : Nat) : TrapRec :=
  trapR codeData (integrityInfo m.kind.toNat space check m.hop.toNat) addr

/-- A data-integrity fault of a marked line that has just left a place, whose code is the last hop. -/
def integrityFrom (m : LineMark) (hop space check addr : Nat) : TrapRec :=
  integrityTrap { m with hop := BitVec.ofNat 4 hop } space check addr

/-- The fault of a scratch line that is read: at the bank for an uncorrectable ECC error (13 R215), else at the reader's check point, scratch being the hop it left. -/
def scratchTrap (m : LineMark) (check line : Nat) : TrapRec :=
  if m.kind = 1 then integrityTrap m 2 8 (line * 64) else integrityFrom m 8 2 check (line * 64)

/-- The check point of a home (01 R26). -/
def homeCheck : Loc → Nat
  | .phys pa _ => if isLpddr pa then 3 else 4
  | .layer _ _ _ => 5
  | .scratch _ _ => 8

/-- The fault of a line that enters its home with a failing seal: LPDDR6 checks each line as it enters (13 R226), a line that is poisoned already excepted. -/
def entryFault (l : Loc) (m : Option LineMark) (hop addr : Nat) : Option TrapRec :=
  match m with
  | none => none
  | some k => if homeCheck l = 3 ∧ k.kind ≠ 2 then some (integrityFrom k hop 1 3 addr) else none

/-! ## Translation (27 R445 to R449) -/

inductive Access | read | write | fetch | atomic
  deriving DecidableEq, Repr

/-- A page's leaf: its two quads and size. -/
structure Leaf where
  q0 : Word
  q1 : Word
  size : Nat
  deriving DecidableEq, Repr

def pageSize (level : Nat) (big : Bool) : Nat :=
  match level with
  | 1 => if big then 0x10000 else 0x1000
  | 2 => if big then 0x4000000 else 0x200000
  | _ => if big then 0x80000000 else 0x40000000

def frameOf (q0 : Word) : Nat := bitsOf q0 51 12 * 4096

/-- An ill-formed non-leaf entry: only valid, leaf and frame are used (R446). -/
def tableBad (q0 q1 : Word) : Bool :=
  bitsOf q0 61 52 != 0 || bitsOf q0 11 0 != 0 || bitOf q0 12 || q1 != 0 || !physOk (frameOf q0) ||
    !physOk (frameOf q0 + 0x1FFF)

/-- An ill-formed leaf at index i of the table at t (R446, R447, R221). -/
def State.leafBad (s : State) (t i level : Nat) (q0 q1 : Word) : Bool :=
  let big := bitOf q0 55
  let size := pageSize level big
  let home := bitsOf q0 58 57
  let place := bitsOf q1 37 0
  let n := if big then size / pageSize level false else 1
  let run := span (t + 16 * (i / n * n)) n
  bitsOf q0 54 52 != 0 || bitsOf q0 11 0 != 0 || bitsOf q1 45 38 != 0 ||
    (decide (home = 0 ∨ home = 3) && decide (place ≠ 0)) || (decide (home = 2) && decide (place % size ≠ 0)) ||
    decide (frameOf q0 % size ≠ 0) || !physOk (frameOf q0) || !physOk (frameOf q0 + size - 1) ||
    (big && !((span 0 run.length).all (fun j =>
      s.physQ (t + 16 * (i / n * n + j)) == q0 && s.physQ (t + 16 * (i / n * n + j) + 8) == q1)))

/-- The walk from a table, over the levels left: the leaf, or the reason of a page fault. -/
def State.walkFrom (s : State) (va t : Nat) : List (Nat × Nat) → Except Nat Leaf
  | [] => .error 10
  | (sh, level) :: r =>
    let i := va / 2 ^ sh % (if level = 5 then 16 else 512)
    let q0 := s.physQ (t + 16 * i)
    let q1 := s.physQ (t + 16 * i + 8)
    if !bitOf q0 63 then .error 1
    else if bitOf q0 62 then
      (if 4 ≤ level ∨ s.leafBad t i level q0 q1 = true then .error 10
       else .ok { q0 := q0, q1 := q1, size := pageSize level (bitOf q0 55) })
    else if level = 1 ∨ tableBad q0 q1 = true then .error 10
    else s.walkFrom va (frameOf q0) r

def walkLevels : List (Nat × Nat) := [(48, 5), (39, 4), (30, 3), (21, 2), (12, 1)]

/-- A leaf whose page is too large for its home (13 R220). -/
def Leaf.tooBig (l : Leaf) : Bool :=
  let home := bitsOf l.q0 58 57
  (decide (home = 1) && decide (0x10000 < l.size)) || (decide (home = 2) && decide (0x4000000 < l.size))

def Leaf.foreign (l : Leaf) (ctx : Nat) : Bool :=
  let owner := bitsOf l.q1 63 52
  decide (owner ≠ ctx) && decide (owner ≠ 0xFFF)

/-- The reason of a permission that is lacking. -/
def Leaf.denies (l : Leaf) (acc : Access) : Option Nat :=
  let rd := bitOf l.q0 61
  let wr := bitOf l.q0 60
  match acc with
  | .read => if rd then none else some 2
  | .write => if wr then none else some 3
  | .fetch => if bitOf l.q0 59 then none else some 8
  | .atomic => if !rd then some 2 else if !wr then some 3 else none

/-- Checks of a leaf's fields in the order 11, 9, then 2, 3 or 8 (R449). -/
def Leaf.check (l : Leaf) (ctx : Nat) (acc : Access) : Option Nat :=
  if l.tooBig then some 11 else if l.foreign ctx then some 9 else l.denies acc

/-- The checks of a piece of a transfer: permission before OWNER (13 R231). -/
def Leaf.checkPiece (l : Leaf) (ctx : Nat) (acc : Access) : Option Nat :=
  if l.tooBig then some 11
  else match l.denies acc with
    | some r => some r
    | none => if l.foreign ctx then some 9 else none

/-- The translation held for a page, by cluster (27 R451). -/
def State.tlbHit (s : State) (cl : Option Nat) (ctx va : Nat) : Option TlbEntry :=
  s.mem.tlb.find? (fun t => t.cl == cl && t.ctx == ctx && decide (t.page ≤ va) && decide (va < t.page + t.size))

/-- The leaf of an address in a context, or the reason of the page fault. A translation still held may be used in place of the tables until it is dropped (R451): where the two differ the choice is free (log entry 15). -/
def State.leafOf (s : State) (cl : Option Nat) (ctx va : Nat) : Except Nat Leaf :=
  if 2 ^ 52 ≤ va then .error 12
  else
    let root := match look s.ctxs ctx with | none => 0 | some x => x.root
    let w := s.walkFrom va root walkLevels
    match s.tlbHit cl ctx va with
    | none => w
    | some t =>
      let h : Leaf := { q0 := t.q0, q1 := t.q1, size := t.size }
      match w with
      | .ok l => if l = h then .ok l else if Config.staleTlb s.free then .ok h else .ok l
      | .error r => if Config.staleTlb s.free then .ok h else .error r

/-- The translation is held, and the free choice made is counted. -/
def State.tlbFill (s : State) (cl : Option Nat) (ctx va : Nat) : State :=
  match s.leafOf cl ctx va with
  | .error _ => { s with free := s.free + 1 }
  | .ok l =>
    let page := va / l.size * l.size
    let keep := s.mem.tlb.filter (fun t => !(t.cl == cl && t.ctx == ctx && decide (t.page = page)))
    { s with free := s.free + 1, mem := { s.mem with tlb := keep ++
      [{ part := s.partOfCtx ctx, cl := cl, ctx := ctx, page := page, size := l.size, q0 := l.q0, q1 := l.q1 }] } }

/-- Bytes of layer store of a partition (13 R221). -/
def State.layerBytes (s : State) (part : Nat) : Nat :=
  match look s.parts part with
  | none => 0
  | some p => 0x12000000 * (p.layers.filter (fun l => !(s.roles.getD l true))).length

/-- Whether an offset of layer store lies on a layer that leaves memory-only role, whose lines go back to their frames from step 2 of the change on (01 R17). -/
def State.storeLeaves (s : State) (part off : Nat) : Bool :=
  match s.role, look s.parts part with
  | some r, some p => (r.step == .flush || r.step == .dark) &&
      (match (p.layers.filter (fun l => !r.old.getD l true))[off / 0x12000000]? with | none => false | some l => r.new.getD l true)
  | _, _ => false

/-- The home of a translated address (13 R219, R221); a line that has gone back to its frame in a change of role map stays there (01 R17); with the key index of its page; keys of layer-store and scratch pages are ignored, also where a layer-store page falls back to its frame (27 R448). A scratch page that runs past the last scratch offset, or names a cluster that is not there, is read and written without a fault (DESIGN CHOICE, log entry 86). -/
def State.locOf (s : State) (part : Nat) (l : Leaf) (va : Nat) : Loc :=
  let home := bitsOf l.q0 58 57
  let place := bitsOf l.q1 37 0
  let off := va % l.size
  let pa := frameOf l.q0 + off
  if home = 1 then .scratch (clKey part (place / 2 ^ 22)) (place % 2 ^ 22 + off)
  else if home = 2 ∧ place + l.size ≤ s.layerBytes part ∧ (s.storeLeaves part (place + off) && !s.filled part (place + off)) = false then
    .layer part (place + off) pa
  else .phys pa (if home = 2 then 0 else bitsOf l.q1 51 46)

/-- Pages never cached (R219). -/
def Leaf.never (l : Leaf) : Bool := bitsOf l.q0 58 57 == 3

/-! ## L2 slices (01 R11, R16, R20)

Mem.phys holds the value of each line at its home, whether the slice or the frame has it; Mem.l2 says which lines the slices hold. -/

/-- The hash of R20. -/
def sliceHash (pa : Nat) : Nat := (pa / 2 ^ 6 % 2 ^ 16) ^^^ (pa / 2 ^ 22 % 2 ^ 16) ^^^ (pa / 2 ^ 38 % 2 ^ 14)

/-- The slice of a partition that homes a line: 96 × the place of its layer among the compute layers, plus the slice within the layer (R20). -/
def State.sliceOf (s : State) (part pa : Nat) : Option Nat :=
  let n := s.clustersOf part / 24
  if n = 0 then none else some (sliceHash pa % (96 * n))

/-- The key of a slice in Mem.l2. -/
def l2Key (part slice : Nat) : Nat := 1024 * part + slice

/-- Lines that a slice of 2 MiB holds (01 R11). -/
def sliceLines : Nat := 32768

/-- A line enters the slice that homes it; a slice that is full gives up the line it took first. -/
def State.l2Enter (s : State) (part pa : Nat) : State :=
  match s.sliceOf part pa with
  | none => s
  | some i =>
    let held := tget [] s.mem.l2 (l2Key part i)
    if held.contains (pa / 64) then s
    else s.modMem (fun m => { m with l2 := tset [] m.l2 (l2Key part i) ((if held.length < sliceLines then held else held.drop 1) ++ [pa / 64]) })

/-- The slices of some layers of a partition let their lines go; the lines stand at their frames (R17 step 2). -/
def State.l2Flush (s : State) (part : Nat) (slices : List Nat) : State :=
  s.modMem (fun m => { m with l2 := m.l2.filter (fun p => !(p.1 / 1024 == part && slices.contains (p.1 % 1024))) })

/-- An access of a cluster to a page cached normally brings its line into the slice (13 R219). -/
def State.l2Touch (s : State) (part : Nat) (l : Leaf) (loc : Loc) : State :=
  match loc with
  | .phys pa _ => if l.never then s else s.l2Enter part pa
  | _ => s

/-- The last place that a line leaves on its way from its home to an agent of a cluster (01 R26, 13 R219). -/
def hopOf (l : Leaf) (loc : Loc) : Nat :=
  match loc with
  | .scratch _ _ => 8
  | .layer _ _ _ => 5
  | .phys pa _ => if l.never then (if isLpddr pa then 3 else 4) else 7

/-- Translation and checks of one access: the leaf, or a page fault at the address (R449). -/
def State.xlate (s : State) (cl : Option Nat) (ctx va : Nat) (acc : Access) : Except TrapRec Leaf :=
  match s.leafOf cl ctx va with
  | .error r => .error (pageFault r va)
  | .ok l =>
    match l.check ctx acc with
    | some r => .error (pageFault r va)
    | none => .ok l

/-! ## Publication (13 R254, 11 R198 to R200) -/

/-- The live backing at an instant: exchanges after it are undone. -/
def State.liveAt (s : State) (ctx idx inst : Nat) (q : Quads) : Bool :=
  let later := (s.mem.exch.filter (fun x => x.ctx == ctx && x.idx == idx && decide (inst < x.at_))).length
  if later % 2 = 0 then bitOf q.q0 62 else !bitOf q.q0 62

/-- The registered buffer that holds an address. -/
def pubHit (va : Nat) : Tbl Quads → Option (Nat × Quads)
  | [] => none
  | (i, q) :: r =>
    let base := bitsOf q.q0 39 0 * 4096
    if bitOf q.q0 63 && decide (base ≤ va) && decide (va < base + bitsOf q.q0 61 40 * 4096) then some (i, q) else pubHit va r

/-- The key index of a location's page. -/
def Loc.key : Loc → Nat
  | .phys _ key => key
  | _ => 0

/-- The location of an access: reads go to the backing that was live at the reader's phase start, writes to the shadow (R198), under the key of the page. -/
def State.pubLoc (s : State) (ctx va inst : Nat) (wr : Bool) (l : Loc) : Loc :=
  match look s.ctxs ctx with
  | none => l
  | some x =>
    match pubHit va x.pubs with
    | none => l
    | some (i, q) =>
      let live := s.liveAt ctx i (if wr then s.lateInst else inst) q
      let one := if wr then !live else live
      let back := if one then bitsOf q.q2 39 0 else bitsOf q.q1 39 0
      .phys (back * 4096 + (va - bitsOf q.q0 39 0 * 4096)) l.key

/-- Whether a line of a transfer is still to be written into a registered buffer. -/
def Xfer.writesTo (t : Xfer) (ctx : Nat) (pubs : Tbl Quads) (idx : Nat) : Bool :=
  t.ctx == ctx && t.lines.any (fun l => match l.dst with
    | .glob va => (match pubHit va pubs with | none => false | some (i, _) => i == idx)
    | _ => false)

/-- Whether bytes from an address on, of a context, lie in a registered buffer. -/
def inBuffer (ctx va n pctx idx : Nat) (pubs : Tbl Quads) : Bool :=
  ctx == pctx && (span va n).any (fun a => match pubHit a pubs with | none => false | some (i, _) => i == idx)

/-- Whether a stream's packet that is kept back is to write a registered buffer. -/
def Stream.writesTo (t : Stream) (ctx : Nat) (pubs : Tbl Quads) (idx : Nat) : Bool :=
  match t.toWrite with
  | none => false
  | some (va, n) => inBuffer t.ctx va n ctx idx pubs

/-- Whether some agent has not passed a boundary at or after an exchange (R200, R202): a running sequencer whose phase began before it, or an operation that started before it, a packet of the command processor among them; not one whose own writes to the buffer the exchange holds. -/
def State.pubBehind (s : State) (e : Exch) (pubs : Tbl Quads) : Bool :=
  s.parts.any (fun p => p.2.streams.any (fun q => match q.2.bind (fun t => t.began.map (fun b => (t, b))) with
    | none => false
    | some (t, n, at_) => decide (at_ < e.at_) && !(decide (e.asked < n) && t.writesTo e.ctx pubs e.idx))) ||
  s.clusters.any (fun p => p.2.cores.any (fun q =>
    (q.2.e.prim.running && decide (q.2.e.prim.phase < e.at_)) || (q.2.e.second.running && decide (q.2.e.second.phase < e.at_)))) ||
  s.xfers.any (fun t => decide (t.born < e.at_) && !(decide (e.asked < t.id) && t.writesTo e.ctx pubs e.idx))

/-- Whether an exchange holds, or has held, a write to its buffer with a number in flight: one issued after the publish, and before every agent had passed a boundary (R200). -/
def Exch.held (e : Exch) (id : Nat) : Bool := decide (e.asked < id) && e.freed.all (fun n => decide (id < n))

/-- Exchanges hold writes no longer once no agent is behind them (R200). -/
def State.freeExch (s : State) : State :=
  s.modMem (fun m => { m with exch := m.exch.map (fun e => if e.freed.isNone && (match look s.ctxs e.ctx with | none => true | some x => !s.pubBehind e x.pubs)
    then { e with freed := some s.fresh } else e) })

/-- Whether a write to an address, number id in flight, is held: a publication asked for before it has not made its exchange, or an agent is still in a phase from before one (R200). -/
def State.pubHeld (s : State) (ctx va id : Nat) : Bool :=
  match look s.ctxs ctx with
  | none => false
  | some x =>
    match pubHit va x.pubs with
    | none => false
    | some (i, _) => s.pubReqs.any (fun r => !r.done && r.ctx == ctx && r.idx == i && decide (r.asked < id)) ||
        s.mem.exch.any (fun e => e.ctx == ctx && e.idx == i && e.freed.isNone && e.held id)

/-- Whether a lease's strided range holds a physical address (R206). -/
def Grant.covers (g : Grant) (pa : Nat) : Bool :=
  let off := pa - g.base
  let i := if g.stride = 0 then 0 else min (off / g.stride) (g.count - 1)
  decide (g.base ≤ pa) && decide (off - g.stride * i < g.width)

/-- Whether a lease that this package has granted over its memory delays a write of n bytes at a home: one of another holder, not yet expired (R206, R207). -/
def State.grantHolds (s : State) (peer : Option Nat) (l : Loc) (n : Nat) : Bool :=
  let at_ (pa : Nat) : Bool :=
    s.mem.granted.any (fun g => some g.peer != peer && decide (s.now < g.expiry) && (span pa n).any g.covers)
  match l with
  | .phys pa _ => at_ pa
  | .layer _ _ pa => at_ pa
  | .scratch _ _ => false

/-! ### Lazy units (03 R60) -/

/-- Owner tags are context ids plus one. -/
def tagOf (ctx : Nat) : Nat := ctx + 1

/-- A lazy unit under another tag has been touched: its move begins. -/
def State.touch (s : State) (c k : Nat) (u : UnitKind) (idx : Nat) : State :=
  if (s.cl c).touched.any (fun t => t.1 == k && t.2.1 == u && t.2.2.1 == idx) then s
  else s.modCl c (fun x => { x with touched := x.touched ++ [(k, u, idx, s.tick)] })

/-- Whether the parity group of a scratch offset carries a context's tag. -/
def State.ownsGroup (s : State) (c ctx off : Nat) : Bool := tget 0 (s.cl c).groupTag (groupAt off) == tagOf ctx

/-- Whether a scratch offset on a page that a context has pinned in a cluster lies under another tag while the cluster runs the context: an access waits for the unit (03 R60; log entry 86). -/
def State.pinForeign (s : State) (ctx c off : Nat) : Bool := (s.cl c).ctx == some ctx && !s.ownsGroup c ctx off

/-! ### The read ports of the banks (13 R211) -/

/-- The ports that a write of n bytes of scratch uses: cluster, line, and that it is written. -/
def writePorts (c off n : Nat) : List (Nat × Nat × Bool) := (unitsOf 64 off n).map (fun x => (c, x, true))

/-- Whether a bank's port can serve an engine's access to a line in this cycle: no core read of another line and no drain of a buffer of 16 lines or more comes before it, and no other engine has the port; reads of one line are one access. -/
def State.portFree (s : State) (p : Nat × Nat × Bool) : Bool :=
  let x := s.cl p.1
  let b := bankOf p.2.1
  let cores := (x.reads.filter (fun r => decide (r.cycle ≤ s.cycle) && bankOf r.line == b)).map (·.line)
  (if p.2.2 then cores.isEmpty else cores.all (· == p.2.1)) &&
  !(cores.isEmpty && decide (16 ≤ (tget [] x.buf b).length)) &&
  (x.portUsed.filter (fun u => bankOf u.1 == b)).all (fun u => u.1 == p.2.1 && !u.2 && !p.2.2)

/-- The ports that an access uses are taken. -/
def State.takePorts (s : State) (ps : List (Nat × Nat × Bool)) : State :=
  ps.foldl (fun t p => t.modCl p.1 (fun x => { x with portUsed := x.portUsed ++ [p.2] })) s

/-- The ports that bytes written at their homes use, on pages pinned in scratch (R220). -/
def locPorts (ls : List (Loc × Byte)) : List (Nat × Nat × Bool) :=
  (ls.filterMap (fun p => match p.1 with | .scratch c off => some (c, off / 64, true) | _ => none)).eraseDups

/-- Whether the lines of a write can take it at their homes: a line of a page pinned in scratch finds its bank's port and room in its buffer, as an engine's writes do (13 R211, R220), and no lease granted to another delays it (R207). -/
def State.homeRoom (s : State) (ctx va n : Nat) (peer : Option Nat) : Bool :=
  (unitsOf 64 va n).all (fun l =>
    let a := max va (64 * l)
    match s.xlate none ctx a .write with
    | .error _ => true
    | .ok f => match s.pubLoc ctx a s.lateInst true (s.locOf (s.partOfCtx ctx) f a) with
      | .scratch c off => bufRoom (s.cl c).buf 8 [off / 64] && s.portFree (c, off / 64, true) && !s.pinForeign ctx c off
      | loc => !s.grantHolds peer loc (min (va + n) (64 * l + 64) - a))

/-- Whether a write of bytes is held: by a publication (11 R200), or at its home; id is its number in flight, peer the package whose write it is, where another's. -/
def State.pubWait (s : State) (ctx va n id : Nat) (peer : Option Nat := none) : Bool :=
  (span va n).any (fun a => s.pubHeld ctx a id) || !s.homeRoom ctx va n peer

/-- The units under another tag that a held write waits for are touched (03 R60). -/
def State.touchVa (s : State) (ctx va n : Nat) : State :=
  (unitsOf 64 va n).foldl (fun t l =>
    let a := max va (64 * l)
    match t.xlate none ctx a .write with
    | .error _ => t
    | .ok f => match t.pubLoc ctx a t.lateInst true (t.locOf (t.partOfCtx ctx) f a) with
      | .scratch c off => if t.pinForeign ctx c off then t.touch c 0 .group (groupAt off) else t
      | _ => t) s

/-! ## Versions of a location (11 R187 to R193)

The writes of a location in its coherence order, as a cluster sees them: those performed at home, then those that its cluster cache holds. Version 0 is the initial value. -/

/-- A write, with the value that it left; held, for one that the cluster cache holds, is the mark of the line that brought it. -/
structure Ver where
  byte : Byte
  w : Nat
  by_ : Option (Nat × Nat × Bool)
  rel : Option Nat
  vis : Option Nat
  wide : Option Nat
  held : Option (Option LineMark)
  deriving DecidableEq, Repr

/-- The value before the first of some writes of a location. -/
def valBefore (n : Nat) (now : Byte) : List OldByte → Byte
  | [] => now
  | h :: r => if h.pa = n then h.byte else valBefore n now r

/-- The writes performed at home. -/
def homeVers (n : Nat) (now : Byte) : List OldByte → List Ver
  | [] => []
  | h :: r =>
    if h.pa = n then { byte := valBefore n now r, w := h.w, by_ := h.by_, rel := h.rel, vis := h.vis, wide := h.wide, held := none } :: homeVers n now r
    else homeVers n now r

/-- The writes that a cluster cache holds. -/
def heldVers (n cl : Nat) (hs : List Held) : List Ver :=
  (hs.filter (fun h => h.pa == n)).map (fun h =>
    { byte := h.byte, w := h.id, by_ := some (cl, h.core, h.sec), rel := h.released, vis := none, wide := none, held := some h.mark })

def State.versOf (s : State) (cl : Nat) (l : Loc) : List Ver :=
  homeVers l.num (s.homeByte l) s.mem.hist ++ heldVers l.num cl (s.cl cl).held

/-- The number of the last version that satisfies a test, 0 where none does; i counts the versions passed, b is the last found. -/
def lastVer (f : Ver → Bool) : List Ver → Nat → Nat → Nat
  | [], _, b => b
  | v :: r, i, b => lastVer f r (i + 1) (if f v then i + 1 else b)

/-- The value of a numbered version. -/
def State.verByte (s : State) (l : Loc) (vs : List Ver) (i : Nat) : Byte :=
  match i with
  | 0 => valBefore l.num (s.homeByte l) s.mem.hist
  | n + 1 => match vs[n]? with | some v => v.byte | none => s.homeByte l

def Ver.mine (cl k : Nat) (sec : Bool) (v : Ver) : Bool := v.by_ == some (cl, k, sec)
def Ver.ours (cl : Nat) (v : Ver) : Bool := match v.by_ with | some (c, _, _) => c == cl | none => false
def notAfter (inst : Nat) (r : Option Nat) : Bool := match r with | some x => decide (x ≤ inst) | none => false

/-- Whether two clusters stand on one layer (01 R19). -/
def sameLayer (a b : Nat) : Bool := a / 256 == b / 256 && a % 256 / 24 == b % 256 / 24

/-- The instant from which a reader of a cluster sees a write in its snapshots: that of a release to a scope that holds the reader (R190). -/
def Ver.seenBy (v : Ver) (cl : Nat) : Option Nat :=
  match v.by_ with
  | some (c, _, _) => if sameLayer c cl then v.vis else v.wide
  | none => v.wide

/-- The version that a plain read in a phase must at least return: the snapshot's, the sequencer's own last, a mate's released before the phase (R190, R191), and what it has read before (R187). -/
def leastVer (cl k : Nat) (sec : Bool) (phase read : Nat) (vs : List Ver) : Nat :=
  max (max (lastVer (fun v => notAfter phase (v.seenBy cl)) vs 0 0) (lastVer (Ver.mine cl k sec) vs 0 0))
    (max (lastVer (fun v => v.ours cl && notAfter phase v.rel) vs 0 0) read)

/-- The latest version that it may return: that, or the last write of its cluster (R191). -/
def mostVer (cl least : Nat) (vs : List Ver) : Nat := max least (lastVer (Ver.ours cl) vs 0 0)

/-- The version that a read of the location returned before, or, where a later write of the same sequencer took its place, that one. -/
def readVer (x : Option Seen) (cl : Nat) (vs : List Ver) : Nat :=
  match x with
  | none => 0
  | some e =>
    if vs.any (fun v => v.w == e.w) then lastVer (fun v => v.w == e.w) vs 0 0
    else match vs.findIdx? (fun v => v.ours cl && decide (e.w ≤ v.w)) with
      | some i => if e.w = 0 then 0 else i + 1
      | none => 0

/-- The version of a location that a sequencer reads in a phase, and the state with the choice made (R190, R191). A choice stands for the phase until a mate writes the location. -/
def State.pickVer (s : State) (cl k : Nat) (sec : Bool) (phase n : Nat) (vs : List Ver) : Nat × State :=
  let old := (s.sq cl k sec).seen.find? (fun e => e.loc == n)
  let before := readVer old cl vs
  let lo := leastVer cl k sec phase before vs
  let hi := mostVer cl lo vs
  let kept := match old with
    | some e => e.phase == phase && decide (lo ≤ before) && !vs.any (fun v => v.ours cl && decide (e.at_ < v.w))
    | none => false
  if lo = hi then (lo, s)
  else if kept then (before, s)
  else
    let i := if Config.mateEarly s.free then hi else lo
    let e : Seen := { loc := n, w := (match i with | 0 => 0 | j + 1 => match vs[j]? with | some v => v.w | none => 0),
                      phase := phase, at_ := s.stamp }
    (i, { (s.modSq cl k sec (fun q => { q with seen := q.seen.filter (fun x => x.loc != n) ++ [e] })) with free := s.free + 1 })

/-- The mark of a version's line, with the place that the line leaves as its hop: the cluster cache for a write that it holds, else the home. -/
def State.verMark (s : State) (l : Loc) (vs : List Ver) (hop i : Nat) : Option LineMark :=
  let home := (s.markAt l).map (fun m => { m with hop := BitVec.ofNat 4 hop })
  match i with
  | 0 => home
  | n + 1 => match (vs[n]?).bind (fun v => v.held) with
    | some m => m.map (fun k => { k with hop := 7 })
    | none => home

/-- One byte read by a sequencer in a phase (R190, R191), with the mark of the line that it comes from; hop is the place that the home's line leaves. -/
def State.seqByteAt (s : State) (cl k : Nat) (sec : Bool) (phase : Nat) (l : Loc) (hop : Nat) : Byte × Option LineMark × State :=
  let vs := s.versOf cl l
  let (i, t) := s.pickVer cl k sec phase l.num vs
  (s.verByte l vs i, s.verMark l vs hop i, t)

/-! ## Pool locations as phases know them (11 R190, R205) -/

/-- The number of a pool location as a partition's clusters and cache know it. -/
def poolNum (part : Nat) (o : BitVec 40) (a : Nat) : Nat := 2 ^ 60 + (part * 2 ^ 40 + o.toNat) * 2 ^ 48 + a

/-- The writes that a cluster's pool write buffer holds, oldest first. -/
def Cluster.poolHeld (x : Cluster) : List Held := (x.pwb.map (fun w => w.held)).flatten

/-- A pool byte that a sequencer reads in a phase: one of the writes of its cluster's buffer (23 R371), or of the versions of a resident copy whose byte is now; none where the pool must be asked. -/
def State.poolByteAt (s : State) (cl k : Nat) (sec : Bool) (phase n : Nat) (now : Option Byte) : Option Byte × State :=
  let home := match now with | none => [] | some b => homeVers n b s.mem.hist
  let vs := home ++ heldVers n cl (s.cl cl).poolHeld
  let (i, t) := s.pickVer cl k sec phase n vs
  (match i with
   | 0 => now.map (fun b => valBefore n b s.mem.hist)
   | j + 1 => (vs[j]?).map (fun v => v.byte), t)

/-- The version of a location that an agent reads which is no sequencer: of a cluster, its cluster cache, then the home; elsewhere the last write that is visible outside its writer's cluster (R191 to R193). -/
def State.agentVer (s : State) (cl : Option Nat) (l : Loc) : List Ver × Nat :=
  match cl with
  | none =>
    let vs := homeVers l.num (s.homeByte l) s.mem.hist
    (vs, lastVer (fun v => v.vis.isSome) vs 0 0)
  | some c =>
    let vs := s.versOf c l
    (vs, lastVer (fun v => v.vis.isSome || v.ours c) vs 0 0)

/-- What such an agent reads. -/
def State.agentByte (s : State) (cl : Option Nat) (l : Loc) : Byte := s.verByte l (s.agentVer cl l).1 (s.agentVer cl l).2

/-- The mark of the line that such an agent reads; hop is the place that the home's line leaves. -/
def State.agentMark (s : State) (cl : Option Nat) (l : Loc) (hop : Nat) : Option LineMark :=
  s.verMark l (s.agentVer cl l).1 hop (s.agentVer cl l).2

/-! ## Writes of sequencers, releases and boundaries (11 R188 to R192, R459) -/

/-- Lines that the cluster cache of 512 KiB holds (01 R11). -/
def cacheLines : Nat := 8192

/-- Whether a line finds room in the cluster cache (R192). -/
def Cluster.cacheRoom (x : Cluster) (line : Nat) : Bool :=
  let ls := distinct (x.held.map (fun h => h.pa / 64)) []
  ls.contains line || decide (ls.length < cacheLines)

/-- One byte written by the op of a sequencer that is numbered op: it enters the cluster cache unreleased; on a never-cached page it is performed at its home and counts as released, on a scratch-pinned page it is performed at its home and waits for its release (R189, R192, R459). mark is that of the whole line which brings the byte, and goes with it into the cache (01 R25, R28). -/
def State.seqWrite (s : State) (cl k : Nat) (sec : Bool) (never : Bool) (l : Loc) (b : Byte) (op : Nat) (mark : Option LineMark := none) : State :=
  if never then s.wrHome l b (s.openWr (some (cl, k, sec)))
  else if l.isScratch then s.wrHome l b { w := s.stamp, by_ := some (cl, k, sec), rel := none, vis := none, wide := none }
  else
    let own (h : Held) : Bool := h.pa == l.num && h.core == k && h.sec == sec && h.released.isNone
    let new : Held := { pa := l.num, byte := b, core := k, sec := sec, id := s.stamp, released := none,
                        op := (((s.cl cl).held.filter own).map (fun h => h.op)).foldl min op
                        key := l.key, ctx := ((s.cl cl).ctx).getD 0, mark := mark }
    (s.fillLayer l).modCl cl (fun x => { x with held := x.held.filter (fun h => !own h) ++ [new] })

/-- The location of a number, for writing home under a key: layer-store lines are filled before they are held. -/
def locOfNum (n : Nat) (key : Nat := 0) : Loc :=
  if n < 2 ^ 48 then .phys n key
  else if n < 2 ^ 52 then .layer ((n - 2 ^ 48) / 2 ^ 40) ((n - 2 ^ 48) % 2 ^ 40) 0
  else .scratch ((n - 2 ^ 52) / 2 ^ 22) ((n - 2 ^ 52) % 2 ^ 22)

/-- The physical address of a location: a layer-store line has that of its frame. -/
def State.physOf (s : State) (l : Loc) : Nat :=
  match l with
  | .phys pa _ => pa
  | .layer p off _ => (tget none s.mem.layerFilled (layerKey p off / 64)).getD 0 + off % 64
  | .scratch _ off => off

/-- The fault of a marked line into which the cluster cache would merge a part (01 R25): check point the line's home, last hop the cluster cache. -/
def State.cacheFault (s : State) (m : LineMark) (l : Loc) : TrapRec :=
  integrityFrom m 7 1 (match l with | .phys _ _ => 6 | l => homeCheck l) (s.physOf l)

/-- Whether held writes make up a whole line. -/
def wholeLine (hs : List Held) : Bool := decide (64 ≤ (distinct (hs.map (fun h => h.pa)) []).length)

/-- The mark that writes of part of a line meet at its home (01 R25, R28). -/
def State.homeFails (s : State) (line : Nat) (hs : List Held) : Option LineMark :=
  if wholeLine hs then none else s.markAt (locOfNum (64 * line))

/-- The writes of a line that a cluster cache holds, oldest first. -/
def Cluster.heldLine (x : Cluster) (line : Nat) : List Held := x.held.filter (fun h => h.pa / 64 == line)

/-- The mark that a line brought home whole carries: that of its last write. -/
def lastMark (hs : List Held) : Option LineMark := hs.getLast?.bind (fun h => h.mark)

/-- The mark that a write of part of a line meets in a cluster (01 R25, R28), with the check point: a line that the cluster cache holds whole is checked there, any other at its home. -/
def State.mergeMark (s : State) (cl : Nat) (l : Loc) : Option (LineMark × Nat) :=
  let hs := (s.cl cl).heldLine (l.num / 64)
  if wholeLine hs then (lastMark hs).map (fun m => (m, 7)) else (s.markAt l).map (fun m => (m, homeCheck l))

/-- The writers of held bytes take a fault. -/
def State.faultWriters (s : State) (cl : Nat) (hs : List Held) (r : TrapRec) : State :=
  ((hs.map (fun h => (h.ctx, h.core, h.sec))).eraseDups).foldl (fun t w => t.postFault w.1 cl w.2.1 w.2.2 r) s

/-- The writes of one line that go home, and the line's own check (01 R25): part of a marked line is not merged; the line is poisoned, and each writer takes the fault. A line that goes home whole takes the mark that it brings (R28); LPDDR6 checks it as it enters (13 R226). vis is the instant from which released writes are seen outside the cluster, wide that from which other layers see them. -/
def State.lineHome (s : State) (cl : Nat) (line : Nat) (hs : List Held) (vis wide : Option Nat) : State :=
  let l := locOfNum (64 * line)
  match s.homeFails line hs with
  | some m => (s.poison l 7).faultWriters cl hs (s.cacheFault m l)
  | none =>
    let t := hs.foldl (fun t h => t.wrHome (locOfNum h.pa h.key) h.byte
      { w := h.id, by_ := some (cl, h.core, h.sec), rel := h.released
        vis := if h.released.isSome then vis else none, wide := if h.released.isSome then wide else none }) s
    let t := match l with | .phys pa _ => t.l2Enter (cl / 256) pa | _ => t
    if wholeLine hs then
      let t := t.setMark l ((lastMark hs).map (fun m => { m with hop := 7 }))
      match entryFault l (lastMark hs) 7 (t.physOf l) with
      | none => t
      | some r => (t.poison l 7).faultWriters cl hs r
    else t

/-- Whether a lease granted to a peer delays the writing home of held bytes (R207). -/
def State.leaseDelays (s : State) (hs : List Held) : Bool := hs.any (fun h => s.grantHolds none (.phys (s.physOf (locOfNum h.pa))) 1)

/-- Held writes that satisfy a test go home, in the order in which they were made, with those of the same bytes made before them. Lines that a lease delays stay (R207). -/
def State.writeHome (s : State) (cl : Nat) (f : Held → Bool) (vis wide : Option Nat) : State :=
  let hs := (s.cl cl).held
  let asked (h : Held) : Bool := hs.any (fun g => g.pa == h.pa && decide (h.id ≤ g.id) && f g)
  let late := (distinct ((hs.filter asked).map (fun h => h.pa / 64)) []).filter (fun n => s.leaseDelays (hs.filter (fun h => asked h && h.pa / 64 == n)))
  let goes (h : Held) : Bool := asked h && !late.contains (h.pa / 64)
  let s1 := s.modCl cl (fun x => { x with held := x.held.filter (fun h => !goes h) })
  let out := hs.filter goes
  (distinct (out.map (fun h => h.pa / 64)) []).foldl (fun t n => t.lineHome cl n (out.filter (fun h => h.pa / 64 == n)) vis wide) s1

/-- Writes of a cluster that stand at home and are released become visible outside it, to other layers too where the scope is wide. -/
def State.showHome (s : State) (cl inst : Nat) (wide : Bool) (f : OldByte → Bool) : State :=
  s.modMem (fun m => { m with hist := m.hist.map (fun h =>
    if (match h.by_ with | some (c, _, _) => c == cl | none => false) && h.rel.isSome && f h then
      { h with vis := h.vis.orElse (fun _ => some inst), wide := if wide then h.wide.orElse (fun _ => some inst) else h.wide } else h) })

/-- The release part of a boundary of a sequencer at a scope (R189): its writes are released; at layer scope or wider every released write of the cluster is written home and seen outside, by other layers from package scope on (R190). -/
def State.release (s : State) (cl k : Nat) (sec : Bool) (sc : Scope) : State :=
  if sc = .seq then s else
  let i := s.boundInst cl k sec
  let t := (s.modCl cl (fun x => { x with held := x.held.map (fun h =>
    if h.core == k && h.sec == sec && h.released.isNone then { h with released := some i } else h) })).modMem (fun m =>
    { m with hist := m.hist.map (fun h => if h.by_ == some (cl, k, sec) && h.rel.isNone then { h with rel := some i } else h) })
  if sc = .cluster then t
  else
    let wide := sc != .layer
    (t.showHome cl i wide (fun _ => true)).writeHome cl (fun h => h.released.isSome) (some i) (if wide then some i else none)

/-- The writes of a sequencer go home without being seen, as a fence at layer scope or wider needs (09 R152, R189). -/
def State.pushHome (s : State) (cl k : Nat) (sec : Bool) : State :=
  s.writeHome cl (fun h => h.core == k && h.sec == sec) none none

/-- The acquire part renews the snapshot (R190). -/
def State.acquire (s : State) (cl k : Nat) (sec : Bool) : State :=
  s.modSq cl k sec (fun q => { q with phase := s.boundInst cl k sec })

/-- A phase boundary (R188). -/
def State.boundary (s : State) (cl k : Nat) (sec : Bool) (sc : Scope) : State :=
  (s.release cl k sec sc).acquire cl k sec

/-- What the readers outside the clusters see of a home (R192). -/
def State.outByte (s : State) (l : Loc) : Byte := s.agentByte none l

/-- Bytes of a context's memory as the command processor, a control core or a walker reads them at their homes in an operation that began at an instant (R202), none where an address does not translate for reading. -/
def State.readVaAt (s : State) (inst ctx va : Nat) : Nat → Except TrapRec (List Byte)
  | 0 => .ok []
  | n + 1 =>
    match s.xlate none ctx va .read with
    | .error r => .error r
    | .ok l =>
      let loc := s.pubLoc ctx va inst false (s.locOf (s.partOfCtx ctx) l va)
      match s.readVaAt inst ctx (va + 1) n with
      | .error r => .error r
      | .ok bs => .ok (s.outByte loc :: bs)

/-- The same, of an operation that begins now. -/
def State.readVa (s : State) (ctx va n : Nat) : Except TrapRec (List Byte) := s.readVaAt s.lateInst ctx va n

/-- Bytes written to a context's memory by such an agent, at their homes (R193). -/
def State.vaLocs (s : State) (ctx va : Nat) : List Byte → Except TrapRec (List (Loc × Byte))
  | [] => .ok []
  | b :: r =>
    match s.xlate none ctx va .write with
    | .error e => .error e
    | .ok l =>
      let loc := s.pubLoc ctx va s.lateInst true (s.locOf (s.partOfCtx ctx) l va)
      match s.vaLocs ctx (va + 1) r with
      | .error e => .error e
      | .ok ls => .ok ((loc, b) :: ls)

/-- The check of the lines that bytes at homes would be merged into (01 R25, R28). -/
def State.mergeBad (s : State) (va : Nat) (ls : List (Loc × Byte)) : Option TrapRec :=
  let lines := distinct (ls.map (fun p => p.1.num / 64)) []
  lines.findSome? (fun n =>
    let mine := ls.filter (fun p => p.1.num / 64 == n)
    match mine with
    | [] => none
    | p :: _ => if 64 ≤ (distinct (mine.map (fun q => q.1.num)) []).length then none
      else (s.markAt p.1).map (fun m => integrityTrap m 0 (homeCheck p.1) (va / 64 * 64)))

/-- Lines written whole lose their marks (01 R28). -/
def State.wholeSealed (s : State) (ls : List (Loc × Byte)) : State :=
  ls.foldl (fun t p =>
    if p.1.num % 64 = 0 ∧ 64 ≤ (distinct ((ls.filter (fun q => q.1.num / 64 == p.1.num / 64)).map (fun q => q.1.num)) []).length then t.setMark p.1 none else t) s

/-- Bytes written by such an agent: a page fault, or the data-integrity fault of a line that fails its check, in place of the write. -/
def State.writeVa (s : State) (ctx va : Nat) (bs : List Byte) : Except TrapRec State :=
  match s.vaLocs ctx va bs with
  | .error e => .error e
  | .ok ls =>
    match s.mergeBad va ls with
    | some r => .error r
    | none => .ok (((s.wrHomes none ls).wholeSealed ls).takePorts (locPorts ls))

/-- The lines of layer store that such an agent reads are filled (13 R221). -/
def State.fillVa (s : State) (ctx va n : Nat) : State :=
  (unitsOf 64 va n).foldl (fun t l => match t.xlate none ctx (64 * l) .read with
    | .error _ => t
    | .ok lf => t.fillLayer (t.pubLoc ctx (64 * l) t.lateInst false (t.locOf (t.partOfCtx ctx) lf (64 * l)))) s

/-- A data-integrity fault that an agent without a task met in a context's memory: the owning context takes it (01 R26) on the primary of the lowest core of the first task that it has, on its lowest cluster (DESIGN CHOICE, log entry 87); one that has no task leaves it to management alone. -/
def State.ownerFault (s : State) (ctx : Nat) (r : TrapRec) : State :=
  let first (c : Nat) (ts : List Task) : Option (Nat × Nat) := ts.head?.map (fun t => (c, lowestCore t.mask))
  match s.clusters.findSome? (fun p => if p.2.ctx = some ctx then first p.1 p.2.tasks else none) with
  | some (c, k) => s.postFault ctx c k false r
  | none => match s.shadow.findSome? (fun h => if h.ctx = ctx then first h.cl h.tasks else none) with
    | some (c, k) => s.postFault ctx c k false r
    | none => s.report "data-integrity" r.info.toNat

/-- The line at an address of a context that an agent's check fails is poisoned, and the owning context faults (01 R26). -/
def State.agentFails (s : State) (ctx va : Nat) (r : TrapRec) : State :=
  let t := match s.xlate none ctx va .read with
    | .error _ => s
    | .ok lf =>
      let loc := s.pubLoc ctx va s.lateInst false (s.locOf (s.partOfCtx ctx) lf va)
      match s.markAt loc with
      | none => s
      | some m => s.poison loc m.hop
  t.ownerFault ctx r

/-- A write by such an agent that is refused: a data-integrity fault poisons the line it would be merged into, and is the owning context's (01 R26). -/
def State.writeFails (s : State) (ctx : Nat) (r : TrapRec) : State :=
  if r.code ≠ codeData then s
  else
    let loc := match s.vaLocs ctx r.addr.toNat [0] with | .ok ((l, _) :: _) => some l | _ => none
    (match loc.bind (fun l => (s.markAt l).map (fun m => (l, m))) with
     | none => s
     | some (l, m) => s.poison l m.hop).ownerFault ctx r

/-- Lines that such an agent reads and consumes: those of layer store are filled, and one that fails its check is poisoned and faults the owning context (01 R26). -/
def State.meetVa (s : State) (ctx va n : Nat) : State :=
  (unitsOf 64 va n).foldl (fun t l => match t.xlate none ctx (64 * l) .read with
    | .error _ => t
    | .ok lf =>
      let loc := t.pubLoc ctx (64 * l) t.lateInst false (t.locOf (t.partOfCtx ctx) lf (64 * l))
      match t.markAt loc with
      | none => t
      | some m => t.agentFails ctx (64 * l) (integrityTrap m 0 (homeCheck loc) (64 * l))) (s.fillVa ctx va n)

end Sys2Proof.Machine
end

