-- ==== Sys2Proof/Machine/Scratch.lean ====
section
/-! DEFINITION. The scratchpad as core ops use it: lines and banks (13 R210 to R216), seals and full-empty checks at issue, scratch landings (11 R195, R196) and atomics (13 R241). -/

namespace Sys2Proof.Machine

open Sys2Proof

def State.scr (s : State) (a n : Nat) : List Byte := readB s.hereCl.scratch a n

/-- The full-empty bit of a granule (R210). -/
def Cluster.full (x : Cluster) (g : Nat) : Bool := tget false x.fe g
/-- The seal check of the lines that an op reads (R239, 01 R25 to R28): check point 11, space 2; 8 for an ECC error (R215). -/
def State.chkSeals (s : State) (as : List (Nat × Nat)) : Option TrapRec :=
  firstTrap ((linesOf as).map (fun l => (tget none s.hereCl.marks l).map (fun m => scratchTrap m 11 l)))

/-- The seal check of the lines that a write covers in part (R239): check point 8, space 2. -/
def Cluster.chkMerge (x : Cluster) (cs : List (Nat × Byte)) : Option TrapRec :=
  firstTrap ((linesOf (cs.map (fun c => (c.1, 1)))).map (fun l =>
    if covered cs l < 64 then (tget none x.marks l).map (fun m => integrityTrap m 2 8 (l * 64)) else none))

/-- A read with .clear and without .wait of an empty granule (R216). -/
def State.chkClear (s : State) (wait clear : Bool) (as : List (Nat × Nat)) : Option TrapRec :=
  if clear && !wait then
    ((granulesOf as).foldl (fun (m : Option Nat) g => if s.hereCl.full g then m else
      match m with | none => some g | some h => some (min g h)) none).map
      (fun g => trapR codeFullEmpty 0 (g * 16))
  else none

/-- The op's line reads are put before arbitration (R211, R212), in the cycle of its issue until the issue of its bundle gives them their beats (R213), with the granules that .clear empties (R216). The number of the op's first result is State.fresh. -/
def State.readLines (s : State) (clear : Bool) (as : List (Nat × Nat)) : State :=
  let gs := if clear then granulesOf as else []
  s.modHereCl (fun x => { x with
    fe := setFE x.fe false gs
    reads := x.reads ++ (linesOf as).map (fun l =>
      { cycle := s.cycle, line := l, core := s.cur.core, sec := s.cur.sec, pend := s.fresh, refill := gs,
        clear := gs.filter (fun g => g / 4 == l) }) })

/-- The bytes of one line of scratch that a result takes go into its writes (R213). -/
def Src.patch (t : Tbl Byte) (l : Nat) (ws : List PWrite) (x : Src) : List PWrite :=
  match x with
  | .arena off addr n =>
    let here := (unitsOf 64 off n).contains l
    let new (a : Nat) : Option Byte :=
      let b := off + (a - addr)
      if addr ≤ a ∧ a < addr + n ∧ b / 64 = l then some (tget 0 t b) else none
    if here then ws.map (fun w => match w with
      | .arena cs clear => .arena (cs.map (fun c => (c.1, (new c.1).getD c.2))) clear
      | w => w) else ws
  | .nibs off at_ =>
    let new : List (Nat × BitVec 4) := ((span 0 at_.length).zip at_).filterMap (fun p =>
      if (off + p.1 / 2) / 64 = l then some (p.2, ((tget 0 t (off + p.1 / 2)) >>> (4 * (p.1 % 2))).truncate 4) else none)
    ws.map (fun w => match w with
      | .side ns => .side (ns.map (fun c => (c.1, (look new c.1).getD c.2)))
      | w => w)
  | .words off _ n =>
    ws.map (fun w => match w with
      | .store a vs => .store a (((span 0 n).zip vs).map (fun p =>
          if (off + 4 * p.1) / 64 = l then BitVec.ofNat 32 (natOf (readB t (off + 4 * p.1) 4)) else p.2))
      | w => w)

/-- Lines of later beats are read in their own cycles: their bytes go into the results that wait for them, and their granules that .clear names are emptied (R213, R216). -/
def State.readBeats (s : State) (c : Nat) : State :=
  let rs := (s.cl c).reads.filter (fun r => r.cycle == s.cycle && !r.gather)
  rs.foldl (fun t r =>
    let mine (p : Pend) : Bool := p.id == r.pend && decide (p.issued < s.cycle)
    if (t.core c r.core).pending.any mine then
      (t.modCl c (fun x => { x with fe := setFE x.fe false r.clear })).modCore c r.core (fun y => { y with
        pending := y.pending.map (fun p => if mine p then
          { p with writes := p.srcs.foldl (Src.patch (s.cl c).scratch r.line) p.writes } else p) })
    else t) s

/-- A scratch landing of the op at this site after lat cycles (R257). -/
def State.landAt (s : State) (lat : Nat) (bytes : List (Nat × Byte)) (tagSet : Option Nat := none)
    (setFull setEmpty : List Nat := []) (atomic : Option BankAtomic := none) : State :=
  let old := s.hereCl.landings.filter (fun l => l.core == s.cur.core && l.sec == s.cur.sec && (!l.bytes.isEmpty || l.atomic.isSome))
  let land := if setFull.isEmpty then s.cycle + lat else old.foldl (fun m l => max m l.land) (s.cycle + lat)
  let new : Landing :=
    { id := s.fresh, land := land, issued := s.cycle, core := s.cur.core, sec := s.cur.sec, slot := s.cur.slot, pc := s.cur.pc,
      bytes := bytes, tagSet := tagSet, setFull := setFull, setEmpty := setEmpty, atomic := atomic,
      after := s.fresh }
  (s.modHereCl (fun x => { x with landings := x.landings ++ [new] })).tick1

/-- The new value of an atomic, none where nothing is written (R241): m the old value, of n bytes. -/
def atomNew (op n : Nat) (m b c : Nat) : Option Nat :=
  let w := 8 * n
  let lt := decide (sextN w m < sextN w b)
  match op with
  | 0 => some ((m + b) % 2 ^ w)
  | 1 => some (m &&& b)
  | 2 => some (m ||| b)
  | 3 => some (m ^^^ b)
  | 4 => some b
  | 5 => if m = b then some c else none
  | 6 => some (if lt then m else b)
  | 7 => some (if lt then b else m)
  | 8 => some (min m b)
  | _ => some (max m b)

/-- The cells of the scratch write of a landing: its bytes, and those of its atomic. -/
def Landing.cellsIn (l : Landing) (x : Cluster) : List (Nat × Byte) :=
  match l.atomic with
  | none => l.bytes
  | some t =>
    let m := natOf (readB x.scratch t.a t.n)
    match atomNew t.op.toNat t.n m (t.b.toNat % 2 ^ (8 * t.n)) (t.c.toNat % 2 ^ (8 * t.n)) with
    | none => []
    | some v => cells t.a (bytesOf t.n v)

/-- An atomic that writes nothing still reads its line, which is checked as a merge into it would be (R215, R239). -/
def Landing.chkRead (l : Landing) (x : Cluster) (cs : List (Nat × Byte)) : Option TrapRec :=
  match l.atomic with
  | none => none
  | some t => if cs.isEmpty then x.chkMerge (cells t.a (readB x.scratch t.a t.n)) else none

/-- A cluster once a landing is performed at its banks, or the trap of one that writes nothing: a buffer is full (R211, 03 R54), or a line that it would merge into fails its check (R239). -/
def Cluster.tryLand (x : Cluster) (l : Landing) : Except TrapRec Cluster :=
  let cs := l.cellsIn x
  if !bufRoom x.buf 32 (linesOf (cs.map (fun p => (p.1, 1)))) then .error (trapR codeTiming 0 l.pc.toNat)
  else match firstTrap [x.chkMerge cs, l.chkRead x cs] with
  | some r => .error r
  | none =>
    let y := x.put cs
    let y := { y with fe := setFE (setFE y.fe false l.setEmpty) true l.setFull }
    .ok (match l.tagSet with
      | none => y
      | some g => { y with capTag := tset false y.capTag g true })

/-- A landing performed; where it fails, its core takes the trap (27 R435 item 1) unless it has taken one in this cycle. -/
def State.perform (s : State) (c : Nat) (l : Landing) : State :=
  match (s.cl c).tryLand l with
  | .error r => if (s.core c l.core).trapAt = s.cycle + 1 then s else s.deliver c l.core l.sec r
  | .ok y =>
    let s1 := s.setCl c y
    match l.atomic with
    | none => s1
    | some t =>
      match t.slot with
      | none => s1
      | some sl =>
        let new : Arrival :=
          { id := s1.fresh, due := l.land + 1, cl := c, core := t.core, q := t.q, slot := sl,
            value := wordN (natOf (readB (s.cl c).scratch t.a t.n)) }
        ({ s1 with arrivals := s1.arrivals ++ [new] } : State).tick1

/-- The order of landings of one cycle (11 R195): slot, primary before secondary, core number. -/
def landBefore (a b : Landing) : Bool :=
  if a.slot ≠ b.slot then decide (a.slot < b.slot)
  else if a.sec ≠ b.sec then !a.sec
  else if a.core ≠ b.core then decide (a.core < b.core)
  else decide (a.id < b.id)

def landInsert (l : Landing) : List Landing → List Landing
  | [] => [l]
  | x :: r => if landBefore l x then l :: x :: r else x :: landInsert l r

def landSort : List Landing → List Landing
  | [] => []
  | l :: r => landInsert l (landSort r)

/-- Whether gets and copyx of a sequencer issued before a number in flight still have lines to land in scratch (11 R196). -/
def State.getsOpen (s : State) (c : Nat) (l : Landing) : Bool :=
  s.xfers.any (fun t => t.cl == c && t.core == l.core && t.sec == l.sec && decide (t.id < l.after) && t.kind != .copy &&
    t.lines.any (fun x => match x.dst with | .scratch _ _ => true | _ => false))

/-- A landing of this cycle; a feset waits for the gets before it. -/
def State.landDue (s : State) (c : Nat) (l : Landing) : Bool :=
  decide (l.land ≤ s.cycle) && (l.setFull.isEmpty || !s.getsOpen c l)

/-- The landings due at the end of this cycle, performed in their order. -/
def State.landCluster (s : State) (c : Nat) : State :=
  let now := landSort ((s.cl c).landings.filter (s.landDue c))
  let s1 := s.modCl c (fun x => { x with landings := x.landings.filter (fun l => !s.landDue c l) })
  now.foldl (fun t l => t.perform c l) s1

end Sys2Proof.Machine
end

