-- ==== Sys2Proof/Machine/PoolPort.lean ====
section
/-! DEFINITION. Activity budgets (01 R23, R24) and the pool ports: request headers, tags, the order of sends (23 R366 to R372, R386). -/

namespace Sys2Proof.Machine

open Sys2Proof

/-! ## Budgets -/

/-- Classes as the budget packet numbers them (21 R355). -/
def clsPrefetch : Nat := 0
def clsDemand : Nat := 1
def clsFabric : Nat := 2
def clsCopy : Nat := 3
def clsSpill : Nat := 4
def clsMgmt : Nat := 5

/-- The budget in force, none for unlimited (R23). -/
def Partition.budget (p : Partition) (cls : Nat) : Option Nat :=
  match look p.budgets cls with
  | none => none
  | some v =>
    if v = 0xFFFFFF then none
    else if cls = clsMgmt then some (max 64 v.toNat) else some v.toNat

/-- Charges n lines to a class, or none when the class would pass its budget (R24). -/
def State.charge (s : State) (part cls n : Nat) : Option State :=
  match look s.parts part with
  | none => some s
  | some p =>
    let used := tget 0 p.charged cls + n
    match p.budget cls with
    | some b => if b < used then none else some (s.modPart part (fun q => { q with charged := tset 0 q.charged cls used }))
    | none => some (s.modPart part (fun q => { q with charged := tset 0 q.charged cls used }))

/-- Lines that a class with a budget may still issue in this window (R24). -/
def State.linesLeft (s : State) (part cls : Nat) : Nat :=
  match look s.parts part with
  | none => 0
  | some p => (p.budget cls).getD 0 - tget 0 p.charged cls

/-! ## Ports (R366) -/

/-- Pool ports of a layer (01 R12). -/
def poolPortsOf (layer : Nat) : Nat := if layer = 2 ∨ layer = 3 then 10 else 11

/-- The lit pool ports of a partition, as 16 × layer + port (R366). -/
def State.litPorts (s : State) (part : Nat) : List Nat :=
  match look s.parts part with
  | none => []
  | some p => ((p.layers.filter (fun l => !s.darkPoolLayers.contains l)).map (fun l => span (16 * l) (poolPortsOf l))).flatten

/-- The hash of R366. -/
def poolHash (o : BitVec 40) (a : Nat) : Nat :=
  ((o.toNat % 2 ^ 16) ^^^ (o.toNat / 2 ^ 16 % 2 ^ 16) ^^^ (o.toNat / 2 ^ 32)) ^^^
    ((a / 2 ^ 6 % 2 ^ 16) ^^^ (a / 2 ^ 22 % 2 ^ 16) ^^^ (a / 2 ^ 38 % 2 ^ 10))

def State.poolPort (s : State) (part : Nat) (o : BitVec 40) (a : Nat) : Nat :=
  let ps := s.litPorts part
  ps.getD (poolHash o a % ps.length) 0

/-! ## Capabilities as the pool instructions use them (R373) -/

def Cap.object (c : Cap) : BitVec 40 := c.bits.extractLsb' 88 40
def Cap.right (c : Cap) (r : Nat) : Bool := c.bits.getLsbD (80 + r)
def Cap.base (c : Cap) : Nat := (c.bits.extractLsb' 32 48).toNat
/-- Bytes named. -/
def Cap.len (c : Cap) : Nat := 256 * (c.bits.extractLsb' 0 32).toNat
/-- The pool byte address of an offset (13 R234). -/
def Cap.addr (c : Cap) (off : Nat) : Nat := (c.base + off) % 2 ^ 48

/-- Kinds of the object a capability names (25 R402): 0 pool, 1 peer, 2 group. -/
def Cap.kind (c : Cap) : Nat :=
  let t := (c.bits.extractLsb' 124 4).toNat
  if t = 15 then 1 else if t = 14 then 2 else 0

/-! ## Requests (R367, R368, R386) -/

def kRead : BitVec 4 := 0
def kWrite : BitVec 4 := 1
def kAtomic : BitVec 4 := 2
def kGet : BitVec 4 := 3
def kLease : BitVec 4 := 4
def kRelease : BitVec 4 := 5

/-- Requests that carry a tag (R386). -/
def PoolReq.tagged (r : PoolReq) : Bool := r.kind == kWrite || r.kind == kAtomic || r.kind == kLease || r.kind == kRelease

/-- A request of the context and sequencer at this site; the fence number is that of its issue. -/
def State.newReq (s : State) (kind right : BitVec 4) (object : BitVec 40) (addr len : Nat) (dest : PoolDest) : PoolReq where
  id := s.fresh
  need := (addr, 0)
  phase := s.me.phase
  kind := kind
  right := right
  pkg := s.pool.pkg
  object := object
  fence := s.pool.fence
  seq := 0
  len := len
  op := 0
  addr := addr
  enables := 0
  data := []
  arg0 := 0
  arg1 := 0
  ctx := s.hereCtxId
  part := s.partOfCtx s.hereCtxId
  cl := s.cur.cl
  core := s.cur.core
  sec := s.cur.sec
  ofSeq := true
  dest := dest
  port := 0
  sends := 0
  lastSend := 0
  held := false

def State.addReq (s : State) (r : PoolReq) : State := ({ s with pool := { s.pool with reqs := s.pool.reqs ++ [r] } } : State).tick1

/-- The class that a request is charged to (R24). -/
def PoolReq.cls (r : PoolReq) : Nat := if r.right = 15 then clsPrefetch else clsDemand

/-- Lines that a request asks for (R368). -/
def PoolReq.lines (r : PoolReq) : Nat := max 1 (r.len / 64)

/-! ## Order of a sequencer's operations (09 R152, 11 R189) -/

/-- Puts of a sequencer below a number in flight that have lines left. -/
def State.openPuts (s : State) (cl k : Nat) (sec : Bool) (n : Nat) : Bool :=
  s.xfers.any (fun t => t.kind == .gput && t.cl == cl && t.core == k && t.sec == sec && decide (t.id < n) && !t.lines.isEmpty)

/-- Any transfer of a sequencer below a number that has lines left. -/
def State.openXfers (s : State) (cl k : Nat) (sec : Bool) (n : Nat) : Bool :=
  s.xfers.any (fun t => (t.kind == .gput || t.kind == .gget || t.kind == .pget) &&
    t.cl == cl && t.core == k && t.sec == sec && decide (t.id < n) && !t.lines.isEmpty)

/-- psts of a sequencer below a number in flight that have not entered the write buffer and write a line that a test names (23 R371). -/
def State.pstFlying (s : State) (cl k : Nat) (sec : Bool) (n : Nat) (f : BitVec 40 → Nat → Bool) : Bool :=
  (s.core cl k).pending.any (fun p => p.sec == sec && decide (p.id < n) && p.writes.any (fun w => match w with
    | .pool o a _ _ => f o (a / 64)
    | _ => false))

/-- psts of a sequencer below a number that are on their way to the write buffer at their fixed latency; one that waits there for room is performed when the pool answers, for which no release below gang scope waits (11 R204, 23 R371). -/
def State.pstComing (s : State) (cl k : Nat) (sec : Bool) (n : Nat) : Bool :=
  (s.core cl k).pending.any (fun p => p.sec == sec && decide (p.id < n) && !p.late && p.writes.any (fun w => match w with | .pool _ _ _ _ => true | _ => false))

/-- Whether a lease granted to a peer delays a line that a release of a sequencer at layer scope or wider writes home: of its own writes, or of released ones (11 R189, R207). -/
def State.homeDelayed (s : State) (cl k : Nat) (sec : Bool) : Bool :=
  !s.mem.granted.isEmpty && s.leaseDelays ((s.cl cl).held.filter (fun h => h.released.isSome || (h.core == k && h.sec == sec)))

/-- Pool writes and atomics of a sequencer below a number that have no response. -/
def State.openPool (s : State) (cl k : Nat) (sec : Bool) (n : Nat) : Bool :=
  s.pstFlying cl k sec n (fun _ _ => true) ||
  s.pool.reqs.any (fun r => r.kind == kAtomic && r.cl == cl && r.core == k && r.sec == sec && decide (r.id < n)) ||
  (s.cl cl).pwb.any (fun w => w.writers.any (fun p => p.1 == k && p.2.1 == sec && decide (p.2.2.1 < n)))

/-- Fabric ops of a sequencer below a number that are not complete. -/
def State.openFab (s : State) (cl k : Nat) (sec : Bool) (n : Nat) : Bool :=
  s.fabric.ops.any (fun f => some f.ctx == (s.cl cl).ctx && f.cl == cl && f.core == k && f.sec == sec && decide (f.id < n))

/-- Whether every operation before a fence or boundary numbered n is performed at its scope. -/
def State.doneAt (s : State) (cl k : Nat) (sec : Bool) (n : Nat) (sc : Scope) : Bool :=
  match sc with
  | .seq => true
  | .cluster => !s.openPuts cl k sec n && !s.pstComing cl k sec n
  | .gang => !s.openPuts cl k sec n && !s.openPool cl k sec n && !s.openFab cl k sec n && !s.homeDelayed cl k sec
  | _ => !s.openPuts cl k sec n && !s.pstComing cl k sec n && !s.homeDelayed cl k sec

/-- Whether the cluster cache holds writes of a sequencer, which are not at their homes. -/
def State.holdsOf (s : State) (cl k : Nat) (sec : Bool) : Bool := (s.cl cl).held.any (fun h => h.core == k && h.sec == sec)

/-- Whether every operation before a fence is performed at the fence's scope (11 R189): gets and puts, writes at their homes from layer scope on, and pool and fabric writes from package scope on (11 R204). -/
def State.fencePassed (s : State) (cl k : Nat) (sec : Bool) (n : Nat) (sc : Scope) : Bool :=
  match sc with
  | .seq => true
  | .cluster => !s.openXfers cl k sec n
  | .layer => !s.openXfers cl k sec n && !s.holdsOf cl k sec
  | _ => !s.openXfers cl k sec n && !s.holdsOf cl k sec && !s.openPool cl k sec n && !s.openFab cl k sec n

/-- Whether an operation numbered id may be performed: every fence issued before it has passed (R152). -/
def State.mayPerform (s : State) (cl k : Nat) (sec : Bool) (id : Nat) : Bool :=
  (s.sq cl k sec).fences.all (fun f => decide (id < f.1) || s.fencePassed cl k sec f.1 f.2)

/-- Whether a read numbered id is served: it waits for the instant of every boundary issued before it (11 R188). -/
def State.readHeld (s : State) (cl k : Nat) (sec : Bool) (id : Nat) : Bool :=
  (s.sq cl k sec).bounds.any (fun b => decide (b.n < id))

/-! ## The HBM cache of pool pages (13 R222, 23 R383, R388) -/

def RangeRec.holds (r : RangeRec) (part : Nat) (o : BitVec 40) (line : Nat) : Bool :=
  r.part == part && r.object == o && decide (r.base ≤ 64 * line) && decide (64 * line < r.base + r.length)

def CachedLine.is (l : CachedLine) (part : Nat) (o : BitVec 40) (line : Nat) : Bool := l.part == part && l.object == o && l.line == line

/-- Whether a line lies in a range that is resident, and in one that is resident or being promoted. -/
def State.isResident (s : State) (part : Nat) (o : BitVec 40) (line : Nat) : Bool :=
  s.pool.ranges.any (fun r => r.holds part o line && r.resident)
def State.isKept (s : State) (part : Nat) (o : BitVec 40) (line : Nat) : Bool :=
  s.pool.ranges.any (fun r => r.holds part o line && (r.resident || r.promoting))

/-- A lease is in force (R379, 11 R207). -/
def State.inForce (s : State) (l : Lease) : Bool :=
  l.granted.isSome && decide (s.now + 1000 < l.expiry) && !s.pool.fenced && s.clock.state != 2

/-- Whether a strided range covers a byte (11 R206). -/
def Lease.covers (l : Lease) (o : BitVec 40) (a : Nat) : Bool :=
  let count := bitsOf l.opnd 63 48
  let stride := bitsOf l.opnd 47 24
  let width := bitsOf l.opnd 23 16
  let off := a - l.addr
  let i := if stride = 0 then 0 else min (off / stride) (count - 1)
  l.object == o && decide (l.addr ≤ a) && decide (off - stride * i < width)

/-- The grant instants of leases in force that cover every byte from a. -/
def State.grants (s : State) (o : BitVec 40) (a n : Nat) : List Nat :=
  ((s.ctxs.map (fun p => p.2.leases)).flatten.filter (fun l => s.inForce l && (span a n).all (fun x => l.covers o x))).filterMap (fun l => l.granted)

/-- The copy of a line that may serve a read under leases granted at gs (R383). Before its range is resident a line is read from the pool (13 R225). -/
def State.cachedLine (s : State) (part : Nat) (o : BitVec 40) (gs : List Nat) (line : Nat) : Option CachedLine :=
  if s.isResident part o line then
    (s.pool.lines.find? (fun l => l.is part o line)).bind (fun l => if gs.any (fun g => decide (g < l.at_)) then some l else none)
  else none

/-- The byte of such a copy. -/
def State.cachedByte (s : State) (part : Nat) (o : BitVec 40) (gs : List Nat) (a : Nat) : Option Byte :=
  (s.cachedLine part o gs (a / 64)).map (fun l => l.bytes.getD (a % 64) 0)

/-- What the versions of a line's bytes were, of a copy that has been dropped, is forgotten as a new one comes. -/
def State.forgetLine (s : State) (part : Nat) (o : BitVec 40) (line : Nat) : State :=
  s.modMem (fun m => { m with hist := m.hist.filter (fun h => !(decide (poolNum part o (64 * line) ≤ h.pa) && decide (h.pa < poolNum part o (64 * line) + 64))) })

/-- The copy of a line that a partition keeps takes the bytes that a request numbered id has brought, unless a write of the package has updated it since the request was made (R383). Bytes that differ are another package's writes, which count as released when they are first seen here; phases that began before read what the copy held (11 R190, R205). -/
def State.refreshLine (s : State) (part : Nat) (o : BitVec 40) (line id : Nat) (bs : List Byte) : State :=
  if s.isKept part o line then
    match s.pool.lines.find? (fun l => l.is part o line && decide (l.wrote ≤ id)) with
    | none => s
    | some l =>
      let t := s.bump
      let i := t.openWr none
      let olds : List OldByte := (span 0 64).filterMap (fun j =>
        if l.bytes.getD j 0 = bs.getD j 0 then none
        else some { pa := poolNum part o (64 * line + j), byte := l.bytes.getD j 0, w := i.w, by_ := none, rel := i.rel, vis := i.vis, wide := i.wide })
      ({ t with
        fresh := t.fresh + 1
        pool := { t.pool with lines := t.pool.lines.map (fun l => if l.is part o line then { l with bytes := bs, at_ := t.fresh, mark := none } else l) } } : State).modMem
          (fun m => { m with hist := m.hist ++ olds })
  else s

/-- What a sequencer has read of the pool it does not read an older value of (11 R187). -/
def State.poolSeen (s : State) (r : PoolReq) : State :=
  if !r.ofSeq || !s.isKept r.part r.object (r.addr / 64) then s
  else
    let nums := (span r.need.1 r.need.2).map (fun a => poolNum r.part r.object a)
    let new (n : Nat) : Option Seen :=
      (s.mem.hist.filter (fun h => h.pa == n)).getLast?.map (fun h => { loc := n, w := h.w, phase := r.phase, at_ := s.stamp })
    s.modSq r.cl r.core r.sec (fun q => { q with seen := q.seen.filter (fun x => !nums.contains x.loc) ++ nums.filterMap new })

/-- A copy of a line with writes in its bytes, by index, and what their homes held before; part of a marked line is not merged, and leaves it poisoned (01 R28). -/
def CachedLine.write (l : CachedLine) : List (Nat × Ver) → CachedLine × List OldByte
  | [] => (l, [])
  | (i, v) :: r =>
    let old : OldByte := { pa := poolNum l.part l.object (64 * l.line + i), byte := l.bytes.getD i 0, w := v.w, by_ := v.by_, rel := v.rel, vis := v.vis, wide := v.wide }
    let (m, hs) := ({ l with bytes := setAt l.bytes i v.byte } : CachedLine).write r
    (m, old :: hs)

/-- A write of the package has been performed at the pool: a partition's resident copy is updated, its demoted copy dropped (R388). -/
def State.updateCopy (s : State) (o : BitVec 40) (line : Nat) (vs : List (Nat × Ver)) (part : Nat) : State :=
  match s.pool.lines.find? (fun l => l.is part o line) with
  | none => s
  | some l =>
    let others := s.pool.lines.filter (fun x => !x.is part o line)
    if s.isKept part o line then
      let (m, hs) := l.write vs
      ({ s with fresh := s.fresh + 1, pool := { s.pool with lines := others ++ [{ m with at_ := s.fresh, wrote := s.fresh, mark := if 64 ≤ vs.length then none else m.mark.map (fun k => { k with kind := 2 }) }] } } : State).modMem (fun x => { x with hist := x.hist ++ hs })
    else { s with pool := { s.pool with lines := others } }

/-- Every copy of a line follows a write of the package (R388); a line that a promotion has asked for is asked for again. -/
def State.poolWrote (s : State) (o : BitVec 40) (line : Nat) (vs : List (Nat × Ver)) : State :=
  let t := (distinct (s.pool.lines.map (fun l => l.part)) []).foldl (fun t p => t.updateCopy o line vs p) s
  { t with pool := { t.pool with reqs := t.pool.reqs.map (fun r => match r.dest with
    | .promote _ =>
      if r.object = o ∧ r.addr / 64 ≤ line ∧ line < r.addr / 64 + r.lines ∧ 0 < r.sends then { r with arg0 := r.arg0 ||| wordN (2 ^ (line - r.addr / 64)) } else r
    | _ => r) } }

/-! ## The destinations of reads -/

/-- The end and length that a segment reads. -/
def Seg.reads : Seg → Option (End × Nat)
  | .src e n => some (e, n)
  | .half e _ => some (e, 1)
  | .fill _ => none

def Seg.isPool (g : Seg) : Bool := match g.reads with | some (.pool _ _, _) => true | _ => false
def End.isPool : End → Bool | .pool _ _ => true | _ => false
def Line.isPool (l : Line) : Bool := l.dst.isPool || l.segs.any Seg.isPool

/-- What a line reads of the pool: capability, offset and length. -/
def Line.poolPieces (l : Line) : List (Cap × Nat × Nat) :=
  l.segs.filterMap (fun g => match g.reads with | some (.pool k off, n) => some (k, off, n) | _ => none)

/-- The pool lines of some pieces, and what they want of one of them. -/
def poolLines (ps : List (Cap × Nat × Nat)) : List Nat := distinct (ps.map (fun p => p.1.addr p.2.1 / 64)) []
def needOf (ps : List (Cap × Nat × Nat)) (line : Nat) : Nat × Nat :=
  let mine := ps.filter (fun p => p.1.addr p.2.1 / 64 == line)
  let lo := mine.foldl (fun m p => min m (p.1.addr p.2.1)) (64 * line + 63)
  (lo, mine.foldl (fun m p => max m (p.1.addr p.2.1 + p.2.2)) lo - lo)

/-- A segment that reads a line of the pool, once the line is here. -/
def fillSeg (o : BitVec 40) (line : Nat) (bs : List Byte) (g : Seg) : Seg :=
  let piece (k : Cap) (off n : Nat) : List Byte := ((bs.drop (k.addr off % 64)).take n)
  match g with
  | .src (.pool k off) n => if k.object = o ∧ k.addr off / 64 = line then .fill (piece k off n) else g
  | .half (.pool k off) hi =>
    if k.object = o ∧ k.addr off / 64 = line then
      let b : Byte := hi ++ (((piece k off 1).headD 0).truncate 4 : BitVec 4)
      .fill [b]
    else g
  | g => g

def State.xfer (s : State) (id : Nat) : Option Xfer := s.xfers.find? (fun t => t.id == id)
def State.modXfer (s : State) (id : Nat) (f : Xfer → Xfer) : State :=
  { s with xfers := s.xfers.map (fun t => if t.id = id then f t else t) }
def State.dropXfer (s : State) (id : Nat) : State := { s with xfers := s.xfers.filter (fun t => t.id != id) }

/-- The lines of a transfer that a test names have what a pool line gives them; each may land once nothing of the pool is missing. -/
def State.fillSegs (s : State) (xid : Nat) (f : Nat → Bool) (o : BitVec 40) (line : Nat) (bs : List Byte) : State :=
  s.modXfer xid (fun t => { t with lines := t.lines.map (fun l =>
    if f l.idx then
      let segs := l.segs.map (fillSeg o line bs)
      { l with segs := segs, sent := segs.any Seg.isPool }
    else l) })

/-- Values and mask of bytes known so far. -/
def knownOf : List (Option Byte) → Nat × Nat
  | [] => (0, 0)
  | x :: r =>
    let (v, m) := knownOf r
    match x with
    | some b => (b.toNat + 256 * v, 1 + 2 * m)
    | none => (256 * v, 2 * m)

/-- Bytes of a scalar that a line gives. -/
def gather (a w line : Nat) (bs : List Byte) : List (Option Byte) :=
  (span a w).map (fun x => if x / 64 = line then some (bs.getD (x % 64) 0) else none)

/-- Known bytes filled in by new ones. -/
def fillKnown (w : Nat) (v m : Nat) (new : List (Option Byte)) : Nat × Nat :=
  knownOf ((span 0 w).map (fun i => if m / 2 ^ i % 2 = 1 then some (BitVec.ofNat 8 (v / 256 ^ i)) else new.getD i none))

/-- The line that a read or get wanted reaches its destination: a scalar that has all its bytes lands in its slot; one that wants another line as well leaves its bytes with the request for that. -/
def State.poolRead (s : State) (r : PoolReq) (bs : List Byte) : State :=
  let line := r.addr / 64
  match r.dest with
  | .slot q slot a ty =>
    let w := tyBytes ty
    let k := fillKnown w r.arg0.toNat r.arg1.toNat (gather a w line bs)
    if k.2 = 2 ^ w - 1 then
      let new : Arrival := { id := s.fresh, due := s.cycle + 1, cl := r.cl, core := r.core, q := q, slot := slot, value := extendTy ty k.1 }
      ({ s with arrivals := s.arrivals ++ [new] } : State).tick1
    else { s with pool := { s.pool with reqs := s.pool.reqs.map (fun x =>
      if x.dest = r.dest then { x with arg0 := wordN k.1, arg1 := wordN k.2 } else x) } }
  | .scratch xid => s.fillSegs xid (fun _ => true) r.object line bs
  | .copyOut xid idx => s.fillSegs xid (· == idx) r.object line bs
  | _ => s

/-- The bytes of a line of which a request knows some. -/
def PoolReq.merge (r : PoolReq) (bs : List Byte) : List Byte :=
  (span 0 64).map (fun i => if r.enables.getLsbD i then r.data.getD i 0 else bs.getD i 0)

/-! ## Sends -/

/-- The entry of the write buffer that a write request carries. -/
def State.entryOf (s : State) (r : PoolReq) : Option PoolWb := (s.cl r.cl).pwb.find? (fun w => w.req == some r.id)

/-- Whether an entry of the buffer has not been sent. -/
def State.unsent (s : State) (w : PoolWb) : Bool :=
  match w.req with
  | none => true
  | some i => s.pool.reqs.any (fun x => x.id == i && x.sends == 0)

/-- Whether a sequencer's earlier operations let a request be performed: fences and boundaries, which order atomics too (09 R152, 11 R188, R197), for a read or patom its own psts to the line that have not reached the buffer, and for a patom its entries of the line that have not been sent (R372). -/
def State.ordered (s : State) (r : PoolReq) : Bool :=
  match r.dest with
  | .wb _ => (match s.entryOf r with
    | none => true
    | some w => w.writers.all (fun p => s.mayPerform r.cl p.1 p.2.1 p.2.2.2))
  | _ =>
    !r.ofSeq ||
    (s.mayPerform r.cl r.core r.sec r.id &&
     !((r.kind == kRead || r.kind == kGet || r.kind == kAtomic) && s.readHeld r.cl r.core r.sec r.id) &&
     !((r.kind == kRead || r.kind == kGet || r.kind == kAtomic) && s.pstFlying r.cl r.core r.sec r.id (fun o l => o == r.object && l == r.addr / 64)) &&
     !(r.kind == kAtomic && (s.cl r.cl).pwb.any (fun w => w.object == r.object && decide (w.line = r.addr / 64) && s.unsent w &&
        w.writers.any (fun p => p.1 == r.core && p.2.1 == r.sec && decide (p.2.2.1 < r.id)))))

/-- Whether a request may be sent now: one tagged request a line, 65,536 in all (R367), a lit port, and no request for the line outstanding on a port about to go dark (R366). -/
def State.sendable (s : State) (r : PoolReq) : Bool :=
  let out := s.pool.reqs.filter (fun x => x.tagged && decide (0 < x.sends))
  !(s.litPorts r.part).isEmpty &&
  !s.pool.reqs.any (fun x => decide (0 < x.sends) && s.darkPoolLayers.contains (x.port / 16) && x.object == r.object && decide (x.addr / 64 = r.addr / 64)) &&
  !(r.tagged && out.any (fun x => x.object == r.object && decide (x.addr / 64 = r.addr / 64))) &&
  !(r.tagged && decide (65536 ≤ out.length))

/-- The bytes from a that a read finds in the package: in the cluster's write buffer for a sequencer (R371), and in the HBM cache under leases granted at gs (R383, 11 R205); and the state with the choices made. -/
def State.localBytes (s : State) (r : PoolReq) (gs : List Nat) (a : Nat) : Nat → List (Option Byte) × State
  | 0 => ([], s)
  | n + 1 =>
    let now := s.cachedByte r.part r.object gs a
    let (b, t) := if r.ofSeq then s.poolByteAt r.cl r.core r.sec r.phase (poolNum r.part r.object a) now else (now, s)
    let (bs, u) := t.localBytes r gs (a + 1) n
    (b :: bs, u)

/-- A read with what the package holds of its line. -/
def PoolReq.knows (r : PoolReq) (bs : List (Option Byte)) : PoolReq :=
  let p := r.need.1 % 64
  { r with
    enables := wordN ((knownOf bs).2 * 2 ^ p)
    data := (span 0 64).map (fun i => if i < p then 0 else ((bs.getD (i - p) none).getD 0)) }

/-- The next sequence value, which writes, leases and releases take when first sent (R386). -/
def State.takeSeq (s : State) (r : PoolReq) : PoolReq × State :=
  if r.kind == kWrite || r.kind == kLease || r.kind == kRelease then
    ({ r with seq := s.pool.seq }, { s with pool := { s.pool with seq := s.pool.seq + 1 } })
  else (r, s)

/-- A request leaves on its port. -/
def State.sendReq (s : State) (r : PoolReq) : State :=
  let (r1, s1) := s.takeSeq r
  let r2 := { r1 with port := s1.poolPort r1.part r1.object r1.addr, sends := 1, lastSend := s1.now }
  { s1 with pool := { s1.pool with reqs := s1.pool.reqs.map (fun x => if x.id = r2.id then r2 else x) },
            outbox := s1.outbox ++ [.pool r2] }

/-- A get that its budget does not take whole: its first n lines are asked for now, the rest later (R24). -/
def State.sendPart (s : State) (r : PoolReq) (n : Nat) : State :=
  let rest := { r with id := s.fresh, addr := r.addr + 64 * n, len := r.len - 64 * n }
  (s.sendReq { r with len := 64 * n }).addReq rest

/-- The mark of the resident copy that serves a read (01 R28). -/
def State.copyMark (s : State) (r : PoolReq) : Option LineMark :=
  (s.cachedLine r.part r.object (s.grants r.object r.need.1 r.need.2) (r.need.1 / 64)).bind (fun l => l.mark)

/-- A sequencer's read of a marked copy is a data-integrity fault as the line is consumed (01 R28): it leaves HBM (hop 4), and is checked in scratch, at the copy engine or at a register. -/
def State.readFault (s : State) (r : PoolReq) (m : LineMark) : State :=
  let check := match r.dest with | .scratch _ => 8 | .copyOut _ _ => 9 | _ => 11
  s.postFault r.ctx r.cl r.core r.sec { integrityFrom m 4 1 check (r.need.1 / 64 * 64) with ofPool := true }

/-- A request goes if it may: a read that finds all it wants in the package is served there; any other is sent, if its class has budget. -/
def State.trySend (s : State) (r : PoolReq) : State :=
  if s.pool.fenced || decide (0 < r.sends) || !s.ordered r then s
  else
    let read := (r.kind == kRead || r.kind == kGet) && r.right != 15
    let (bs, t) := if read then s.localBytes r (s.grants r.object r.need.1 r.need.2) r.need.1 r.need.2 else ([], s)
    let r1 := if read then r.knows bs else r
    match (if read && bs.all Option.isSome then s.copyMark r else none) with
    | some m => { (s.readFault r m) with pool := { s.pool with reqs := s.pool.reqs.filter (fun x => x.id != r.id) } }
    | none =>
    if read && bs.all Option.isSome then
      ({ t with pool := { t.pool with reqs := t.pool.reqs.filter (fun x => x.id != r.id) } } : State).poolRead r1 (r1.merge [])
    else if t.sendable r1 then
      match t.charge r1.part r1.cls r1.lines with
      | some u => u.sendReq r1
      | none =>
        let n := s.linesLeft r.part r.cls
        if n = 0 then s
        else match s.charge r.part r.cls n with
        | none => s
        | some u => u.sendPart r n
    else s

/-- Every waiting request that may go is sent, in the order in which they were made. -/
def State.pumpPool (s : State) : State :=
  (s.pool.reqs.map (fun r => r.id)).foldl (fun t i => match t.pool.reqs.find? (fun r => r.id == i) with
    | none => t
    | some r => t.trySend r) s

/-! ## The pool write buffer (R371) -/

/-- A sequencer among the writers of an entry, with the numbers of its first and last pst. -/
def mergeWriter (k : Nat) (sec : Bool) (n : Nat) : List (Nat × Bool × Nat × Nat) → List (Nat × Bool × Nat × Nat)
  | [] => [(k, sec, n, n)]
  | p :: r => if p.1 = k ∧ p.2.1 = sec then (k, sec, p.2.2.1, max p.2.2.2 n) :: r else p :: mergeWriter k sec n r

/-- Bytes of one line, of the pst numbered n and write numbered w, enter the buffer, released already or not: into the unsent entry of their line, or a new one. False when the buffer is full. -/
def Cluster.poolPut (x : Cluster) (part k : Nat) (sec : Bool) (n w : Nat) (rel : Option Nat) (o : BitVec 40) (a : Nat) (bs : List Byte) (fence : Word) : Cluster × Bool :=
  let hit (e : PoolWb) : Bool := e.req.isNone && e.object == o && decide (e.line = a / 64)
  let new : List Held := (cells a bs).map (fun c => { pa := poolNum part o c.1, byte := c.2, core := k, sec := sec, id := w, released := rel })
  let old (l : List Held) : List Held :=
    l.filter (fun h => !(h.core == k && h.sec == sec && h.released.isNone && new.any (fun g => g.pa == h.pa)))
  if x.pwb.any hit then
    ({ x with pwb := x.pwb.map (fun e =>
      if hit e then { e with held := old e.held ++ new, writers := mergeWriter k sec n e.writers, fence := fence } else e) }, true)
  else if 1024 ≤ x.pwb.length then (x, false)
  else
    let e : PoolWb := { object := o, line := a / 64, held := new, writers := [(k, sec, n, n)], fence := fence, req := none }
    ({ x with pwb := x.pwb ++ [e] }, true)

/-- Byte enables and line of an entry (R368). -/
def PoolWb.enables (w : PoolWb) : Word := wordN (((distinct (w.held.map (fun h => h.pa % 64)) []).map (fun i => 2 ^ i)).foldl (· + ·) 0)
def PoolWb.lineData (w : PoolWb) : List Byte :=
  (span 0 64).map (fun i => w.held.foldl (fun b h => if h.pa % 64 = i then h.byte else b) 0)

/-- Sends an unsent entry (R371): it becomes a request. -/
def State.flushEntry (s : State) (cl : Nat) (w : PoolWb) : State :=
  let p := w.writers.headD (0, false, 0, 0)
  let r : PoolReq := { s.newReq kWrite 1 w.object (64 * w.line) 0 (.wb w.line) with
    cl := cl, core := p.1, sec := p.2.1,
    ctx := ((s.cl cl).ctx).getD 0, part := s.partOfCtx (((s.cl cl).ctx).getD 0),
    fence := w.fence, enables := w.enables, data := w.lineData }
  let s1 := s.modCl cl (fun x => { x with pwb := x.pwb.map (fun v =>
    if v.req.isNone && v.object == w.object && v.line == w.line then { v with req := some s.fresh } else v) })
  s1.addReq r

/-- The unsent entries that a sequencer has written leave. -/
def State.flushPool (s : State) (cl k : Nat) (sec : Bool) : State :=
  (((s.cl cl).pwb.filter (fun w => w.req.isNone && w.writers.any (fun p => p.1 == k && p.2.1 == sec))).foldl (fun t w => t.flushEntry cl w) s).pumpPool

/-- The pool writes of a sequencer before a boundary numbered n, which its cluster's buffer holds, are released (11 R191). -/
def State.releasePool (s : State) (cl k : Nat) (sec : Bool) (n : Nat) : State :=
  let i := s.boundInst cl k sec
  s.modCl cl (fun x => { x with pwb := x.pwb.map (fun w =>
    if w.writers.any (fun p => p.1 == k && p.2.1 == sec && decide (p.2.2.2 < n)) then
      { w with held := w.held.map (fun h => if h.core == k && h.sec == sec && h.released.isNone then { h with released := some i } else h) }
    else w) })

/-- Whether a pst numbered n came before a boundary or fence that sends the buffer's entries, and has entered it only now: its entry follows them at once. -/
def State.lateFor (s : State) (cl k : Nat) (sec : Bool) (n : Nat) : Bool :=
  let q := s.sq cl k sec
  q.bounds.any (fun b => b.sc != .seq && decide (n < b.n)) || q.passed.any (fun p => decide (n < p.1)) ||
    q.fences.any (fun f => (f.2 == .package || f.2 == .gang) && decide (n < f.1))

/-- The instant of the boundary that has released a pst which enters the buffer only now. -/
def State.lateRelease (s : State) (cl k : Nat) (sec : Bool) (n : Nat) : Option Nat :=
  (s.sq cl k sec).passed.bind (fun p => if n < p.1 then some p.2 else none)

/-- The bytes of a pst enter the buffer, where they find room (R371). -/
def State.pstEnter (s : State) (cl k : Nat) (sec : Bool) (n : Nat) (o : BitVec 40) (a : Nat) (bs : List Byte) (fence : Word) : State × Bool :=
  let t := s.bump
  let (x, ok) := (t.cl cl).poolPut (s.partOfCtx (((s.cl cl).ctx).getD 0)) k sec n t.stamp (s.lateRelease cl k sec n) o a bs fence
  if ok then
    let u := t.setCl cl x
    let mine := (u.cl cl).pwb.filter (fun w => w.req.isNone && w.object == o && w.line == a / 64)
    (if s.lateFor cl k sec n then (mine.foldl (fun t w => t.flushEntry cl w) u).pumpPool else u, true)
  else (s, false)

/-! ## Boundaries (11 R188 to R190, R203) -/

/-- Promotion: released writes to a range held in any cluster cache of the package go home and are seen (R203). -/
def State.promote (s : State) (inst : Nat) (nums : List Nat) : State :=
  s.clusters.foldl (fun t p =>
    (t.showHome p.1 inst true (fun h => nums.contains (h.pa / 64))).writeHome p.1 (fun h => h.released.isSome && nums.contains (h.pa / 64)) (some inst) (some inst)) s

/-- Whether a lease granted to a peer delays the writing home of a line that a promotion covers (R207). -/
def State.promoteDelayed (s : State) (nums : List Nat) : Bool :=
  !s.mem.granted.isEmpty && s.clusters.any (fun p => s.leaseDelays (p.2.held.filter (fun h => h.released.isSome && nums.contains (h.pa / 64))))

/-- The physical lines of a range of a context's addresses; pages that do not translate for reading are skipped. -/
def State.probeLines (s : State) (ctx base len : Nat) : List Nat :=
  let top := min (base + len) (2 ^ 52)
  ((unitsOf 64 base (top - base)).map (fun l =>
    match s.xlate none ctx (64 * l) .read with
    | .error _ => []
    | .ok lf =>
      let loc := s.locOf (s.partOfCtx ctx) lf (64 * l)
      distinct [loc.num / 64, (s.pubLoc ctx (64 * l) s.lateInst false loc).num / 64, (s.pubLoc ctx (64 * l) s.lateInst true loc).num / 64] [])).flatten

/-- The promotion of a boundary that probes, on this package. -/
def State.promoteFor (s : State) (cl k : Nat) (sec : Bool) (b : Bound) : State :=
  if b.len = 0 then s else s.promote (s.boundInst cl k sec) (s.probeLines (((s.cl cl).ctx).getD 0) b.base b.len)

/-- The other members of the gang of the context on a cluster. -/
def State.gangPeers (s : State) (cl : Nat) : List Nat :=
  match s.ctxOf cl with
  | none => []
  | some x => x.gangMembers.filter (· ≠ s.fabric.self)

/-- The instant of a boundary whose release part is complete: the promotion of a probe, release, acquire. Reads that the sequencer has issued after it are of the phase that it begins. -/
def State.passBound (s : State) (cl k : Nat) (sec : Bool) (b : Bound) : State :=
  let s1 := s.modSq cl k sec (fun q => { q with
    bounds := q.bounds.filter (fun x => x.n != b.n), passed := if b.sc = .seq then q.passed else some (b.n, s.boundInst cl k sec) })
  let s2 := ((if b.sc = .seq then s1 else s1.releasePool cl k sec b.n).promoteFor cl k sec b).boundary cl k sec b.sc
  let ph := (s2.sq cl k sec).phase
  { s2 with
    xfers := s2.xfers.map (fun t =>
      if some t.ctx = (s2.cl cl).ctx ∧ t.cl = cl ∧ t.core = k ∧ t.sec = sec ∧ t.kind ≠ .copy ∧ b.n < t.id then { t with phase := ph } else t)
    pool := { s2.pool with reqs := s2.pool.reqs.map (fun r =>
      if r.ofSeq ∧ r.cl = cl ∧ r.core = k ∧ r.sec = sec ∧ b.n < r.id then { r with phase := ph } else r) } }

/-- The members of the gang are asked to promote a probed range; the boundary waits for each to acknowledge (R203). -/
def State.askProbe (s : State) (cl k : Nat) (sec : Bool) (b : Bound) (peers : List Nat) : State :=
  let s1 := s.modSq cl k sec (fun q => { q with bounds := q.bounds.map (fun x => if x.n = b.n then { x with asked := some peers } else x) })
  { s1 with outbox := s1.outbox ++ peers.map (fun p => .probe p (((s.cl cl).ctx).getD 0) b.base b.len cl k sec b.n) }

/-- A complete boundary passes, or asks the members of its gang for their promotion first; it waits for a lease that delays its own promotion. -/
def State.tryBound (s : State) (cl k : Nat) (sec : Bool) (b : Bound) : State :=
  if b.len ≠ 0 ∧ s.promoteDelayed (s.probeLines (((s.cl cl).ctx).getD 0) b.base b.len) = true then s else
  match b.asked with
  | some [] => s.passBound cl k sec b
  | some _ => s
  | none =>
    if b.sc = .gang ∧ b.len ≠ 0 ∧ (s.gangPeers cl).isEmpty = false then s.askProbe cl k sec b (s.gangPeers cl)
    else s.passBound cl k sec b

/-- A member has acknowledged the promotion of a boundary (R203). -/
def State.probeAcked (s : State) (peer cl k : Nat) (sec : Bool) (n : Nat) : State :=
  s.modSq cl k sec (fun q => { q with bounds := q.bounds.map (fun b => if b.n = n then { b with asked := b.asked.map (List.filter (· ≠ peer)) } else b) })

/-- Another member asks for the promotion of a range of a context, which is made and acknowledged (R203), once no lease delays it. -/
def State.probeAsked (s : State) (peer ctx base len : Nat) : State :=
  if s.promoteDelayed (s.probeLines ctx base len) then { s with schedule := s.schedule ++ [(s.cycle + 1, .probeIn peer ctx base len)] } else
  let t := s.promote s.lateInst (s.probeLines ctx base len)
  { t with outbox := t.outbox ++ [.probed peer ctx base len] }

/-- Passes the boundaries of a sequencer that are complete, in order, over a count of boundaries. -/
def State.settleN (s : State) (cl k : Nat) (sec : Bool) : Nat → State
  | 0 => s
  | n + 1 =>
    match (s.sq cl k sec).bounds with
    | [] => s
    | b :: _ => if s.doneAt cl k sec b.n b.sc then (s.tryBound cl k sec b).settleN cl k sec n else s

/-- The oldest fence of a sequencer, where its scope wants earlier writes at their homes and they are in the cluster cache: they go there (09 R152, R189). -/
def State.fencePush (s : State) (cl k : Nat) (sec : Bool) : State :=
  match (s.sq cl k sec).fences with
  | [] => s
  | f :: _ => if f.2 = .seq ∨ f.2 = .cluster ∨ s.openXfers cl k sec f.1 = true then s else s.pushHome cl k sec

/-- Boundaries and fences of a sequencer that have passed are done with. -/
def State.settle (s : State) (cl k : Nat) (sec : Bool) : State :=
  let t := (s.settleN cl k sec (s.sq cl k sec).bounds.length).fencePush cl k sec
  t.modSq cl k sec (fun q => { q with fences := q.fences.filter (fun f => !t.fencePassed cl k sec f.1 f.2) })

/-- A boundary of a sequencer: pool buffer entries leave at cluster scope or wider, and the boundary passes once its release is complete (R188, R189, 23 R371). -/
def State.startBound (s : State) (cl k : Nat) (sec : Bool) (sc : Scope) (base len : Nat) : State :=
  let s1 := if sc = .seq then s else s.flushPool cl k sec
  let s2 := (s1.modSq cl k sec (fun q => { q with bounds := q.bounds ++ [{ n := s1.fresh, sc := sc, base := base, len := len }] })).tick1
  s2.settle cl k sec

/-- A fence of a sequencer: from package scope on, what it has in the pool write buffer leaves (09 R152, 11 R204). -/
def State.startFence (s : State) (cl k : Nat) (sec : Bool) (sc : Scope) : State :=
  let s1 := if sc = .package ∨ sc = .gang then s.flushPool cl k sec else s
  (s1.modSq cl k sec (fun q => { q with fences := q.fences ++ [(s1.fresh, sc)] })).tick1.settle cl k sec

end Sys2Proof.Machine
end

