-- ==== Sys2Proof/Machine/Control.lean ====
section
/-! DEFINITION. Control instructions of majors 0x00 to 0x07 (09 R133 to R157): branches, hardware loops, the end of a task, yield, traps, phases and fences, time and counters, duplicate checks. -/

namespace Sys2Proof.Machine

open Sys2Proof

/-! ## The loop stack (03 R45 to R47) -/

/-- A body runs from its first bundle up to and including its last (R139). -/
def LoopEntry.inBody (l : LoopEntry) (t : BitVec 52) : Bool := decide (l.first.toNat ≤ t.toNat) && decide (t.toNat ≤ l.last.toNat)

/-- The illegal-loop-exit trap (R139). -/
def State.exitTrap (s : State) : TrapRec := trapR codeIllegal 24 s.pcN

/-- EXIT_CHECK(t, n) (R139). -/
def State.exitCheck (s : State) (t : BitVec 52) (n : Nat) : Option TrapRec :=
  let ls := s.me.loops
  let bad := decide (ls.length < n) || (ls.take n).any (fun l => l.inBody t) ||
    (decide (n = 0) && (match ls with | [] => false | l :: _ => !l.inBody t))
  trapIf bad s.exitTrap

/-- A redirect to t whose target may issue cost cycles after this one, folded cycles apart (R140). -/
def State.redirect (s : State) (t : BitVec 52) (pop cost : Nat) : State :=
  s.modMe (fun q => { q with pc := t, loops := q.loops.drop pop, newGroup := true, taken := true,
                             nextIssue := s.cycle + cost + s.cur.fold, cntLost := q.cntLost + wordN (cost - 1) })

/-- The cost of a br or brl (R140): 1 for a target register prepared 4 cycles or more before. -/
def State.brCost (s : State) (t : BitVec 2) : Nat :=
  let w := tget 0 s.me.bWritten t.toNat
  if 0 < w ∧ w + 3 ≤ s.cycle then 1 else 3

/-! ## Branches -/

/-- A write of a target register at latency 1; its cycle is kept for R140. -/
def State.prepare (s : State) (t : BitVec 2) (v : BitVec 52) : State :=
  let s1 := s.pend 1 [.b t.toNat v]
  let s2 := s1.modMe (fun q => { q with bWritten := tset 0 q.bWritten t.toNat (s.cycle + 1) })
  s2.modSq s.cur.cl s.cur.core (!s.cur.sec) (fun q => { q with bWritten := tdel q.bWritten t.toNat })

/-- b[T] := g[A][51:2] : 0b00 (R134). -/
def execPbr (t : BitVec 2) (a : Reg) (s : State) : Out :=
  .next (s.prepare t ((s.g a).extractLsb' 2 50 ++ (0 : BitVec 2)))

/-- b[T] := (PC + 4 × IMM) mod 2^52 (R135). -/
def execPbri (t : BitVec 2) (imm : Imm) (s : State) : Out :=
  .next (s.prepare t (s.cur.pc + (imm <<< 2).truncate 52))

/-- The conditions of R136. -/
def brHolds (cond : BitVec 3) (x : Int) : Bool :=
  match cond.toNat with
  | 0 => true
  | 1 => x == 0
  | 2 => x != 0
  | 3 => decide (x < 0)
  | 4 => decide (0 ≤ x)
  | 5 => decide (0 < x)
  | 6 => decide (x ≤ 0)
  | _ => false

/-- Redirects fetch to b[T] when its condition holds (R136); a branch not taken has no effect. -/
def execBr (t : BitVec 2) (cond pop : BitVec 3) (a : Reg) (s : State) : Out :=
  if brHolds cond (s.g a).toInt then
    s.checked (s.exitCheck (s.b t.toNat) pop.toNat) (fun s => s.redirect (s.b t.toNat) pop.toNat (s.brCost t))
  else .next s

/-- Branches and writes the link NEXT (R137). -/
def execBrl (t : BitVec 2) (pop : BitVec 3) (d : Reg) (s : State) : Out :=
  s.checked (s.exitCheck (s.b t.toNat) pop.toNat) (fun s =>
    (s.wrG d (s.cur.next.zeroExtend 64) 1).redirect (s.b t.toNat) pop.toNat (s.brCost t))

/-- Branches to g[A][51:0] (R138). -/
def execRet (a : Reg) (pop : BitVec 3) (s : State) : Out :=
  let t : BitVec 52 := (s.g a).truncate 52
  s.checked (firstTrap [trapIf (decide (t.toNat % 4 ≠ 0)) (s.illegal 22), s.exitCheck t pop.toNat])
    (fun s => s.redirect t pop.toNat 4)

/-! ## Hardware loops (R142 to R144) -/

/-- An instruction word at an address of a context, as fetch reads it: at its home (27 R445), whose line is checked (01 R26). A registered buffer is read in the sequencer's phase (11 R198). -/
def State.fetchWord (s : State) (cl ctx va : Nat) : Except TrapRec (BitVec 32) :=
  match s.xlate (some cl) ctx va .fetch with
  | .error r => .error r
  | .ok l =>
    let loc (i : Nat) : Loc := s.pubLoc ctx (va + i) s.me.phase false (s.locOf (s.partOfCtx ctx) l (va + i))
    let byte (i : Nat) : Byte := s.outByte (loc i)
    match s.markAt (loc 0) with
    | some m => .error (integrityFrom m (hopOf l (loc 0)) 0 (homeCheck (loc 0)) (va / 64 * 64))
    | none => .ok (BitVec.ofNat 32 (natOf [byte 0, byte 1, byte 2, byte 3]))

/-- The first access to a line of layer store fills it, a fetch's too (13 R221). -/
def State.fillFetch (s : State) (cl ctx va : Nat) : State :=
  match s.xlate (some cl) ctx va .fetch with
  | .error _ => s
  | .ok l => s.fillLayer (s.pubLoc ctx va s.me.phase false (s.locOf (s.partOfCtx ctx) l va))

/-- Where fetch continues after a loop that pushes nothing: the bundle after the one that starts at last, found from its first word; last itself where that word cannot be fetched or gives no length, so that the fetch there raises the trap (R144). The checkpoint of that trap then stands at last, so that a return from it runs the bundle there (log entry 35). -/
def State.afterLast (s : State) (last : BitVec 52) : BitVec 52 :=
  match s.fetchWord s.cur.cl s.hereCtxId last.toNat with
  | .error _ => last
  | .ok w =>
    match bundleLen w with
    | .error _ => last
    | .ok n => last + BitVec.ofNat 52 n

/-- LOOP_PUSH(last, c) (R144); an address past the address space ends no body. -/
def State.loopPush (s : State) (last c : Nat) : Out :=
  let ls := s.me.loops
  let l52 : BitVec 52 := BitVec.ofNat 52 (min last (2 ^ 52 - 1))
  s.checked (firstTrap [
      trapIf (decide (last < s.cur.next.toNat)) (s.illegal 22),
      trapIf (decide (6 ≤ ls.length)) (s.illegal 24),
      trapIf (match ls with | [] => false | l :: _ => decide (l.last.toNat < l52.toNat)) (s.illegal 24)])
    (fun s =>
      if c = 0 then
        (s.fillFetch s.cur.cl s.hereCtxId l52.toNat).modMe (fun q => { q with pc := s.afterLast l52, taken := true, nextIssue := s.cycle + 1 + s.cur.fold })
      else
        s.modMe (fun q => { q with loops := { first := s.cur.next, last := l52, count := BitVec.ofNat 32 c, index := 0 } :: q.loops }))

/-- The count of R142: g[A] held within 0 to 2^32 − 1. -/
def loopCount (x : Int) : Nat := (min (max x 0) (2 ^ 32 - 1)).toNat

/-- Pushes a loop whose count is in a register (R142). -/
def execLoop (a : Reg) (imm : Imm) (s : State) : Out :=
  s.loopPush (s.pcN + 4 * imm.toNat) (loopCount (s.g a).toInt)

/-- Pushes a loop with an immediate count (R143). -/
def execLoopi (cnt : Imm) (imm : BitVec 13) (s : State) : Out :=
  s.loopPush (s.pcN + 4 * imm.toNat) cnt.toNat

/-! ## Ending, yielding and trapping -/

/-- The nop encoding has no effect (05 R70). -/
def execNop (s : State) : Out := .next s

/-- The core's other sequencer is stopped: it neither runs nor waits to resume. -/
def State.otherStopped (s : State) : Bool :=
  let q := s.e.sq (!s.cur.sec)
  !q.running && !q.preempted

/-- Unbinds every bound stream (03 R35). -/
def CoreE.unbindAll (e : CoreE) : CoreE := { e with q := [], qBound := [] }

/-- The lowest drain queue that holds an entry, pushed or reserved (03 R35). -/
def CoreE.drainLeft (e : CoreE) : Option Nat := (span 0 4).find? (fun q => !(tget [] e.dq q).isEmpty)

/-- Stops the sequencer and discards its loop stack (R145). -/
def Seq.stop (q : Seq) : Seq := { q with running := false, preempted := false, loops := [] }

/-- Ends the sequencer's task stream (R145, 03 R35): the last running sequencer of its core checks the drain queues and unbinds the streams. -/
def execTend (s : State) : Out :=
  if s.otherStopped then
    s.checked (s.e.drainLeft.map (fun q => trapR codeQueue (q * 256 + 35) s.pcN))
      (fun s => (s.modHereE CoreE.unbindAll).modMe Seq.stop)
  else .next (s.modMe Seq.stop)

/-- Whether pre-emption of the context of a cluster is pending (03 R56). -/
def State.preemptPending (s : State) (c : Nat) : Bool :=
  match s.ctxOf c with
  | none => false
  | some x => x.preempt.any (fun p => p.1 == c)

/-- Whether a hot die holds back the cores of a cluster (27 R456): at once on the die's own layer, on any other once no pre-emption of its context is under way (log entry 85). -/
def State.hotHolds (s : State) (c : Nat) : Bool :=
  (match s.layerOf c with | some l => s.hotDies.contains l | none => false) || (!s.hotDies.isEmpty && !s.preemptPending c)

/-- A sequencer stops for pre-emption (03 R56); the record of an emulated bundle is discarded (07 R110). -/
def Seq.pause (q : Seq) : Seq := { q with running := false, preempted := true, emu := none }

/-- An iteration boundary (R146): it stops the sequencer under pre-emption; otherwise a yield of the primary gives the secondary the next cycle. The bundle that follows is a restart point. -/
def execYieldOp (s : State) : Out :=
  let s1 := s.modMe (fun q => { q with restartNext := true })
  if s.preemptPending s.cur.cl then .next (s1.modMe Seq.pause)
  else if !s.cur.sec && (s.e.sq true).running then .next (s1.modHere (fun y => { y with yieldNow := true, secWait := 0 }))
  else .next s1

/-- A requested trap (R147): the checkpoint stands at the bundle at which fetch continues, which the issue of the bundle has made the sequencer's pc, and that bundle is a restart point. -/
def State.request (s : State) (r : TrapRec) : State :=
  let s1 := s.modHereE (fun e => e.checkpoint s.cur.sec (e.sq s.cur.sec).pc s.ord)
  (s1.modMe (fun q => { q with restartNext := true })).deliver s.cur.cl s.cur.core s.cur.sec r

/-- Software trap to the context's handler (R147). -/
def execTrap (code : BitVec 24) (s : State) : Out := .next (s.request (trapR codeTrap code.toNat s.pcN))

/-- Service call to the partition's service handler (R147). -/
def execSvc (code : BitVec 24) (s : State) : Out := .next (s.request (trapR codeSvc code.toNat s.pcN))

/-! ## Condition words (R150) -/

/-- The graph slot that launched the task on this core, by cluster and slot. -/
def State.taskGraph (s : State) : Option (Nat × Nat) :=
  match s.here.task with
  | none => none
  | some t =>
    match s.hereCl.tasks.find? (fun x => x.id == t) with
    | none => none
    | some x => match x.origin with
      | .node c g _ => some (c, g)
      | .stream _ _ _ => none
      | .counted _ _ _ => none

/-- An update on its way to the walker (03 R39); a task that no graph node launched sends none. -/
def State.gwcond (s : State) (op : CondOp) (v m : Word) : State :=
  match s.taskGraph with
  | none => s
  | some (c, g) => { s with condQueue := s.condQueue ++ [{ ctx := s.hereCtxId, cl := c, slot := g, src := .gwcond, op := op, value := v, mask := m }] }

/-- C := C OR v (R150). -/
def execGwcondSet (a : Reg) (s : State) : Out := .next (s.gwcond .set (s.g a) 0)

/-- C := C AND NOT v (R150). -/
def execGwcondClr (a : Reg) (s : State) : Out := .next (s.gwcond .clr (s.g a) 0)

/-- C := (C AND NOT m) OR (v AND m) (R150). -/
def execGwcondIns (a b : Reg) (s : State) : Out := .next (s.gwcond .ins (s.g a) (s.g b))

/-! ## Phases and fences (R151, R152) -/

/-- Ends the phase at a scope (R151). -/
def execPhase (sc : Scope) (s : State) : Out := .next (s.startBound s.cur.cl s.cur.core s.cur.sec sc 0 0)

/-- Ends the phase with promotion over a range (R151, 11 R203). -/
def execPhaseProbe (sc : Scope) (a b : Reg) (s : State) : Out :=
  .next (s.startBound s.cur.cl s.cur.core s.cur.sec sc (s.g a).toNat (s.g b).toNat)

/-- Orders the sequencer's memory operations at a scope (R152). -/
def execFence (sc : Scope) (s : State) : Out :=
  .next (s.startFence s.cur.cl s.cur.core s.cur.sec sc)

/-! ## Time and counters (R154, R155) -/

/-- g[D] := GANG.NOW (R154). -/
def execRdtime (d : Reg) (s : State) : Out := .next (s.wrG d (wordN s.now) 2)

/-- The counters of R155, as they stand at issue: sel 0 counts the cycle of the read, sel 1 not the bundle that reads, and sel 2 read by the secondary counts the primary's bundle of the same cycle (log entry 36). -/
def State.counter (s : State) (sel : Nat) : Word :=
  match sel with
  | 0 => s.e.cntRun
  | 1 => s.me.cntIssued
  | 2 => (s.e.sq (!s.cur.sec)).cntIssued
  | 3 => s.e.cntTiming
  | 4 => s.me.cntStalled
  | 5 => s.e.cntYield
  | _ => s.me.cntLost

/-- g[D] := counter sel (R155). -/
def execRdctr (d : Reg) (sel : BitVec 6) (s : State) : Out := .next (s.wrG d (s.counter sel.toNat) 2)

/-! ## Duplicate checks (R156, R157) -/

/-- The lowest byte at which two lists of bytes differ. -/
def firstDiff : List Byte → List Byte → Option Nat
  | a :: r, b :: q => if a = b then (firstDiff r q).map (· + 1) else some 0
  | _, _ => none

/-- The duplicate-mismatch trap (R157). -/
def State.dupTrap (s : State) (kind : Nat) (x y : List Byte) : Option TrapRec :=
  (firstDiff x y).map (fun i => trapR codeDup (kind * 256 + i) s.pcN)

/-- Traps if the registers differ (R156). -/
def execXchk (a b : Reg) (s : State) : Out :=
  s.checked (s.dupTrap 0 (bytesOf 8 (s.g a).toNat) (bytesOf 8 (s.g b).toNat)) id

/-- Traps if row A of the vector view differs from row B of the shadow view (R156). -/
def execXchkV (a b : Reg) (s : State) : Out :=
  let x := s.e.vBase.toNat + 256 * a.toNat
  let y := s.e.svBase.toNat + 256 * b.toNat
  s.checked (firstTrap [s.chkArena x 256, s.chkArena y 256,
    s.dupTrap 1 (readB s.here.arena x 256) (readB s.here.arena y 256)]) id

/-! ## Copy stages (R148) -/

/-- STAGE_e advances by n; the increment is applied at the end of its cycle (R148, R149). -/
def execStage (e : BitVec 1) (n : Reg) (s : State) : Out := .next (s.pend 1 [.stage e.toNat n.toNat])

end Sys2Proof.Machine
end

