-- ==== Sys2Proof/Machine/Transfer.lean ====
section
/-! DEFINITION. Transfers of lines by gets, puts, copies and fabric writes (13 R227 to R232, R245, 27 R444): their lines, the landing of one line, faults of their pieces, completion. -/

namespace Sys2Proof.Machine

open Sys2Proof

/-! ## Lines of a transfer -/

/-- Pieces of n bytes at two addresses, cut where either passes a 64-byte line: offset and length, over a count of cuts. -/
def cutLines (a b : Nat) : Nat → Nat → Nat → List (Nat × Nat)
  | 0, _, _ => []
  | f + 1, off, n =>
    if n = 0 then [] else
    let k := min n (min (64 - (a + off) % 64) (64 - (b + off) % 64))
    (off, k) :: cutLines a b f (off + k) (n - k)

def cuts (a b n : Nat) : List (Nat × Nat) := cutLines a b (n / 8 + 3) 0 n

/-- Lines numbered from i. -/
def numLines : Nat → List (End × List Seg) → List Line
  | _, [] => []
  | i, (d, sg) :: r => { idx := i, dst := d, segs := sg, sent := false } :: numLines (i + 1) r

def Seg.len : Seg → Nat
  | .src _ n => n
  | .half _ _ => 1
  | .fill bs => bs.length

def Line.len (l : Line) : Nat := (l.segs.map Seg.len).foldl (· + ·) 0

/-- The address of an end in its page space, where it is global or of the pool. -/
def End.far : End → Option Nat
  | .glob va => some va
  | .pool _ off => some off
  | _ => none

/-- What a line covers of the side that is not scratch: addresses and lengths. -/
def Line.farSpans (l : Line) : List (Nat × Nat) :=
  (match l.dst.far with | some a => [(a, l.len)] | none => []) ++
  l.segs.filterMap (fun g => match g.reads with
    | some (e, n) => e.far.map (fun a => (a, n))
    | none => none)

/-- The page that holds an address of a transfer's side that is not scratch: that of its leaf, and 4 KiB of the pool (13 R231) or where none translates. -/
def State.pageBase (s : State) (cl ctx : Nat) (pool : Bool) (a : Nat) : Nat :=
  if pool then a / 4096 * 4096
  else match s.leafOf (some cl) ctx a with
    | .error _ => a / 4096 * 4096
    | .ok l => a / l.size * l.size

/-- The pieces of a transfer: by page, the first byte and the length up to the last (13 R231). -/
def State.piecesOf (s : State) (cl ctx : Nat) (pool : Bool) (ls : List Line) : Tbl (Nat × Nat) :=
  ((ls.map Line.farSpans).flatten).foldl (fun t p =>
    let page := s.pageBase cl ctx pool p.1
    match look t page with
    | none => tins t page (p.1, p.2)
    | some q =>
      let lo := min q.1 p.1
      tins t page (lo, max (q.1 + q.2) (p.1 + p.2) - lo)) []

/-- The piece of a transfer that holds an address: its first byte and length. -/
def Xfer.piece (t : Xfer) (a : Nat) : Nat × Nat :=
  match t.pieces.find? (fun p => decide (p.2.1 ≤ a) && decide (a < p.2.1 + p.2.2)) with
  | some p => p.2
  | none => (a, 1)

/-- The piece that a line belongs to, by its first byte, counted from 1; 0 for a line that is all fill. -/
def Xfer.pieceOf (t : Xfer) (l : Line) : Nat := (l.farSpans.map (fun p => (t.piece p.1).1 + 1)).foldl max 0

/-- Translation and checks of a piece of a transfer: a page fault at the piece's first byte (13 R231). -/
def State.xlatePiece (s : State) (t : Xfer) (va : Nat) (acc : Access) : Except TrapRec Leaf :=
  match s.leafOf (some t.cl) t.ctx va with
  | .error r => .error (pageFault r (t.piece va).1)
  | .ok l =>
    match l.checkPiece t.ctx acc with
    | some r => .error (pageFault r (t.piece va).1)
    | none => .ok l

/-- A transfer of the sequencer at this site. -/
def State.xferOf (s : State) (kind : XKind) (lines : List Line) (total : Nat) : Xfer where
  id := s.fresh
  kind := kind
  ctx := s.hereCtxId
  part := s.partOfCtx s.hereCtxId
  cl := s.cur.cl
  core := s.cur.core
  sec := s.cur.sec
  engine := 0
  phase := s.me.phase
  born := s.lateInst
  lines := lines
  total := total
  notify := none
  stopped := false
  pooled := false
  capReg := 0
  pieces := s.piecesOf s.cur.cl s.hereCtxId false lines
  fences := []
  waitCore := none

def State.addXfer (s : State) (t : Xfer) : State := ({ s with xfers := s.xfers ++ [t] } : State).tick1

/-- A line has landed. -/
def State.lineDone (s : State) (id idx : Nat) : State :=
  s.modXfer id (fun t => { t with lines := t.lines.filter (fun l => l.idx != idx) })

/-! ## Faults (01 R26, 13 R231, 23 R378) -/

/-- The kind that sstat.cf gives a fault (13 R244). -/
def faultKindOf (code : BitVec 8) : BitVec 4 :=
  if code = codePage then 1 else if code = codeCap then 2 else if code = codeFormat then 3
  else if code = codeData then 4 else if code = codeLease then 5 else if code = codeFence then 6 else 0

def ClusterE.ce (e : ClusterE) (n : Nat) : CopyEng := if n = 0 then e.ce0 else e.ce1
def ClusterE.setCe (e : ClusterE) (n : Nat) (x : CopyEng) : ClusterE := if n = 0 then { e with ce0 := x } else { e with ce1 := x }
def State.modCe (s : State) (c n : Nat) (f : CopyEng → CopyEng) : State :=
  s.modCl c (fun x => { x with e := x.e.setCe n (f (x.e.ce n)) })

/-- The sequencer that takes the fault of a copy engine: the primary of the lowest core of the task that armed it (27 R434). -/
def State.engineCore (s : State) (c n : Nat) : Nat :=
  match ((s.cl c).e.ce n).task with
  | none => 0
  | some t => match (s.cl c).tasks.find? (fun x => x.id == t) with
    | none => 0
    | some x => lowestCore x.mask

/-- A fault of a copy engine: its status records it (a data-integrity fault has no reason, and the kind stands for it: DESIGN CHOICE, log entry 87), it stops until eret, and the owning context takes it (R231); one that has stopped meets no further fault (23 R378). at_ is the first byte of the piece. -/
def State.engineFault (s : State) (c n ctx : Nat) (r : TrapRec) (at_ : Nat) : State :=
  let k := s.engineCore c n
  if ((s.cl c).e.ce n).stopped then s else
  (s.modCe c n (fun e => { e with
    faultKind := faultKindOf r.code
    faultReason := if r.code = codeData then BitVec.ofNat 8 (r.info.toNat / 2048) else r.info.truncate 8
    faultAddr := BitVec.ofNat 52 at_
    progress := wordN at_
    stopped := true })).postFault ctx c k false r

/-- A transfer meets a fault in the piece that holds an address: a copy stops and keeps its progress; the rest of any other transfer is dropped, what has landed stays (R231, R245). -/
def State.xferFault (s : State) (t : Xfer) (r : TrapRec) (a : Nat) : State :=
  match t.kind with
  | .copy => (s.modXfer t.id (fun x => { x with stopped := true })).engineFault t.cl t.engine t.ctx r (t.piece a).1
  | .copyx => (s.modXfer t.id (fun x => { x with stopped := true })).postFault t.ctx t.cl t.core t.sec r
  | _ => (s.dropXfer t.id).postFault t.ctx t.cl t.core t.sec r

/-! ## CAPCHECK (13 R234) -/

/-- A capability fault (R234): register, reason, address. -/
def capTrap (k reason addr : Nat) : TrapRec := trapR codeCap (k * 256 + reason) addr

/-- CAPCHECK (R234). kind is the kind the op requires, none for capchk. -/
def capCheck (k : Nat) (c : Cap) (off n right : Nat) (kind : Option Nat) : Option TrapRec :=
  firstTrap [
    trapIf (!c.tag) (capTrap k 1 off),
    trapIf (match kind with | none => false | some x => c.kind != x) (capTrap k 2 off),
    trapIf (!c.right right) (capTrap k 2 off),
    trapIf (decide (c.len < off + n)) (capTrap k 3 off)]

/-- CAPCHECK of a copy-schedule entry over a piece of a pool object; TRAP.ADDR holds the piece's first byte. -/
def Xfer.capCheck (t : Xfer) (c : Cap) (off right : Nat) : Option TrapRec :=
  Machine.capCheck t.capReg c (t.piece off).1 (t.piece off).2 right (some 0)

/-! ## Reading the source of a line -/

/-- Bytes read, the mark of the line they come from with the place that it has left as its hop, the address and space of a fault, and the state with the choices made. -/
structure Got where
  bytes : List Byte
  mark : Option LineMark
  addr : Nat
  space : Nat

/-- A mark once its line has left a place. -/
def LineMark.from_ (m : LineMark) (hop : Nat) : LineMark := { m with hop := BitVec.ofNat 4 hop }

/-- The instant whose live backing a transfer reads: that of its sequencer's phase for a gget, whose reads are the sequencer's (11 R198, R200, 13 R245); that at which it started for any other operation, a phase of its own (R202; log entry 81). -/
def Xfer.readInst (t : Xfer) : Nat := if t.kind = .gget then t.phase else t.born

/-- Bytes of an address that a sequencer reads, one by one, with the first mark that they meet. -/
def State.seqBytes (s : State) (t : Xfer) (l : Leaf) (va : Nat) : Nat → List Byte × Option LineMark × State
  | 0 => ([], none, s)
  | n + 1 =>
    let loc := s.pubLoc t.ctx va t.readInst false (s.locOf t.part l va)
    let (b, m, s1) := if l.never then (s.homeByte loc, (s.markAt loc).map (fun m => m.from_ (hopOf l loc)), s)
      else s.seqByteAt t.cl t.core t.sec t.phase loc (hopOf l loc)
    let (r, k, s2) := s1.seqBytes t l (va + 1) n
    (b :: r, m.orElse (fun _ => k), s2)

/-- Bytes that an engine of the cluster reads, and the first mark that they meet. -/
def State.engBytes (s : State) (t : Xfer) (l : Leaf) (va n : Nat) : List Byte × Option LineMark :=
  let loc (a : Nat) : Loc := s.pubLoc t.ctx a t.readInst false (s.locOf t.part l a)
  ((span va n).map (fun a => s.agentByte (some t.cl) (loc a)),
   (span va n).findSome? (fun a => s.agentMark (some t.cl) (loc a) (hopOf l (loc a))))

/-- The bytes of one source, or the fault of its check. Sources of the pool come with the pool's response. -/
def State.readEnd (s : State) (t : Xfer) (e : End) (n : Nat) : Except TrapRec (Got × State) :=
  match e with
  | .scratch c off => .ok ({ bytes := readB (s.cl c).scratch off n,
                             mark := (tget none (s.cl c).marks (off / 64)).map (fun m => if m.kind = 1 then m else m.from_ 8),
                             addr := off / 64 * 64, space := 2 }, s)
  | .glob va =>
    (match s.xlatePiece t va .read with
     | .error r => .error r
     | .ok l =>
       let loc := s.pubLoc t.ctx va t.readInst false (s.locOf t.part l va)
       let s0 := ((s.tlbFill (some t.cl) t.ctx va).fillLayer loc).l2Touch t.part l loc
       if t.kind == .gget then
         (let (bs, m, s1) := s0.seqBytes t l va n
          .ok ({ bytes := bs, mark := m, addr := va / 64 * 64, space := 0 }, s1))
       else .ok ({ bytes := (s0.engBytes t l va n).1, mark := (s0.engBytes t l va n).2, addr := va / 64 * 64, space := 0 }, s0))
  | .host a => .ok ({ bytes := readB s.mem.host a n, mark := none, addr := a, space := 1 }, s)
  | .arena c k off => .ok ({ bytes := readB (s.core c k).arena off n, mark := none, addr := off, space := 3 }, s)
  | .side c k off =>
    -- the nibbles of words from an arena offset, two to a byte (19 R337), padded with zeros
    let w := off / 4
    .ok ({ bytes := (span 0 n).map (fun i =>
             ((tget 0 (s.core c k).side (w + 2 * i + 1)) ++ (tget 0 (s.core c k).side (w + 2 * i)) : BitVec 8)),
           mark := none, addr := off, space := 3 }, s)
  | .pool _ off => .ok ({ bytes := [], mark := none, addr := off, space := 1 }, s)

/-- The check point at which a transfer meets a marked source line: the copy engine (13 R230); for a get or put scratch, where an uncorrectable ECC error is met by every reader (R215). -/
def Xfer.readCheck (t : Xfer) (g : Got) (m : LineMark) : Nat :=
  if g.space = 2 ∧ m.kind = 1 then 8 else if t.kind == .copy || t.kind == .copyx then 9 else 8

/-- The bytes of a line's segments; a marked source line is an integrity fault unless it makes the whole line by itself, when a get or put carries its mark (01 R28, 13 R230). -/
def State.readSegs (s : State) (t : Xfer) (whole : Bool) : List Seg → Except TrapRec (List Byte × Option LineMark × State)
  | [] => .ok ([], none, s)
  | .fill bs :: r =>
    (match s.readSegs t false r with
     | .error e => .error e
     | .ok (rest, _, s1) => .ok (bs ++ rest, none, s1))
  | .half e hi :: r =>
    (match s.readEnd t e 1 with
     | .error f => .error f
     | .ok (g, s1) =>
       match g.mark with
       | some m => .error (integrityTrap m g.space (t.readCheck g m) g.addr)
       | none =>
         (match s1.readSegs t false r with
          | .error e => .error e
          | .ok (rest, _, s2) =>
            let b : Byte := hi ++ ((g.bytes.headD 0).truncate 4 : BitVec 4)
            .ok (b :: rest, none, s2)))
  | .src e n :: r =>
    (match s.readEnd t e n with
     | .error f => .error f
     | .ok (g, s1) =>
       let carry := whole && r.isEmpty && decide (n = 64)
       match g.mark with
       | some m =>
         if carry && !(t.kind == .copy || t.kind == .copyx) && !(g.space == 2 && m.kind == 1) then .ok (g.bytes, some m, s1)
         else .error (integrityTrap m g.space (t.readCheck g m) g.addr)
       | none =>
         (match s1.readSegs t false r with
          | .error e => .error e
          | .ok (rest, _, s2) => .ok (g.bytes ++ rest, none, s2)))

/-! ## Writing the destination of a line -/

/-- Whether an engine write finds its bank's buffer below 8 lines (R211). -/
def State.engRoom (s : State) (c off n : Nat) : Bool := bufRoom (s.cl c).buf 8 (unitsOf 64 off n)

/-- Bytes of an engine, get or fabric write performed in scratch: granules full, tags cleared, the line's mark replaced (R211, R216, R218). -/
def State.engPut (s : State) (c off : Nat) (bs : List Byte) (m : Option LineMark) : State :=
  s.modCl c (fun x =>
    let y := x.put (cells off bs)
    let y := { y with fe := setFE y.fe true (unitsOf 16 off bs.length) }
    if off % 64 = 0 ∧ bs.length = 64 then { y with marks := tset none y.marks (off / 64) m } else y)

/-- Locations and translation of global bytes to be written. -/
def State.destLocs (s : State) (t : Xfer) (va : Nat) (l : Leaf) : Nat → List Loc
  | 0 => []
  | n + 1 => s.pubLoc t.ctx va s.lateInst true (s.locOf t.part l va) :: s.destLocs t (va + 1) l n

/-- Bytes written by a sequencer's put, one by one (11 R189), of a line whose mark they carry. -/
def seqWrites (t : Xfer) (never : Bool) (m : Option LineMark) : List (Loc × Byte) → State → State
  | [], s => s
  | (l, b) :: r, s => seqWrites t never m r (s.seqWrite t.cl t.core t.sec never l b t.id m)

/-- Whether a put's bytes go into the cluster cache: not those of a never-cached page, nor of one pinned in scratch (11 R189, R459). -/
def Xfer.cached (t : Xfer) (l : Leaf) (l0 : Loc) : Bool := t.kind == .gput && !l.never && !l0.isScratch

/-- Nibbles of words from w on, two to a byte. -/
def setNibbles (t : Tbl (BitVec 4)) (w : Nat) : List Byte → Tbl (BitVec 4)
  | [] => t
  | b :: r => setNibbles (tset 0 (tset 0 t w (b.truncate 4)) (w + 1) ((b >>> 4).truncate 4)) (w + 2) r

/-- Global bytes written: by a put into the cluster cache, which the mark of a line that comes whole enters with it, by an engine at their homes (11 R189, R193), where such a line's mark is set; a put's line whose seal fails as it enters LPDDR6 is poisoned there, and the put meets the fault (13 R226). -/
def State.putGlob (s : State) (t : Xfer) (va : Nat) (l : Leaf) (ps : List (Loc × Byte)) (l0 : Loc) (m : Option LineMark) : State :=
  let s0 := (s.tlbFill (some t.cl) t.ctx va).l2Touch t.part l l0
  let whole := decide (ps.length = 64)
  let s1 := if t.kind = .gput then seqWrites t l.never (if whole then m else none) ps s0.bump else s0.wrHomes none ps
  if !whole || t.cached l l0 then s1
  else match entryFault l0 m 8 (s1.physOf l0) with
    | none => s1.setMark l0 m
    | some r => ((s1.setMark l0 m).poison l0 8).xferFault t r va

/-- Whether a global write finds room: in the cluster cache for a put (11 R192), in the bank's buffer for a page pinned in scratch (13 R220); and no lease granted to a peer delays one that goes home (11 R207). -/
def State.globRoom (s : State) (t : Xfer) (l : Leaf) (l0 : Loc) (n : Nat) : Bool :=
  match l0 with
  | .scratch c off => s.engRoom c off n
  | _ => if t.cached l l0 then (s.cl t.cl).cacheRoom (l0.num / 64) else !s.grantHolds none l0 n

/-- The bytes of a line at its destination, or the fault of its check. none: the write waits. -/
def State.writeEnd (s : State) (t : Xfer) (e : End) (bs : List Byte) (m : Option LineMark) : Except TrapRec (Option State) :=
  match e with
  | .scratch c off =>
    if !s.engRoom c off bs.length then .ok none
    else (match (s.cl c).chkMerge (cells off bs) with
      | some r => .error r
      | none => .ok (some (s.engPut c off bs m)))
  | .glob va =>
    (match s.xlatePiece t va .write with
     | .error r => .error r
     | .ok l =>
       let ls := s.destLocs t va l bs.length
       let l0 := ls.headD (.phys 0)
       if s.pubHeld t.ctx va t.id = false ∧ s.globRoom t l l0 bs.length = true then
         (match (if t.cached l l0 then s.mergeMark t.cl l0 else (s.markAt l0).map (fun k => (k, homeCheck l0))) with
          | some (k, check) => if bs.length < 64 then .error (integrityTrap k 0 check (va / 64 * 64)) else
              .ok (some (s.putGlob t va l (ls.zip bs) l0 m))
          | none => .ok (some (s.putGlob t va l (ls.zip bs) l0 m)))
       else .ok none)
  | .host a => .ok (some (s.modMem (fun x => { x with host := writeB x.host a bs })))
  | .arena c k off =>
    .ok (some (s.modCore c k (fun y => { y with
      arena := writeB y.arena off bs
      side := tclear y.side (off / 4) ((off + bs.length) / 4) })))
  | .side c k off => .ok (some (s.modCore c k (fun y => { y with side := setNibbles y.side (off / 4) bs })))
  | .pool _ _ => .ok none

/-! ## The landing of a line -/

/-- The class that a transfer's lines are charged to (01 R24); fabric ops and pool lines are charged with their packets and requests. -/
def Xfer.cls (t : Xfer) : Option Nat :=
  match t.kind with
  | .gget => some clsCopy
  | .gput => some clsCopy
  | .copy => if t.pooled then none else some clsCopy
  | .copyx => some clsCopy
  | _ => none


/-! ### The order of one sequencer's transfers (11 R187, R459) -/

/-- The location at which a line's global side begins, and its length; whether it is written, and whether its page is never cached. -/
def State.globSpan (s : State) (t : Xfer) (l : Line) : Option (Nat × Nat × Bool × Bool) :=
  let at_ (va n : Nat) (wr : Bool) : Option (Nat × Nat × Bool × Bool) :=
    match s.leafOf (some t.cl) t.ctx va with
    | .error _ => none
    | .ok f => some ((s.pubLoc t.ctx va t.readInst wr (s.locOf t.part f va)).num, n, wr, f.never)
  match l.dst, l.segs with
  | .glob va, _ => at_ va l.len true
  | _, [.src (.glob va) n] => at_ va n false
  | _, _ => none

/-- Transfers of the same sequencer, issued before. -/
def Xfer.before (t : Xfer) (u : Xfer) : Bool :=
  decide (u.id < t.id) && u.ctx == t.ctx && u.cl == t.cl && u.core == t.core && u.sec == t.sec && (u.kind == .gget || u.kind == .gput)

/-- Whether a line of a get or put must wait for an earlier one of its sequencer: one that shares a byte with it where one of them writes, or an earlier write to a never-cached page before a write to one. -/
def State.orderHeld (s : State) (t : Xfer) (l : Line) : Bool :=
  match s.globSpan t l with
  | none => false
  | some (a, n, wr, never) =>
    (s.xfers.filter t.before).any (fun u => u.lines.any (fun m =>
      match s.globSpan u m with
      | none => false
      | some (b, k, wr', never') =>
        ((wr || wr') && decide (a < b + k) && decide (b < a + n)) || (wr && wr' && never && never')))

/-! ### The ports of the banks (13 R211) -/

/-- The scratch offset behind an end: of scratch, or of a global page pinned in scratch (13 R220). -/
def State.pinOf (s : State) (t : Xfer) (e : End) : Option (Nat × Nat) :=
  match e with
  | .scratch c off => some (c, off)
  | .glob va =>
    (match s.leafOf (some t.cl) t.ctx va with
     | .error _ => none
     | .ok l => match s.pubLoc t.ctx va t.readInst false (s.locOf t.part l va) with | .scratch c off => some (c, off) | _ => none)
  | _ => none

/-- Scratch lines that a line's ends use: cluster, line, and whether it is written. -/
def State.portsOf (s : State) (t : Xfer) (l : Line) : List (Nat × Nat × Bool) :=
  (l.segs.map (fun g => match g.reads with
    | some (e, n) => (match s.pinOf t e with | some (c, off) => (unitsOf 64 off n).map (fun x => (c, x, false)) | none => [])
    | _ => [])).flatten ++
  (match s.pinOf t l.dst with | some (c, off) => writePorts c off l.len | none => [])

/-- A copy of a context whose sequencers have all stopped for a pre-emption on its cluster pauses at a line boundary: it asks the pool for no further line (03 R58). -/
def State.copyPaused (s : State) (t : Xfer) : Bool :=
  (match look s.ctxs t.ctx with | none => false | some x => x.preempt.any (fun p => p.1 == t.cl)) &&
  (s.cl t.cl).cores.all (fun p => !p.2.e.prim.running && !p.2.e.second.running)

/-- Whether a transfer's line may land now: its transfer runs, lower pieces of the side that is not scratch have landed (R231), fences and boundaries before it have passed, its sequencer's earlier transfers are not in its way, the core that copyx waits for is halted (R444), a copyx moves its lines in order. -/
def State.lineReady (s : State) (t : Xfer) (l : Line) : Bool :=
  !t.stopped && !l.sent && (t.kind == .copy || !l.isPool) && !(l.isPool && s.copyPaused t) &&
  t.lines.all (fun x => t.pieceOf l == 0 || t.pieceOf x == 0 || decide (t.pieceOf l ≤ t.pieceOf x)) &&
  ((t.kind != .copyx) || t.lines.all (fun x => decide (l.idx ≤ x.idx))) &&
  (t.kind == .copy || s.mayPerform t.cl t.core t.sec t.id) &&
  !(t.kind == .gget && s.readHeld t.cl t.core t.sec t.id) &&
  !(t.kind == .gput && s.readHeld t.cl t.core t.sec t.id) &&
  !((t.kind == .gget || t.kind == .gput) && s.orderHeld t l) &&
  (match t.waitCore with | none => true | some (c, k) => (s.core c k).halted && (s.core c k).pending.isEmpty) &&
  (match t.kind with
   | .copy => decide ((s.cl t.cl).ctx = some t.ctx)
   | .copyx => decide ((s.cl t.cl).ctx = some t.ctx)
   | _ => true)

/-- The lazy unit that an end touches under another tag: cluster, core, kind and index (03 R60). -/
def State.endForeign (s : State) (t : Xfer) (e : End) : Option (Nat × Nat × UnitKind × Nat) :=
  let bank (c k off : Nat) : Option (Nat × Nat × UnitKind × Nat) :=
    if tget 0 (s.core c k).bankTag (off / 0x4000) = tagOf t.ctx then none else some (c, k, .bank, off / 0x4000)
  match e with
  | .scratch c off => if s.ownsGroup c t.ctx off then none else some (c, 0, .group, groupAt off)
  | .glob _ =>
    (match s.pinOf t e with
     | some (c, off) => if s.pinForeign t.ctx c off then some (c, 0, .group, groupAt off) else none
     | none => none)
  | .arena c k off => bank c k off
  | .side c k off => bank c k off
  | _ => none

/-- The lazy unit that a line's ends touch under another tag. -/
def State.lineForeign (s : State) (t : Xfer) (l : Line) : Option (Nat × Nat × UnitKind × Nat) :=
  match l.segs.findSome? (fun g => match g.reads with | some (e, _) => s.endForeign t e | none => none) with
  | some u => some u
  | none => s.endForeign t l.dst

/-- The location of an end's line, where it has a mark. -/
def State.endLoc (s : State) (t : Xfer) (e : End) : Option Loc :=
  match e with
  | .scratch c off => some (.scratch c off)
  | .glob va =>
    (match s.leafOf (some t.cl) t.ctx va with
     | .error _ => none
     | .ok l => some (s.pubLoc t.ctx va t.readInst false (s.locOf t.part l va)))
  | _ => none

/-- A marked line where it lies is poisoned: in the cluster cache, where that holds it whole, else at its home (01 R26). -/
def State.poisonAt (s : State) (cl : Nat) (loc : Loc) : State :=
  let line := loc.num / 64
  let hs := (s.cl cl).heldLine line
  if wholeLine hs then
    match lastMark hs with
    | none => s
    | some m =>
      let t := s.modCl cl (fun x => { x with held := x.held.map (fun h =>
        if h.pa / 64 = line then { h with mark := some { m with kind := 2 } } else h) })
      if m.kind = 2 then t else { t with poisonCount := s.poisonCount + 1, poisonLast := loc.num / 64 * 64 }
  else match s.markAt loc with
    | none => s
    | some m => s.poison loc m.hop

/-- The source lines of an engine's failed check are marked poisoned (01 R26). -/
def State.poisonSrc (s : State) (t : Xfer) (l : Line) : State :=
  l.segs.foldl (fun u g => match g.reads with
    | some (e, _) => (match u.endLoc t e with | none => u | some loc => u.poisonAt t.cl loc)
    | none => u) s

/-- The destination line of an engine's failed check is marked poisoned (01 R26). -/
def State.poisonDst (s : State) (t : Xfer) (l : Line) : State :=
  let loc : Option Loc := match l.dst with
    | .glob va => (match s.leafOf (some t.cl) t.ctx va with | .error _ => none | .ok f => some (s.pubLoc t.ctx va t.readInst true (s.locOf t.part f va)))
    | e => s.endLoc t e
  match loc with
  | none => s
  | some x => s.poisonAt t.cl x

/-- The fence number of the piece that a line belongs to: FENCE.NUM as the engine starts the piece (23 R368). -/
def State.pieceFence (s : State) (t : Xfer) (l : Line) : Word := (((s.xfer t.id).getD t).fences |> (look · (t.pieceOf l))).getD s.pool.fence

/-- A pool request of a copy's line (R231, 23 R371): a get for a line into scratch, a write for a line out of it. -/
def State.linePool (s : State) (t : Xfer) (l : Line) (k : Cap) (line : Nat) (write : Bool) (enables : Word) (data : List Byte) : State :=
  let fence := s.pieceFence t l
  let base := if write then s.newReq kWrite 1 k.object (64 * line) 0 (.copyOut t.id l.idx)
    else { s.newReq kGet 3 k.object (64 * line) 64 (.copyOut t.id l.idx) with need := needOf l.poolPieces line }
  let r : PoolReq := { base with
    ctx := t.ctx, part := t.part, cl := t.cl, core := 0, sec := false, ofSeq := false, enables := enables, data := data, fence := fence }
  (s.addReq r).modXfer t.id (fun x => { x with fences := tins x.fences (t.pieceOf l) fence, lines := x.lines.map (fun y => if y.idx = l.idx then { y with sent := true } else y) })

/-- A line of the pool is asked for. -/
def State.askPool (s : State) (t : Xfer) (l : Line) (k : Cap) (line : Nat) : State := s.linePool t l k line false 0 []

/-- A line of a copy with the pool on one side: in fenced state the engine stops (23 R385); then the checks of its capability over the piece, its source, and its request. -/
def State.landPool (s : State) (t : Xfer) (l : Line) : State :=
  match l.dst, l.segs with
  | .pool k off, segs =>
    let n := l.len
    if s.pool.fenced then s.xferFault t { trapR codeFence (1 * 256 + 6) (k.addr (t.piece off).1) with ofPool := true } off
    else match t.capCheck k off 1 with
    | some r => s.xferFault t r off
    | none =>
      (match s.readSegs t false segs with
       | .error r => (if r.code = codeData then s.poisonSrc t l else s).xferFault t r off
       | .ok (bs, _, s1) =>
         let p := k.addr off % 64
         s1.linePool t l k (k.addr off / 64) true (wordN ((2 ^ n - 1) * 2 ^ p))
           (List.replicate p 0 ++ bs ++ List.replicate (64 - p - n) 0))
  | _, _ =>
    let ps := l.poolPieces
    let k := match ps with | [] => ({} : Cap) | p :: _ => p.1
    let bad := ps.findSome? (fun p => (firstTrap [
      trapIf s.pool.fenced { trapR codeFence (3 * 256 + 6) (p.1.addr (t.piece p.2.1).1) with ofPool := true }, t.capCheck p.1 p.2.1 3]).map (fun r => (r, p.2.1)))
    (match bad with
     | some (r, off) => s.xferFault t r off
     | none => (poolLines ps).foldl (fun u a => u.askPool t l k a) s)

/-- Between two arenas each word's nibble moves with the word (27 R444). -/
def State.moveSide (s s0 : State) (l : Line) : State :=
  match l.dst, l.segs with
  | .arena c k off, [.src (.arena c' k' off') n] =>
    (span 0 (n / 4)).foldl (fun u i => u.modCore c k (fun y =>
      { y with side := tset 0 y.side (off / 4 + i) (tget 0 (s0.core c' k').side (off' / 4 + i)) })) s
  | _, _ => s

/-- A transfer with no line left: gets are done, a copyx gives its length to the slot it reserved (27 R444). -/
def State.finishXfer (s : State) (id : Nat) : State :=
  match s.xfer id with
  | none => s
  | some t =>
    if !t.lines.isEmpty then s else
    match t.kind with
    | .gget => s.dropXfer id
    | .pget => s.dropXfer id
    | .copyx =>
      (match t.notify with
       | none => s.dropXfer id
       | some (q, slot, v) =>
         let s1 := s.dropXfer id
         let new : Arrival := { id := s1.fresh, due := s1.cycle, cl := t.cl, core := t.core, q := q, slot := slot, value := v }
         ({ s1 with arrivals := s1.arrivals ++ [new] } : State).tick1)
    | _ => s

/-- The address at which a line's side that is not scratch begins. -/
def Line.farAt (l : Line) : Nat := match l.farSpans with | [] => 0 | p :: _ => p.1

/-- One line read from its source and written at its destination, charged to its class. It waits for the ports that it needs (R211). -/
def State.landLine (s : State) (t : Xfer) (l : Line) : State :=
  match s.lineForeign t l with
  | some (c, k, u, i) => s.touch c k u i
  | none =>
    if l.isPool then s.landPool t l else
    if !(s.portsOf t l).all s.portFree then s else
    match s.readSegs t true l.segs with
    | .error r => (if r.code = codeData then s.poisonSrc t l else s).xferFault t r l.farAt
    | .ok (bs, m, s1) =>
      match s1.writeEnd t l.dst bs m with
      | .error r => (if r.code = codeData then s1.poisonDst t l else s1).xferFault t r l.farAt
      | .ok none => s
      | .ok (some s2) => (((s2.moveSide s1 l).takePorts (s.portsOf t l)).lineDone t.id l.idx).finishXfer t.id

/-- A copy, get, put or incoming line lands (R216). Where it cannot yet, nothing happens. -/
def execLineLanding (xfer line : Nat) (s : State) : Out :=
  match s.xfer xfer with
  | none => .next s
  | some t =>
    match t.lines.find? (fun l => l.idx == line) with
    | none => .next s
    | some l =>
      if s.lineReady t l then
        -- a line that waits for its unit or for room in a buffer has not issued and is charged nothing
        let u := s.landLine t l
        let waits := (u.xfer xfer).any (fun x => !x.stopped && x.lines.any (fun y => y.idx == line && !y.sent))
        match (if l.isPool || waits then none else t.cls) with
        | none => .next u
        | some c =>
          match s.charge t.part c 1 with
          | none => .next s
          | some s1 => .next (s1.landLine t l)
      else .next s

/-- A gput whose lines are all performed counts for sstat.put (R245). -/
def execGputComplete (xfer : Nat) (s : State) : Out :=
  match s.xfer xfer with
  | none => .next s
  | some t =>
    if t.kind = .gput ∧ t.lines.isEmpty = true then
      .next ((s.dropXfer xfer).modEOf t.ctx t.cl t.core (fun e =>
        let q := e.sq t.sec
        e.setSq t.sec { q with puts := q.puts + 1 }))
    else .next s

end Sys2Proof.Machine
end

