-- ==== Sys2Proof/Machine/MemOps.lean ====
section
/-! DEFINITION. Memory instructions of majors 0x14 to 0x1A, 0x1D, 0x1E and publish (13 R233 to R245, R251 to R255): scratch loads and stores, full-empty control, scratch atomics, return streams, global transfers, capabilities. -/

namespace Sys2Proof.Machine

open Sys2Proof

/-! ## Addresses of scratch ops, which the issue of a bundle tests as well (R213) -/

def State.ldAddr (s : State) (ty : BitVec 3) (a : Reg) (imm : Imm) : Nat := (s.g a).toNat + tyBytes ty * imm.toNat
def State.vldAddr (s : State) (a : Reg) (imm : Imm) : Nat := (s.g a).toNat + 16 * imm.toNat

/-- Column j of every lane: e(l, j) with lane l and row j (R237). -/
def colAddrs (base pitch n : Nat) : List (Nat × Nat × Nat) :=
  ((span 0 64).map (fun l => (span 0 n).map (fun j => (base + 64 * pitch * l + 4 * j, l, j)))).flatten

/-- CNT holds n − 1 (R237). -/
def cntOf (cnt : Reg) : Nat := cnt.toNat + 1
def State.cols (s : State) (a cnt : Reg) : List (Nat × Nat × Nat) :=
  colAddrs (bitsOf (s.g a) 21 0) (bitsOf (s.g a) 63 48) (cntOf cnt)

def State.tileView (s : State) (tv : BitVec 4) : View := s.e.view (2 + tv.toNat)

/-- Rows of a tile: arena offset and scratch offset of each (R238). -/
def State.tileRows (s : State) (v : View) (a : Nat) : List (Nat × Nat) :=
  let t := tidOf (s.tid v.tid.toNat)
  (span 0 v.rows.toNat).map (fun i => (v.row i, a + 64 * t.pitch * i))

/-- Bytes of a tile row. -/
def State.tileRb (s : State) (v : View) : Nat := v.rb (widthOf (tidOf (s.tid v.tid.toNat)).format)

def State.tldAddr (s : State) (a : Reg) (imm : Imm) : Nat := (s.g a).toNat + 64 * imm.toNat

/-! ## Scratch loads and stores (R235 to R239) -/

/-- The checks of a scratch read: addresses, .clear without .wait, seals. -/
def State.chkRead (s : State) (wait clear : Bool) (as : List (Nat × Nat)) : Option TrapRec :=
  firstTrap [s.chkClear wait clear as, s.chkSeals as]

/-- g[D] := the scalar at scratch offset g[A] + w × imm (R235). -/
def execLd (ty : BitVec 3) (wait clear : Bool) (d a : Reg) (imm : Imm) (s : State) : Out :=
  let x := s.ldAddr ty a imm
  let w := tyBytes ty
  s.checked (firstTrap [chkScratch x w w, s.chkRead wait clear [(x, w)]]) (fun s =>
    (s.readLines clear [(x, w)]).wrG d (extendTy ty (natOf (s.scr x w))) 5)

/-- The scalar at g[A] + w × imm := g[D], landing at issue + 3 (R235). -/
def execSt (ty : BitVec 3) (d a : Reg) (imm : Imm) (s : State) : Out :=
  let x := s.ldAddr ty a imm
  let w := tyBytes ty
  s.checked (chkScratch x w w) (fun s => s.landAt 3 (cells x (bytesOf w (s.g d).toNat)))

/-- Row D of the vector view := 256 bytes of scratch (R236). -/
def execVld (wait clear : Bool) (d a : Reg) (imm : Imm) (s : State) : Out :=
  let x := s.vldAddr a imm
  s.checked (firstTrap [chkScratch x 256 16, s.chkRead wait clear [(x, 256)]]) (fun s =>
    (s.readLines clear [(x, 256)]).pend 6 [s.arenaW (cells (s.rowAt d.toNat) (s.scr x 256))])

/-- 256 bytes of scratch := row D (R236). -/
def execVst (d a : Reg) (imm : Imm) (s : State) : Out :=
  let x := s.vldAddr a imm
  s.checked (firstTrap [chkScratch x 256 16, s.chkArena (s.rowAt d.toNat) 256]) (fun s =>
    s.landAt 3 (cells x (readB s.here.arena (s.rowAt d.toNat) 256)))

/-- The checks of a vldm before it reads (R237). -/
def State.chkCols (s : State) (d a cnt : Reg) : Option TrapRec :=
  firstTrap [trapIf (decide (64 < d.toNat + cntOf cnt)) (s.illegal 22), chkScratchAll ((s.cols a cnt).map (·.1)) 4 4]

/-- Lane l of row D + j := the word at e(l, j) (R237). -/
def execVldm (wait clear : Bool) (d a cnt : Reg) (s : State) : Out :=
  let es := s.cols a cnt
  let as := es.map (fun e => (e.1, 4))
  s.checked (firstTrap [s.chkCols d a cnt, s.chkRead wait clear as]) (fun s =>
    let at_ (e : Nat × Nat × Nat) : Nat := s.rowAt (d.toNat + e.2.2) + 4 * e.2.1
    (s.readLines clear as).pend (8 + s.cur.beats)
      [s.arenaW ((es.map (fun e => cells (at_ e) (s.scr e.1 4))).flatten)] 0 (es.map (fun e => .arena e.1 (at_ e) 4)))

/-- The word at e(l, j) := lane l of row D + j; the highest lane is kept (R237). -/
def execVstm (d a cnt : Reg) (s : State) : Out :=
  let es := s.cols a cnt
  s.checked (firstTrap [
      s.chkCols d a cnt,
      s.chkRows ((span d.toNat (cntOf cnt)))]) (fun s =>
    s.landAt (4 + s.cur.wbeats)
      ((es.map (fun e => cells e.1 (readB s.here.arena (s.rowAt (d.toNat + e.2.2) + 4 * e.2.1) 4))).flatten))

/-- The checks of a tld or tst before it reads: the view and its entry, then every row (R238). -/
def State.chkTile (s : State) (tv : BitVec 4) (a : Reg) (imm : Imm) : Option TrapRec :=
  let v := s.tileView tv
  firstTrap [s.chkView v, chkScratchAll ((s.tileRows v (s.tldAddr a imm)).map (·.2)) (s.tileRb v) 64]

/-- The tile view := rows of scratch (R238). -/
def execTld (wait clear : Bool) (tv : BitVec 4) (a : Reg) (imm : Imm) (s : State) : Out :=
  let v := s.tileView tv
  let rb := s.tileRb v
  let rows := s.tileRows v (s.tldAddr a imm)
  let as := rows.map (fun p => (p.2, rb))
  s.checked (firstTrap [s.chkTile tv a imm, s.chkRead wait clear as]) (fun s =>
    (s.readLines clear as).pend (8 + s.cur.beats)
      [s.arenaW ((rows.map (fun p => cells p.1 (s.scr p.2 rb))).flatten)] 0 (rows.map (fun p => .arena p.2 p.1 rb)))

/-- Rows of scratch := the tile view (R238). -/
def execTst (tv : BitVec 4) (a : Reg) (imm : Imm) (s : State) : Out :=
  let v := s.tileView tv
  let rb := s.tileRb v
  let rows := s.tileRows v (s.tldAddr a imm)
  s.checked (firstTrap ([s.chkTile tv a imm] ++ rows.map (fun p => s.chkArena p.1 rb))) (fun s =>
    s.landAt (4 + s.cur.wbeats) ((rows.map (fun p => cells p.2 (readB s.here.arena p.1 rb))).flatten))

/-! ## Full-empty control and scratch atomics (R240, R241) -/

/-- The checks of feset and feclr. -/
def chkRange (x n : Nat) : Option TrapRec :=
  firstTrap [chkScratch x n 16, trapIf (decide (n % 16 ≠ 0 ∨ n < 16 ∨ 0x10000 < n)) (pageFault 7 x)]

/-- Sets granules full, in cycle issue + 2 + ⌈n / 1024⌉ or after the sequencer's earlier writes (R240). -/
def execFeset (a b : Reg) (s : State) : Out :=
  let x := (s.g a).toNat
  let n := (s.g b).toNat
  s.checked (chkRange x n) (fun s => s.landAt (2 + ceilDiv n 1024) [] none (unitsOf 16 x n) [])

/-- Sets granules empty (R240). -/
def execFeclr (a b : Reg) (s : State) : Out :=
  let x := (s.g a).toNat
  let n := (s.g b).toNat
  s.checked (chkRange x n) (fun s => s.landAt (2 + ceilDiv n 1024) [] none [] (unitsOf 16 x n))

/-- A queue fault of a return stream (R242): register and reason. -/
def State.queueTrap (s : State) (q reason : Nat) : TrapRec := trapR codeQueue (q * 256 + reason) s.pcN

/-- The check that a named stream has a free slot (R242). -/
def State.chkSlot (s : State) (q : Nat) : Option TrapRec := trapIf (!s.canReserve q) (s.queueTrap q 16)

/-- The register after gB, for compare-and-swap. -/
def State.gNext (s : State) (b : Reg) : Word := s.g (b + 1)

/-- A scratch atomic at issue + 4; the old value goes to the stream (R241). -/
def execAtom (i32 : Bool) (op : BitVec 4) (q : BitVec 3) (a b : Reg) (s : State) : Out :=
  let x := (s.g a).toNat
  let n := if i32 then 4 else 8
  s.checked (firstTrap [chkScratch x n n, s.chkSlot q.toNat]) (fun s =>
    let (slot, s1) := s.reserve q.toNat
    s1.landAt 4 [] none [] [] (some
      { a := x, n := n, op := op, b := s.g b, c := s.gNext b, core := s.cur.core, q := q.toNat, slot := slot }))

/-! ## Return streams (R243, R244) -/

/-- Binds qD as an empty stream (R243). -/
def execSbind (q : BitVec 3) (a : Reg) (s : State) : Out :=
  s.checked (trapIf (decide (bitsOf (s.g a) 63 62 ≠ 0)) (s.queueTrap q.toNat 18)) (fun s =>
    s.modHereE (fun e => let f := e.unbind q.toNat
      { f with qBound := f.qBound ++ [q.toNat] }))

/-- Discards the stream's slots and unbinds qD (R243). -/
def execSunbind (q : BitVec 3) (s : State) : Out := .next (s.modHereE (fun e => e.unbind q.toNat))

/-- Consumed slots not yet retired. -/
def usedSlots (l : List QSlot) : Nat := (l.filter (fun x => x.usedBy.isSome)).length

/-- The slot of an identity consumed by a sequencer at an order. -/
def useSlot (id : Nat) (sec : Bool) (order : Nat) (l : List QSlot) : List QSlot :=
  l.map (fun x => if x.id = id then { x with usedBy := some (sec, order) } else x)

/-- The head value of qA, consumed (R242, R244). An op whose head has not landed does not issue (03 R53). -/
def execSstatVal (d : Reg) (q : BitVec 3) (s : State) : Out :=
  let l := s.e.stream q.toNat
  match (headSlot l).bind (fun x => x.val.map (fun v => (x.id, v))) with
  | none => s.checked (trapIf (!s.e.bound q.toNat) (s.queueTrap q.toNat 19)) id
  | some (i, v) =>
    s.checked (firstTrap [
        trapIf (!s.e.bound q.toNat) (s.queueTrap q.toNat 19),
        trapIf (decide (16 < usedSlots l + 1)) (s.queueTrap q.toNat 17)]) (fun s =>
      (s.modHereE (fun e => e.setStream q.toNat (useSlot i s.cur.sec s.ord (e.stream q.toNat)))).wrG d v 2)

/-- The status of a stream (R244). -/
def execSstatQ (d : Reg) (q : BitVec 3) (s : State) : Out :=
  let l := s.e.stream q.toNat
  let landed := (l.filter (fun x => x.val.isSome && x.usedBy.isNone)).length
  .next (s.wrG d (wordN ((if s.e.bound q.toNat then 2 ^ 63 else 0) + usedSlots l * 256 + landed)) 2)

/-- Progress of a copy engine: entry in progress, DONE_e, bytes of the last entry (R244). -/
def execSstatCe (d : Reg) (e : BitVec 1) (s : State) : Out :=
  let c := s.hereCl.e.ce e.toNat
  .next (s.wrG d (c.entry ++ c.done ++ c.bytes) 2)

/-- Fault status of a copy engine (R244). -/
def execSstatCf (d : Reg) (e : BitVec 1) (s : State) : Out :=
  let c := s.hereCl.e.ce e.toNat
  .next (s.wrG d (c.faultAddr ++ c.faultKind ++ c.faultReason) 2)

/-- Completed gput ops of this sequencer (R244). -/
def execSstatPut (d : Reg) (s : State) : Out := .next (s.wrG d s.me.puts 2)

/-! ## Global transfers (R245) -/

/-- The checks of gget and gput: scratch side, address, translation of the first page. -/
def State.chkGlobal (s : State) (scr va n : Nat) (acc : Access) : Option TrapRec :=
  firstTrap [
    chkScratch scr n 16,
    trapIf (decide (n % 16 ≠ 0 ∨ 0x100000 < n)) (pageFault 7 scr),
    trapIf (decide (va % 16 ≠ 0)) (pageFault 5 va),
    (match s.xlate (some s.cur.cl) s.hereCtxId va acc with
     | .error r => some r
     | .ok _ => none)]

/-- The lines of a transfer between scratch and global memory. -/
def State.globLines (s : State) (scr va n : Nat) (put : Bool) : List Line :=
  numLines 0 ((cuts scr va n).map (fun p =>
    let a : End := .scratch s.cur.cl (scr + p.1)
    let b : End := .glob (va + p.1)
    if put then (b, [.src a p.2]) else (a, [.src b p.2])))

/-- Global memory into scratch (R245). -/
def execGget (d a b : Reg) (s : State) : Out :=
  let scr := (s.g d).toNat
  let va := (s.g a).toNat
  let n := (s.g b).toNat
  if n = 0 then .next s else
  s.checked (s.chkGlobal scr va n .read) (fun s =>
    let s := s.tlbFill (some s.cur.cl) s.hereCtxId va
    s.addXfer (s.xferOf .gget (s.globLines scr va n false) n))

/-- Scratch into global memory (R245). -/
def execGput (d a b : Reg) (s : State) : Out :=
  let va := (s.g d).toNat
  let scr := (s.g a).toNat
  let n := (s.g b).toNat
  if n = 0 then .next s else
  s.checked (s.chkGlobal scr va n .write) (fun s =>
    let s := s.tlbFill (some s.cur.cl) s.hereCtxId va
    s.addXfer (s.xferOf .gput (s.globLines scr va n true) n))

/-! ## Capabilities (R234, R251 to R253) -/

/-- k[K] := the tagged granule (R251). -/
def execCapld (k : BitVec 4) (a : Reg) (s : State) : Out :=
  let x := (s.g a).toNat
  s.checked (firstTrap [chkScratch x 16 16,
      trapIf (!tget false s.hereCl.capTag (x / 16)) (capTrap k.toNat 5 x), s.chkSeals [(x, 16)]]) (fun s =>
    (s.readLines false [(x, 16)]).pend 5 [.k k.toNat { bits := BitVec.ofNat 128 (natOf (s.scr x 16)), tag := true }])

/-- The granule := k[K], tagged (R251). -/
def execCapst (k : BitVec 4) (a : Reg) (s : State) : Out :=
  let x := (s.g a).toNat
  s.checked (firstTrap [chkScratch x 16 16, trapIf (!(s.k k.toNat).tag) (capTrap k.toNat 1 x)]) (fun s =>
    s.landAt 3 (cells x (bytesOf 16 (s.k k.toNat).bits.toNat)) (some (x / 16)))

/-- A narrower capability (R252). -/
def execCapder (k kb : BitVec 4) (a b : Reg) (s : State) : Out :=
  let p := s.k kb.toNat
  let off := (s.g a).toNat
  let len := bitsOf (s.g b) 31 0
  s.checked (firstTrap [
      trapIf (!p.tag) (capTrap kb.toNat 1 off),
      trapIf (!p.right 5) (capTrap kb.toNat 2 off),
      trapIf (decide (off % 256 ≠ 0 ∨ p.len < off + 256 * len ∨ len = 0)) (capTrap kb.toNat 4 off)]) (fun s =>
    let bits : BitVec 128 := p.object ++ (p.bits.extractLsb' 80 8 &&& (s.g b).extractLsb' 32 8) ++
      (BitVec.ofNat 48 (p.base + off)) ++ ((s.g b).truncate 32 : BitVec 32)
    s.pend 2 [.k k.toNat { bits := bits, tag := true }])

/-- CAPCHECK over every right in need (R253). -/
def execCapchk (k : BitVec 4) (a b : Reg) (s : State) : Out :=
  let need := bitsOf (s.g b) 63 56
  let n := bitsOf (s.g b) 47 0
  s.checked (firstTrap ((span 0 8).map (fun r =>
    if need / 2 ^ r % 2 = 1 then capCheck k.toNat (s.k k.toNat) (s.g a).toNat n r none else none))) id

/-! ## Publication (R255) -/

/-- Requests the exchange of a buffer's backings (R255, 11 R199). -/
def execPublish (sc : Scope) (a : Reg) (s : State) : Out :=
  let i := (s.g a).toNat
  let entry : Quads := match s.hereCtx with | none => ({} : Quads) | some x => tget ({} : Quads) x.pubs i
  s.checked (trapIf (decide (63 < i) || !bitOf entry.q0 63) (pageFault 6 i)) (fun s =>
    let r : PubReq := { ctx := s.hereCtxId, idx := i, scope := sc, cl := s.cur.cl, asked := s.fresh, tp := none, token := false }
    ({ s with pubReqs := s.pubReqs ++ [r] } : State).tick1)

end Sys2Proof.Machine
end

