-- ==== Sys2Proof/Machine/PoolOps.lean ====
section
/-! DEFINITION. Pool instructions of majors 0x1B and 0x1C (13 R246 to R250), responses, retransmission, leases and fenced state (23 R369 to R388), residency of pool pages (13 R222 to R225, R256). -/

namespace Sys2Proof.Machine

open Sys2Proof

/-! ## The checks of a pool op -/

/-- Fenced state, capability, alignment (R385, R234, R247). No rule places the check of fenced state among the others; the model makes it first (DESIGN CHOICE, log entry 24). -/
def State.chkPool (s : State) (k : Nat) (off n right kind align : Nat) : Option TrapRec :=
  firstTrap [
    trapIf s.pool.fenced (trapR codeFence (kind * 256 + 6) ((s.k k).addr off)),
    capCheck k (s.k k) off n right (some 0),
    trapIf (decide (off % align ≠ 0)) (pageFault 5 off)]

/-! ## pld, pst, patom, pget -/

/-- A read request for the line of an address, of which n bytes from there are wanted. -/
def State.askLine (s : State) (o : BitVec 40) (a n : Nat) (dest : PoolDest) : State :=
  s.addReq { s.newReq kRead 0 o a 64 dest with need := (a, n) }

/-- A scalar of a pool object into a return stream (R247). -/
def execPld (ty q : BitVec 3) (k : BitVec 4) (a : Reg) (s : State) : Out :=
  let off := (s.g a).toNat
  let w := tyBytes ty
  s.checked (firstTrap [s.chkPool k.toNat off w 0 0 w, s.chkSlot q.toNat]) (fun s =>
    let c := s.k k.toNat
    let x := c.addr off
    let here := min w (64 - x % 64)
    let (slot, s1) := s.reserve q.toNat
    let dest : PoolDest := match slot with | none => .none | some i => .slot q.toNat i x ty
    let s2 := s1.askLine c.object x here dest
    (if here = w then s2 else s2.askLine c.object ((x / 64 + 1) * 64 % 2 ^ 48) (w - here) dest).pumpPool)

/-- Bytes at a pool address, line by line. -/
def lineCuts (a : Nat) (bs : List Byte) : List (Nat × List Byte) :=
  let here := 64 - a % 64
  if bs.length ≤ here then [(a, bs)] else [(a, bs.take here), ((a / 64 + 1) * 64 % 2 ^ 48, bs.drop here)]

/-- A scalar into a pool object through the write buffer, entering it at issue + 3 (R247, R371). -/
def execPst (ty : BitVec 3) (k : BitVec 4) (a b : Reg) (s : State) : Out :=
  let off := (s.g a).toNat
  let w := tyBytes ty
  s.checked (s.chkPool k.toNat off w 1 1 w) (fun s =>
    let c := s.k k.toNat
    s.pend 3 ((lineCuts (c.addr off) (bytesOf w (s.g b).toNat)).map (fun p => .pool c.object p.1 p.2 s.pool.fence)))

/-- A tagged atomic at the pool (R248); its tag takes the next sequence value (R386). -/
def execPatom (op q : BitVec 3) (k : BitVec 4) (a b : Reg) (s : State) : Out :=
  let off := (s.g a).toNat
  s.checked (firstTrap [s.chkPool k.toNat off 8 2 2 8, s.chkSlot q.toNat]) (fun s =>
    let c := s.k k.toNat
    let (slot, s1) := s.reserve q.toNat
    let r : PoolReq := { s1.newReq kAtomic 2 c.object (c.addr off) 0 (.atomSlot q.toNat slot) with
      seq := s1.pool.seq, op := op.zeroExtend 4, arg0 := s.g b, arg1 := if op = 5 then s.gNext b else 0 }
    let s2 : State := { s1 with pool := { s1.pool with seq := s1.pool.seq + 1 } }
    (s2.addReq r).pumpPool)

/-- The lines of a pget: each line of scratch with the one or two lines of the pool that it comes from, a base being any byte address (R373). -/
def pgetLines (cl : Nat) (c : Cap) (off scr idx : Nat) : Nat → List Line
  | 0 => []
  | n + 1 =>
    let here := 64 - c.addr off % 64
    let segs : List Seg := if here = 64 then [.src (.pool c off) 64] else [.src (.pool c off) here, .src (.pool c (off + here)) (64 - here)]
    { idx := idx, dst := .scratch cl scr, segs := segs, sent := true } :: pgetLines cl c (off + 64) (scr + 64) (idx + 1) n

/-- The gets of a pget's lines, of one line each. -/
def State.askLines (s : State) (o : BitVec 40) (xid : Nat) (ps : List (Cap × Nat × Nat)) : List Nat → State
  | [] => s
  | l :: r => (s.addReq { s.newReq kGet 3 o (64 * l) 64 (.scratch xid) with need := needOf ps l }).askLines o xid ps r

/-- Bytes of a pool object into scratch (R249). -/
def execPget (k : BitVec 4) (a b l : Reg) (s : State) : Out :=
  let off := (s.g a).toNat
  let scr := (s.g b).toNat
  let n := (s.g l).toNat
  if n = 0 then .next s else
  s.checked (firstTrap [
      chkScratch scr n 64, trapIf (decide (n % 64 ≠ 0 ∨ 0x100000 < n)) (pageFault 7 scr),
      s.chkPool k.toNat off n 3 3 64]) (fun s =>
    let c := s.k k.toNat
    let ls := pgetLines s.cur.cl c off scr 0 (n / 64)
    let ps := (ls.map Line.poolPieces).flatten
    let x := s.xferOf .pget ls n
    ((s.addXfer x).askLines c.object x.id ps (poolLines ps)).pumpPool)

/-! ## Leases (R250, R379 to R381) -/

/-- Whether a lease has the object, offset and range of an op (R380). -/
def Lease.same (l : Lease) (o : BitVec 40) (off : Nat) (opnd : Word) : Bool :=
  l.object == o && l.off == off && bitsOf l.opnd 63 16 == bitsOf opnd 63 16

def State.leaseTrap (reason addr : Nat) : TrapRec := trapR codeLease reason addr

/-- Leases that a context has requested or holds. -/
def State.myLeases (s : State) : List Lease := match s.hereCtx with | none => [] | some x => x.leases

/-- A request or renewal of a range lease (R250). No rule orders the check of fenced state (R385) or those of R380 and R381 among the others: the model makes the first before all, and of the last takes clock-lost (reason 4) first, then the context's count (1), then the package's (3) (DESIGN CHOICE, log entry 24). The trap of a count or width of 0 gives the offset and register that CAPCHECK would (DESIGN CHOICE, log entry 24). -/
def execLease (k : BitVec 4) (a b : Reg) (s : State) : Out :=
  let off := (s.g a).toNat
  let gb := s.g b
  let c := s.k k.toNat
  let x := c.addr off
  let count := bitsOf gb 63 48
  let width := bitsOf gb 23 16
  let known := s.myLeases.any (fun l => l.same c.object off gb)
  let all := ((s.ctxs.map (fun p => p.2.leases)).flatten).length
  s.checked (firstTrap [
      trapIf s.pool.fenced (trapR codeFence (4 * 256 + 6) x),
      trapIf (decide (count = 0 ∨ width = 0)) (capTrap k.toNat 3 off),
      capCheck k.toNat c off (bitsOf gb 47 24 * (count - 1) + width) 4 (some 0),
      trapIf (s.clock.state == 2) (State.leaseTrap 4 x),
      trapIf (!known && decide (64 ≤ s.myLeases.length)) (State.leaseTrap 1 x),
      trapIf (!known && decide (4096 ≤ all)) (State.leaseTrap 3 x)]) (fun s =>
    let new : Lease := { cap := c, off := off, object := c.object, addr := x, opnd := gb, granted := none, expiry := 0, asked := 1 }
    let put (ls : List Lease) : List Lease :=
      if known then ls.map (fun l => if l.same c.object off gb then { l with asked := l.asked + 1 } else l) else ls ++ [new]
    let s1 := s.modCtx s.hereCtxId (fun y => { y with leases := put y.leases })
    (s1.addReq { s1.newReq kLease 4 c.object x 0 (.lease s1.hereCtxId) with arg0 := gb, arg1 := wordN off }).pumpPool)

/-- A lease that is no longer held: it stays as a request while one is open (R380). -/
def Lease.ended (l : Lease) : Option Lease := if l.asked = 0 then none else some { l with granted := none, expiry := 0 }

/-- The open requests of a context for a lease that it releases grant it nothing when they are answered. -/
def State.unwant (s : State) (ctx : Nat) (o : BitVec 40) (off : Nat) (gb : Word) : State :=
  { s with pool := { s.pool with reqs := s.pool.reqs.map (fun r =>
    if r.dest = .lease ctx ∧ r.object = o ∧ r.arg1.toNat = off ∧ bitsOf r.arg0 63 16 = bitsOf gb 63 16 then { r with dest := .none } else r) } }

/-- The release of a context's lease, one requested and not yet granted too (R250, R380: DEDUCED, log entry 82); none held, or fenced: no effect. -/
def execLrel (k : BitVec 4) (a b : Reg) (s : State) : Out :=
  let c := s.k k.toNat
  let off := (s.g a).toNat
  let gb := s.g b
  match s.myLeases.find? (fun l => l.same c.object off gb) with
  | none => .next s
  | some l =>
    if s.pool.fenced then .next s else
    let s1 := (s.modCtx s.hereCtxId (fun y => { y with leases := y.leases.filter (fun m => !m.same c.object off gb) })).unwant s.hereCtxId c.object off gb
    .next (s1.addReq { s1.newReq kRelease 4 c.object l.addr 0 .none with arg0 := gb }).pumpPool

/-! ## Residency (13 R222 to R225) -/

/-- Fields of a handle entry (R224). -/
structure HandleE where
  valid : Bool
  scheduled : Bool
  prio : Nat
  object : BitVec 40
  base : Nat
  length : Nat
  deriving DecidableEq, Repr

def handleOf (q : Quads) : HandleE where
  valid := bitOf q.q0 63
  scheduled := bitOf q.q0 62
  prio := bitsOf q.q0 61 58
  object := q.q0.extractLsb' 8 40
  base := bitsOf q.q1 47 0
  length := q.q2.toNat

def RangeRec.is (r : RangeRec) (part : Nat) (h : HandleE) : Bool :=
  r.part == part && r.object == h.object && r.base == h.base && r.length == h.length

/-- The number of a handle's range in its partition; a range that nothing has named yet is entered, absent. -/
def State.rangeOf (s : State) (part : Nat) (h : HandleE) : Nat × State :=
  match (s.pool.ranges.zip (span 0 s.pool.ranges.length)).find? (fun p => p.1.is part h) with
  | some p => (p.2, s)
  | none =>
    let new : RangeRec := { part := part, object := h.object, base := h.base, length := h.length, resident := false, demoted := false, promoting := false,
                            pendingEvict := none, pins := [], promotedAt := 0, left := 0, waiting := false }
    (s.pool.ranges.length, { s with pool := { s.pool with ranges := s.pool.ranges ++ [new] } })

def State.range (s : State) (i : Nat) : Option RangeRec := s.pool.ranges[i]?
def State.modRange (s : State) (i : Nat) (f : RangeRec → RangeRec) : State :=
  match s.pool.ranges[i]? with
  | none => s
  | some r => { s with pool := { s.pool with ranges := setAt s.pool.ranges i (f r) } }

def RangeRec.pages (r : RangeRec) : Nat := r.length / 0x10000
/-- Residency pages of HBM in use, and of LPDDR6. -/
def State.hbmUsed (s : State) : Nat :=
  ((s.pool.ranges.filter (fun r => r.resident || (r.promoting && !r.waiting))).map RangeRec.pages).foldl (· + ·) 0
/-- Residency pages that the HBM has for the cache: what remains after the areas that partition set-up reserved (R222). -/
def State.hbmPages (s : State) : Nat :=
  s.pool.hbmPages - ((s.parts.map (fun p => ([p.2.overflow, p.2.egress, p.2.parked].map (fun r => ceilDiv r.2 0x10000)).foldl (· + ·) 0)).foldl (· + ·) 0)

def State.lpddrUsed (s : State) : Nat := ((s.pool.ranges.filter (fun r => r.demoted)).map RangeRec.pages).foldl (· + ·) 0

/-- Valid entries of any context of its partition that name a range (R224, R388). -/
def State.handlesOf (s : State) (r : RangeRec) : List HandleE :=
  (((s.ctxs.filter (fun p => p.2.part == r.part)).map (fun p => p.2.handles.map (fun q => handleOf q.2))).flatten).filter (fun h => h.valid && r.is r.part h)
def State.rangePrio (s : State) (r : RangeRec) : Nat :=
  (((s.handlesOf r).filter (fun h => !h.scheduled)).map (fun h => h.prio)).foldl max 0
def State.handleClass (s : State) (r : RangeRec) : Bool := !(s.handlesOf r).any (fun h => h.scheduled)

/-- Lines that no range keeps or has demoted are not held (R388). -/
def State.dropLines (s : State) : State :=
  { s with pool := { s.pool with lines := s.pool.lines.filter (fun l =>
    s.pool.ranges.any (fun r => r.holds l.part l.object l.line && (r.resident || r.promoting || r.demoted))) } }

/-- The resident copy of a range leaves HBM: to LPDDR6 if asked and there is room, else dropped (R224, R256). A range that is not in HBM stays as it is. -/
def State.evictNow (s : State) (i : Nat) (demote : Bool) : State :=
  match s.range i with
  | none => s
  | some r =>
    if r.resident then
      let keep := demote && decide (s.lpddrUsed + r.pages ≤ s.pool.lpddrPages)
      (s.modRange i (fun x => { x with resident := false, demoted := keep, pendingEvict := none })).dropLines
    else s.modRange i (fun x => { x with pendingEvict := none })

/-- An eviction or demotion, pending while the range is pinned or promoting (R225). -/
def State.evict (s : State) (i : Nat) (demote : Bool) : State :=
  match s.range i with
  | none => s
  | some r =>
    if !r.pins.isEmpty || r.promoting then s.modRange i (fun x => { x with pendingEvict := some demote })
    else s.evictNow i demote

/-- A pending eviction is made once nothing keeps the range (R225). -/
def State.evictPending (s : State) (i : Nat) : State :=
  match s.range i with
  | none => s
  | some r =>
    match r.pendingEvict with
    | none => s
    | some d => if r.pins.isEmpty && !r.promoting then s.evictNow i d else s

/-- The victim of R224: resident, unpinned, of handle class, lowest priority, earliest promoted. -/
def State.victim (s : State) : Option Nat :=
  ((s.pool.ranges.zip (span 0 s.pool.ranges.length)).filter (fun p => p.1.resident && p.1.pins.isEmpty && !p.1.promoting && s.handleClass p.1)).foldl
    (fun m p => match m with
      | none => some p.2
      | some j => match s.range j with
        | none => some p.2
        | some b =>
          let x := s.rangePrio p.1
          let y := s.rangePrio b
          if x < y ∨ (x = y ∧ p.1.promotedAt < b.promotedAt) then some p.2 else some j) none

/-- Makes room for a range, taking victims, over a count of ranges. -/
def State.makeRoom (s : State) (pages : Nat) : Nat → State
  | 0 => s
  | n + 1 =>
    if s.hbmUsed + pages ≤ s.hbmPages then s
    else match s.victim with
    | none => s
    | some v =>
      let d := match s.range v with | none => false | some r => decide (1 ≤ s.rangePrio r)
      (s.evictNow v d).makeRoom pages n

/-- A promotion, unless the range is resident or promoting; it waits when there is no room (R224, R256). -/
def State.promoteRange (s : State) (i : Nat) : State :=
  match s.range i with
  | none => s
  | some r =>
    if r.resident || (r.promoting && !r.waiting) then s
    else
      let s1 := s.makeRoom r.pages s.pool.ranges.length
      if s1.hbmUsed + r.pages ≤ s1.hbmPages then
        s1.modRange i (fun x => { x with promoting := true, waiting := false, left := r.length / 64 })
      else s1.modRange i (fun x => { x with promoting := true, waiting := true })

/-- A get of lines of a range that is being promoted, for its partition (R388). -/
def State.askPromotion (s : State) (i : Nat) (r : RangeRec) (a n : Nat) : State :=
  s.addReq { s.newReq kGet 15 r.object a n (.promote i) with ctx := 0xFFF, part := r.part, cl := 256 * r.part, core := 0, sec := false, ofSeq := false }

/-- A promotion that has its room asks the pool for its range, in gets of 4,096 bytes (R368, R388). -/
def State.promoteStep (s : State) (i : Nat) : State :=
  match s.range i with
  | none => s
  | some r =>
    if r.promoting && !r.waiting && decide (0 < r.left) && !s.pool.fenced &&
       !s.pool.reqs.any (fun q => q.dest == .promote i) then
      (span 0 (ceilDiv r.length 4096)).foldl (fun t j => t.askPromotion i r (r.base + 4096 * j) (min 4096 (r.length - 4096 * j)))
        (s.modRange i (fun x => { x with left := r.length / 64 }))
    else if r.waiting then s.promoteRange i
    else s

/-- Promotions advance, then requests leave. -/
def State.pumpResidency (s : State) : State :=
  ((span 0 s.pool.ranges.length).foldl (fun t i => t.promoteStep i) s).pumpPool

/-! ## Residency instructions (R256) -/

def State.handle (s : State) (i : Nat) : HandleE :=
  match s.hereCtx with | none => handleOf {} | some x => handleOf (tget {} x.handles i)

/-- The check of a handle index: page fault, reason 6. -/
def State.chkHandle (s : State) (a : Reg) : Option TrapRec :=
  let i := (s.g a).toNat
  trapIf (decide (4096 ≤ i) || !(s.handle i).valid) (pageFault 6 i)

/-- An op on a handle's range. -/
def State.onRange (s : State) (a : Reg) (f : Nat → State → State) : Out :=
  s.checked (s.chkHandle a) (fun s =>
    let (i, s1) := s.rangeOf (s.partOfCtx s.hereCtxId) (s.handle (s.g a).toNat)
    f i s1)

/-- A pin, which cancels a pending eviction (R225); a second one of the context has no effect. -/
def execReshPin (a : Reg) (s : State) : Out :=
  s.onRange a (fun i s => s.modRange i (fun r =>
    if r.pins.contains s.hereCtxId then r else { r with pins := r.pins ++ [s.hereCtxId], pendingEvict := none }))

/-- The context's pin is removed; a pending eviction proceeds. -/
def execReshUnpin (a : Reg) (s : State) : Out :=
  s.onRange a (fun i s => (s.modRange i (fun r => { r with pins := r.pins.filter (· ≠ s.hereCtxId) })).evictPending i)

/-- The entry's priority := g[B][3:0]. -/
def execReshPrio (a b : Reg) (s : State) : Out :=
  s.checked (s.chkHandle a) (fun s =>
    let i := (s.g a).toNat
    s.modCtx s.hereCtxId (fun x =>
      let q := tget {} x.handles i
      let p : Word := (wordN (15 * 2 ^ 58))
      { x with handles := tset {} x.handles i { q with q0 := (q.q0 &&& ~~~p) ||| ((s.g b &&& 15) <<< 58) } }))

/-- Evicts the range (R256). -/
def execEvict (a : Reg) (s : State) : Out := s.onRange a (fun i s => s.evict i false)

/-- Demotes the range (R256). -/
def execEvictDemote (a : Reg) (s : State) : Out := s.onRange a (fun i s => s.evict i true)

/-- Promotes the range (R256). -/
def execPref (a : Reg) (s : State) : Out := s.onRange a (fun i s => (s.promoteRange i).pumpResidency)

/-- A promotion is given up and a resident copy dropped. -/
def RangeRec.clear (r : RangeRec) : RangeRec :=
  { r with resident := false, demoted := false, promoting := false, waiting := false, left := 0, pendingEvict := none }

/-- Ranges that no valid entry of a context of their partition names are no longer held (R388); a promotion in progress completes first (R225). -/
def State.dropUnnamed (s : State) : State :=
  State.dropLines { s with pool := { s.pool with ranges := s.pool.ranges.map (fun r =>
    if (s.handlesOf r).isEmpty ∧ !(r.promoting && !r.waiting) then { r.clear with pins := [] } else r) } }

/-- A promotion whose lines have all come completes, and a pending eviction may proceed (R225). -/
def execPromotionComplete (range : Nat) (s : State) : Out :=
  match s.range range with
  | none => .next s
  | some r =>
    if r.promoting && !r.waiting && decide (r.left = 0) then
      .next (((s.modRange range (fun x => { x with promoting := false, resident := true, demoted := false, promotedAt := s.fresh })).tick1.evictPending range).dropUnnamed)
    else .next s

/-! ## Fenced state (R385) -/

/-- A line of a transfer in fenced state: of a pget it is lost while it wants the pool, of a copy it has its engine meet the fault. -/
def Xfer.fence (t : Xfer) : Xfer :=
  match t.kind with
  | .pget => { t with lines := t.lines.filter (fun l => !l.isPool) }
  | .copy => { t with lines := t.lines.map (fun l => if l.isPool then { l with sent := false } else l) }
  | _ => t

/-- The package enters fenced state: no request, buffered write or pst on its way there, lease or resident pool data is left. -/
def State.enterFenced (s : State) : State :=
  if s.pool.fenced then s else
  let still (p : Pend) : Pend := { p with writes := p.writes.filter (fun w => match w with | .pool _ _ _ _ => false | _ => true) }
  let quiet (y : Core) : Core := { y with pending := y.pending.map still }
  let s1 : State := { s with
    pool := { s.pool with fenced := true, reqs := [], ranges := s.pool.ranges.map RangeRec.clear, lines := [] }
    clusters := s.clusters.map (fun p => (p.1, { p.2 with pwb := [], cores := p.2.cores.map (fun q => (q.1, quiet q.2)) }))
    ctxs := s.ctxs.map (fun p => (p.1, { p.2 with leases := [] }))
    xfers := (s.xfers.map Xfer.fence).filter (fun t => t.kind != .pget || !t.lines.isEmpty) }
  s1.report "fenced" s.pool.fence.toNat

/-! ## Responses (R369, R377, R378) -/

/-- The fault that a status other than 0 raises, none for residency traffic. -/
def PoolReq.fault (r : PoolReq) (status reason5 : Nat) : Option TrapRec :=
  let trapR (code : BitVec 8) (info addr : Nat) : TrapRec := { Machine.trapR code info addr with ofPool := true }
  if r.right = 15 then none
  else if status = 1 then
    let reason := if reason5 = 5 then 5
      else if r.kind = kWrite then 1 else if r.kind = kAtomic then 2
      else if r.kind = kLease ∨ r.kind = kRelease then 4 else 3
    some (trapR codeFence (r.kind.toNat * 256 + reason) r.addr)
  else if status = 2 then some (trapR codeCap 6 r.addr)
  else if status = 3 then some (trapR codeCap 7 r.addr)
  else if status = 4 then some (trapR codeLease 2 r.addr)
  else none

/-- A line of a copy is to be asked for again. -/
def State.unsend (s : State) (xid idx : Nat) : State :=
  s.modXfer xid (fun t => { t with lines := t.lines.map (fun l => if l.idx = idx then { l with sent := false } else l) })

/-- A fault reaches the requesting sequencer, each that wrote the entry that a request carried, or the engine. -/
def State.poolFault (s : State) (r : PoolReq) (ws : List (Nat × Bool × Nat × Nat)) (f : TrapRec) : State :=
  match r.dest with
  | .copyOut x i => (match s.xfer x with
    | none => s
    | some t => match t.lines.find? (fun l => l.idx == i) with
      | none => s
      | some l => (s.unsend x i).xferFault t f l.farAt)
  | .wb _ => ws.foldl (fun t w => t.postFault r.ctx r.cl w.1 w.2.1 f) s
  | _ => if r.ofSeq then s.postFault r.ctx r.cl r.core r.sec f else s

/-- A request for a lease comes to nothing: refused, or its grant discarded. A lease held stays until its own end (R380). -/
def State.unask (s : State) (r : PoolReq) : State :=
  let off (l : Lease) : Option Lease :=
    if l.same r.object r.arg1.toNat r.arg0 then
      (if l.asked ≤ 1 ∧ l.granted.isNone = true then none else some { l with asked := l.asked - 1 })
    else some l
  s.modCtx r.ctx (fun x => { x with leases := x.leases.filterMap off })

/-- A lease grant takes effect, unless it expires too soon or the clock is lost (R379, R380, 11 R207). -/
def State.grant (s : State) (r : PoolReq) (e : Nat) : State :=
  if e < s.now + 2000 ∨ s.clock.state = 2 then s.unask r
  else
    ({ s with fresh := s.fresh + 1 } : State).modCtx r.ctx (fun x => { x with leases := x.leases.map (fun l =>
      if l.same r.object r.arg1.toNat r.arg0 then
        { l with expiry := e, addr := r.addr, asked := l.asked - 1, granted := if s.inForce l then l.granted else some s.fresh } else l) })

/-- The versions that one writer makes of bytes of a line from an index on, performed and seen now. -/
def State.versNow (s : State) (by_ : Option (Nat × Nat × Bool)) (i : Nat) : List Byte → List (Nat × Ver)
  | [] => []
  | b :: r => (i, { byte := b, w := s.stamp, by_ := by_, rel := some s.lateInst, vis := some s.lateInst, wide := some s.lateInst, held := none }) :: s.versNow by_ (i + 1) r

/-- A line of a promotion's get has come: it is kept, or asked for again where a write of the package passed it. One of a promotion given up is not. -/
def State.promoted (s : State) (r : PoolReq) (i line : Nat) (again : Bool) (bs : List Byte) : State :=
  match s.range i with
  | none => s
  | some x =>
    if !x.promoting then s
    else if again then s.askPromotion i x (64 * line) 64
    else
      let s1 := if s.pool.lines.any (fun l => l.is r.part r.object line) then s.refreshLine r.part r.object line r.id bs
        else
          let t := s.forgetLine r.part r.object line
          { t with fresh := s.fresh + 1, pool := { s.pool with
            lines := s.pool.lines ++ [{ part := r.part, object := r.object, line := line, bytes := bs, at_ := s.fresh }] } }
      s1.modRange i (fun x => { x with left := x.left - 1 })

/-- What a response of status 0 does, its request being retired and ws the entry of the write buffer that it carried. -/
def State.poolDone (s : State) (r : PoolReq) (w : Option PoolWb) (rsp : PoolRsp) : State :=
  let line := r.addr / 64
  match r.dest with
  | .atomSlot q slot =>
    let s1 := match atomNew r.op.toNat 8 rsp.value.toNat r.arg0.toNat r.arg1.toNat with
      | none => s
      | some v =>
        let t := s.bump
        (lineCuts r.addr (bytesOf 8 v)).foldl (fun u p => u.poolWrote r.object (p.1 / 64) (u.versNow (some (r.cl, r.core, r.sec)) (p.1 % 64) p.2)) t
    (match slot with
     | none => s1
     | some i =>
       let new : Arrival := { id := s1.fresh, due := s1.cycle, cl := r.cl, core := r.core, q := q, slot := i, value := rsp.value }
       ({ s1 with arrivals := s1.arrivals ++ [new] } : State).tick1)
  | .wb _ =>
    (match w with
     | none => s
     | some e => s.poolWrote r.object line (e.held.map (fun h =>
        (h.pa % 64, { byte := h.byte, w := h.id, by_ := some (r.cl, h.core, h.sec), rel := some (h.released.getD s.lateInst), vis := some s.lateInst, wide := some s.lateInst, held := none }))))
  | .copyOut xid idx =>
    if r.kind = kWrite then
      let t := s.bump
      (t.poolWrote r.object line ((t.versNow none 0 r.data).filter (fun p => r.enables.getLsbD p.1))).lineDone xid idx
    else ((s.refreshLine r.part r.object line r.id rsp.bytes).poolSeen r).poolRead r (r.merge rsp.bytes)
  | .lease _ => s.grant r rsp.value.toNat
  | .promote i => (span 0 r.lines).foldl (fun t j => t.promoted r i (line + j) (r.arg0.getLsbD j) ((rsp.bytes.drop (64 * j)).take 64)) s
  | .none => if r.kind = kRead then s.refreshLine r.part r.object line r.id rsp.bytes else s
  | _ => ((s.refreshLine r.part r.object line r.id rsp.bytes).poolSeen r).poolRead r (r.merge rsp.bytes)

/-- What a refused response leaves: a lease request is forgotten, a promotion given up, the lines of a pget that wanted it stay empty (R378). -/
def State.poolRefused (s : State) (r : PoolReq) : State :=
  match r.dest with
  | .lease _ => s.unask r
  | .promote i => { (s.modRange i RangeRec.clear) with pool := { (s.modRange i RangeRec.clear).pool with reqs := s.pool.reqs.filter (fun x => x.dest != .promote i || x.sends != 0) } }
  | .scratch xid =>
    let t := s.modXfer xid (fun t => { t with lines := t.lines.filter (fun l =>
      !l.poolPieces.any (fun p => p.1.object == r.object && p.1.addr p.2.1 / 64 == r.addr / 64)) })
    if (t.xfer xid).any (fun x => x.lines.isEmpty) then t.dropXfer xid else t
  | _ => s

/-- A request is answered: it retires, with the entry of the write buffer that it carried, and its effect or fault follows. reason5 is 5 where no response came (R370). -/
def State.answer (s : State) (r : PoolReq) (rsp : PoolRsp) (reason5 : Nat) : State :=
  let st := rsp.status.toNat
  let w := s.entryOf r
  let s1 : State := { s with pool := { s.pool with reqs := s.pool.reqs.filter (fun x => x.id != r.id) } }
  let s1 := s1.modCl r.cl (fun x => { x with pwb := x.pwb.filter (fun e => e.req != some r.id) })
  let s2 := if st = 0 then s1.poolDone r w rsp
    else
      let s3 := s1.poolRefused r
      let s4 := match r.fault st reason5 with
        | none => s3
        | some f => s3.poolFault r (match w with | none => [] | some e => e.writers) f
      if st = 1 then s4.enterFenced else s4
  s2.pumpResidency

/-- The outstanding request that a response answers. -/
def State.matching (s : State) (rsp : PoolRsp) : Option PoolReq :=
  s.pool.reqs.find? (fun r => decide (0 < r.sends) && r.kind == rsp.kind && r.pkg == rsp.pkg && r.object == rsp.object &&
    r.seq == rsp.seq && decide (r.addr = rsp.addr.toNat))

/-- A response that is discarded is counted at its port (R369). -/
def State.countError (s : State) (port : Nat) : State :=
  { s with pool := { s.pool with errors := tset 0 s.pool.errors port (tget 0 s.pool.errors port + 1) } }

/-- A response of the pool arrives (R369): one that is reserved or matches nothing is counted; in fenced state it is discarded. -/
def State.respond (s : State) (rsp : PoolRsp) : State :=
  if s.pool.fenced then s else
  match s.matching rsp with
  | none => s.countError rsp.port
  | some r => if 4 < rsp.status.toNat then s.countError rsp.port else s.answer r rsp 0

/-- POOL_RESPONSE (R369). -/
def execPoolResponse (rsp : PoolRsp) (s : State) : Out := .next (s.respond rsp)

/-- A lease grant: a response of kind 4 and status 0 (R379). -/
def execLeaseGrant (rsp : PoolRsp) (s : State) : Out :=
  if rsp.kind = kLease ∧ rsp.status = 0 then .next (s.respond rsp) else .next s

/-- A request with no response for 20 µs is sent again; after the eighth send it counts as answered with status 1 (R370). -/
def execPoolRetransmit (req : Nat) (s : State) : Out :=
  match s.pool.reqs.find? (fun r => r.id == req) with
  | none => .next s
  | some r =>
    if r.sends = 0 ∨ s.now < r.lastSend + 20000 ∨ s.pool.fenced = true then .next s
    else if r.sends < 8 then
      let r1 : PoolReq := { r with sends := r.sends + 1, lastSend := s.now }
      let p : PoolSide := { s.pool with reqs := s.pool.reqs.map (fun x => if x.id = req then r1 else x) }
      .next { s with pool := p, outbox := s.outbox ++ [.pool r1] }
    else .next (s.answer r { kind := r.kind, status := 1, pkg := r.pkg, object := r.object, seq := r.seq, value := 0,
                             addr := BitVec.ofNat 48 r.addr, bytes := [], port := r.port } 5)

/-- 1 µs before its expiry the holder treats a lease as expired (R379, 11 R207). -/
def execLeaseExpiry (ctx idx : Nat) (s : State) : Out :=
  match (look s.ctxs ctx).bind (fun x => x.leases[idx]?) with
  | none => .next s
  | some l =>
    if l.granted.isSome = true ∧ l.expiry ≤ s.now + 1000 then
      let gone (ls : List Lease) : List Lease := ls.take idx ++ l.ended.toList ++ ls.drop (idx + 1)
      .next (s.modCtx ctx (fun x => { x with leases := gone x.leases }))
    else .next s

/-- A value lands in its slot of a return stream (R242). -/
def execStreamSlotLand (arrival : Nat) (s : State) : Out :=
  match s.arrivals.find? (fun a => a.id == arrival) with
  | none => .next s
  | some a =>
    if a.due ≤ s.cycle then
      let s1 : State := { s with arrivals := s.arrivals.filter (fun x => x.id != arrival) }
      .next (s1.modE a.cl a.core (fun e => e.setStream a.q (landSlot a.slot a.value (e.stream a.q))))
    else .next s

end Sys2Proof.Machine
end

