-- ==== Sys2Proof/Machine/Engines.lean ====
section
/-! DEFINITION. What the engines of a cluster do on their own: yield cycles (03 R42), write-buffer drains (13 R211), static copy schedules (13 R227 to R232), moves of lazy units (03 R60), budget windows (01 R24), cluster-cache evictions (11 R192). -/

namespace Sys2Proof.Machine

open Sys2Proof

/-- After 256 withheld cycles of the secondary, the next cycle is a yield cycle (R42). -/
def execYieldCycle (cl core : Nat) (s : State) : Out :=
  if 256 ≤ (s.core cl core).secWait then .next (s.modCore cl core (fun y => { y with secWait := 0, yieldNow := true }))
  else .next s

/-- The first line of a bank's write buffer drains into the bank and its parity bank (R211). -/
def execScratchBufferDrain (cl bank : Nat) (s : State) : Out :=
  .next (s.modCl cl (fun x => { x with buf := tset [] x.buf bank ((tget [] x.buf bank).drop 1) }))

/-! ## Copy-schedule entries (R228 to R230) -/

/-- Fields of an entry (R228). -/
structure CopyE where
  valid : Bool
  out : Bool
  space : Nat
  cap : Nat
  tid : Nat
  spitch : Nat
  reserved : Bool
  stage : BitVec 32
  addr : Nat
  soff : Nat
  rows : Nat
  cols : Nat
  row0 : Int
  col0 : Int
  deriving DecidableEq, Repr

def copyOf (q : Quads) : CopyE where
  valid := bitOf q.q0 63
  out := bitOf q.q0 62
  space := bitsOf q.q0 61 60
  cap := bitsOf q.q0 59 56
  tid := bitsOf q.q0 55 48
  spitch := bitsOf q.q0 47 36
  reserved := bitsOf q.q0 35 32 != 0 || bitsOf q.q1 63 52 != 0 || bitsOf q.q2 63 22 != 0
  stage := q.q0.truncate 32
  addr := bitsOf q.q1 51 0
  soff := bitsOf q.q2 21 0
  rows := bitsOf q.q3 63 48
  cols := bitsOf q.q3 47 32
  row0 := sextN 16 (bitsOf q.q3 31 16)
  col0 := sextN 16 (bitsOf q.q3 15 0)

/-- Bytes of a tile row, and of its whole granules. -/
def CopyE.rowBytes (e : CopyE) (w : Nat) : Nat := ceilDiv (e.cols * w) 8
def CopyE.granuleBytes (e : CopyE) (w : Nat) : Nat := ceilDiv (e.rowBytes w) 16 * 16

/-- The bytes that the tile covers in scratch, from soff. -/
def CopyE.extent (e : CopyE) (w : Nat) : Nat :=
  64 * e.spitch * (e.rows - 1) + (if e.out then e.rowBytes w else e.granuleBytes w)

/-- The ill-formedness of an entry, in the order of R229: reason 16, or that of the tensor identifier; the Bool says which. rows, cols or spitch of 0, below the ranges that R228 gives them, count as ill-formed too, last (DESIGN CHOICE, log entry 90). -/
def CopyE.bad (e : CopyE) (t : TidE) : Option (Bool × Nat) :=
  let w := widthOf t.format
  if e.space = 3 ∨ e.reserved = true ∨ e.soff % 64 ≠ 0 then some (false, 16)
  else if t.bad ≠ 0 then some (true, t.bad)
  else if 64 * e.spitch < e.rowBytes w ∨ 0x400000 < e.soff + e.extent w ∨ (w = 4 ∧ (e.cols % 2 = 1 ∨ e.col0 % 2 = 1)) ∨
    e.rows = 0 ∨ e.cols = 0 ∨ e.spitch = 0 then some (false, 16)
  else none

/-- The fill of an element, and the nibble of one of E2M1 (07 R106). -/
def fillBits (t : TidE) : Nat := t.fill.toNat % 2 ^ (if t.format = 11 then 6 else widthOf t.format)

/-- The fill byte at an offset of a row. -/
def fillByte (t : TidE) (b : Nat) : Byte :=
  let w := widthOf t.format
  if w = 4 then BitVec.ofNat 8 (fillBits t * 17) else BitVec.ofNat 8 (fillBits t / 256 ^ (b % (w / 8)))

/-- The part of a tile row inside the tensor: bytes of fill before it, whole bytes, whether a half byte follows, and the byte offset of its first byte in the tensor row; no bytes where the row is outside. -/
structure Inside where
  left : Nat
  bytes : Nat
  half : Bool
  first : Nat
  deriving DecidableEq, Repr

def CopyE.inside (e : CopyE) (t : TidE) (i : Nat) : Inside :=
  let w := widthOf t.format
  let r := e.row0 + i
  let c0 := max e.col0 0
  let c1 := min (e.col0 + e.cols) t.cols
  if r < 0 ∨ (t.rows : Int) ≤ r ∨ c1 ≤ c0 then { left := 0, bytes := 0, half := false, first := 0 }
  else
    let n := (c1 - c0).toNat
    { left := (c0 - e.col0).toNat * w / 8, bytes := n * w / 8, half := decide (n * w % 8 ≠ 0), first := c0.toNat * w / 8 }

/-- Bytes of an entry read from its source (R230). -/
def Inside.total (x : Inside) : Nat := x.bytes + (if x.half then 1 else 0)

/-- The other side's byte at an offset of a tensor row. -/
def CopyE.far (e : CopyE) (t : TidE) (k : Cap) (cl i off : Nat) : End :=
  let a := e.addr + 64 * t.pitch * (e.row0 + i).toNat + off
  match e.space with
  | 0 => .scratch cl a
  | 1 => .glob a
  | _ => .pool k a

/-- The address of an end, as its 64-byte lines cut it. -/
def End.addr : End → Nat
  | .scratch _ off => off
  | .glob va => va
  | .pool k off => k.base + off
  | .host a => a
  | .arena _ _ off => off
  | .side _ _ off => off

def End.plus (e : End) (n : Nat) : End :=
  match e with
  | .scratch c off => .scratch c (off + n)
  | .glob va => .glob (va + n)
  | .pool k off => .pool k (off + n)
  | .host a => .host (a + n)
  | .arena c k off => .arena c k (off + n)
  | .side c k off => .side c k (off + n)

/-- Segments of n bytes from an end, cut at its lines. -/
def srcSegs (e : End) : Nat → Nat → List Seg
  | 0, _ => []
  | f + 1, n =>
    if n = 0 then [] else
    let k := min n (64 - e.addr % 64)
    .src e k :: srcSegs (e.plus k) f (n - k)

/-- The segments of bytes lo to hi of a tile row copied into scratch. -/
def rowSegs (t : TidE) (x : Inside) (src : End) (lo hi : Nat) : List Seg :=
  let fill (a b : Nat) : List Seg := if a < b then [.fill ((span a (b - a)).map (fillByte t))] else []
  let m0 := max lo x.left
  let m1 := min hi (x.left + x.bytes)
  let h := x.left + x.bytes
  fill lo (min hi x.left) ++
  (if m0 < m1 then srcSegs (src.plus (m0 - x.left)) 3 (m1 - m0) else []) ++
  (if x.half ∧ lo ≤ h ∧ h < hi then [.half (src.plus x.bytes) (BitVec.ofNat 4 (fillBits t))] else []) ++
  fill (max lo (h + (if x.half then 1 else 0))) hi

/-- The lines of one tile row into scratch: whole granules (R230). -/
def CopyE.linesIn (e : CopyE) (t : TidE) (k : Cap) (cl i : Nat) : List (End × List Seg) :=
  let n := e.granuleBytes (widthOf t.format)
  let x := e.inside t i
  let base := e.soff + 64 * e.spitch * i
  let x := if x.total = 0 then { x with left := n } else x
  (unitsOf 64 0 n).map (fun m => (.scratch cl (base + 64 * m), rowSegs t x (e.far t k cl i x.first) (64 * m) (min (64 * m + 64) n)))

/-- Pieces of n bytes to an end, cut at its lines: offsets and lengths. -/
def dstCuts (a : Nat) : Nat → Nat → Nat → List (Nat × Nat)
  | 0, _, _ => []
  | f + 1, off, n =>
    if n = 0 then [] else
    let k := min n (64 - (a + off) % 64)
    (off, k) :: dstCuts a f (off + k) (n - k)

/-- The lines of one tile row out of scratch: elements inside the tensor only (R230). -/
def CopyE.linesOut (e : CopyE) (t : TidE) (k : Cap) (cl i : Nat) : List (End × List Seg) :=
  let x := e.inside t i
  let d := e.far t k cl i x.first
  let src : End := .scratch cl (e.soff + 64 * e.spitch * i + x.left)
  (dstCuts d.addr (x.total / 64 + 2) 0 x.total).map (fun p =>
    let whole := min p.2 (x.bytes - p.1)
    (d.plus p.1, srcSegs (src.plus p.1) 3 whole ++
      (if p.1 + p.2 = x.total ∧ x.half then [.half (src.plus x.bytes) (BitVec.ofNat 4 (fillBits t))] else [])))

def CopyE.lines (e : CopyE) (t : TidE) (k : Cap) (cl : Nat) : List (End × List Seg) :=
  ((span 0 e.rows).map (fun i => if e.out then e.linesOut t k cl i else e.linesIn t k cl i)).flatten

/-- A byte of the other side's scratch past its end. -/
def pastScratch (ls : List (End × List Seg)) : Option Nat :=
  let far (e : End) (n : Nat) : Option Nat := match e with | .scratch _ off => if 0x400000 < off + n then some off else none | _ => none
  ls.findSome? (fun l => match far l.1 ((l.2.map Seg.len).foldl (· + ·) 0) with
    | some a => some a
    | none => l.2.findSome? (fun g => match g.reads with | some (e, n) => far e n | none => none))

/-! ## Copy engines (R227, R231, R232) -/

/-- Copies of an engine in progress, oldest first. -/
def State.copies (s : State) (c n : Nat) : List Xfer := s.xfers.filter (fun t => t.kind == .copy && t.cl == c && t.engine == n)

/-- Whether an engine is replaying a schedule (21 R357). -/
def State.engineBusy (s : State) (c n : Nat) : Bool :=
  let e := (s.cl c).e.ce n
  e.task.isSome && (decide (e.entry.toNat < e.count) || !(s.copies c n).isEmpty)

/-- The index of the entry that an engine would start next. -/
def CopyEng.nextEntry (e : CopyEng) : Nat := if e.xfer.isSome then e.entry.toNat + 1 else e.entry.toNat

/-- Thirty-two bytes that an engine of a cluster reads in a context, whose line is checked at the engine (01 R26). -/
def State.engQuads (s : State) (c ctx va : Nat) : Except TrapRec Quads :=
  match s.xlate (some c) ctx va .read with
  | .error r => .error r
  | .ok l =>
    let part := s.partOfCtx ctx
    let l0 := s.pubLoc ctx va s.lateInst false (s.locOf part l va)
    match s.markAt l0 with
    | some m => .error (integrityFrom m (hopOf l l0) 0 9 (va / 64 * 64))
    | none =>
    let byte (i : Nat) : Byte := s.agentByte (some c) (s.pubLoc ctx (va + i) s.lateInst false (s.locOf part l (va + i)))
    let quad (i : Nat) : Word := wordOf ((span (8 * i) 8).map byte)
    .ok { q0 := quad 0, q1 := quad 1, q2 := quad 2, q3 := quad 3 }

/-- A schedule ends at an entry that is not in use. -/
def CopyEng.finish (e : CopyEng) (i : Nat) : CopyEng := { e with count := i, entry := BitVec.ofNat 16 i, xfer := none }

/-- An engine starts its next entry: the one before has issued its last line, and its stage is released (R227). An ill-formed entry stops the engine before it (R229); so does one of space 0 whose other side passes the last scratch offset, with a page fault of reason 4 before any line moves (DESIGN CHOICE, log entry 90). -/
def execCopyEntryStart (cl e : Nat) (s : State) : Out :=
  let x := s.cl cl
  let ce := x.e.ce e
  let i := ce.nextEntry
  let issued := (s.copies cl e).all (fun t => t.lines.all (fun l => l.sent))
  match x.ctx with
  | none => .next s
  | some ctx =>
    if ce.task.isNone ∨ ce.count ≤ i ∨ ce.stopped = true ∨ issued = false then .next s
    else
      let va := ce.sched.toNat + 32 * i
      let s := s.fillVa ctx va 32
      match s.engQuads cl ctx va with
      | .error r => .next (s.engineFault cl e ctx r va)
      | .ok q =>
        let c := copyOf q
        let stage := if e = 0 then x.e.stage0 else x.e.stage1
        if !c.valid then .next (s.modCe cl e (fun y => y.finish i))
        else if 2 ^ 31 ≤ (stage - c.stage).toNat then .next s
        else
          let t := tidOf (x.tid c.tid)
          match c.bad t with
          | some (tid, r) =>
            .next ((s.modCe cl e (fun y => { y with entry := BitVec.ofNat 16 i, xfer := none })).engineFault cl e ctx
              (trapR codeFormat ((if tid then c.tid else i % 256) * 256 + r) va) va)
          | none =>
            let k := tget {} (s.core cl (s.engineCore cl e)).e.k c.cap
            let ls := c.lines t k cl
            match pastScratch ls with
            | some a => .next ((s.modCe cl e (fun y => { y with entry := BitVec.ofNat 16 i, xfer := none })).engineFault cl e ctx (pageFault 4 a) a)
            | none =>
              let total := ((span 0 c.rows).map (fun j => (c.inside t j).total)).foldl (· + ·) 0
              let new : Xfer :=
                { id := s.fresh, kind := .copy, ctx := ctx, part := s.partOfCtx ctx, cl := cl, core := s.engineCore cl e, sec := false,
                  engine := e, phase := s.lateInst, born := s.lateInst, lines := numLines 0 ls, total := total, notify := none,
                  stopped := false, pooled := c.space == 2, capReg := c.cap, pieces := s.piecesOf cl ctx (c.space == 2) (numLines 0 ls), fences := [],
                  waitCore := none }
              .next ((s.addXfer new).modCe cl e (fun y => { y with
                entry := BitVec.ofNat 16 i, xfer := some new.id, progress := wordN c.addr, faultKind := 0, faultReason := 0, faultAddr := 0 }))

/-- An engine's oldest entry completes once every line is performed, and is counted (R232). -/
def execCopyEntryComplete (cl e : Nat) (s : State) : Out :=
  match s.copies cl e with
  | [] => .next s
  | t :: _ =>
    if !t.lines.isEmpty then .next s
    else .next ((s.dropXfer t.id).modCe cl e (fun y => { y with
      done := y.done + 1, bytes := BitVec.ofNat 32 t.total,
      entry := if y.xfer = some t.id then y.entry + 1 else y.entry,
      xfer := if y.xfer = some t.id then none else y.xfer }))

/-! ## Lazy units (03 R59, R60) -/

/-- Keys of a unit in the tables of its core or cluster: bytes, words or lines of u bytes. -/
def unitHolds (kind : UnitKind) (idx u : Nat) (n : Nat) : Bool :=
  match kind with
  | .group => decide (groupAt (n * u) = idx)
  | _ => decide (n * u / 0x4000 = idx)

def pick {V : Type} (f : Nat → Bool) (t : Tbl V) : Tbl V := t.filter (fun p => f p.1)
/-- The table with its entries under f replaced by those of another. -/
def swapIn {V : Type} (f : Nat → Bool) (t new : Tbl V) : Tbl V :=
  new.foldl (fun a p => tins a p.1 p.2) (t.filter (fun p => !f p.1))

/-- The contents of a unit. -/
def State.unitOut (s : State) (ctx c k : Nat) (kind : UnitKind) (idx : Nat) : Banked :=
  let x := s.cl c
  let y := x.co k
  let f := unitHolds kind idx
  let none : Banked := { ctx := ctx, part := s.partOfCtx ctx, cl := c, core := k, kind := kind, idx := idx, bytes := [], side := [], fe := [], capTag := [], marks := [] }
  match kind with
  | .bank => { none with bytes := pick (f 1) y.arena, side := pick (f 4) y.side }
  | .hot => { none with bytes := pick (f 1) y.hot, marks := pick (f 64) y.hotMarks }
  | .group => { none with bytes := pick (f 1) x.scratch, fe := pick (f 16) x.fe, capTag := pick (f 16) x.capTag, marks := pick (f 64) x.marks }

/-- The unit takes contents. -/
def State.unitIn (s : State) (c k : Nat) (kind : UnitKind) (idx : Nat) (b : Banked) : State :=
  let f := unitHolds kind idx
  match kind with
  | .bank => s.modCore c k (fun y => { y with arena := swapIn (f 1) y.arena b.bytes, side := swapIn (f 4) y.side b.side, arenaBad := swapIn (f 1) y.arenaBad [] })
  | .hot => s.modCore c k (fun y => { y with hot := swapIn (f 1) y.hot b.bytes, hotMarks := swapIn (f 64) y.hotMarks b.marks })
  | .group => s.modCl c (fun x => { x with
      scratch := swapIn (f 1) x.scratch b.bytes, fe := swapIn (f 16) x.fe b.fe,
      capTag := swapIn (f 16) x.capTag b.capTag, marks := swapIn (f 64) x.marks b.marks })

/-- The owner tag of a unit. -/
def State.unitTag (s : State) (c k : Nat) (kind : UnitKind) (idx : Nat) : Nat :=
  match kind with
  | .bank => tget 0 (s.core c k).bankTag idx
  | .hot => tget 0 (s.core c k).hotTag idx
  | .group => tget 0 (s.cl c).groupTag idx

def State.setTag (s : State) (c k : Nat) (kind : UnitKind) (idx t : Nat) : State :=
  match kind with
  | .bank => s.modCore c k (fun y => { y with bankTag := tset 0 y.bankTag idx t })
  | .hot => s.modCore c k (fun y => { y with hotTag := tset 0 y.hotTag idx t })
  | .group => s.modCl c (fun x => { x with groupTag := tset 0 x.groupTag idx t })

def Banked.is (b : Banked) (ctx c k : Nat) (kind : UnitKind) (idx : Nat) : Bool :=
  b.ctx == ctx && b.cl == c && b.core == k && b.kind == kind && b.idx == idx

/-- A unit under a tag is written to the bank area under its owner; one that has no tag holds nothing to write. -/
def State.unitSave (s : State) (c k : Nat) (kind : UnitKind) (idx : Nat) : State :=
  let t := s.unitTag c k kind idx
  if t = 0 then s
  else { s with banked := s.banked.filter (fun b => !b.is (t - 1) c k kind idx) ++ [s.unitOut (t - 1) c k kind idx] }

/-- The running context's copy is loaded, zeros with every granule empty where it has none, and the tag set. -/
def State.unitLoad (s : State) (ctx c k : Nat) (kind : UnitKind) (idx : Nat) : State :=
  let b := (s.banked.find? (fun b => b.is ctx c k kind idx)).getD
    { ctx := ctx, part := 0, cl := c, core := k, kind := kind, idx := idx, bytes := [], side := [], fe := [], capTag := [], marks := [] }
  let s1 : State := { s with banked := s.banked.filter (fun b => !b.is ctx c k kind idx) }
  (s1.unitIn c k kind idx b).setTag c k kind idx (tagOf ctx)

/-- A unit touched under another owner tag is written out, loaded and retagged (R60). -/
def execLazyUnitMove (cl core : Nat) (kind : UnitKind) (idx : Nat) (s : State) : Out :=
  let x := s.cl cl
  let hit (t : Nat × UnitKind × Nat × Nat) : Bool := t.1 == core && t.2.1 == kind && t.2.2.1 == idx
  match x.ctx with
  | none => .next s
  | some ctx =>
    if !x.touched.any hit then .next s
    else
      let s1 := s.modCl cl (fun x => { x with touched := x.touched.filter (fun t => !hit t) })
      if s1.unitTag cl core kind idx = tagOf ctx then .next s1
      else .next ((s1.unitSave cl core kind idx).unitLoad ctx cl core kind idx)

/-! ## Budget windows and the cluster cache -/

/-- Budgets renew at a multiple of 8 µs, new ones come into force, and held lines issue (01 R23, R24). -/
def execBudgetWindow (s : State) : Out :=
  let w := s.now / 8000
  if w ≤ s.window then .next s
  else
    let renew (p : Partition) : Partition :=
      { p with charged := [], budgets := p.newBudgets.foldl (fun b x => place b x.1 x.2) p.budgets, newBudgets := [] }
    let s1 : State := { s with window := w, parts := s.parts.map (fun p => (p.1, renew p.2)) }
    .next s1.pumpResidency

/-- The cluster cache evicts a line on its own; not one that holds unreleased writes (11 R192). -/
def execClusterCacheEviction (cl line : Nat) (s : State) : Out :=
  if (s.cl cl).held.any (fun h => h.pa / 64 == line && h.released.isNone) then .next s
  else .next ((s.showHome cl s.lateInst true (fun h => h.pa / 64 == line && h.vis.isNone)).writeHome cl (fun h => h.pa / 64 == line) (some s.lateInst) (some s.lateInst))

end Sys2Proof.Machine
end

