-- ==== Sys2Proof/Machine/System.lean ====
section
/-! DEFINITION. Privileged and system ops of major 0x3E (27 R438 to R444, R451): control registers (05 R78), eret, halt, vwset, tidset, tlbinv, copyx, and the shootdown instant. -/

namespace Sys2Proof.Machine

open Sys2Proof

/-! ## Privilege -/

/-- A privileged op in task mode raises reason 23 (27 R439). -/
def State.chkPriv (s : State) : Option TrapRec := trapIf (!s.e.mode) (s.illegal 23)

/-- Whether task mode may read, and write, a control register (05 R78). -/
def csrTask (n : Nat) : Bool × Bool :=
  if n = 0x001 ∨ n = 0x002 then (true, true)
  else if n = 0x011 ∨ n = 0x022 ∨ n = 0x023 ∨ n = 0x070 ∨ n = 0x080 then (false, false)
  else (true, false)

/-- Registers that no mode may write (05 R78). -/
def csrFixed (n : Nat) : Bool :=
  n == 0x030 || (decide (0x008 ≤ n) && decide (n ≤ 0x00D)) || n == 0x050 || n == 0x041 || n == 0x040

/-- The reason for which an access to a control register is refused in a mode (05 R78). -/
def csrReason (wr mode : Bool) (n : Nat) : Option Nat :=
  if !csrExists n then some 22
  else if mode then (if wr && csrFixed n then some 22 else none)
  else if (if wr then (csrTask n).2 else (csrTask n).1) then none else some 23

/-- The reason for which an op is refused in a mode, among the checks of R85 that its word alone does not decide. -/
def privReason (i : Instr) (mode : Bool) : Option Nat :=
  let priv : Option Nat := if mode then none else some 23
  match i with
  | .csrr _ n => csrReason false mode n.toNat
  | .csrw _ n => csrReason true mode n.toNat
  | .csrwFlags _ => csrReason true mode 0x001
  | .csrwMode _ => csrReason true mode 0x070
  | .csrwStage _ => csrReason true mode 0x060
  | .csrwRsSpill l _ => csrReason true mode (if l then 0x023 else 0x022)
  | .eret => priv
  | .halt => priv
  | .tlbinv _ _ _ => priv
  | .copyx _ _ _ _ _ => priv
  | .mload _ _ _ => priv
  | .fgrp _ _ => priv
  | _ => none

/-! ## Control registers (05 R78, R458; 27 R440) -/

/-- The index of the n-th loop entry, 0 where there is none (03 R45). -/
def Seq.li (q : Seq) (n : Nat) : BitVec 32 := match q.loops[n]? with | none => 0 | some l => l.index

/-- PLACE (05 R458). -/
def State.place (s : State) : Word :=
  wordN (2 ^ 32 * s.partOfCtx s.hereCtxId + 2 ^ 16 * (s.cur.cl % 256) + (if s.cur.sec then 8 else 0) + s.cur.core)

/-- The value of a control register at issue. -/
def State.csrRead (s : State) (n : Nat) : Word :=
  let e := s.e
  match n with
  | 0x001 => e.flags
  | 0x002 => e.fpen
  | 0x010 => e.trapCause
  | 0x011 => e.trapPc
  | 0x012 => e.trapInfo
  | 0x013 => e.trapAddr
  | 0x020 => wordN e.rsTop
  | 0x021 => wordN e.rsBase
  | 0x022 => wordN e.rsSpill
  | 0x023 => wordN e.rsLimit
  | 0x030 => wordN s.now
  | 0x031 => s.clock.state.zeroExtend 64
  | 0x040 => wordN s.hereCtxId
  | 0x041 => s.place
  | 0x050 => s.pool.fence
  | 0x060 => s.hereCl.e.stage1 ++ s.hereCl.e.stage0
  | 0x070 => if e.mode then 1 else 0
  | 0x080 => (match s.hereCtx with | none => 0 | some x => x.tidBase.zeroExtend 64)
  | n => (s.me.li (n - 8)).zeroExtend 64

/-- Capacity of the remainder stack (17 R283). -/
def CoreE.rsCap (e : CoreE) : Nat := e.rsLimit - e.rsSpill

/-- Whether RS.SPILL and RS.LIMIT keep R283. -/
def spillOk (sp li : Nat) : Bool :=
  (sp == 0 && li == 0) ||
  (decide (sp % 0x10000 = 0) && decide (li % 0x10000 = 0) && decide (sp + 0x10000 ≤ li) && decide (li - sp ≤ 2 ^ 34) &&
    decide (0x8000000000 ≤ sp) && decide (li ≤ 0xFFFFFFFFFF))

/-- Whether RS.TOP and RS.BASE keep R283 on a core. -/
def CoreE.stackOk (e : CoreE) (top base : Nat) : Bool :=
  decide (top % 16 = 0) && decide (base % 16 = 0) && decide (top ≤ base) && decide (base ≤ e.rsCap)

/-- Whether a write of a remainder-stack register keeps R283 (17 R284). -/
def CoreE.rsWriteOk (e : CoreE) (n v : Nat) : Bool :=
  match n with
  | 0x020 => e.stackOk v e.rsBase
  | 0x021 => e.stackOk e.rsTop v
  | 0x022 => spillOk v e.rsLimit
  | 0x023 => spillOk e.rsSpill v
  | _ => true

/-- RS.SPILL and RS.LIMIT set: the stack is emptied and the mark word is 0 (17 R284). -/
def CoreE.setSpill (e : CoreE) (sp li : Nat) : CoreE :=
  { e with rsSpill := sp, rsLimit := li, rsTop := li - sp, rsBase := li - sp, mark := 0 }

/-- The write of a control register of a core's eager registers; bits that the spec reserves stay 0. A csrw of MODE writes TRAP.CAUSE[10] (27 R440). -/
def CoreE.csrSet (e : CoreE) (n : Nat) (v : Word) : CoreE :=
  match n with
  | 0x001 => { e with flags := v &&& 0x3F }
  | 0x002 => { e with fpen := v &&& 0x1F }
  | 0x010 => { e with trapCause := v &&& 0x7FF }
  | 0x011 => { e with trapPc := v }
  | 0x012 => { e with trapInfo := v }
  | 0x013 => { e with trapAddr := v }
  | 0x020 => { e with rsTop := v.toNat }
  | 0x021 => { e with rsBase := v.toNat }
  | 0x022 => e.setSpill v.toNat e.rsLimit
  | 0x023 => e.setSpill e.rsSpill v.toNat
  | 0x070 => { e with trapCause := (e.trapCause &&& ~~~(0x400 : Word)) ||| ((v &&& 1) <<< 10) }
  | _ => e

/-- The write of a control register by a core, landing. GANG.STATE takes only the values that it reads (log entry 17). TID.BASE keeps the low 52 bits of the value, aligned to 8 KiB or not (log entry 34). -/
def State.csrLand (s : State) (c k n : Nat) (v : Word) : State :=
  match n with
  | 0x031 => if v.toNat < 3 then { s with clock := { s.clock with state := v.truncate 2 } } else s
  | 0x060 => s.modCl c (fun x => { x with e := { x.e with stage0 := v.truncate 32, stage1 := (v >>> 32).truncate 32 } })
  | 0x080 => s.modCtx (((s.cl c).ctx).getD 0) (fun x => { x with tidBase := v.truncate 52 })
  | n => s.modE c k (fun e => e.csrSet n v)

/-- The checks of a write: R78, then R284. -/
def State.chkCsrw (s : State) (n : Nat) (v : Word) : Option TrapRec :=
  firstTrap [(csrReason true s.e.mode n).map s.illegal, trapIf (!s.e.rsWriteOk n v.toNat) (s.illegal 22)]

/-- A write of a control register, seen from the next cycle on (27 R440). -/
def State.csrWrite (s : State) (n : Nat) (d : Reg) : Out :=
  s.checked (s.chkCsrw n (s.g d)) (fun s => s.pend 1 [.csr n (s.g d)])

/-- gD := the control register, latency 2 (27 R440). -/
def execCsrr (d : Reg) (csr : BitVec 12) (s : State) : Out :=
  s.checked ((csrReason false s.e.mode csr.toNat).map s.illegal) (fun s => s.wrG d (s.csrRead csr.toNat) 2)

/-- The control register := gD (27 R440). -/
def execCsrw (d : Reg) (csr : BitVec 12) (s : State) : Out := s.csrWrite csr.toNat d

/-- FLAGS := gD, before the flags set in the same cycle are ORed in (07 R118). -/
def execCsrwFlags (d : Reg) (s : State) : Out := s.csrWrite 0x001 d

/-- TRAP.CAUSE[10] := gD[0], the mode that the next eret installs (27 R440). -/
def execCsrwMode (d : Reg) (s : State) : Out := s.csrWrite 0x070 d

/-- Both copy-stage counters := gD, in the layout of R149 (05 R78). -/
def execCsrwStage (d : Reg) (s : State) : Out := s.csrWrite 0x060 d

/-- RS.SPILL or RS.LIMIT := gD; the stack is emptied (17 R284). -/
def execCsrwRsSpill (limit : Bool) (d : Reg) (s : State) : Out := s.csrWrite (if limit then 0x023 else 0x022) d

/-! ## eret and halt (27 R438, R443) -/

/-- The spill engine of a cluster goes on after the return from the trap that its recorded fault raised (17 R293, 27 R438). -/
def ClusterE.clearSpill (e : ClusterE) (t : CoreE) : ClusterE :=
  match e.spillFault with
  | none => e
  | some r => if r.info = t.trapInfo ∧ r.addr = t.trapAddr then { e with spillFault := none } else e

/-- An engine or copyx stopped by a fault that this core's primary, or the sequencer here, took resumes at its progress (13 R231), and so does the spill engine. -/
def State.resumeEngines (s : State) : State :=
  let c := s.cur.cl
  let mine (n : Nat) : Bool := s.engineCore c n == s.cur.core
  let one (t : State) (n : Nat) : State := if mine n then t.modCe c n (fun e => { e with stopped := false }) else t
  let s1 := (one (one s 0) 1).modCl c (fun x => { x with e := x.e.clearSpill s.e })
  { s1 with xfers := s1.xfers.map (fun t =>
      if t.stopped && t.cl == c && t.ctx == s.hereCtxId &&
         (match t.kind with | .copy => mine t.engine | .copyx => t.core == s.cur.core | _ => false)
      then { t with stopped := false } else t) }

/-- Return from a trap (27 R438). -/
def execEret (s : State) : Out :=
  s.checked (firstTrap [s.chkPriv, trapIf (decide (s.e.trapPc.toNat % 4 ≠ 0)) (s.illegal 22)]) (fun s =>
    ((s.modHereE (fun e => e.leave s.cycle (s.preemptPending s.cur.cl))).modMe (fun q => { q with taken := true })).resumeEngines)

/-- Stops both sequencers of the core (27 R443). -/
def execHalt (s : State) : Out := s.checked s.chkPriv (fun s => s.modHere Core.haltNow)

/-! ## Views and tensor identifiers (27 R441, R442) -/

/-- The side-storage words of the elements of a view, under the width of its entry. -/
def viewWords (x : Cluster) (v : View) : List Nat :=
  let rb := v.rb (widthOf (tidOf (x.tid v.tid.toNat)).format)
  ((span 0 v.rows.toNat).map (fun i => (unitsOf 4 (v.row i) rb).filter (fun w => decide (w < 0x10000)))).flatten

/-- The view that vwset's operands give. -/
def viewOf (a b : Word) : View where
  base := a.truncate 18
  rows := (b >>> 48).truncate 16
  cols := (b >>> 32).truncate 16
  pitch := (b >>> 16).truncate 16
  tid := b.truncate 8

/-- Whether vwset's operands keep the fields that must be zero, and a v or sv base R258. -/
def viewOperandsOk (view : Nat) (a b : Word) : Bool :=
  bitsOf a 63 18 == 0 && bitsOf b 15 8 == 0 &&
  (decide (2 ≤ view) || (b == 0 && decide (a.toNat % 256 = 0) && decide (a.toNat ≤ 0x3C000)))

/-- The writes that set a view: the geometry of an accumulator view that changes clears the side storage of its old and new ranges. -/
def State.viewWrites (s : State) (n : Nat) (v : View) : List PWrite :=
  let old := s.e.view n
  if n < 18 then [.view n v]
  else [.view n v, .side ((viewWords s.hereCl old ++ viewWords s.hereCl v).map (fun w => (w, 0)))]

/-- The stored form of a view: v and sv keep only their base. -/
def storedView (n : Nat) (v : View) : View := if n < 2 then { v with rows := 64, cols := 64, pitch := 4, tid := 0 } else v

/-- Sets one view register (27 R441). -/
def execVwset (view a b : Reg) (s : State) : Out :=
  let n := view.toNat
  let v := storedView n (viewOf (s.g a) (s.g b))
  s.checked (firstTrap [
      trapIf (decide (21 < n)) (s.illegal 22),
      trapIf (!viewOperandsOk n (s.g a) (s.g b)) (s.fmtFault 0 25)]) (fun s =>
    if s.e.view n = v then s else s.pend 1 (s.viewWrites n v))

/-- An uncorrectable ECC error in a line read (13 R215). -/
def State.chkEcc (s : State) (a n : Nat) : Option TrapRec :=
  firstTrap ((unitsOf 64 a n).map (fun l => match tget none s.hereCl.marks l with
    | none => none
    | some m => trapIf (m.kind == 1) (integrityTrap m 2 8 (l * 64))))

/-- Entry g[A] of the cluster's tensor identifier table := three quads of scratch (27 R442); its checks stand in the order of the rule's text (log entry 24). -/
def execTidset (a b : Reg) (s : State) : Out :=
  let n := (s.g a).toNat
  let x := (s.g b).toNat
  s.checked (firstTrap [trapIf (decide (255 < n)) (s.fmtFault 0 25), chkScratch x 24 32, s.chkEcc x 24]) (fun s =>
    (s.readLines false [(x, 24)]).pend 2
      [.tid n { q0 := wordOf (s.scr x 8), q1 := wordOf (s.scr (x + 8) 8), q2 := wordOf (s.scr (x + 16) 8), q3 := 0 }])

/-! ## tlbinv (27 R451) -/

/-- The least whole µs at or after an instant in ns. -/
def wholeMicro (t : Nat) : Nat := ceilDiv t 1000 * 1000

/-- Ti of a shootdown issued now. -/
def State.shootTime (s : State) : Nat := wholeMicro (s.now + 10000)

/-- Invalidates translations at Ti (27 R451). -/
def execTlbinv (d a b : Reg) (s : State) : Out :=
  let w := s.g b
  let whole := bitOf w 50
  s.checked (firstTrap [
      s.chkPriv,
      trapIf (decide (bitsOf w 49 32 ≠ 0)) (s.fmtFault 0 25),
      trapIf (!whole && decide ((s.g a).toNat % 4096 ≠ 0)) (pageFault 5 (s.g a).toNat)]) (fun s =>
    let new : Shootdown :=
      { part := s.partOfCtx s.hereCtxId, ti := s.shootTime, ctx := bitsOf w 63 52, all := bitOf w 51, whole := whole,
        va := (s.g a).toNat, n := bitsOf w 31 0 }
    { (s.wrG d (wordN s.shootTime) 2) with shootdowns := s.shootdowns ++ [new] })

/-- Whether a shootdown names a translation. -/
def Shootdown.hits (d : Shootdown) (t : TlbEntry) : Bool :=
  t.part == d.part && (d.all || t.ctx == d.ctx) &&
  (d.whole || (decide (0 < d.n) && decide (t.page < d.va + 4096 * d.n) && decide (d.va < t.page + t.size)))

/-- Writes held in a cluster cache that were made through a translation go home before it is dropped (27 R451). -/
def State.dropEntry (s : State) (t : TlbEntry) : State :=
  let s1 : State := { s with mem := { s.mem with tlb := s.mem.tlb.filter (fun x => x != t) } }
  match t.cl with
  | none => s1
  | some c =>
    let l : Leaf := { q0 := t.q0, q1 := t.q1, size := t.size }
    let lo := (s.locOf t.part l t.page).num
    let mine (n : Nat) : Bool := decide (lo ≤ n) && decide (n < lo + t.size)
    (s1.showHome c s1.lateInst true (fun h => mine h.pa && h.vis.isNone)).writeHome c (fun h => mine h.pa) (some s1.lateInst) (some s1.lateInst)

/-- One shootdown made. -/
def State.shoot (s : State) (d : Shootdown) : State := (s.mem.tlb.filter d.hits).foldl (fun u t => u.dropEntry t) s

/-- At Ti matching translations are dropped (27 R451). -/
def execShootdownInstant (s : State) : Out :=
  let due := s.shootdowns.filter (fun d => decide (d.ti ≤ s.now))
  let s1 : State := { s with shootdowns := s.shootdowns.filter (fun d => !decide (d.ti ≤ s.now)) }
  .next (due.foldl (fun u d => u.shoot d) s1)

/-! ## copyx (27 R444) -/

/-- One 64-byte end at an address of a space. -/
def spaceEnd (sp : Space) (own remote core a : Nat) : End :=
  match sp with
  | .global => .glob a
  | .own => .scratch own a
  | .remote => .scratch remote a
  | .acc => .arena own core a
  | .host => .host a

/-- Bytes of the side area that follows L bytes when exactly one side is accumulator memory. -/
def sideBytes (ds ss : Space) (n : Nat) : Nat :=
  if (ds == .acc) != (ss == .acc) then ceilDiv (ceilDiv n 8) 64 * 64 else 0

/-- The end of a space's range, none for spaces with no end of their own. -/
def spaceLimit : Space → Option Nat
  | .own => some 0x400000
  | .remote => some 0x400000
  | .acc => some 0x40000
  | _ => none

/-- The range check of one side of copyx. -/
def chkSpace (sp : Space) (a n : Nat) : Option TrapRec :=
  match spaceLimit sp with
  | none => none
  | some l => trapIf (decide (l < a + n)) (pageFault 4 a)

/-- The side-area lines of a copyx: nibbles written after the bytes, or read from after them. -/
def sideLines (ds ss : Space) (own remote core d a n : Nat) : List (End × List Seg) :=
  (span 0 (sideBytes ds ss n / 64)).map (fun i =>
    let m := min 64 (n / 8 - 64 * i)
    if ss = .acc then
      (spaceEnd ds own remote core (d + n + 64 * i),
        [.src (.side own core (a + 512 * i)) m, .fill (List.replicate (64 - m) 0)])
    else
      (.side own core (d + 512 * i), [.src (spaceEnd ss own remote core (a + n + 64 * i)) m]))

/-- Moves bytes between two spaces (27 R444). -/
def execCopyx (dst src : Space) (d a b : Reg) (s : State) : Out :=
  let w := s.g b
  let n := bitsOf w 31 0
  let lc := bitsOf w 47 32
  let core := bitsOf w 50 48
  let q := bitsOf w 54 52
  let notify := bitOf w 51
  let part := s.partOfCtx s.hereCtxId
  let x := (s.g d).toNat
  let y := (s.g a).toNat
  let side := sideBytes dst src n
  let remote := decide (dst = .remote ∨ src = .remote)
  s.checked (firstTrap [
      s.chkPriv,
      trapIf (decide (bitsOf w 63 55 ≠ 0) || (remote && decide (s.clustersOf part ≤ lc))) (s.fmtFault 0 25),
      trapIf (decide (n % 64 ≠ 0 ∨ n < 64 ∨ 0x1000000 < n)) (pageFault 7 x),
      trapIf (decide (x % 64 ≠ 0)) (pageFault 5 x),
      trapIf (decide (y % 64 ≠ 0)) (pageFault 5 y),
      chkSpace dst x (if dst = .acc then n else n + side),
      chkSpace src y (if src = .acc then n else n + side),
      if notify then s.chkSlot q else none]) (fun s =>
    let own := s.cur.cl
    let rk := clKey part lc
    let ends := (span 0 (n / 64)).map (fun i =>
      (spaceEnd dst own rk core (x + 64 * i), [Seg.src (spaceEnd src own rk core (y + 64 * i)) 64]))
    let ls := numLines 0 (ends ++ sideLines dst src own rk core x y n)
    let (slot, s1) := if notify then s.reserve q else (none, s)
    let t : Xfer := { s1.xferOf .copyx ls n with
      notify := slot.map (fun i => (q, i, wordN n)),
      waitCore := if dst = .acc ∨ src = .acc then some (own, core) else none }
    s1.addXfer t)

end Sys2Proof.Machine
end

