-- ==== Sys2Proof/Machine/Fabric.lean ====
section
/-! DEFINITION. The peer fabric (25 R393 to R420): peers and circuits, routes, egress and acknowledgements, the arrival of packets, multicast, and the fabric instructions of majors 0x3C and 0x3D. -/

namespace Sys2Proof.Machine

open Sys2Proof

/-! ## Peers and circuits (R393, R394) -/

/-- The vector of a peer number over GF(31) (R393). -/
def peerVec (p : Nat) : Nat × Nat × Nat :=
  if p < 961 then (1, p / 31, p % 31) else if p < 992 then (0, 1, p - 961) else (0, 0, 1)

/-- The dot product of two peers' vectors. -/
def peerDot (p q : Nat) : Nat :=
  let a := peerVec p
  let b := peerVec q
  (a.1 * b.1 + a.2.1 * b.2.1 + a.2.2 * b.2.2) % 31

/-- Joined by a circuit in the default configuration (R394). -/
def adjacent (p q : Nat) : Bool := p != q && peerDot p q == 0

/-- Neighbours in ascending order; the k-th is reached by peer port k (R394). -/
def neighbours (p : Nat) : List Nat := (span 0 993).filter (adjacent p)

/-- Hops of a minimal path, 0 for itself. -/
def minHops (p q : Nat) : Nat := if p = q then 0 else if adjacent p q then 1 else 2

/-- The peer ports of a layer (R394, 01 R12). -/
def peerPortsOf (layer : Nat) : List Nat :=
  match layer with
  | 0 => span 0 5
  | 1 => span 5 5
  | 2 => span 10 6
  | 3 => span 16 6
  | 4 => span 22 5
  | 5 => span 27 5
  | _ => []

/-! ## Routes (R395, R397, R398) -/

def State.routerEntry (s : State) (part dst : Nat) : Option RouterEntry := (look s.parts part).bind (fun p => look p.router dst)
def State.portLit (s : State) (p : Nat) : Bool := !s.fabric.darkPorts.contains p && !s.fabric.circuitDark.contains p

/-- The port of greatest downstream room, ties to the lower number (R397). -/
def bestPort (n : Nat) : List Nat → Nat
  | [] => 0
  | [p] => p
  | p :: r =>
    let q := bestPort n r
    if Config.portRoom n q < Config.portRoom n p ∨ (Config.portRoom n p = Config.portRoom n q ∧ p < q) then p else q

/-- The minimal ports towards a goal, unless it is flagged absent (R395). -/
def State.minimal (s : State) (part goal : Nat) : List Nat :=
  match s.routerEntry part goal with
  | none => []
  | some e => if e.flag = .absent then [] else e.minimal

/-- Those that are lit and have not failed. -/
def State.upPorts (s : State) (part goal : Nat) : List Nat :=
  (s.minimal part goal).filter (fun p => s.portLit p && !s.fabric.failedPorts.contains p)

/-- Those whose queue is no deeper than three quarters of its capacity (R397, case 1). -/
def State.freePorts (s : State) (part goal : Nat) : List Nat := (s.upPorts part goal).filter (fun p => !Config.portDeep s.free p)

/-- A dark minimal port, whose traffic takes the electrical path (R397, case 2). -/
def State.darkRoute (s : State) (part goal : Nat) : Option Route :=
  ((s.minimal part goal).find? (fun p => !s.portLit p)).map .dark

/-- A minimal route from here to a goal, as a router chooses it: by the rule of case 1, then, its queue being deep, by a lit port all the same, then by a dark one (R397, log entry 26). -/
def State.towards (s : State) (part goal : Nat) : Option Route :=
  let free := s.freePorts part goal
  let up := s.upPorts part goal
  if !free.isEmpty then some (.lit (bestPort s.free free))
  else if !up.isEmpty then some (.lit (bestPort s.free up))
  else s.darkRoute part goal

/-- The ports by which a copy of a multicast that has made some hops reaches a member within two hops in all (R414). -/
def State.copyPorts (s : State) (part m hops : Nat) : List Nat :=
  let ns := neighbours s.fabric.self
  (s.minimal part m).filter (fun p => decide (hops + 1 + minHops (ns.getD p m) m ≤ 2))

/-- The route of a copy of a multicast: by a lit minimal port whose queue is not deep (case 1); by a dark one (case 2), which a router takes last; by a lit one all the same, for no intermediate keeps to two hops (R397, R414, log entry 26). -/
def State.copyRoute (s : State) (part m hops : Nat) (source : Bool) : Option Route :=
  let ports := s.copyPorts part m hops
  let up := ports.filter (fun p => s.portLit p && !s.fabric.failedPorts.contains p)
  let free := up.filter (fun p => !Config.portDeep s.free p)
  let dark : Option Route := (ports.find? (fun p => !s.portLit p)).map .dark
  let deep : Option Route := if up.isEmpty then none else some (.lit (bestPort s.free up))
  if !free.isEmpty then some (.lit (bestPort s.free free))
  else if source then dark.orElse (fun _ => deep) else deep.orElse (fun _ => dark)

/-- No route: the packet waits for a pending destination (R417), or is unroutable (R398). -/
def State.noRoute (s : State) (part dst : Nat) : Route :=
  match s.routerEntry part dst with
  | none => .none
  | some e => if e.flag = .pending then .pending else .none

/-- The intermediate that a sequence number selects from the list of a destination (R397, case 3). -/
def State.midOf (s : State) (part dst : Nat) (seq : BitVec 32) : Option Nat :=
  match s.routerEntry part dst with
  | none => none
  | some e => if e.flag = .absent ∨ e.mids.isEmpty = true then none else some (e.mids.getD (seq.toNat % e.mids.length) 0)

/-- The route chosen at injection, and the intermediate it goes by (R397). Where the table lists none, a lit minimal port whose queue is deep is taken. -/
def State.route (s : State) (part dst : Nat) (seq : BitVec 32) : Route × Option (BitVec 10) :=
  let free := s.freePorts part dst
  if dst = s.fabric.self then (.itself, none)
  else if !free.isEmpty then (.lit (bestPort s.free free), none)
  else match s.darkRoute part dst with
  | some r => (r, none)
  | none =>
    match (s.midOf part dst seq).bind (fun m => (s.towards part m).map (fun r => (r, m))) with
    | some (r, m) => (r, some (BitVec.ofNat 10 m))
    | none => ((s.towards part dst).getD (s.noRoute part dst), none)

/-! ## Sending -/

def State.modFab (s : State) (f : FabricSide → FabricSide) : State := { s with fabric := f s.fabric }

/-- The numbers that a packet carries, with their destinations: a copy of a multicast carries one for each member it serves. -/
def pktNumbers (p : Packet) : List (Nat × BitVec 32) := if p.kind = 3 then p.waves else [(p.dst.toNat, p.seq)]

/-- The last number of each stream of a packet diverted at a dark port is kept (R418). -/
def State.divert (s : State) (port : Nat) (p : Packet) : State :=
  (pktNumbers p).foldl (fun t n =>
    let new : Divert := { port := port, src := p.src.toNat, ctx := p.ctx.toNat, dst := n.1, seq := n.2 }
    let same (d : Divert) : Bool := d.port == port && d.src == new.src && d.ctx == new.ctx && d.dst == new.dst
    t.modFab (fun f => { f with diverted := f.diverted.filter (fun d => !same d) ++ [new] })) s

/-- A packet leaves by a port, on optics, or on the electrical path while the port is dark (R418); it arrives with one hop more (R398). -/
def State.leave (s : State) (port : Nat) (p : Packet) : State :=
  let dark := !s.portLit port
  let s1 : State := { s with free := s.free + 1, outbox := s.outbox ++ [.packet port dark { p with hops := p.hops + 1 }] }
  if dark && decide (p.kind.toNat < 4) then s1.divert port p else s1

/-- A packet takes a route: it leaves by a port, or goes round to this package. -/
def State.emit (s : State) (r : Route) (p : Packet) : State :=
  match r with
  | .itself => s.modFab (fun f => { f with loop := f.loop ++ [p] })
  | .lit port => s.leave port p
  | .dark port => s.leave port p
  | .pending => s
  | .none => s

/-- The partition whose router table serves a packet of no local context: the first (log entry 22). -/
def State.firstPart (s : State) : Nat := match s.parts with | [] => 0 | p :: _ => p.1

/-- A packet of this package. -/
def State.mkPkt (s : State) (kind : BitVec 4) (dst ctx : Nat) (exp : BitVec 16) (off : Nat) (info : Word) (payload : List Byte) : Packet where
  kind := kind
  hops := 0
  src := BitVec.ofNat 10 s.fabric.self
  dst := BitVec.ofNat 10 dst
  ctx := BitVec.ofNat 12 ctx
  export_ := exp
  seq := 0
  group := 0
  wave := 0
  len := BitVec.ofNat 5 (ceilDiv payload.length 16)
  offset := wordN off
  info := info
  payload := payload
  good := true
  sealsGood := true
  answers := []
  waves := []

/-- A packet without a sequence number leaves on the control wavelength, or on the electrical path (R419); one for a pending destination without a route waits in its virtual egress queue (R417). -/
def State.sendCtl (s : State) (part : Nat) (p : Packet) : State :=
  match s.route part p.dst.toNat 0 with
  | (.pending, _) =>
    let o : OutPkt := { id := s.fresh, op := s.fresh, part := part, pkt := p, sends := 0, lastSend := 0, lines := 0,
                        firstRefusal := none, refused := false, waiting := true, route := .none }
    (s.modFab (fun f => { f with out := f.out ++ [o] })).tick1
  | (r, mid) => s.emit r { p with via := mid }

/-! ## Fabric ops in progress -/

def State.fabOp (s : State) (id : Nat) : Option FabOp := s.fabric.ops.find? (fun f => f.id == id)
def State.modOp (s : State) (id : Nat) (g : FabOp → FabOp) : State :=
  s.modFab (fun f => { f with ops := f.ops.map (fun x => if x.id = id then g x else x) })
def State.modOut (s : State) (id : Nat) (g : OutPkt → OutPkt) : State :=
  s.modFab (fun f => { f with out := f.out.map (fun x => if x.id = id then g x else x) })

/-- The sequencer that issued an op, where its context stands. -/
def State.modFabSeq (s : State) (f : FabOp) (g : Seq → Seq) : State :=
  s.modEOf f.ctx f.cl f.core (fun e => e.setSq f.sec (g (e.sq f.sec)))

/-- The completion notices of an op whose packets have all been sent: one to each target, with the last number sent on each wavelength (R420). -/
def State.sendNotices (s : State) (f : FabOp) : State :=
  if !f.ntf || s.fabric.out.any (fun o => o.op == f.id && o.sends == 0) then s
  else
    let peers := distinct (f.waves.map (fun w => w.1 / 16)) []
    let part := s.partOfCtx f.ctx
    let one (t : State) (p : Nat) : State :=
      t.sendCtl part { t.mkPkt 5 p f.ctx f.exportIdx 0 0 [] with
        waves := (f.waves.filter (fun w => w.1 / 16 == p)).map (fun w => (w.1 % 16, w.2)) }
    (peers.foldl one s).modOp f.id (fun x => { x with ntf := false })

/-- An op completes and is counted for fstat .done (R412). -/
def State.fabDone (s : State) (f : FabOp) : State :=
  (s.modFab (fun x => { x with ops := x.ops.filter (fun y => y.id != f.id) })).modFabSeq f (fun q => { q with fabDone := q.fabDone + 1 })

/-- What a final status other than 0 does (R405, R411): a capability fault, or a record for fstat .err; nothing for a member of fmc. -/
def State.fabStatus (s : State) (f : FabOp) (peer st : Nat) : State :=
  if f.kind = 3 ∨ st = 0 ∨ st = 4 then s
  else if st = 2 ∨ st = 3 then s.postFault f.ctx f.cl f.core f.sec (trapR codeCap (if st = 2 then 6 else 7) f.off)
  else s.modFabSeq f (fun q => { q with fabErr := wordN (peer * 2 ^ 54 + f.kind * 256 + st) })

/-- The first status other than 0 of a member's packets. -/
def addAnswer (peer st : Nat) : List (Nat × Nat) → List (Nat × Nat)
  | [] => [(peer, st)]
  | (p, x) :: r => if p = peer then (p, if x = 0 then st else x) :: r else (p, x) :: addAnswer peer st r

/-- The value that a slot receives: the old value of an atomic, 0 when it failed; the status of a request (R408, R409). -/
def FabOp.slotValue (f : FabOp) (st : Nat) (payload : List Byte) : Word :=
  if f.kind = 2 then wordN st else if st = 0 then wordOf (payload.take 8) else 0

/-- A packet has its final status. -/
def State.endPkt (s : State) (o : OutPkt) (st : Nat) (payload : List Byte) : State :=
  let s1 := s.modFab (fun f => { f with out := f.out.filter (fun x => x.id != o.id) })
  match s1.fabOp o.op with
  | none => s1
  | some f =>
    let peer := o.pkt.dst.toNat
    let f1 : FabOp := { f with left := f.left - 1, answers := if f.kind = 3 then addAnswer peer st f.answers else f.answers }
    let s2 := (s1.modOp f.id (fun _ => f1)).fabStatus f peer st
    let s3 := match f.slot with
      | none => s2
      | some (q, i) =>
        let new : Arrival := { id := s2.fresh, due := s2.cycle, cl := f.cl, core := f.core, q := q, slot := i, value := f.slotValue st payload }
        ({ s2 with arrivals := s2.arrivals ++ [new] } : State).tick1
    if f1.left = 0 ∧ f.kind ≠ 3 then (s3.sendNotices f1).fabDone f1 else s3

/-- The sender-side numbers of a context: in its parked-traffic area while it is halted (R428). -/
def Context.fabs (x : Context) : List FabStream := match x.area with | some r => r.fab | none => x.fab
def Context.setFabs (x : Context) (l : List FabStream) : Context :=
  match x.area with | some r => { x with area := some { r with fab := l } } | none => { x with fab := l }

/-- The stream of a context towards a target (R399). -/
def State.fabStream (s : State) (ctx peer : Nat) : FabStream :=
  let new : FabStream := { peer := peer, next := 0, unreachable := false }
  match look s.ctxs ctx with
  | none => new
  | some x => (x.fabs.find? (fun t => t.peer == peer)).getD new

def State.setFabStream (s : State) (ctx : Nat) (t : FabStream) : State :=
  s.modCtx ctx (fun x => x.setFabs (x.fabs.filter (fun y => y.peer != t.peer) ++ [t]))

/-- Packets of a stream sent and not acknowledged. -/
def State.unacked (s : State) (ctx peer : Nat) : Nat :=
  (s.fabric.out.filter (fun o => decide (0 < o.sends) && o.pkt.ctx.toNat == ctx && o.pkt.dst.toNat == peer)).length

/-- The packets injected together with one: the copies of the same bytes of a multicast. -/
def State.setOf (s : State) (o : OutPkt) : List OutPkt :=
  if o.pkt.kind = 3 ∧ o.waiting = false then
    s.fabric.out.filter (fun x => x.op == o.op && x.pkt.offset == o.pkt.offset && x.sends == 0 && !x.waiting)
  else [o]

/-- Whether a packet may be injected: its context runs and has not stopped injection (R425, R426), fences before it have passed, its stream has room (R399), no earlier packet of the stream is held back in egress, and an atomic waits for the boundaries before it (11 R197). -/
def State.mayInject (s : State) (o : OutPkt) : Bool :=
  match s.fabOp o.op with
  | none => false
  | some f =>
    let ctx := o.pkt.ctx.toNat
    decide ((s.cl f.cl).ctx = some ctx) &&
    (match look s.ctxs ctx with | none => false | some x => !x.noInject) &&
    s.mayPerform f.cl f.core f.sec f.id &&
    decide (s.unacked ctx o.pkt.dst.toNat < 4096) &&
    !(f.kind == 1 && s.readHeld f.cl f.core f.sec f.id) &&
    !s.fabric.out.any (fun x => x.sends == 0 && !x.waiting && decide (x.id < o.id) && x.pkt.ctx == o.pkt.ctx && x.pkt.dst == o.pkt.dst)

/-- Charges the lines of a payload, as far as the class has budget (01 R24): the lines charged so far. -/
def State.chargeLines (s : State) (part done : Nat) : Nat → Nat × State
  | 0 => (done, s)
  | n + 1 => match s.charge part clsFabric 1 with
    | none => (done, s)
    | some t => t.chargeLines part (done + 1) n

/-- The route of a packet at injection: a copy of a multicast goes by minimal routes only (R414). -/
def State.routeOf (s : State) (o : OutPkt) (seq : BitVec 32) : Route × Option (BitVec 10) :=
  let dst := o.pkt.dst.toNat
  if o.pkt.kind = 3 ∧ dst ≠ s.fabric.self then ((s.copyRoute o.part dst 0 true).getD (s.noRoute o.part dst), none) else s.route o.part dst seq

/-- Whether a packet joins the virtual egress queue of its destination: it has no route yet, or earlier packets wait there (R417). -/
def State.joinsQueue (s : State) (o : OutPkt) : Bool :=
  (match (s.routeOf o (s.fabStream o.pkt.ctx.toNat o.pkt.dst.toNat).next).1 with | .pending => true | _ => false) ||
  s.fabric.out.any (fun x => x.waiting && decide (x.id < o.id) && x.part == o.part && x.pkt.dst == o.pkt.dst)

/-- One packet takes its number and wavelength at injection; what is to be sent is added to a list of routes and packets. -/
def State.number (s : State) (o : OutPkt) (acc : List (Route × Packet)) : List (Route × Packet) × State :=
  let ctx := o.pkt.ctx.toNat
  let dst := o.pkt.dst.toNat
  let t := s.fabStream ctx dst
  if t.unreachable then (acc, s.endPkt o 6 [])
  else
    match s.routeOf o t.next with
    | (.none, _) => (acc, s.endPkt o 1 [])
    | (.pending, _) => (acc, s.modOut o.id (fun x => { x with waiting := true }))
    | (r, mid) =>
      let p : Packet := { o.pkt with seq := t.next, wave := Config.packetWave s.free, via := mid }
      let s1 := s.setFabStream ctx { t with next := t.next + 1 }
      let s2 := s1.modOut o.id (fun x => { x with pkt := p, sends := 1, lastSend := s.now, waiting := false, route := r })
      (acc ++ [(r, p)], { (s2.modOp o.op (fun f => { f with waves := tins f.waves (16 * dst + p.wave.toNat) t.next })) with free := s2.free + 1 })

def State.numberAll (s : State) (acc : List (Route × Packet)) : List OutPkt → List (Route × Packet) × State
  | [] => (acc, s)
  | o :: r =>
    let (a, t) := s.number o acc
    t.numberAll a r

/-- The first hop that a multicast copy is sent to, its next replication point (R414). -/
def State.firstHop (s : State) (r : Route) (dst : BitVec 10) : BitVec 10 :=
  match r with
  | .lit port => BitVec.ofNat 10 ((neighbours s.fabric.self).getD port dst.toNat)
  | .dark port => BitVec.ofNat 10 ((neighbours s.fabric.self).getD port dst.toNat)
  | _ => dst

/-- Copies of a multicast that leave by one route go as one packet, which lists the members it serves with their numbers (R414). -/
def State.addCopy (s : State) (r : Route) (p : Packet) : List (Route × Packet) → List (Route × Packet)
  | [] => [(r, { p with dst := s.firstHop r p.dst, waves := [(p.dst.toNat, p.seq)] })]
  | (r', p') :: l =>
    if r' = r then (r', { p' with waves := p'.waves ++ [(p.dst.toNat, p.seq)] }) :: l else (r', p') :: s.addCopy r p l

def State.copiesOf (s : State) (l : List (Route × Packet)) : List (Route × Packet) :=
  l.foldl (fun acc x => if x.2.kind = 3 then s.addCopy x.1 x.2 acc else acc ++ [x]) []

/-- The next packet of egress is injected, if it may go and its lines have budget. -/
def State.inject (s : State) (o : OutPkt) : State :=
  match s.fabric.out.find? (fun x => x.id == o.id) with
  | none => s
  | some o =>
    if o.sends ≠ 0 ∨ o.waiting = true then s else
    let os := s.setOf o
    if !os.all s.mayInject then s
    else if s.joinsQueue o && !(s.fabStream o.pkt.ctx.toNat o.pkt.dst.toNat).unreachable then s.modOut o.id (fun x => { x with waiting := true }) else
    let n := ceilDiv o.pkt.payload.length 64
    let (done, s1) := s.chargeLines o.part o.lines (n - o.lines)
    if done < n then s1.modOut o.id (fun x => { x with lines := done })
    else
      let (l, s2) := s1.numberAll [] os
      (s2.copiesOf l).foldl (fun t x => t.emit x.1 x.2) s2

/-! ## Arrival of sequenced packets (R399, R400, R403, R404) -/

/-- Fields of an export entry (R403). -/
structure ExportE where
  valid : Bool
  kind : Nat
  gw : Bool
  ga : Bool
  gr : Bool
  owner : Nat
  cluster : Nat
  base : Nat
  length : Nat
  notice : Nat
  deriving DecidableEq, Repr

def exportOf (q : Quads) : ExportE where
  valid := bitOf q.q0 63
  kind := bitsOf q.q0 62 60
  gw := bitOf q.q0 59
  ga := bitOf q.q0 58
  gr := bitOf q.q0 57
  owner := bitsOf q.q0 55 44
  cluster := bitsOf q.q0 15 0
  base := bitsOf q.q1 51 0
  length := q.q2.toNat
  notice := bitsOf q.q3 51 0

def State.exportE (s : State) (n : BitVec 16) : ExportE := exportOf (tget {} s.fabric.exports n.toNat)

/-- Whether a context runs: a core of its on the package, or on one cluster, is not halted (R403). -/
def State.ctxRuns (s : State) (ctx : Nat) (cl : Option Nat) : Bool :=
  s.clusters.any (fun p => (match cl with | none => true | some c => p.1 == c) && p.2.ctx == some ctx && p.2.cores.any (fun q => !q.2.halted))

/-- The cluster that an entry of kind 1 names. -/
def State.exportCl (s : State) (e : ExportE) : Nat := clKey (s.partOfCtx e.owner) e.cluster

def State.ownerRuns (s : State) (e : ExportE) : Bool :=
  if e.kind = 1 then decide (e.cluster < s.clustersOf (s.partOfCtx e.owner)) && s.ctxRuns e.owner (some (s.exportCl e))
  else s.ctxRuns e.owner none

/-- Bytes that a packet reaches in its region. -/
def pktReach (p : Packet) : Nat := if p.kind = 1 then 8 else p.payload.length

/-- The refusals of R403 that need neither the owner nor a translation. -/
def ExportE.refuses (e : ExportE) (p : Packet) : Option Nat :=
  let grant := if p.kind = 1 then e.ga else if p.kind = 2 then e.gr else e.gw
  if !e.valid || decide (2 < e.kind) || !grant || (decide (e.kind = 2) != (p.kind == 2)) then some 2
  else if e.length < p.offset.toNat + pktReach p then some 3
  else none

/-- What becomes of the next packet of a window: it waits, or it has a status and a value for its acknowledgement. -/
inductive Commit
  | wait (s : State)
  | done (status : Nat) (value : List Byte) (s : State)

/-- The status of a packet whose access to its owner's memory meets a fault: a failed check of a line, or a translation or permission (R403, R405). -/
def vaStatus (r : TrapRec) : Nat := if r.code = codeData then 7 else 2

/-- Bytes performed at their homes in one step; lines written whole lose their marks. -/
def State.putHomes (s : State) (ps : List (Loc × Byte)) : State := ((s.wrHomes none ps).wholeSealed ps).takePorts (locPorts ps)

/-- Bytes of an owner's global memory. -/
def State.commitGlob (s : State) (id peer owner va : Nat) (bs : List Byte) : Commit :=
  match s.vaLocs owner va bs with
  | .error _ => .done 2 [] s
  | .ok ps =>
    if s.pubWait owner va bs.length id (some peer) then .wait (s.touchVa owner va bs.length)
    else if (s.mergeBad va ps).isSome then .done 7 [] s
    else .done 0 [] (s.putHomes ps)

/-- Whether the parity groups of bytes of scratch are the owner's; those that are not are touched (03 R60). -/
def State.needGroups (s : State) (c ctx off n : Nat) : Option State :=
  match (unitsOf 512 off n).find? (fun u => !s.ownsGroup c ctx (512 * u)) with
  | none => none
  | some u => some (s.touch c 0 .group (groupAt (512 * u)))

/-- Whether a fabric write finds room in the buffers of its banks and their ports, after every other agent of the cycle (13 R211). -/
def State.scrRoom (s : State) (c off n : Nat) : Bool := s.engRoom c off n && (writePorts c off n).all s.portFree

/-- Bytes of scratch, as a landing (R208, 11 R195). -/
def State.commitScr (s : State) (c ctx off : Nat) (bs : List Byte) : Commit :=
  if 0x400000 < off + bs.length then .done 2 [] s
  else match s.needGroups c ctx off bs.length with
  | some t => .wait t
  | none =>
    if !s.scrRoom c off bs.length then .wait s
    else if ((s.cl c).chkMerge (cells off bs)).isSome then .done 7 [] s
    else .done 0 [] ((s.engPut c off bs none).takePorts (writePorts c off bs.length))

/-- An atomic of a packet: operation in info, operands in the payload (R396). -/
def pktAtom (p : Packet) (m : Nat) : Option Nat :=
  atomNew (p.info.toNat % 8) 8 m (natOf (p.payload.take 8)) (natOf ((p.payload.drop 8).take 8))

/-- An atomic at global memory (11 R197). On a registered buffer it reads and writes the shadow backing: it is one step at one home, and 11 R198 sends every write there (DESIGN CHOICE, log entry 88). -/
def State.atomGlob (s : State) (id peer owner va : Nat) (f : Nat → Option Nat) : Commit :=
  match s.xlate none owner va .atomic, s.xlate none owner (va + 7) .atomic, s.vaLocs owner va (List.replicate 8 0) with
  | .ok _, .ok _, .ok ps =>
    if s.pubWait owner va 8 id (some peer) then .wait (s.touchVa owner va 8)
    else
      let old := ps.map (fun x => s.homeByte x.1)
      if (s.mergeBad va ps).isSome then .done 7 [] s
      else match f (natOf old) with
      | none => .done 0 old s
      | some v => .done 0 old (s.putHomes ((ps.map (·.1)).zip (bytesOf 8 v)))
  | _, _, _ => .done 2 [] s

/-- An atomic at scratch. -/
def State.atomScr (s : State) (c ctx off : Nat) (f : Nat → Option Nat) : Commit :=
  if 0x400000 < off + 8 then .done 2 [] s
  else match s.needGroups c ctx off 8 with
  | some t => .wait t
  | none =>
    let old := readB (s.cl c).scratch off 8
    if !s.scrRoom c off 8 then .wait s
    else if (unitsOf 64 off 8).any (fun l => (tget none (s.cl c).marks l).isSome) then .done 7 [] s
    else match f (natOf old) with
    | none => .done 0 old s
    | some v => .done 0 old ((s.modCl c (fun x => x.put (cells off (bytesOf 8 v)))).takePorts (writePorts c off 8))

/-- A request record appended at the tail of a ring (R404); quad 0 is the target's. -/
def State.appendRing (s : State) (id : Nat) (e : ExportE) (p : Packet) : Commit :=
  match s.readVa e.owner e.base 16 with
  | .error r => .done (vaStatus r) [] s
  | .ok q =>
    let head := wordOf (q.take 8)
    let tail := wordOf (q.drop 8)
    let slots := (e.length - 64) / 64
    if slots ≤ (tail - head).toNat then .done 4 [] s
    else if s.pubWait e.owner (e.base + 64 + 64 * (tail.toNat % slots)) 64 id (some p.src.toNat) then .wait (s.touchVa e.owner (e.base + 64 + 64 * (tail.toNat % slots)) 64)
    else
      let rec0 := bytesOf 8 (p.src.toNat * 2 ^ 54 + p.ctx.toNat * 2 ^ 42) ++ (p.payload.take 64).drop 8
      match s.vaLocs e.owner (e.base + 64 + 64 * (tail.toNat % slots)) rec0, s.vaLocs e.owner (e.base + 8) (bytesOf 8 (tail + 1).toNat) with
      | .ok a, .ok b => if (s.mergeBad e.base (a ++ b)).isSome then .done 7 [] s else .done 0 [] (s.putHomes (a ++ b))
      | _, _ => .done 2 [] s

/-- A packet performed at its home (R399, R403), its write having a number in flight. -/
def State.commit (s : State) (id : Nat) (p : Packet) : Commit :=
  let e := s.exportE p.export_
  match e.refuses p with
  | some st => .done st [] s
  | none =>
    if !s.ownerRuns e then .wait s
    else if !p.sealsGood then .done 7 [] s
    else
      let a := e.base + p.offset.toNat
      if p.kind = 2 then s.appendRing id e p
      else if p.kind = 1 then
        (if e.kind = 1 then s.atomScr (s.exportCl e) e.owner a (pktAtom p) else s.atomGlob id p.src.toNat e.owner a (pktAtom p))
      else if e.kind = 1 then s.commitScr (s.exportCl e) e.owner a p.payload
      else s.commitGlob id p.src.toNat e.owner a p.payload

/-! ## Acknowledgements of arriving packets -/

def Agg.covers (a : Agg) (src ctx : Nat) (member : Nat) (seq : BitVec 32) : Bool :=
  a.origin == src && a.ctx == ctx && a.members.contains (member, seq)

/-- A replicating router has an answer for each member it serves: it returns one aggregate (R414). -/
def State.closeAgg (s : State) (a : Agg) : State :=
  if a.members.all (fun m => a.got.any (fun g => g.1 == m.1)) then
    (s.modFab (fun f => { f with aggs := f.aggs.filter (fun x => x.id != a.id) })).sendCtl s.firstPart
      { s.mkPkt 4 a.origin a.ctx 0 0 0 [] with waves := a.members, answers := a.got }
  else s

/-- An answer of a member reaches the routers that gather it. -/
def State.gatherAck (s : State) (src ctx member : Nat) (seq : BitVec 32) (st : Nat) : State :=
  let s1 := s.modFab (fun f => { f with aggs := f.aggs.map (fun a =>
    if a.covers src ctx member seq && !a.got.any (fun g => g.1 == member) then { a with got := a.got ++ [(member, st)] } else a) })
  s1.fabric.aggs.foldl (fun t a => t.closeAgg a) s1

/-- The acknowledgement of a packet (R400), or of this package's own part of a copy that it replicates. -/
def State.giveAck (s : State) (p : Packet) (st : Nat) (value : List Byte) : State :=
  if s.fabric.aggs.any (fun a => a.covers p.src.toNat p.ctx.toNat s.fabric.self p.seq) then
    s.gatherAck p.src.toNat p.ctx.toNat s.fabric.self p.seq st
  else
    let e := s.exportE p.export_
    let part := match look s.ctxs e.owner with | none => s.firstPart | some x => x.part
    s.sendCtl part { s.mkPkt 4 p.src.toNat p.ctx.toNat p.export_ 0 (wordN st) value with seq := p.seq }

/-! ## Reorder windows (R399, R426) -/

/-- The context that owns the export entry of a packet. -/
def State.ownerOf (s : State) (p : Packet) : Nat := (s.exportE p.export_).owner

/-- Every reorder window: those of halted contexts are in their parked-traffic areas (R428). -/
def State.windows (s : State) : List Window :=
  s.fabric.windows ++ (s.ctxs.map (fun p => (p.2.area.map (fun r => r.windows)).getD [])).flatten

/-- The windows of other owners for the same stream. -/
def State.sisters (s : State) (w : Window) : List Window :=
  s.windows.filter (fun x => x.src == w.src && x.ctx == w.ctx && x.owner != w.owner)

/-- Whether a number of a stream belongs to a packet for another owner, which is committed or held there. -/
def State.elsewhere (s : State) (w : Window) (n : BitVec 32) : Bool :=
  (s.sisters w).any (fun x => decide ((x.next - 1 - n).toNat < 2 ^ 31) || x.heldPkts.any (fun p => p.seq == n))

/-- How far a window's next expected number moves at once: past all that the other owners' windows have passed, or to the first packet that it holds itself. -/
def State.passed (s : State) (w : Window) : Nat :=
  let ahead (l : List (BitVec 32)) : List Nat := (l.map (fun n => (n - w.next).toNat)).filter (fun d => decide (d < 2 ^ 31))
  let top := (ahead ((s.sisters w).map (fun x => x.next))).foldl max 0
  (ahead (w.heldPkts.map (fun p => p.seq))).foldl min top

/-- A window's next expected number: numbers that went to other owners are passed, for the stream numbers all packets to this package (log entry 27). -/
def State.nextOf (s : State) (w : Window) (n : BitVec 32) : Nat → BitVec 32
  | 0 => n
  | fuel + 1 => if !w.heldPkts.any (fun p => p.seq == n) && s.elsewhere w n then s.nextOf w (n + 1) fuel else n

/-- Where the windows of an owner are kept. -/
def State.windowsOf (s : State) (owner : Nat) : List Window :=
  match (look s.ctxs owner).bind (fun x => x.area) with
  | some r => r.windows
  | none => s.fabric.windows

/-- The window of an owner for a source package and context. -/
def State.fabWindow (s : State) (owner src ctx : Nat) : Window :=
  let new : Window := { owner := owner, src := src, ctx := ctx, next := 0, heldPkts := [], acks := [] }
  let w := match (s.windowsOf owner).find? (fun w => w.owner == owner && w.src == src && w.ctx == ctx) with
    | some w => w
    | none => { new with next := match s.sisters new with | [] => 0 | x :: _ => x.next }
  { w with next := s.nextOf w (w.next + BitVec.ofNat 32 (s.passed w)) 8192 }

def State.setWindow (s : State) (w : Window) : State :=
  let put (l : List Window) : List Window := l.filter (fun x => !(x.owner == w.owner && x.src == w.src && x.ctx == w.ctx)) ++ [w]
  match (look s.ctxs w.owner).bind (fun x => x.area) with
  | some _ => s.modCtx w.owner (fun x => { x with area := x.area.map (fun r => { r with windows := put r.windows }) })
  | none => s.modFab (fun f => { f with windows := put f.windows })

/-- The write that a packet for global memory waits to make: its number in flight, its address and its bytes; of a request, the tail of the ring (11 R199). -/
def State.waitOf (s : State) (w : Window) (p : Packet) : Option (Nat × Nat × Nat) :=
  let e := s.exportE p.export_
  if e.kind = 1 ∨ !s.ownerRuns e then none
  else some (match w.waits with
    | some x => x
    | none => if p.kind = 2 then (s.fresh, e.base + 8, 8) else (s.fresh, e.base + p.offset.toNat, pktReach p))

/-- Commits the packets of a window that are next, over a count of packets held. -/
def State.drainWin (s : State) (owner src ctx : Nat) : Nat → State
  | 0 => s
  | n + 1 =>
    let w := s.fabWindow owner src ctx
    match w.heldPkts.find? (fun p => p.seq == w.next) with
    | none => s
    | some p =>
      let x := s.waitOf w p
      match s.commit ((x.map (·.1)).getD s.fresh) p with
      | .wait t => if x = none then t else (t.setWindow { w with waits := x }).tick1
      | .done st value t =>
        let acks := w.acks ++ [(p.seq, st, value)]
        let w1 : Window := { w with next := w.next + 1, heldPkts := w.heldPkts.filter (fun x => x.seq != p.seq), acks := acks.drop (acks.length - 4096), waits := none }
        ((t.setWindow w1).giveAck p st value).drainWin owner src ctx n

/-- Bytes of a context's parked-traffic area in use: header and payload of each packet held for it or held in its egress, and 8 bytes for each window and stream that its halt has written there (R426, R428; log entry 89). -/
def State.parkedUsed (s : State) (owner : Nat) : Nat :=
  let bytes (l : List Packet) : Nat := (l.map (fun p => 32 + p.payload.length)).foldl (· + ·) 0
  let held := (s.windows.map (fun w => w.heldPkts)).flatten.filter (fun p => (s.exportE p.export_).owner == owner)
  bytes held + (match (look s.ctxs owner).bind (fun x => x.area) with
    | none => 0
    | some r => bytes (r.out.map (fun o => o.pkt)) + 8 * (r.windows.length + r.fab.length))

/-- The halt of a context writes its reorder windows, its sender-side numbers and its held egress packets to its parked-traffic area (R428). -/
def State.areaSave (s : State) (ctx : Nat) : State :=
  match look s.ctxs ctx with
  | none => s
  | some x =>
    if x.area.isSome then s else
    let held (o : OutPkt) : Bool := o.sends == 0 && o.pkt.ctx.toNat == ctx && (s.fabOp o.op).isSome
    let r : Parked := { windows := s.fabric.windows.filter (fun w => w.owner == ctx), fab := x.fab, out := s.fabric.out.filter held }
    (s.modCtx ctx (fun x => { x with area := some r, fab := [] })).modFab (fun f => { f with
      windows := f.windows.filter (fun w => w.owner != ctx), out := f.out.filter (fun o => !held o) })

/-- They are read back as it resumes, before any parked packet is committed (R428). -/
def State.areaLoad (s : State) (ctx : Nat) : State :=
  match (look s.ctxs ctx).bind (fun x => x.area) with
  | none => s
  | some r => (s.modCtx ctx (fun x => { x with area := none, fab := r.fab })).modFab (fun f => { f with
      windows := f.windows ++ r.windows, out := f.out ++ r.out })

/-- Whether a packet finds the parked area of an owner that does not run full. -/
def State.parkFull (s : State) (p : Packet) : Bool :=
  let e := s.exportE p.export_
  (e.refuses p).isNone && !s.ownerRuns e &&
  (match look s.ctxs e.owner with
   | none => true
   | some x => decide (x.parkedMax < s.parkedUsed e.owner + 32 + p.payload.length))

/-- A sequenced packet arrives: one already committed is acknowledged again, an early one is held, one for an owner that does not run is parked or refused (R399, R400, R426). -/
def State.arriveSeq (s : State) (p : Packet) : State :=
  let w := s.fabWindow (s.ownerOf p) p.src.toNat p.ctx.toNat
  let d := (p.seq - w.next).toNat
  if 2 ^ 31 ≤ d then
    match w.acks.find? (fun a => a.1 == p.seq) with
    | none => s.giveAck p 0 []
    | some a => s.giveAck p a.2.1 a.2.2
  else if 4096 < d then s
  else if s.parkFull p then s.giveAck p 5 []
  else
    let held := if w.heldPkts.any (fun x => x.seq == p.seq) then w.heldPkts else w.heldPkts ++ [p]
    (s.setWindow { w with heldPkts := held }).drainWin w.owner w.src w.ctx held.length

/-! ## Completion notices (R420) -/

/-- Whether a number of a stream has been committed for an owner. -/
def State.committed (s : State) (owner src ctx : Nat) (seq : BitVec 32) : Bool :=
  s.windows.any (fun w => w.owner == owner && w.src == src && w.ctx == ctx && decide ((w.next - 1 - seq).toNat < 2 ^ 31))

/-- A notice whose packets are committed adds 1 to the notice word; none waits longer than its owner. -/
def State.deliverNotice (s : State) (p : Packet) : State :=
  let gone (t : State) : State := t.modFab (fun f => { f with notices := f.notices.erase p })
  let e := s.exportE p.export_
  if !p.waves.all (fun w => s.committed e.owner p.src.toNat p.ctx.toNat w.2) then s
  else if !e.valid || e.notice == 0 then gone s
  else if !s.ctxRuns e.owner none then s
  else match s.atomGlob s.fresh p.src.toNat e.owner e.notice (fun m => some ((m + 1) % 2 ^ 64)) with
  | .wait t => t
  | .done _ _ t => gone t

/-! ## Acknowledgements received (R400, R405) -/

/-- An acknowledgement of one packet of a stream of this package. A status 1 counts as lost; a status 5 is final after 1 ms of refusals. -/
def State.ackOne (s : State) (ctx peer : Nat) (seq : BitVec 32) (st : Nat) (value : List Byte) : State :=
  match s.fabric.out.find? (fun o => decide (0 < o.sends) && o.pkt.ctx.toNat == ctx && o.pkt.dst.toNat == peer && o.pkt.seq == seq) with
  | none => s
  | some o =>
    if 8 ≤ st ∨ st = 1 then s
    else if st = 5 then
      let t0 := o.firstRefusal.getD s.now
      if t0 + 1000000 ≤ s.now then s.endPkt o 5 [] else s.modOut o.id (fun x => { x with firstRefusal := some t0, refused := true })
    else s.endPkt o st value

def State.ackIn (s : State) (p : Packet) : State :=
  if p.answers.isEmpty then s.ackOne p.ctx.toNat p.src.toNat p.seq (p.info.toNat % 256) p.payload
  else p.answers.foldl (fun t a =>
    match look p.waves a.1 with
    | none => t
    | some q => t.ackOne p.ctx.toNat a.1 q a.2 []) s

/-! ## What a fabric op of a member does at every cycle -/

/-- Packets of a cluster's fabric egress queue: those not yet sent (R399). -/
def State.egress (s : State) (c : Nat) : Nat :=
  (s.fabric.out.filter (fun o => o.sends == 0 && !o.waiting && (match s.fabOp o.op with | none => false | some f => f.cl == c))).length

/-- Packets of the virtual egress queue of a destination (R417). -/
def State.virtualQueue (s : State) (part dst : Nat) : Nat :=
  (s.fabric.out.filter (fun o => o.waiting && o.part == part && o.pkt.dst.toNat == dst)).length

/-- Whether a fabric op at this site, towards some peers, finds its queue full and waits (R399, R417). A queue that holds nothing is not full. -/
def State.fabFull (s : State) (peers : List Nat) : Bool :=
  let part := s.partOfCtx s.hereCtxId
  let full (n cap : Nat) : Bool := decide (0 < n) && decide (cap ≤ n)
  full (s.egress s.cur.cl) Config.egressCap || peers.any (fun p => full (s.virtualQueue part p) Config.virtualCap)

/-- The status record of an fmc (R415). -/
def fmcRecord (f : FabOp) : List Byte :=
  let negs := f.answers.filter (fun a => a.2 != 0)
  let low := ((span 0 993).filter (fun p => negs.any (fun a => a.1 == p))).take 8
  let entry (p : Nat) : List Byte := bytesOf 4 (p * 2 ^ 16 + (look negs p).getD 0)
  bytesOf 8 (2 ^ 63 + f.group * 2 ^ 44 + low.length * 2 ^ 40 + (f.answers.length - negs.length)) ++
    bytesOf 8 negs.length ++ (low.map entry).flatten ++ List.replicate (48 - 4 * low.length) 0

/-- An fmc that every member has answered lands its record, in one step with four granules full (R415). -/
def State.fmcLand (s : State) (f : FabOp) : State :=
  match s.fabOp f.id with
  | none => s
  | some f =>
    if f.kind ≠ 3 ∨ f.left ≠ 0 ∨ (s.cl f.cl).ctx ≠ some f.ctx then s
    else match s.needGroups f.cl f.ctx f.statusAt 64 with
    | some t => t
    | none =>
      if s.scrRoom f.cl f.statusAt 64 then
        ((((s.sendNotices f).engPut f.cl f.statusAt (fmcRecord f) none).takePorts (writePorts f.cl f.statusAt 64)).fabDone f)
      else s

/-- A packet for this package by its kind, as one that goes round arrives. -/
def State.fabIn (s : State) (p : Packet) : State :=
  if p.kind.toNat < 3 then s.arriveSeq p
  else if p.kind = 3 then
    s.arriveSeq { p with seq := (look p.waves s.fabric.self).getD p.seq, waves := [] }
  else if p.kind = 4 then s.ackIn p
  else if p.kind = 5 then s.modFab (fun f => { f with notices := f.notices ++ [p] })
  else s

/-- The fabric side of a cycle: packets that go round, windows, notices, egress, status records. -/
def State.pumpFabric (s : State) : State :=
  let s1 := s.fabric.loop.foldl (fun t p => t.fabIn p) (s.modFab (fun f => { f with loop := [] }))
  let s2 := s1.fabric.windows.foldl (fun t w => t.drainWin w.owner w.src w.ctx w.heldPkts.length) s1
  let s3 := s2.fabric.notices.foldl (fun t p => t.deliverNotice p) s2
  let s4 := s3.fabric.out.foldl (fun t o => t.inject o) s3
  let s5 := s4.fabric.ops.foldl (fun t f => match t.fabOp f.id with | none => t | some g => t.sendNotices g) s4
  s5.fabric.ops.foldl (fun t f => t.fmcLand f) s5

/-! ## Fabric instructions (R406 to R413) -/

/-- Peer and export index of a peer object, and the group of a group object (R402). -/
def Cap.peer (c : Cap) : Nat := (c.object.extractLsb' 26 10).toNat
def Cap.exportIdx (c : Cap) : BitVec 16 := c.object.extractLsb' 0 16
def Cap.group (c : Cap) : Nat := (c.object.extractLsb' 0 12).toNat

/-- The scratch bytes of fwr and fmc: source and length of gB (R407). -/
def State.fwrSrc (s : State) (b : Reg) : Nat × Nat := (bitsOf (s.g b) 21 0, bitsOf (s.g b) 63 48)

/-- The checks of the source: its range, its alignment, then its length, as 13 R233 orders them; 25 R407 names the length first (DESIGN CHOICE, log entry 24). -/
def chkSource (src n : Nat) : Option TrapRec :=
  firstTrap [chkScratch src n 16, trapIf (decide (n % 16 ≠ 0 ∨ n < 16 ∨ 4096 < n)) (pageFault 7 src)]

/-- The marked lines among source bytes: they do not leave the package (01 R28). -/
def State.badSource (s : State) (src n : Nat) : List (Nat × LineMark) :=
  (unitsOf 64 src n).filterMap (fun l => (tget none s.hereCl.marks l).map (fun m => (l, m)))

/-- The fault of the first marked source line, taken as those of engines are, at check point 2; every such line is poisoned (01 R26, R27). -/
def State.sourceFault (s : State) (bad : List (Nat × LineMark)) : State :=
  match bad with
  | [] => s
  | x :: _ => (bad.foldl (fun t y => t.poison (.scratch s.cur.cl (64 * y.1)) y.2.hop) s).postFault
      s.hereCtxId s.cur.cl s.cur.core s.cur.sec (scratchTrap x.2 2 x.1)

/-- Pieces of at most 256 bytes, by offset. -/
def pieces256 (off : Nat) (bs : List Byte) : Nat → List (Nat × List Byte)
  | 0 => []
  | n + 1 => if bs.isEmpty then [] else (off, bs.take 256) :: pieces256 (off + 256) (bs.drop 256) n

/-- The pieces of source bytes that are sent, by their offset at the target: a packet that would hold a marked line is not (01 R28). -/
def State.sentPieces (s : State) (src n off : Nat) : List (Nat × List Byte) :=
  (pieces256 off (s.scr src n) 16).filter (fun p => (s.badSource (src + (p.1 - off)) p.2.length).isEmpty)

/-- A fabric op of the sequencer at this site. -/
def State.newFabOp (s : State) (kind off : Nat) (slot : Option (Nat × Nat)) (ntf : Bool) (exp : BitVec 16) : FabOp where
  id := s.fresh
  kind := kind
  ctx := s.hereCtxId
  cl := s.cur.cl
  core := s.cur.core
  sec := s.cur.sec
  off := off
  left := 0
  slot := slot
  statusAt := 0
  ntf := ntf
  group := 0
  members := []
  answers := []
  waves := []
  exportIdx := exp

/-- The op with its packets in egress. -/
def State.addFab (s : State) (f : FabOp) (ps : List Packet) : State :=
  let one (t : State) (p : Packet) : State :=
    let o : OutPkt := { id := t.fresh, op := f.id, part := t.partOfCtx f.ctx, pkt := p, sends := 0, lastSend := 0, lines := 0,
                        firstRefusal := none, refused := false, waiting := false, route := .none }
    (t.modFab (fun x => { x with out := x.out ++ [o] })).tick1
  let s1 := s.modFab (fun x => { x with ops := x.ops ++ [{ f with left := ps.length }] })
  ps.foldl one s1.tick1

/-- An op of the pieces that are sent; one of which none is sent is no op in progress (log entry 40). -/
def State.addPieces (s : State) (f : FabOp) (pieces : List (Nat × List Byte)) (pkts : Nat × List Byte → List Packet) : State :=
  if pieces.isEmpty then s else s.addFab f (pieces.flatMap pkts)

/-- Scratch bytes to peer memory (R407). -/
def execFwr (ntf : Bool) (k : BitVec 4) (a b : Reg) (s : State) : Out :=
  let off := (s.g a).toNat
  let (src, n) := s.fwrSrc b
  let c := s.k k.toNat
  s.checked (firstTrap [chkSource src n, capCheck k.toNat c off n 7 (some 1), trapIf (decide (off % 16 ≠ 0)) (pageFault 5 off)]) (fun s =>
    let t := s.sourceFault (s.badSource src n)
    t.addPieces (t.newFabOp 0 off none ntf c.exportIdx) (s.sentPieces src n (c.base + off))
      (fun p => [s.mkPkt 0 c.peer s.hereCtxId c.exportIdx p.1 0 p.2]))

/-- A 64-bit atomic at a peer (R408). -/
def execFatom (op : BitVec 3) (q : BitVec 2) (k : BitVec 4) (a b : Reg) (s : State) : Out :=
  let off := (s.g a).toNat
  let c := s.k k.toNat
  s.checked (firstTrap [capCheck k.toNat c off 8 7 (some 1), trapIf (decide (off % 8 ≠ 0)) (pageFault 5 off), s.chkSlot q.toNat]) (fun s =>
    let payload := bytesOf 8 (s.g b).toNat ++ bytesOf 8 (if op = 5 then (s.gNext b).toNat else 0)
    let (slot, s1) := s.reserve q.toNat
    s1.addFab (s1.newFabOp 1 off (slot.map (fun i => (q.toNat, i))) false c.exportIdx)
      [s1.mkPkt 1 c.peer s1.hereCtxId c.exportIdx (c.base + off) (op.zeroExtend 64) payload])

/-- The slot of a request whose packet is not sent, for which the manual gives no status: it receives a free value (log entry 40). -/
def State.unsentSlot (s : State) (slot : Option (Nat × Nat)) : State :=
  match slot with
  | none => s
  | some (q, i) => { (s.arrive q i s.cycle (Config.unsentStatus s.free)) with free := s.free + 1 }

/-- A request record into a peer's ring (R409). -/
def execFreq (q : BitVec 2) (k : BitVec 4) (b : Reg) (s : State) : Out :=
  let src := bitsOf (s.g b) 21 0
  let c := s.k k.toNat
  s.checked (firstTrap [chkScratch src 64 64, capCheck k.toNat c 0 64 7 (some 1), s.chkSlot q.toNat]) (fun s =>
    let (i, s1) := s.reserve q.toNat
    let slot := i.map (fun i => (q.toNat, i))
    let bad := s1.badSource src 64
    if bad.isEmpty then
      s1.addFab (s1.newFabOp 2 0 slot false c.exportIdx) [s1.mkPkt 2 c.peer s1.hereCtxId c.exportIdx c.base 0 (s1.scr src 64)]
    else (s1.sourceFault bad).unsentSlot slot)

/-- The group entry of the partition at this site. -/
def State.groupEntry (s : State) (g : Nat) : Option GroupEntry :=
  (look s.parts (s.partOfCtx s.hereCtxId)).bind (fun p => look p.groups g)

/-- Whether a context may use a group (R410, R413). -/
def GroupEntry.allows (e : GroupEntry) (ctx : Nat) : Bool := bitOf e.q0 63 && decide (bitsOf e.q0 55 44 = ctx)

/-- The same bytes to every member of a group (R410, R414). -/
def execFmc (ntf : Bool) (k : BitVec 4) (a b : Reg) (s : State) : Out :=
  let off := (s.g a).toNat
  let (src, n) := s.fwrSrc b
  let st := bitsOf (s.gNext b) 21 0
  let c := s.k k.toNat
  let entry := s.groupEntry c.group
  s.checked (firstTrap [
      chkSource src n, capCheck k.toNat c off n 6 (some 2), trapIf (decide (off % 16 ≠ 0)) (pageFault 5 off),
      chkScratch st 64 64,
      trapIf (match entry with | none => true | some e => !e.allows s.hereCtxId) (capTrap k.toNat 6 off)]) (fun s =>
    match entry with
    | none => s
    | some e =>
      let exp : BitVec 16 := e.q0.truncate 16
      let copy (p : Nat × List Byte) (m : Nat) : Packet :=
        { s.mkPkt 3 m s.hereCtxId exp p.1 0 p.2 with group := BitVec.ofNat 12 c.group }
      let t := s.sourceFault (s.badSource src n)
      t.addPieces { t.newFabOp 3 off none ntf exp with statusAt := st, group := c.group, members := e.members }
        (s.sentPieces src n (c.base + off)) (fun p => e.members.map (copy p)))

/-- Packets of this sequencer sent and not yet acknowledged (R412). -/
def execFstatOut (d : Reg) (s : State) : Out :=
  let mine (f : FabOp) : Bool := f.ctx == s.hereCtxId && f.cl == s.cur.cl && f.core == s.cur.core && f.sec == s.cur.sec
  .next (s.wrG d (wordN (s.fabric.out.filter (fun o => decide (0 < o.sends) &&
    (match s.fabOp o.op with | none => false | some f => mine f))).length) 2)

/-- Fabric ops of this sequencer completed (R412). -/
def execFstatDone (d : Reg) (s : State) : Out := .next (s.wrG d s.me.fabDone 2)

/-- The last status other than 0 (R412). -/
def execFstatErr (d : Reg) (s : State) : Out := .next (s.wrG d s.me.fabErr 2)

/-- What is known of a peer (R412). -/
def State.peerBits (s : State) (p : Nat) : Word :=
  let self := s.fabric.self
  let part := s.partOfCtx s.hereCtxId
  let r := (s.route part p (s.fabStream s.hereCtxId p).next).1
  let flag : Bool := match s.routerEntry part p with | none => false | some e => decide (e.flag = .pending)
  let dark := match r with | .dark _ => true | _ => false
  wordN ((if adjacent self p then 1 else 0) + (if r = .none ∨ r = .pending then 0 else 2) + (if flag then 4 else 0) +
    (if dark then 8 else 0) + 256 * minHops self p)

/-- Reachability of a peer (R412). -/
def execFstatPeer (d a : Reg) (s : State) : Out :=
  let p := bitsOf (s.g a) 9 0
  s.checked (trapIf (decide (992 < p)) (s.illegal 22)) (fun s => s.wrG d (s.peerBits p) 2)

/-- Members of a group entry of 160 bytes (R413). -/
def groupMembers (bs : List Byte) : List Nat :=
  (span 0 993).filter (fun m => (bs.getD (32 + m / 8) 0).getLsbD (m % 8))

/-- A reserved field of a group entry that is not zero, or a member above 992 (R413). -/
def groupBad (bs : List Byte) : Bool :=
  let q0 := wordOf (bs.take 8)
  bitsOf q0 61 56 != 0 || bitsOf q0 43 16 != 0 || natOf ((bs.drop 8).take 24) != 0 || decide (2 ^ 993 ≤ natOf (bs.drop 32))

/-- Writes a group entry of the partition, from the next op on (R413). The rule gives its checks no order: the mode, then the group number, the scratch range and alignment, the seals, and the entry's fields (DESIGN CHOICE, log entry 24). -/
def execFgrp (a b : Reg) (s : State) : Out :=
  let src := (s.g b).toNat
  let bs := s.scr src 160
  s.checked (firstTrap [
      s.chkPriv, trapIf (decide (4095 < (s.g a).toNat)) (s.illegal 22), chkScratch src 160 64, s.chkSeals [(src, 160)],
      trapIf (groupBad bs) (s.illegal 22)]) (fun s =>
    let new : GroupEntry := { q0 := wordOf (bs.take 8), members := groupMembers bs }
    s.modPart (s.partOfCtx s.hereCtxId) (fun p => { p with groups := place p.groups (s.g a).toNat new }))

/-! ## Arrivals (R396, R399, R404, R414) -/

/-- A packet that is discarded where it arrives (R396). -/
def pktBad (p : Packet) : Bool := !p.good || p.reserved || decide (10 ≤ p.kind.toNat)

/-- It is counted in the port's error counter. -/
def State.badPacket (s : State) (p : Packet) : State :=
  s.modFab (fun x => { x with errors := tset 0 x.errors p.port (tget 0 x.errors p.port + 1) })

/-- A packet that reaches this package under its event: a failed header check, a reserved kind or a nonzero reserved field is counted at its port and discarded (R396); a packet of another kind is none of the event's. -/
def State.fabArrival (s : State) (p : Packet) (kind : Nat) (f : State → State) : Out :=
  if pktBad p then .next (s.badPacket p)
  else if p.kind.toNat ≠ kind then .next s
  else .next (f s)

/-- A write packet arrives (R399, R403). -/
def execFabricWriteArrival (p : Packet) (s : State) : Out :=
  s.fabArrival p 0 (fun s => if p.dst.toNat = s.fabric.self then s.arriveSeq p else s)

/-- An atomic packet arrives (R399). -/
def execFabricAtomicArrival (p : Packet) (s : State) : Out :=
  s.fabArrival p 1 (fun s => if p.dst.toNat = s.fabric.self then s.arriveSeq p else s)

/-- A request packet arrives (R404). -/
def execFabricRequestArrival (p : Packet) (s : State) : Out :=
  s.fabArrival p 2 (fun s => if p.dst.toNat = s.fabric.self then s.arriveSeq p else s)

/-- A replicating router's copy towards one more member, over at most two hops (R414). -/
def State.forwardCopy (s : State) (p : Packet) (m : Nat × BitVec 32) : State :=
  let fail := s.gatherAck p.src.toNat p.ctx.toNat m.1 m.2 1
  match s.copyRoute s.firstPart m.1 p.hops.toNat false with
  | none => fail
  | some r => s.emit r { p with dst := BitVec.ofNat 10 m.1, waves := [m] }

/-- A multicast copy arrives: it is written here if this package is a member, and copies go on to the other members it lists, whose answers are gathered (R414). -/
def execMulticastArrival (p : Packet) (s : State) : Out :=
  s.fabArrival p 3 (fun s =>
    if p.dst.toNat ≠ s.fabric.self then s else
    let others := p.waves.filter (fun w => w.1 != s.fabric.self)
    let mine := look p.waves s.fabric.self
    let agg : Agg := { id := s.fresh, origin := p.src.toNat, ctx := p.ctx.toNat, members := p.waves, got := [] }
    let s1 := if others.isEmpty then s else (s.modFab (fun f => { f with aggs := f.aggs ++ [agg] })).tick1
    let s2 := others.foldl (fun t m => t.forwardCopy p m) s1
    match mine with
    | none => s2
    | some q => s2.arriveSeq { p with seq := q, waves := [] })

/-- An acknowledgement arrives (R400, R405, R414). -/
def execFabricAck (p : Packet) (s : State) : Out :=
  s.fabArrival p 4 (fun s => if p.dst.toNat = s.fabric.self then s.ackIn p else s)

/-- Every op of a context towards a target ends unreachable, and so does its stream (R400). -/
def State.giveUp (s : State) (o : OutPkt) : State :=
  let t := s.fabStream o.pkt.ctx.toNat o.pkt.dst.toNat
  let s1 := s.setFabStream o.pkt.ctx.toNat { t with unreachable := true }
  let os := s1.fabric.out.filter (fun x => x.pkt.ctx == o.pkt.ctx && x.pkt.dst == o.pkt.dst && decide (x.pkt.kind.toNat < 4))
  os.foldl (fun u x => u.endPkt x 6 []) s1

/-- A packet with no acknowledgement for 20 µs is sent again with the same header and payload, by the route that it was injected on (R395); after the eighth send its op ends with status 6. A refusal with status 5 is not counted (R400, R426). -/
def execFabricRetransmit (out : Nat) (s : State) : Out :=
  match s.fabric.out.find? (fun o => o.id == out) with
  | none => .next s
  | some o =>
    if o.sends = 0 ∨ s.now < o.lastSend + 20000 then .next s
    else if o.refused = false ∧ 8 ≤ o.sends then .next (s.giveUp o)
    else
      let p : Packet := if o.pkt.kind = 3 then { o.pkt with dst := s.firstHop o.route o.pkt.dst, waves := [(o.pkt.dst.toNat, o.pkt.seq)] } else o.pkt
      .next ((s.modOut out (fun x => { x with
        lastSend := s.now, refused := false, sends := if o.refused then o.sends else o.sends + 1 })).emit o.route p)

/-- A completion notice arrives; it is delivered once every packet that it lists is committed (R420). -/
def execCompletionNotice (p : Packet) (s : State) : Out :=
  s.fabArrival p 5 (fun s =>
    if p.dst.toNat = s.fabric.self then (s.modFab (fun f => { f with notices := f.notices ++ [p] })).deliverNotice p else s)

/-- A resume marker arrives: later packets of the stream come by optics again. The reorder window orders both paths, so nothing else changes (R399, R418). -/
def execResumeMarker (p : Packet) (s : State) : Out := s.fabArrival p 9 id

/-- The packet's current goal: the intermediate until it has been there, then its destination (R397). -/
def pktGoal (p : Packet) : Nat := (p.via.getD p.dst).toNat

/-- Hops that a packet still needs from here. -/
def State.hopsLeft (s : State) (p : Packet) : Nat :=
  minHops s.fabric.self (pktGoal p) + (match p.via with | none => 0 | some m => minHops m.toNat p.dst.toNat)

/-- A router passes a packet on along a minimal route to its goal, within four hops; otherwise it discards it and returns status 1 (R397, R398). A member's answer to a copy that this router replicated is gathered here (R414). -/
def execPacketForward (p : Packet) (s : State) : Out :=
  if pktBad p then .next (s.badPacket p)
  else if p.dst.toNat = s.fabric.self then .next s
  else if p.kind = 4 ∧ s.fabric.aggs.any (fun a => a.covers p.dst.toNat p.ctx.toNat p.src.toNat p.seq) = true then
    .next (s.gatherAck p.dst.toNat p.ctx.toNat p.src.toNat p.seq (p.info.toNat % 256))
  else
    let q : Packet := if pktGoal p = s.fabric.self then { p with via := none } else p
    let fail := s.sendCtl s.firstPart { s.mkPkt 4 p.src.toNat p.ctx.toNat p.export_ 0 1 [] with seq := p.seq }
    if 4 < q.hops.toNat + s.hopsLeft q then .next fail
    else match (if q.kind = 3 then s.copyRoute s.firstPart (pktGoal q) q.hops.toNat false else s.towards s.firstPart (pktGoal q)) with
    | none => .next fail
    | some r => .next (s.emit r q)

/-- Packets held for a pending destination are sent once a route exists, in queue order (R417); they are unroutable if it is flagged so no longer. -/
def execVirtualEgressSend (part dst : Nat) (s : State) : Out :=
  if (s.route part dst 0).1 = .pending then .next s
  else
    let os := s.fabric.out.filter (fun o => o.waiting && o.part == part && o.pkt.dst.toNat == dst)
    .next (os.foldl (fun t o =>
      if 4 ≤ o.pkt.kind.toNat then (t.modFab (fun f => { f with out := f.out.filter (fun x => x.id != o.id) })).sendCtl part o.pkt
      else (t.modOut o.id (fun x => { x with waiting := false })).inject o) s)

/-- Management resets a stream that has become unreachable (R400). -/
def execFabricStreamReset (ctx peer : Nat) (s : State) : Out :=
  s.mailbox (.resetStream ctx peer) (refuseIf [(decide (992 < peer), 2), ((look s.ctxs ctx).isNone, 1)]) (fun s =>
    s.setFabStream ctx { s.fabStream ctx peer with unreachable := false })

/-- A peer port fails: routing no longer chooses it (R397). -/
def execPeerPortFailure (port : Nat) (s : State) : Out :=
  .next (s.modFab (fun f => { f with failedPorts := addNew port f.failedPorts }))

/-- A circuit change darkens peer ports (R418). -/
def execCircuitChange (ports : List Nat) (s : State) : Out :=
  .next (s.modFab (fun f => { f with circuitDark := distinct ports f.circuitDark }))

/-- Ports that are lit again send each destination they diverted a resume marker with the last number diverted (R418). -/
def State.resumePorts (s : State) (ports : List Nat) : State :=
  let back := s.fabric.diverted.filter (fun d => ports.contains d.port && s.portLit d.port)
  let s1 := s.modFab (fun f => { f with diverted := f.diverted.filter (fun d => !back.contains d) })
  back.foldl (fun t d => t.emit (.lit d.port) { t.mkPkt 9 d.dst d.ctx 0 0 0 [] with src := BitVec.ofNat 10 d.src, seq := d.seq }) s1

/-- A port darkened by a circuit change relights (R418). -/
def execPortRelight (port : Nat) (s : State) : Out :=
  .next ((s.modFab (fun f => { f with circuitDark := f.circuitDark.filter (· ≠ port) })).resumePorts [port])

/-- Management rewrites a router-table entry, for packets injected from then on (R395). -/
def execRouterTableWrite (part peer : Nat) (entry : RouterEntry) (s : State) : Out :=
  s.mailbox (.router part peer entry) (refuseIf [(decide (992 < peer), 2), ((look s.parts part).isNone, 1)]) (fun s =>
    s.modPart part (fun p => { p with router := place p.router peer entry }))

/-- Management writes an export-table entry (R403). -/
def execExportTableWrite (idx : Nat) (q0 q1 q2 q3 : Word) (s : State) : Out :=
  let q : Quads := { q0 := q0, q1 := q1, q2 := q2, q3 := q3 }
  s.mailbox (.exportEntry idx q0 q1 q2 q3) (refuseIf [(decide (65535 < idx), 2)]) (fun s => s.modFab (fun f => { f with exports := tset {} f.exports idx q }))

end Sys2Proof.Machine
end

