-- ==== Sys2Proof/Machine/Tasks.lean ====
section
/-! DEFINITION. Tasks and contexts on clusters (03 R31 to R35, R56 to R60): pre-emption, saving and loading of eager state, launch records (21 R357 to R359), the start and the completion of a task. -/

namespace Sys2Proof.Machine

open Sys2Proof

/-! ## Eager state (R59, R60) -/

/-- The eager registers of a core on which a context has not run: the stack of its context record, the rest zero (R34, 17 R284). -/
def Context.freshCore (x : Context) (logical k : Nat) : CoreE :=
  match x.spill.find? (fun r => r.1 == logical && r.2.1 == k) with
  | none => {}
  | some (_, _, lo, hi) => { ({} : CoreE) with rsSpill := lo, rsLimit := hi, rsTop := hi - lo, rsBase := hi - lo }

/-- The table of tensor identifiers as a cluster first loads it from TID.BASE (07 R105); a part that cannot be read is loaded as zeros. -/
def State.loadTids (s : State) (x : Context) : Nat → Tbl Quads → Tbl Quads
  | 0, t => t
  | n + 1, t =>
    let t := s.loadTids x n t
    match s.readVa x.id (x.tidBase.toNat + 32 * n) 32 with
    | .error _ => t
    | .ok bs => tset {} t n { q0 := wordOf (bs.take 8), q1 := wordOf ((bs.drop 8).take 8), q2 := wordOf ((bs.drop 16).take 8), q3 := wordOf ((bs.drop 24).take 8) }

/-- The saved state of a context for a cluster. -/
def State.shadowOf (s : State) (ctx c : Nat) : Option Shadow := s.shadow.find? (fun x => x.ctx == ctx && x.cl == c)

/-- Records of emulated bundles are discarded (07 R110). -/
def CoreE.dropEmu (e : CoreE) : CoreE := { e with prim := { e.prim with emu := none }, second := { e.second with emu := none } }

/-- The context of a cluster leaves it: its eager state goes to the shadow area, with the graphs of the walker if it was halted. One that no cluster runs any more has its fabric state written to its parked-traffic area (25 R428). -/
def State.switchOut (s : State) (c : Nat) (graphs : Bool) : State :=
  let x := s.cl c
  match x.ctx with
  | none => s
  | some ctx =>
    let mine (g : GraphSlot) : Bool := graphs && g.ctx == ctx
    let kept := match s.shadowOf ctx c with | none => [] | some h => h.graphs
    let new : Shadow :=
      { ctx := ctx, part := s.partOfCtx ctx, cl := c, e := x.e
        cores := (span 0 8).map (fun k => (k, (x.co k).e.dropEmu, (x.co k).task))
        tasks := x.tasks, graphs := (x.graphs.filter (fun g => mine g.2)).foldl (fun t g => tins t g.1 g.2) kept }
    let clear (y : Core) : Core := { y with e := {}, task := none, halted := true, latch := [], store := y.store }
    let s1 := s.setCl c { x with
      e := {}, ctx := none, tasks := [], touched := [], graphs := x.graphs.filter (fun g => !mine g.2)
      cores := x.cores.map (fun p => (p.1, clear p.2)) }
    let s2 : State := { s1 with shadow := s1.shadow.filter (fun y => !(y.ctx == ctx && y.cl == c)) ++ [new] }
    if s2.clusters.any (fun p => p.2.ctx == some ctx) then s2 else s2.areaSave ctx

/-- The boundaries of a sequencer's start or resumption, at package scope (11 R188). -/
def State.enterPhase (s : State) (c k : Nat) (sec : Bool) : State :=
  if (s.sq c k sec).running then s.boundary c k sec .package else s

/-- Nodes of the graphs that a walker holds in other slots. -/
def Cluster.nodesBut (x : Cluster) (f : Nat → Bool) : Nat :=
  ((x.graphs.filter (fun g => g.2.loaded && !f g.1)).map (fun g => g.2.nodes.length)).foldl (· + ·) 0

/-- Graphs of a walker that do not run, of contexts that its cluster does not run, leave it for the shadow area. -/
def State.saveGraphs (s : State) (c : Nat) (f : Nat → GraphSlot → Bool) : State :=
  let out := (s.cl c).graphs.filter (fun g => g.2.loaded && !g.2.running && f g.1 g.2)
  let s1 := s.modCl c (fun x => { x with graphs := x.graphs.filter (fun g => !out.any (fun o => o.1 == g.1)) })
  out.foldl (fun t g =>
    match t.shadowOf g.2.ctx c with
    | some _ => { t with shadow := t.shadow.map (fun h => if h.ctx = g.2.ctx ∧ h.cl = c then { h with graphs := tins h.graphs g.1 g.2 } else h) }
    | none => { t with shadow := t.shadow ++ [{ ctx := g.2.ctx, part := t.partOfCtx g.2.ctx, cl := c, e := {}, cores := [], tasks := [],
                                                graphs := [(g.1, g.2)], graphsOnly := true }] }) s1

/-- The graphs that a context left with its halt go back to the walker, in place of idle ones of other contexts (R36). -/
def State.loadGraphs (s : State) (ctx c : Nat) (gs : Tbl GraphSlot) : State :=
  let mine (n : Nat) : Bool := gs.any (fun g => g.1 == n)
  let s1 := s.saveGraphs c (fun n g => g.ctx != ctx && mine n)
  let sum := (s1.cl c).nodesBut mine + (gs.map (fun g => g.2.nodes.length)).foldl (· + ·) 0
  let s2 := if sum ≤ 1024 then s1 else s1.saveGraphs c (fun _ g => g.ctx != ctx)
  s2.modCl c (fun y => { y with graphs := gs.foldl (fun t g => tins t g.1 g.2) y.graphs })

/-- A context takes a cluster that runs no other: its saved state is loaded and its halted tasks resume, or it starts afresh (R60, 07 R105); its fabric state comes back from its parked-traffic area (25 R428). No rule says what makes a context that pre-emption halted resume: the model resumes it at its next launch on the cluster, or when management starts it (DESIGN CHOICE, log entry 25). -/
def State.switchIn (s : State) (ctx c : Nat) : State :=
  if (s.cl c).ctx = some ctx then s
  else
    let s := s.switchOut c false
    match look s.ctxs ctx with
    | none => s
    | some x =>
      let h? := s.shadowOf ctx c
      let s1 : State := { s with shadow := s.shadow.filter (fun y => !(y.ctx == ctx && y.cl == c)) }
      let s2 := match h? with | none => s1 | some h => s1.loadGraphs ctx c h.graphs
      let fresh (t : State) : State :=
        let e : ClusterE := { tid := s.loadTids x 256 [] }
        (t.modCl c (fun y => (span 0 8).foldl (fun y k => y.setCo k { y.co k with e := x.freshCore (c % 256) k })
          { y with ctx := some ctx, e := e })).areaLoad ctx
      match h? with
      | none => fresh s2
      | some h =>
        if h.graphsOnly then fresh s2 else
        let load (y : Cluster) : Cluster :=
          h.cores.foldl (fun y p =>
            let e : CoreE := { p.2.1 with prim := p.2.1.prim.unpause s.cycle, second := p.2.1.second.unpause s.cycle }
            y.setCo p.1 { y.co p.1 with e := e, task := p.2.2, halted := p.2.2.isNone || e.wasHalted }) y
        let s3 := s2.modCl c (fun y => load { y with ctx := some ctx, e := h.e, tasks := h.tasks })
        let s4 := (span 0 8).foldl (fun t k => (t.enterPhase c k false).enterPhase c k true) (s3.areaLoad ctx)
        s4.modCtx ctx (fun x => { x with noInject := false, state := if h.tasks.isEmpty then x.state else .running })

/-! ## Pre-emption (R56 to R58) -/

/-- A request for pre-emption of a context's tasks on a cluster, with the time of the request. -/
def State.preempt (s : State) (ctx c : Nat) : State :=
  if (s.cl c).ctx ≠ some ctx ∨ (s.cl c).tasks.isEmpty = true then s
  else s.modCtx ctx (fun x => if x.preempt.any (fun p => p.1 == c) then x else { x with preempt := x.preempt ++ [(c, s.tick)] })

/-- A request on every cluster that runs the context, of those that a test names. -/
def State.preemptOn (s : State) (ctx : Nat) (f : Nat → Bool) : State :=
  s.clusters.foldl (fun t p => if p.2.ctx = some ctx ∧ f p.1 = true then t.preempt ctx p.1 else t) s
def State.preemptAll (s : State) (ctx : Nat) : State := s.preemptOn ctx (fun _ => true)

/-- A sequencer stopped by the watchdog resumes at its checkpoint (R57). -/
def Seq.cut (q : Seq) (cycle : Nat) : Seq :=
  if q.running then { (q.resumeAt q.ckpt cycle) with running := false, preempted := true, emu := none } else q

/-- Both sequencers of a core that still run are stopped at their checkpoints (R57). -/
def CoreE.cut (e : CoreE) (cycle : Nat) : CoreE :=
  { e.rollBoth none with prim := e.prim.cut cycle, second := e.second.cut cycle }

/-- Two milliseconds in State.tick units of 1/357 ns (log entry 3). -/
def watchdogTicks : Nat := 2000000 * 357

/-- 2 ms after a pre-emption request, a sequencer still running is stopped at its checkpoint (R57). -/
def execPreemptWatchdog (ctx cl : Nat) (s : State) : Out :=
  let late := match look s.ctxs ctx with
    | none => false
    | some x => x.preempt.any (fun p => p.1 == cl && decide (p.2 + watchdogTicks ≤ s.tick))
  if late && (s.cl cl).ctx == some ctx then
    .next ((span 0 8).foldl (fun t k => (t.modCore cl k (Core.dropFeeds none)).modE cl k (fun e => e.cut s.cycle)) s)
  else .next s

/-- Whether what a core has in flight is over: fixed-latency results, landings, a routine and its drains. -/
def State.coreQuiet (s : State) (c k : Nat) : Bool :=
  let y := s.core c k
  y.pending.isEmpty && y.gathers.isEmpty && y.run.isNone && y.call.isNone && y.drains.isEmpty &&
    !(s.cl c).landings.any (fun l => l.core == k)

/-- Responses still to land for a context on a cluster, or for some of its cores: gets, puts, pool requests, values of return streams, packets sent. -/
def State.awaits (s : State) (ctx c : Nat) (f : Nat → Bool) : Bool :=
  s.xfers.any (fun t => t.ctx == ctx && t.cl == c && f t.core && t.kind != .copy && t.kind != .copyx) ||
  s.pool.reqs.any (fun r => r.ctx == ctx && r.cl == c && (r.ofSeq && f r.core)) ||
  (s.cl c).pwb.any (fun w => w.writers.any (fun p => f p.1)) ||
  s.fabric.ops.any (fun g => g.ctx == ctx && g.cl == c && f g.core &&
    (decide (g.left = 0) || s.fabric.out.any (fun o => o.op == g.id && decide (0 < o.sends))))

/-- Pool requests of the copy engines of a context that have not been answered, or whose lines have come and not landed. -/
def State.engineAwaits (s : State) (ctx c : Nat) : Bool :=
  s.pool.reqs.any (fun r => r.ctx == ctx && r.cl == c && !r.ofSeq && (match r.dest with | .copyOut _ _ => true | _ => false)) ||
  s.xfers.any (fun t => t.kind == .copy && t.pooled && t.ctx == ctx && t.cl == c && !t.stopped && t.lines.any (fun l => !l.isPool))

/-- Whether all that a context has issued on a cluster is over, so that another may take its place (R58). -/
def State.clusterQuiet (s : State) (ctx c : Nat) : Bool :=
  (span 0 8).all (s.coreQuiet c) && !s.awaits ctx c (fun _ => true) && !s.engineAwaits ctx c && !s.arrivals.any (fun a => a.cl == c)

/-- The pool writes of every core of a cluster leave its buffer. -/
def State.flushCores (s : State) (c : Nat) (f : Nat → Bool) : State :=
  ((span 0 8).filter f).foldl (fun t k => (t.flushPool c k false).flushPool c k true) s

/-- Once every sequencer has stopped and every drain, copy and response is over, the context's cores halt and its eager state is saved (R58, R59). The halt is a boundary at package scope (11 R188). -/
def execContextHalt (ctx cl : Nat) (s : State) : Out :=
  let asked := match look s.ctxs ctx with | none => false | some x => x.preempt.any (fun p => p.1 == cl)
  let x := s.cl cl
  let stopped := (span 0 8).all (fun k => !(x.co k).e.prim.running && !(x.co k).e.second.running)
  if !asked || x.ctx != some ctx || !stopped then .next s
  else
    let s0 := s.flushCores cl (fun _ => true)
    if !s0.clusterQuiet ctx cl then .next s0
    else
      let s1 := (span 0 8).foldl (fun t k => (t.boundary cl k false .package).boundary cl k true .package) s0
      let s2 := (span 0 8).foldl (fun t k => t.modE cl k (fun e => { e with flags := e.flags ||| e.raised.zeroExtend 64, raised := 0 })) s1
      let s3 := s2.switchOut cl true
      .next (s3.modCtx ctx (fun y =>
        let left := y.preempt.filter (fun p => p.1 != cl)
        { y with preempt := left, state := if s3.clusters.any (fun p => p.2.ctx == some ctx) then y.state else .halted }))

/-! ## Records that the command processor and walkers read (21 R342, R356) -/

/-- Bytes of a context's memory, read at their homes in an operation that began at an instant (11 R202), whose layer-store lines State.meetVa has filled: error 6 where an address does not translate, 11 for a line that fails its check. -/
def State.cpRead (s : State) (ctx va n : Nat) (inst : Nat := s.lateInst) : Except Nat (List Byte) :=
  let bad := (unitsOf 64 va n).any (fun l => match s.xlate none ctx (64 * l) .read with
    | .error _ => false
    | .ok lf => (s.markAt (s.pubLoc ctx (64 * l) inst false (s.locOf (s.partOfCtx ctx) lf (64 * l)))).isSome)
  match s.readVaAt inst ctx va n with
  | .error _ => .error 6
  | .ok bs => if bad then .error 11 else .ok bs

/-- Bytes as quads. -/
def quadsOf (bs : List Byte) : Nat → List Word
  | 0 => []
  | n + 1 => wordOf (bs.take 8) :: quadsOf (bs.drop 8) n

/-- 32-byte entries. -/
def entriesOf (bs : List Byte) : Nat → List Quads
  | 0 => []
  | n + 1 =>
    { q0 := wordOf (bs.take 8), q1 := wordOf ((bs.drop 8).take 8), q2 := wordOf ((bs.drop 16).take 8), q3 := wordOf ((bs.drop 24).take 8) } ::
      entriesOf (bs.drop 32) n

/-! ## Launch records (21 R357, R358) -/

/-- What the reading of a launch record does to its lines: those of layer store are filled (13 R221), one that fails its check is poisoned and faults the context (01 R26). -/
def State.fillRecord (s : State) (ctx record : Nat) (items : List Word → Nat) : State :=
  let s1 := s.meetVa ctx record 64
  match s1.cpRead ctx record 64 with
  | .error _ => s1
  | .ok hb => s1.meetVa ctx (record + 64) (32 * items (quadsOf hb 8))

/-- Fields of a launch header. -/
structure LaunchH where
  cluster : Nat
  mask : BitVec 8
  sec : Bool
  setst : Bool
  items : Nat
  primary : BitVec 52
  secondary : BitVec 52
  sched0 : BitVec 52
  sched1 : BitVec 52
  count0 : Nat
  count1 : Nat
  stage0 : BitVec 32
  stage1 : BitVec 32
  bad : Bool
  deriving DecidableEq, Repr

def launchOf (h : List Word) : LaunchH :=
  let q (i : Nat) : Word := h.getD i 0
  { cluster := bitsOf (q 0) 63 48
    mask := (q 0).extractLsb' 40 8
    sec := bitOf (q 0) 39
    setst := bitOf (q 0) 38
    items := bitsOf (q 0) 10 0
    primary := (q 1).truncate 52
    secondary := (q 2).truncate 52
    sched0 := (q 3).truncate 52
    sched1 := (q 4).truncate 52
    count0 := bitsOf (q 5) 63 48
    count1 := bitsOf (q 5) 47 32
    stage0 := (q 6).extractLsb' 0 32
    stage1 := (q 6).extractLsb' 32 32
    bad := bitsOf (q 0) 37 11 != 0 || bitsOf (q 1) 63 52 != 0 || bitsOf (q 2) 63 52 != 0 || bitsOf (q 3) 63 52 != 0 ||
      bitsOf (q 4) 63 52 != 0 || bitsOf (q 5) 31 0 != 0 || q 7 != 0 || decide (1024 < bitsOf (q 0) 10 0) ||
      bitsOf (q 1) 1 0 != 0 || bitsOf (q 2) 1 0 != 0 || (!bitOf (q 0) 39 && q 2 != 0) ||
      bitsOf (q 3) 4 0 != 0 || bitsOf (q 4) 4 0 != 0 || decide (4096 < bitsOf (q 5) 63 48) || decide (4096 < bitsOf (q 5) 47 32) }

/-- The highest index of each kind of item, none for a reserved kind (R358). -/
def itemTop : Nat → Option Nat
  | 1 => some 63
  | 2 => some 7
  | 3 => some 3
  | 4 => some 7
  | 5 => some 7
  | 6 => some 21
  | 7 => some 255
  | 8 => some 15
  | 9 => some 4095
  | 10 => some 63
  | _ => none

/-- Whether an item is ill-formed (R358). -/
def itemBad (x : Context) (q : Quads) : Bool :=
  let kind := bitsOf q.q0 63 56
  let i := bitsOf q.q0 15 0
  match itemTop kind with
  | none => true
  | some top =>
    decide (top < i) || bitsOf q.q0 55 16 != 0 ||
    (match kind with
     | 1 => i == 0 || i == 32
     | 3 => bitsOf q.q1 63 52 != 0 || bitsOf q.q1 1 0 != 0
     | 4 => bitsOf q.q1 63 32 != 0
     | 6 => bitsOf q.q1 63 18 != 0 || (if i < 2 then q.q2 != 0 || bitsOf q.q1 7 0 != 0 || decide (0x3C000 < bitsOf q.q1 17 0)
              else bitsOf q.q2 15 8 != 0)
     | 9 => bitsOf q.q1 57 48 != 0 || bitsOf q.q1 7 0 != 0 || bitsOf q.q2 63 48 != 0
     | 10 => bitsOf q.q2 63 40 != 0 || bitsOf q.q3 63 40 != 0
     | 8 => bitsOf q.q1 63 32 != 0 || (look x.caps q.q1.toNat).isNone
     | _ => false)

/-- An item as the launch reads it: one of kind 8 takes the capability of its slot as it stands now (23 R376), in quads 2 and 3. -/
def Context.readItem (x : Context) (q : Quads) : Quads :=
  if bitsOf q.q0 63 56 = 8 then
    match look x.caps q.q1.toNat with
    | none => q
    | some c => { q with q2 := c.extractLsb' 0 64, q3 := c.extractLsb' 64 64 }
  else q

/-- A launch record read and checked: its launch, or the code of R356. ovr gives a node's cluster and mask (R361). -/
def State.readLaunch (s : State) (ctx record : Nat) (ovr : Option (Nat × BitVec 8)) (pre : Bool) (origin : Origin) : Except Nat LaunchWait :=
  match look s.ctxs ctx with
  | none => .error 6
  | some x =>
    if record % 64 ≠ 0 then .error 7 else
    match s.cpRead ctx record 64 with
    | .error e => .error e
    | .ok hb =>
      let header := quadsOf hb 8
      let h := launchOf header
      if h.bad then .error 7 else
      let cluster := match ovr with | none => h.cluster | some p => p.1
      let mask := match ovr with | none => h.mask | some p => p.2
      match s.cpRead ctx (record + 64) (32 * h.items) with
      | .error e => .error e
      | .ok ib =>
        let items := entriesOf ib h.items
        if s.clustersOf x.part ≤ cluster then .error 8
        else if mask = 0 ∨ items.any (itemBad x) = true then .error 7
        else .ok { asked := s.fresh, ctx := ctx, record := record, header := header, items := items.map x.readItem, cluster := cluster, mask := mask, pre := pre, origin := origin }

/-! ## Starting a task (R33, R34, 21 R359) -/

def LaunchWait.key (l : LaunchWait) (s : State) : Nat := clKey (s.partOfCtx l.ctx) l.cluster

/-- Cores of a mask. -/
def maskCores (m : BitVec 8) : List Nat := (span 0 8).filter (fun k => m.getLsbD k)

/-- A cluster that runs tasks of another context (R33); a core that a halt or trap has stopped runs none (27 R443). -/
def State.otherRuns (s : State) (c ctx : Nat) : Bool :=
  match (s.cl c).ctx with
  | none => false
  | some x => x != ctx && (s.cl c).cores.any (fun p => p.2.task.isSome && !p.2.e.wasHalted)

/-- Whether the walker can take back the graphs that a context left with its halt: their slots run none of another, and all that cannot leave the walker has at most 1,024 nodes with them (R36). -/
def State.graphsFit (s : State) (ctx c : Nat) : Bool :=
  match s.shadowOf ctx c with
  | none => true
  | some h =>
    let stay := ((s.cl c).graphs.filter (fun g => g.2.loaded && (g.2.running || g.2.ctx == ctx))).map (fun g => g.2.nodes.length)
    h.graphs.all (fun g => !(tget {} (s.cl c).graphs g.1).running) &&
      decide (((stay ++ h.graphs.map (fun g => g.2.nodes.length)).foldl (· + ·) 0) ≤ 1024)

/-- Whether the context that holds a cluster may leave it to another: nothing that it has issued is in flight (R58). -/
def State.vacant (s : State) (c ctx : Nat) : Bool :=
  match (s.cl c).ctx with
  | none => true
  | some x => x == ctx || s.clusterQuiet x c

/-- Launches that wait: those of streams (21 R348), a timed one from its T on (R349, 25 R425), and those of nodes of the walkers' graphs (03 R36). -/
def State.waiting (s : State) : List LaunchWait :=
  (s.clusters.map (fun p => (p.2.graphs.map (fun g => g.2.waits.map (·.2))).flatten)).flatten ++
  (s.parts.map (fun p => p.2.streams.filterMap (fun t => match t.2 with
    | none => none
    | some v => match v.wait with
      | .launch l => some l
      | .timed t => if t.t ≤ s.now then t.launch else none
      | _ => none))).flatten

/-- A cluster on a layer that a change of role map drains or gives another role: nothing starts there before step 5 (01 R17). -/
def State.draining (s : State) (c : Nat) : Bool :=
  match s.role, s.layerOf c with
  | some r, some l => r.drained.contains l || r.changed.contains l
  | _, _ => false

/-- Whether a launch asked for earlier, on other cores of the cluster, waits to arm an engine that this one arms: they are served in launch order (21 R359). -/
def State.engineAhead (s : State) (l : LaunchWait) : Bool :=
  let h := launchOf l.header
  s.waiting.any (fun w =>
    let v := launchOf w.header
    decide (w.asked < l.asked) && w.key s == l.key s && w.mask &&& l.mask == 0 &&
      ((decide (0 < h.count0) && decide (0 < v.count0)) || (decide (0 < h.count1) && decide (0 < v.count1))))

/-- Whether a core on which a task has stopped has nothing in flight, so that another may start (R58). -/
def State.coreFree (s : State) (ctx c k : Nat) : Bool := s.coreQuiet c k && !s.awaits ctx c (fun j => j == k)

/-- Whether a context may take a cluster: it exists (01 R19), no change of role map drains it (01 R17), no context runs there but this (R33), what it has issued is over (R58), its graphs find room (R36), and no thermal trip holds launches back (27 R456). -/
def State.mayTake (s : State) (ctx c : Nat) : Bool :=
  (s.layerOf c).isSome && !s.draining c && !s.otherRuns c ctx && s.vacant c ctx && s.graphsFit ctx c && s.hotDies.isEmpty

/-- Whether a launch need not wait: its context may take the cluster, no task runs on its cores and nothing of one is in flight, its engines are free (R33, R58, 21 R357). -/
def State.canStart (s : State) (l : LaunchWait) : Bool :=
  let c := l.key s
  let x := s.cl c
  let h := launchOf l.header
  let live := x.ctx == some l.ctx
  let saved := if live then none else s.shadowOf l.ctx c
  let busyCore (k : Nat) : Bool := match saved with
    | none => live && (x.co k).task.isSome && !(x.co k).e.wasHalted
    | some v => v.cores.any (fun p => p.1 == k && p.2.2.isSome && !p.2.1.wasHalted)
  let busyEng (n : Nat) : Bool := match saved with
    | none => live && s.engineBusy c n
    | some v => (v.e.ce n).task.isSome && decide ((v.e.ce n).entry.toNat < (v.e.ce n).count)
  s.mayTake l.ctx c && !s.engineAhead l && !(maskCores l.mask).any busyCore &&
    (!live || (maskCores l.mask).all (s.coreFree l.ctx c)) &&
    !(decide (0 < h.count0) && busyEng 0) && !(decide (0 < h.count1) && busyEng 1)

/-- The core reset of R34: empty loop stacks and queues, no stream bound, registers zero; every counter starts at zero (09 R155). A fault that a sequencer has not taken stays (27 R434). -/
def CoreE.clear (e : CoreE) : CoreE :=
  let q (x : Seq) : Seq := { x with cntIssued := 0, cntStalled := 0, cntLost := 0, loops := [], bWritten := [], group := {}, restartNext := true, newGroup := true, emu := none, bounds := [], fences := [], preempted := false, savedPaused := false, wasRunning := false, resumed := false }
  { e with g := [], m := [], b := [], o := [], p := [], k := [], q := [], qBound := [], dq := [], mode := false, cntRun := 0, cntTiming := 0, cntYield := 0, prim := q e.prim, second := q e.second }

/-- A view register by its number. -/
def CoreE.setView (e : CoreE) (n : Nat) (v : View) : CoreE :=
  if n = 0 then { e with vBase := v.base }
  else if n = 1 then { e with svBase := v.base }
  else if n < 18 then { e with tv := tset {} e.tv (n - 2) v }
  else { e with av := tset {} e.av (n - 18) v }

/-- An item on a core's registers, as Context.readItem left it. -/
def CoreE.item (e : CoreE) (q : Quads) : CoreE :=
  let i := bitsOf q.q0 15 0
  match bitsOf q.q0 63 56 with
  | 1 => e.wG i q.q1
  | 2 => { e with m := tset 0 e.m i q.q1 }
  | 3 => { e with b := tset 0 e.b i (q.q1.truncate 52) }
  | 4 => { e with o := tset 0 e.o i (q.q1.truncate 32) }
  | 5 => { e with p := tset 0 e.p i q.q1 }
  | 6 => e.setView i { base := q.q1.truncate 18, rows := q.q2.extractLsb' 48 16, cols := q.q2.extractLsb' 32 16,
                       pitch := q.q2.extractLsb' 16 16, tid := q.q2.truncate 8 }
  | 8 => { e with k := tset {} e.k i { bits := q.q3 ++ q.q2, tag := true } }
  | _ => e

/-- An item on the tables of the context and its cluster. -/
def State.itemShared (s : State) (ctx c : Nat) (q : Quads) : State :=
  let i := bitsOf q.q0 15 0
  let v : Quads := { q0 := q.q1, q1 := q.q2, q2 := q.q3, q3 := 0 }
  match bitsOf q.q0 63 56 with
  | 7 => s.modCl c (fun x => { x with e := { x.e with tid := tset {} x.e.tid i v } })
  | 9 => (s.modCtx ctx (fun x => { x with handles := tset {} x.handles i v })).dropUnnamed
  | 10 => (s.modCtx ctx (fun x => { x with pubs := tset {} x.pubs i v })).modMem (fun m =>
      { m with exch := m.exch.filter (fun e => !(e.ctx == ctx && e.idx == i)) })
  | _ => s

/-- A copy engine is armed with a schedule. -/
def CopyEng.arm (e : CopyEng) (sched : BitVec 52) (count task : Nat) : CopyEng :=
  if count = 0 then e
  else { e with sched := sched, count := count, task := some task, entry := 0, xfer := none, progress := 0, stopped := false }

/-- A sequencer starts at the first bundle of its stream, which is a restart point. -/
def CoreE.begin (e : CoreE) (sec run : Bool) (pc : BitVec 52) (order cycle : Nat) : CoreE :=
  let q := e.sq sec
  let ck : Ckpt := { pc := pc, loops := [], rsTop := e.rsTop, mark := e.mark, cn := q.cn, o := e.o, order := order }
  e.setSq sec { q with running := run, pc := pc, ckpt := ck, nextIssue := cycle + 1 }

/-- The launch: cores reset, items and stages applied, engines armed, sequencers started (21 R359). -/
def State.startTask (s : State) (l : LaunchWait) : State :=
  let c := l.key s
  let h := launchOf l.header
  let s := s.switchIn l.ctx c
  if (look s.ctxs l.ctx).isNone then s
  else
    let id := s.fresh
    let cores := maskCores l.mask
    let one (y : Core) : Core :=
      { y with e := l.items.foldl CoreE.item y.e.clear, latch := [], halted := false, task := some id, secWait := 0, yieldNow := false }
    let s1 := s.tick1.modCl c (fun y => cores.foldl (fun y k => y.setCo k (one (y.co k))) y)
    let s2 := l.items.foldl (fun t q => t.itemShared l.ctx c q) s1
    let s3 := s2.modCl c (fun y =>
      let e := y.e
      let e := if h.setst then { e with stage0 := h.stage0, stage1 := h.stage1 } else e
      { y with
        e := { e with ce0 := e.ce0.arm h.sched0 h.count0 id, ce1 := e.ce1.arm h.sched1 h.count1 id }
        tasks := y.tasks ++ [{ id := id, ctx := l.ctx, mask := l.mask, origin := l.origin, record := l.record }] })
    let s4 := s3.modCl c (fun y => cores.foldl (fun y k =>
      let w := y.co k
      y.setCo k { w with e := (w.e.begin false true h.primary w.order s.cycle).begin true h.sec h.secondary w.order s.cycle }) y)
    let s5 := cores.foldl (fun t k => (t.enterPhase c k false).enterPhase c k true) s4
    s5.modCtx l.ctx (fun x => { x with state := .running })

/-- A launch that need not wait is made. -/
def State.tryStart (s : State) (l : LaunchWait) : Option State :=
  if s.canStart l then some (s.startTask l) else none

/-- With pre, a context that runs on a cluster is asked to give it up to another (21 R348). -/
def State.askCluster (s : State) (pre : Bool) (c ctx : Nat) : State :=
  match (s.cl c).ctx with
  | none => s
  | some o => if pre && s.otherRuns c ctx then s.preempt o c else s

/-- What a launch that waits does to a cluster: pre-emption with pre, and pool writes that cores left halted leave their buffer. -/
def State.clearWay (s : State) (pre : Bool) (c ctx : Nat) : State :=
  let t := s.askCluster pre c ctx
  if t.otherRuns c ctx then t else t.flushCores c (fun k => (t.cl c).ctx != some ctx || (t.core c k).halted)
def State.askFor (s : State) (l : LaunchWait) : State := s.clearWay l.pre (l.key s) l.ctx

/-- Whether the cluster of a launch that waits has gone with a change of role map: it is refused with code 8 (01 R19). -/
def State.noCluster (s : State) (c : Nat) : Bool := (s.layerOf c).isNone

/-! ## Tasks that management resumes (01 R18, 27 R443, R456) -/

/-- Whether a context has tasks halted on a cluster. -/
def State.halted (s : State) (x : Nat × Nat) : Bool := (s.shadowOf x.1 x.2).any (fun h => !h.tasks.isEmpty)

/-- A context is to resume on a cluster: it does as soon as it may take it, and is forgotten once it has no halted task there, and none about to halt. -/
def State.tryResume (s : State) (x : Nat × Nat) : State :=
  let drop (t : State) : State := { t with resumes := t.resumes.filter (· ≠ x) }
  if (s.cl x.2).ctx = some x.1 then (if s.preemptPending x.2 then s else drop s)
  else if s.halted x = false then drop s
  else if s.mayTake x.1 x.2 then drop (s.switchIn x.1 x.2)
  else s.clearWay false x.2 x.1

/-- Contexts are to resume, in ascending cluster number (01 R18). -/
def State.resumeSoon (s : State) (xs : List (Nat × Nat)) : State :=
  { s with resumes := xs.foldl (fun a x => if a.contains x then a else a.takeWhile (fun y => decide (y.2 ≤ x.2)) ++ x :: a.dropWhile (fun y => decide (y.2 ≤ x.2))) s.resumes }

/-! ## Completion (R35) -/

def State.modStream (s : State) (part stream : Nat) (f : Stream → Stream) : State :=
  s.modPart part (fun p => match tget none p.streams stream with
    | none => p
    | some t => { p with streams := tset none p.streams stream (some (f t)) })

/-- A completion recorded by the launching stream. -/
def State.countDone (s : State) (part stream : Nat) : State := s.modStream part stream (fun t => { t with completed := t.completed + 1 })

/-- A sequencer that has stopped, and does not wait to resume. -/
def Seq.over (q : Seq) : Bool := !q.running && !q.preempted && !q.wasRunning

/-- Whether a task has stopped, and all that it issued is over (R35). -/
def State.taskOver (s : State) (c : Nat) (t : Task) : Bool :=
  let x := s.cl c
  let mine (k : Nat) : Bool := t.mask.getLsbD k
  (maskCores t.mask).all (fun k => (x.co k).task == some t.id && (x.co k).e.prim.over && (x.co k).e.second.over && s.coreQuiet c k) &&
    !s.awaits t.ctx c mine &&
    !s.xfers.any (fun y => y.kind == .copyx && y.ctx == t.ctx && y.cl == c && mine y.core) &&
    !s.fabric.ops.any (fun g => g.ctx == t.ctx && g.cl == c && mine g.core) &&
    !(x.e.ce0.task == some t.id && s.engineBusy c 0) && !(x.e.ce1.task == some t.id && s.engineBusy c 1)

/-- The end of a task: a boundary at package scope of each of its sequencers, and its cores are free (R35, 11 R188). -/
def State.endTask (s : State) (c : Nat) (t : Task) : State :=
  let cores := maskCores t.mask
  let s1 := cores.foldl (fun u k => (u.boundary c k false .package).boundary c k true .package) s
  let s2 := s1.modCl c (fun x => cores.foldl (fun x k => x.setCo k { x.co k with task := none, halted := true })
    { x with tasks := x.tasks.filter (fun y => y.id != t.id) })
  let s3 := if (s2.cl c).tasks.isEmpty then s2.modCtx t.ctx (fun x => { x with preempt := x.preempt.filter (fun p => p.1 != c) }) else s2
  let still := s3.clusters.any (fun p => p.2.ctx == some t.ctx && !p.2.tasks.isEmpty)
  if still then s3 else s3.modCtx t.ctx (fun x => { x with state := .resident })

end Sys2Proof.Machine
end

