-- ==== Sys2Proof/Machine/Graphs.lean ====
section
/-! DEFINITION. Resident task graphs (03 R36 to R39, 21 R360 to R362): their records, the evaluation of nodes, condition words, and the completion of tasks and graphs. -/

namespace Sys2Proof.Machine

open Sys2Proof

/-! ## Nodes (21 R361) -/

/-- Fields of a node. -/
structure NodeE where
  kind : Nat
  npred : Nat
  record : Nat
  first : Nat
  last : Nat
  limit : Nat
  preds : List (Nat × Nat)
  cluster : Nat
  mask : BitVec 8
  ovr : Bool
  m : Word
  v : Word
  reserved : Bool
  deriving DecidableEq, Repr

def nodeOf (q : Quads) : NodeE :=
  let kind := bitsOf q.q0 63 62
  let npred := bitsOf q.q0 61 59
  let field (i : Nat) : Nat := bitsOf q.q1 (16 * i + 15) (16 * i)
  { kind := kind
    npred := npred
    record := bitsOf q.q0 45 0 * 64
    first := bitsOf q.q0 57 48
    last := bitsOf q.q0 47 38
    limit := bitsOf q.q0 31 0
    preds := (span 0 (min npred 4)).map (fun i => (field i / 2 ^ 14, field i % 2 ^ 10))
    cluster := bitsOf q.q2 63 48
    mask := q.q2.extractLsb' 40 8
    ovr := bitOf q.q2 39
    m := q.q2
    v := q.q3
    reserved := kind == 3 || decide (4 < npred) ||
      (span 0 4).any (fun i => if i < npred then field i / 2 ^ 10 % 16 != 0 else field i != 0) ||
      (match kind with
       | 0 => bitsOf q.q0 58 46 != 0 || bitsOf q.q2 38 0 != 0 || q.q3 != 0
       | 1 => bitsOf q.q0 58 0 != 0
       | _ => bitOf q.q0 58 || bitsOf q.q0 37 32 != 0) }

/-- The node of a number. -/
def nodeAt (ns : List Quads) (i : Nat) : NodeE := nodeOf (ns.getD i {})

/-- While nodes whose body holds a node, with their numbers. -/
def ownersOf (ns : List Quads) (i : Nat) : List Nat :=
  (span 0 ns.length).filter (fun w => (nodeAt ns w).kind == 2 && decide ((nodeAt ns w).first ≤ i) && decide (i ≤ (nodeAt ns w).last))

/-- Whether an edge fits its source and the body rules (R38, R361). -/
def edgeBad (ns : List Quads) (i : Nat) (p : Nat × Nat) : Bool :=
  let src := nodeAt ns p.2
  decide (i ≤ p.2) ||
  (match p.1 with
   | 0 => src.kind != 0 && src.kind != 2
   | 3 => src.kind != 2 || src.first != i
   | _ => src.kind != 1) ||
  -- a body node takes predecessors only from within its body or from its while node
  (ownersOf ns i).any (fun w => p.2 != w && !(decide ((nodeAt ns w).first ≤ p.2) && decide (p.2 ≤ (nodeAt ns w).last))) ||
  ((ownersOf ns i).contains p.2 && p.1 != 3)

/-- Whether a node is ill-formed (R361). -/
def nodeBad (ns : List Quads) (i : Nat) : Bool :=
  let n := nodeAt ns i
  n.reserved || n.preds.any (edgeBad ns i) ||
  (n.kind == 2 && (decide (n.first ≤ i) || decide (n.last < n.first) || decide (ns.length ≤ n.last) ||
    !(nodeAt ns n.first).preds.contains (3, i)))

/-- Fields of a graph record's header (R360). -/
structure GraphH where
  cluster : Nat
  slot : Nat
  nodes : Nat
  cond : Word
  status : BitVec 52
  bad : Bool
  deriving DecidableEq, Repr

def graphOf (h : List Word) : GraphH :=
  let q (i : Nat) : Word := h.getD i 0
  { cluster := bitsOf (q 0) 63 48
    slot := bitsOf (q 0) 47 45
    nodes := bitsOf (q 0) 10 0
    cond := q 1
    status := (q 2).truncate 52
    bad := bitsOf (q 0) 44 11 != 0 || bitsOf (q 2) 63 52 != 0 || bitsOf (q 2) 2 0 != 0 || (h.drop 3).any (fun x => x != 0) ||
      bitsOf (q 0) 10 0 == 0 || decide (1024 < bitsOf (q 0) 10 0) }

/-! ## The state of a graph (R37, R38) -/

def State.slot (s : State) (c g : Nat) : GraphSlot := tget {} (s.cl c).graphs g
def State.setSlot (s : State) (c g : Nat) (x : GraphSlot) : State := s.modCl c (fun y => { y with graphs := tset {} y.graphs g x })

/-- A change of a context's graph: in its slot of the walker, or among the graphs saved with the context (R59). A slot that holds another context's graph is not changed (log entry 28). -/
def State.modGraph (s : State) (ctx c g : Nat) (f : GraphSlot → GraphSlot) : State :=
  let x := s.slot c g
  if x.loaded && x.ctx == ctx then s.setSlot c g (f x)
  else { s with shadow := s.shadow.map (fun h =>
    if h.ctx = ctx ∧ h.cl = c then { h with graphs := h.graphs.map (fun p => if p.1 = g then (p.1, f p.2) else p) } else h) }

def GraphSlot.at_ (g : GraphSlot) (i : Nat) : NState := tget .notStarted g.st i
def GraphSlot.put (g : GraphSlot) (i : Nat) (x : NState) : GraphSlot := { g with st := tset .notStarted g.st i x }

/-- An edge: none while it is unresolved, else whether it is live. The body edge of a while node is live while the node runs and dead once it has completed. -/
def GraphSlot.edge (g : GraphSlot) (p : Nat × Nat) : Option Bool :=
  match g.at_ p.2, p.1 with
  | .skipped, _ => some false
  | .running, 3 => some true
  | .completed, 3 => some false
  | .completed, 1 => some (tget false g.truth p.2)
  | .completed, 2 => some (!tget false g.truth p.2)
  | .completed, _ => some true
  | _, _ => none

/-- The edges into a node; a body node without one follows its innermost while node (log entry 23). -/
def GraphSlot.edges (g : GraphSlot) (i : Nat) : List (Option Bool) :=
  let n := nodeAt g.nodes i
  if n.preds.isEmpty then
    (match (ownersOf g.nodes i).getLast? with
     | none => []
     | some w => [g.edge (3, w)])
  else n.preds.map g.edge

/-- Every incoming edge is resolved, and none or some are live. -/
def GraphSlot.ready (g : GraphSlot) (i : Nat) : Bool :=
  g.running && g.at_ i == .notStarted && decide (i < g.nodes.length) && (g.edges i).all Option.isSome
def GraphSlot.live (g : GraphSlot) (i : Nat) : Bool := (g.edges i).isEmpty || (g.edges i).any (fun e => e == some true)

/-- A ready node whose edges are all dead is skipped; edges run upwards, so one pass in rising order settles every node. -/
def GraphSlot.settle (g : GraphSlot) : GraphSlot :=
  (span 0 g.nodes.length).foldl (fun g i => if g.ready i && !g.live i then g.put i .skipped else g) g

/-- Ready nodes with a live edge, in rising order; none once a launch has failed (R361). -/
def GraphSlot.startable (g : GraphSlot) : List Nat :=
  if g.faulted then [] else (span 0 g.nodes.length).filter (fun i => g.ready i && g.live i)

/-- The body of a while node has completed or been skipped. -/
def GraphSlot.bodyOver (g : GraphSlot) (i : Nat) : Bool :=
  let n := nodeAt g.nodes i
  (span n.first (n.last + 1 - n.first)).all (fun j => g.at_ j == .completed || g.at_ j == .skipped)

/-- An iteration resets the body (R38). -/
def GraphSlot.resetBody (g : GraphSlot) (i : Nat) : GraphSlot :=
  let n := nodeAt g.nodes i
  (span n.first (n.last + 1 - n.first)).foldl (fun g j =>
    { g.put j .notStarted with iter := tset 0 g.iter j 0, truth := tset false g.truth j false }) g

/-- Nothing is running, ready or waiting (R38); after a failed launch, no task is running (R361). -/
def GraphSlot.isOver (g : GraphSlot) : Bool :=
  g.running && (span 0 g.nodes.length).all (fun i =>
    if g.faulted then g.at_ i != .running || (nodeAt g.nodes i).kind != 0
    else g.at_ i == .completed || g.at_ i == .skipped)

/-- A graph starts: the condition word takes its initial value and every node is reset (R36, R362). -/
def GraphSlot.start (g : GraphSlot) (origin : Nat × Nat) (pre : Bool) : GraphSlot :=
  ({ g with running := true, cond := g.cond0, st := [], truth := [], iter := [], statusBits := 0, faulted := false, origin := origin, pre := pre, counted := false, waits := [], doneAt := 0, statusNo := none } : GraphSlot).settle

/-! ## Evaluation -/

/-- The launch of a task node, which names pre-emption where the graph's own launch did (21 R348): the code of R356 when its record is refused. One that waits was read at its first try (R357), and is refused once its cluster has gone (01 R19). -/
def State.nodeLaunch (s : State) (c g i : Nat) : Except Nat LaunchWait :=
  let x := s.slot c g
  let n := nodeAt x.nodes i
  match look x.waits i with
  | some l => if s.noCluster (l.key s) then .error 8 else .ok l
  | none => s.readLaunch x.ctx n.record (if n.ovr then some (n.cluster, n.mask) else none) x.pre (.node c g i)

/-- Whether a ready node would start now. -/
def State.wouldStart (s : State) (c g i : Nat) : Bool :=
  if (nodeAt (s.slot c g).nodes i).kind ≠ 0 then true
  else match s.nodeLaunch c g i with
  | .error _ => true
  | .ok l => s.canStart l

/-- A ready node starts in ascending order: no lower one would start now (R38). A task node does not start in the cycle in which a node's task has ended: its start follows that end in boundary order (11 R193). -/
def State.nodeTurn (s : State) (c g i : Nat) (kind : Nat) : Bool :=
  let x := s.slot c g
  x.startable.contains i && (nodeAt x.nodes i).kind == kind && !(kind == 0 && x.doneAt == s.cycle + 1) && !(x.startable.any (fun j => decide (j < i) && s.wouldStart c g j))

/-- A ready task node is launched under R33 (R37); a refused record stops the graph (R361). -/
def execGraphNodeLaunch (cl slot node : Nat) (s : State) : Out :=
  if !s.nodeTurn cl slot node 0 then .next s
  else
    let ctx := (s.slot cl slot).ctx
    let s := s.fillRecord ctx (nodeAt (s.slot cl slot).nodes node).record (fun h => (launchOf h).items)
    match s.nodeLaunch cl slot node with
    | .error _ =>
      let g := s.slot cl slot
      .next (s.setSlot cl slot { g.put node .completed with faulted := true, statusBits := g.statusBits ||| 2, waits := g.waits.filter (fun w => w.1 != node) })
    | .ok l =>
      match s.tryStart l with
      | none => .next ((s.askFor l).modGraph ctx cl slot (fun g => { g with waits := place g.waits node l })).tick1
      | some t => .next (t.modGraph ctx cl slot (fun g => { g.put node .running with waits := g.waits.filter (fun w => w.1 != node) }))

/-- A ready conditional node reads the condition word and makes its true or its false edges live (R37). -/
def execConditionalNodeEval (cl slot node : Nat) (s : State) : Out :=
  if !s.nodeTurn cl slot node 1 then .next s
  else
    let g := s.slot cl slot
    let n := nodeAt g.nodes node
    let t := g.cond &&& n.m == n.v
    .next (s.setSlot cl slot ({ g.put node .completed with truth := tset false g.truth node t } : GraphSlot).settle)

/-- A while node tests the condition word and runs its body again, or completes; at its limit it sets bit 0 of the status (R37, R38). -/
def execWhileNodeEval (cl slot node : Nat) (s : State) : Out :=
  let g := s.slot cl slot
  let n := nodeAt g.nodes node
  let again := g.running && n.kind == 2 && !g.faulted && g.at_ node == .running && g.bodyOver node
  if !(again || s.nodeTurn cl slot node 2) then .next s
  else
    let k := tget 0 g.iter node
    let holds := g.cond &&& n.m == n.v
    if holds && (decide (k < n.limit) || n.limit == 0) then
      let g1 := (g.put node .running).resetBody node
      .next (s.setSlot cl slot ({ g1 with iter := tset 0 g1.iter node (k + 1) } : GraphSlot).settle)
    else
      let bits := if holds then g.statusBits ||| 1 else g.statusBits
      .next (s.setSlot cl slot ({ g.put node .completed with statusBits := bits } : GraphSlot).settle)

/-- The status word of a graph (R362). -/
def GraphSlot.word (g : GraphSlot) : Word := wordN (2 ^ 63) ||| g.statusBits.zeroExtend 64

/-- The walker writes a status word to a graph's context; a write that its check refuses poisons the line and faults the context (01 R26). -/
def State.writeStatus (s : State) (g : GraphSlot) (w : Word) : State :=
  if g.status = 0 then s else
  match s.writeVa g.ctx g.status.toNat (bytesOf 8 w.toNat) with
  | .error r => s.writeFails g.ctx r
  | .ok t => t

/-- A graph with nothing left writes its status word and counts as completed (R362). The write keeps the number in flight of its first try (11 R199). -/
def execGraphComplete (cl slot : Nat) (s : State) : Out :=
  let g := s.slot cl slot
  let no := g.statusNo.getD s.fresh
  if !g.isOver then .next s
  else if g.status ≠ 0 ∧ s.pubWait g.ctx g.status.toNat 8 no = true then
    .next ((s.setSlot cl slot { g with statusNo := some no }).tick1.touchVa g.ctx g.status.toNat 8)
  else
    let s2 := (s.writeStatus g g.word).setSlot cl slot { g with running := false, statusNo := none }
    .next (if g.counted then s2 else s2.countDone g.origin.1 g.origin.2)

/-! ## Condition words (R39) -/

/-- An update of the condition word (09 R150). -/
def condApply (u : CondUpdate) (c : Word) : Word :=
  match u.op with
  | .set => c ||| u.value
  | .clr => c &&& ~~~u.value
  | .ins => (c &&& ~~~u.mask) ||| (u.value &&& u.mask)
  | .replace => u.value

/-- An update arrives at the walker and is applied to the graph of its context, loaded here or saved with the context; a graph that is in neither place takes none (R39, 21 R352, R365; log entry 28). -/
def execCondWordUpdate (u : CondUpdate) (s : State) : Out :=
  .next (s.modGraph u.ctx u.cl u.slot (fun g => { g with cond := condApply u g.cond }))

/-! ## Completion of tasks (R35) -/

/-- A completion is recorded by whoever launched the task: a stream, or a node of its context's graph. -/
def State.recordDone (s : State) (t : Task) : State :=
  match t.origin with
  | .stream part stream _ => s.countDone part stream
  | .node c g i => s.modGraph t.ctx c g (fun x => { (x.put i .completed).settle with doneAt := s.cycle + 1 })
  | .counted _ _ _ => s

/-- A task completes once its sequencers have stopped and all that it issued is complete and released (R35). Updates that its gwcond ops sent arrive before its completion is recorded (R39). -/
def execTaskComplete (cl task : Nat) (s : State) : Out :=
  match (s.cl cl).tasks.find? (fun t => t.id == task) with
  | none => .next s
  | some t =>
    let stopped := (maskCores t.mask).all (fun k => ((s.cl cl).co k).e.prim.over && ((s.cl cl).co k).e.second.over)
    if !stopped then .next s
    else
      let s0 := s.flushCores cl (fun k => t.mask.getLsbD k)
      if s0.taskOver cl t && s0.condQueue.isEmpty then .next ((s0.endTask cl t).recordDone t) else .next s0

end Sys2Proof.Machine
end

