-- ==== Sys2Proof/Machine/CmdProc.lean ====
section
/-! DEFINITION. The command processor (21 R342 to R365): streams, the fetch window, packets, launches, and the schedule prefetcher. -/

namespace Sys2Proof.Machine

open Sys2Proof

/-! ## Streams (R342 to R345) -/

def State.stream (s : State) (part i : Nat) : Option Stream := (look s.parts part).bind (fun p => tget none p.streams i)
/-- The stream whose packet is executed, and a change of it. -/
def State.cpS (s : State) : Option Stream := s.stream s.cur.part s.cur.stream
def State.modCp (s : State) (f : Stream → Stream) : State := s.modStream s.cur.part s.cur.stream f

/-- The innermost level. -/
def Stream.top (t : Stream) : Level := t.levels.headD { base := 0, len := 0, pos := 0, loop := none }

/-- Bytes of the current buffer from its position on that may be read: none at or beyond TAIL (R344). -/
def Stream.avail (t : Stream) : Nat :=
  match t.levels with
  | [l] => (t.tail.toNat + 2 ^ t.size - l.pos % 2 ^ t.size) % 2 ^ t.size
  | l :: _ => l.len - l.pos
  | [] => 0

/-- The levels once execution continues at an offset of the innermost: the ends of loop spans and of indirect buffers redirect (R345), and then the window is discarded (R344). A loop's last pass ends at the word after its span, even within a packet; a skipped pred span (jump) that reaches beyond it ends the pass as well, and goes on after itself (DEDUCED). The packet that called a buffer is 16 bytes long. -/
def advLevels : List Level → Nat → Bool → List Level × Bool
  | [], _, _ => ([], false)
  | l :: r, nxt, jump =>
    let (pos, loop, back) := match l.loop with
      | none => (nxt, none, false)
      | some sp =>
        if l.pos < sp.last ∧ sp.last ≤ nxt then
          (if 1 < sp.left then (sp.first, some { sp with left := sp.left - 1 }, true) else (if jump then nxt else sp.last, none, false))
        else (nxt, some sp, false)
    match r with
    | [] => ([{ l with pos := if l.len ≤ pos then 0 else pos, loop := loop }], back)
    | o :: _ =>
      if l.len ≤ pos then ((advLevels r (o.pos + 16) false).1, true) else ({ l with pos := pos, loop := loop } :: r, back)

/-- Execution continues at an offset of the innermost level; HEAD moves when a packet of the ring completes. -/
def Stream.goTo (t : Stream) (nxt : Nat) (jump : Bool := false) : Stream :=
  let (ls, back) := advLevels t.levels nxt jump
  { t with levels := ls, wait := .none, began := none, toWrite := none, plen := 0, window := if back then [] else t.window,
           head := match ls with | [l] => BitVec.ofNat 32 l.pos | _ => t.head }

/-- The packet in execution completes. -/
def Stream.finish (t : Stream) : Stream := t.goTo (t.top.pos + t.plen)
def State.cpDone (s : State) : State := s.modCp Stream.finish

/-- An MSI-X message to the host; a vector that the host has not enabled sends nothing (R355). -/
def State.sendMsi (s : State) (part vector : Nat) : State :=
  if s.msix.contains (part, vector) then { s with outbox := s.outbox ++ [.msix part vector] } else s

/-- A packet fails: the stream stops, ERROR takes its address and code, and MSI-X message 0 is sent (R356). -/
def State.failStream (s : State) (part i code : Nat) : State :=
  (s.modStream part i (fun t =>
    { t with error := wordN ((t.top.base + t.top.pos) % 2 ^ 52 * 4096 + code), wait := .none, began := none, toWrite := none })).sendMsi part 0
def State.cpFail (s : State) (code : Nat) : State := s.failStream s.cur.part s.cur.stream code

def State.cpWait (s : State) (w : CpWait) : State := s.modCp (fun t => { t with wait := w })
/-- A launch or timed packet counts (R348). -/
def State.cpCount (s : State) : State := s.modCp (fun t => { t with launched := t.launched + 1 })
/-- The origin of a launch by the packet in execution. -/
def State.cpOrigin (s : State) : Origin :=
  .stream s.cur.part s.cur.stream (match s.cpS with | none => 0 | some t => t.top.base + t.top.pos)
def State.cpCtx (s : State) : Nat := match s.cpS with | none => 0 | some t => t.ctx

/-- A packet starts: it takes a number in flight and is one phase (11 R202). One that is tried again has started already. -/
def State.cpBegin (s : State) : State :=
  match s.cpS with
  | none => s
  | some t => if t.began.isSome then s else (s.modCp (fun t => { t with began := some (s.fresh, s.lateInst) })).tick1
/-- The instant and the number in flight of the packet in execution. -/
def State.cpInst (s : State) : Nat := ((s.cpS.bind (fun t => t.began)).map (·.2)).getD s.lateInst
def State.cpNo (s : State) : Nat := ((s.cpS.bind (fun t => t.began)).map (·.1)).getD s.fresh

/-! ## The fetch window (R344) -/

/-- The window keeps what lies ahead of the position, at most 256 bytes. -/
def Stream.trim (t : Stream) : Stream :=
  let p := t.top.pos
  { t with window := t.window.filter (fun b => decide (p ≤ b.1) && decide (b.1 ≤ p + 256)) }

/-- One byte ahead is read, if the free choice says so (log entry 9). -/
def State.lookAhead (s : State) (part i off n : Nat) : State :=
  match s.stream part i with
  | none => s
  | some t =>
    if (tget none t.window off).isSome || !Config.windowHit (s.free + n) then s
    else
    let s := s.fillVa t.ctx (t.top.base + off) 1
    match s.cpRead t.ctx (t.top.base + off) 1 with
    | .ok [b] => s.modStream part i (fun t => { t with window := tset none t.window off (some b) })
    | _ => s

/-- Bytes ahead of the packet to be executed may be read. -/
def State.prefetchAhead (s : State) (part i : Nat) : State :=
  match s.stream part i with
  | none => s
  | some t =>
    let n := min 257 (min t.avail (t.top.len - t.top.pos))
    let s1 := (span 0 n).foldl (fun u j => u.lookAhead part i (t.top.pos + j) j) (s.modStream part i Stream.trim)
    { s1 with free := s1.free + 257 }

/-- Bytes of the current buffer, from the window or else read now. -/
def State.cpFetch (s : State) (t : Stream) (off n : Nat) : Except Nat (List Byte) :=
  let known := (span off n).map (fun i => tget none t.window i)
  if known.all Option.isSome then .ok (known.map (fun b => b.getD 0))
  else match s.cpRead t.ctx (t.top.base + off) n with
  | .error e => .error e
  | .ok bs => .ok ((known.zip bs).map (fun p => p.1.getD p.2))

/-- Words of bytes. -/
def wordsOf (bs : List Byte) : Nat → List (BitVec 32)
  | 0 => []
  | n + 1 => BitVec.ofNat 32 (natOf (bs.take 4)) :: wordsOf (bs.drop 4) n

/-- The next packet of a stream: its length and its instruction, or a code of R356; none where no whole packet is valid. -/
def State.nextPacket (s : State) (t : Stream) : Option (Nat × Except Nat Instr) :=
  let pos := t.top.pos
  if t.avail < 4 then none
  else match s.cpFetch t pos 4 with
  | .error e => some (4, .error e)
  | .ok hb =>
    let h : BitVec 32 := BitVec.ofNat 32 (natOf hb)
    let n := 4 + 4 * (h.extractLsb' 16 11).toNat
    if t.top.len < pos + n then some (n, .error 5)
    else if t.avail < n then none
    else match s.cpFetch t (pos + 4) (n - 4) with
    | .error e => some (n, .error e)
    | .ok ps => some (n, decodePacket h (wordsOf ps ((n - 4) / 4)))

/-! ## Simple packets (R347, R350 to R354) -/

/-- The payload of a nop is skipped (R347). -/
def execNopPacket (s : State) : Out := .next s.cpDone

/-- The window is discarded (R354). -/
def execFfence (s : State) : Out := .next (s.cpDone.modCp (fun t => { t with window := [] }))

/-- A buffer becomes the next level of the stream (R345, R350). -/
def execIndirect (addr : Word) (len : BitVec 32) (s : State) : Out :=
  match s.cpS with
  | none => .next s
  | some t =>
    if 3 ≤ t.levels.length then .next (s.cpFail 4)
    else if addr.toNat % 4 ≠ 0 ∨ len.toNat % 4 ≠ 0 ∨ len.toNat < 4 ∨ 0x100000 < len.toNat then .next (s.cpFail 3)
    else
      let l : Level := { base := addr.toNat, len := len.toNat, pos := 0, loop := none }
      .next (s.modCp (fun t => { t with levels := l :: t.levels, window := [], plen := 0, began := none }))

/-- The end of a span of n words after the packet in execution (R345). -/
def Stream.spanEnd (t : Stream) (n : BitVec 12) : Nat := t.top.pos + t.plen + 4 * n.toNat

/-- What the reading of the next packet does to its lines: those of layer store are filled (13 R221), one that fails its check is poisoned and faults the context (01 R26); those that the window holds already are not read. -/
def State.fillPacket (s : State) (t : Stream) : State :=
  let pos := t.top.pos
  let fill (u : State) (off n : Nat) : State :=
    if (span off n).all (fun i => (tget none t.window i).isSome) then u else u.meetVa t.ctx (t.top.base + off) n
  if t.avail < 4 then s
  else
    let s1 := fill s pos 4
    match s1.cpFetch t pos 4 with
    | .error _ => s1
    | .ok hb =>
      let n := 4 + 4 * ((BitVec.ofNat 32 (natOf hb)).extractLsb' 16 11).toNat
      if t.top.len < pos + n ∨ t.avail < n then s1 else fill s1 (pos + 4) (n - 4)

/-- The 64-bit word that a packet tests, read in the packet's phase (11 R202). -/
def State.cpWord (s : State) (addr : Word) : Except Nat Word :=
  if addr.toNat % 8 ≠ 0 then .error 3
  else match s.cpRead s.cpCtx addr.toNat 8 s.cpInst with
  | .error e => .error e
  | .ok bs => .ok (wordOf bs)

/-- Executes or skips its span on a masked test of a memory word (R351). -/
def execPred (sense : Bool) (n : BitVec 12) (addr mask value : Word) (s : State) : Out :=
  match s.cpS with
  | none => .next s
  | some t =>
    if t.top.len < t.spanEnd n then .next (s.cpFail 5)
    else
    let s := s.meetVa t.ctx addr.toNat 8
    match s.cpWord addr with
    | .error e => .next (s.cpFail e)
    | .ok w =>
      if (w &&& mask == value) != sense then .next s.cpDone
      else .next (s.modCp (fun t => t.goTo (t.spanEnd n) true))

/-- Executes its span a number of times; a count of 0 skips it (R351). -/
def execLoopPacket (n : BitVec 12) (rep : BitVec 32) (s : State) : Out :=
  match s.cpS with
  | none => .next s
  | some t =>
    if t.top.loop.isSome then .next (s.cpFail 4)
    else if t.top.len < t.spanEnd n then .next (s.cpFail 5)
    else if rep = 0 then .next (s.modCp (fun t => t.goTo (t.spanEnd n) true))
    else
      let sp : SpanLoop := { first := t.top.pos + t.plen, last := t.spanEnd n, left := rep.toNat }
      .next (s.modCp (fun t => match t.levels with
        | [] => t
        | l :: r => { t with levels := { l with pos := sp.first, loop := some sp } :: r, plen := 0, began := none,
                             head := if r.isEmpty then BitVec.ofNat 32 sp.first else t.head }))

/-- Bytes written by a packet, or the code of R356: 6 for a translation or permission that fails; 11, the one that names data integrity, for a line that fails its check, which is poisoned and faults the context (01 R26; DESIGN CHOICE, log entry 87). -/
def State.cpWrite (s : State) (ctx a : Nat) (bs : List Byte) : Option Nat × State :=
  match s.writeVa ctx a bs with
  | .error r => if r.code = codeData then (some 11, s.writeFails ctx r) else (some 6, s)
  | .ok t => (none, t)

/-- Words written in ascending address, each performed before the next (R352). -/
def State.cpWords (s : State) (ctx a : Nat) : List (BitVec 32) → Option Nat × State
  | [] => (none, s)
  | d :: r => match s.cpWrite ctx a (bytesOf 4 d.toNat) with
    | (none, t) => t.cpWords ctx (a + 4) r
    | x => x

/-- Whether a packet's write is held, with its number in flight. -/
def State.cpHeld (s : State) (a n : Nat) : Bool := s.pubWait s.cpCtx a n s.cpNo

/-- A packet's write is held: what it is to write is known to publications (11 R199), and units that it waits for are touched (03 R60). -/
def State.cpHold (s : State) (a n : Nat) : State := (s.modCp (fun t => { t with toWrite := some (a, n) })).touchVa s.cpCtx a n

/-- Writes data words to memory (R352). -/
def execWriteMemory (addr : Word) (data : List (BitVec 32)) (s : State) : Out :=
  if addr.toNat % 4 ≠ 0 then .next (s.cpFail 3)
  else if s.cpHeld addr.toNat (4 * data.length) then .next (s.cpHold addr.toNat (4 * data.length))
  else match s.cpWords s.cpCtx addr.toNat data with
  | (some e, t) => .next (t.cpFail e)
  | (none, t) => .next t.cpDone

/-- The walker of a logical cluster of the stream's partition; none above the partition's clusters (R19). -/
def State.walker (s : State) (cluster : BitVec 16) : Option Nat :=
  if s.clustersOf s.cur.part ≤ cluster.toNat then none else some (clKey s.cur.part cluster.toNat)

/-- Replaces the condition word of a graph (R352). -/
def execWriteCondWord (cluster : BitVec 16) (graph : BitVec 3) (value : Word) (s : State) : Out :=
  match s.walker cluster with
  | none => .next (s.cpFail 8)
  | some c =>
    let u : CondUpdate := { ctx := s.cpCtx, cl := c, slot := graph.toNat, src := .packet, op := .replace, value := value, mask := 0 }
    .next ({ s with condQueue := s.condQueue ++ [u] } : State).cpDone

/-! ## Waits (R353) -/

/-- The conditions of a wait. -/
def waitHolds (cond : BitVec 2) (w mask value : Word) : Bool :=
  let x := w &&& mask
  match cond.toNat with
  | 0 => x == value
  | 1 => x != value
  | 2 => decide (value.toNat ≤ x.toNat)
  | _ => decide (x.toNat < value.toNat)

/-- Holds the stream until a masked memory word meets a condition (R353). -/
def execWaitPacket (cond : BitVec 2) (addr mask value : Word) (s : State) : Out :=
  let s := s.meetVa s.cpCtx addr.toNat 8
  match s.cpWord addr with
  | .error e => .next (s.cpFail e)
  | .ok w => if waitHolds cond w mask value then .next s.cpDone else .next (s.cpWait (.poll cond addr mask value))

/-- The site of a stream, for what goes on at it outside a packet. -/
def State.atStream (s : State) (part stream : Nat) : State := { s with cur := { s.cur with part := part, stream := stream } }

/-- A waiting packet reads its word again (R353), in the one phase that the packet is (11 R202). -/
def execWaitPoll (part stream : Nat) (s : State) : Out :=
  match s.stream part stream with
  | none => .next s
  | some t =>
    match t.wait with
    | .poll cond addr mask value =>
      let u := (s.atStream part stream).meetVa t.ctx addr.toNat 8
      (match u.cpWord addr with
       | .error e => .next (u.cpFail e)
       | .ok w => if waitHolds cond w mask value then .next u.cpDone else .next u)
    | _ => .next s

/-- Holds the stream until COMPLETED equals the LAUNCHED of now (R353). -/
def execWaitIdle (s : State) : Out :=
  match s.cpS with
  | none => .next s
  | some t => if t.completed = t.launched then .next s.cpDone else .next (s.cpWait (.idle t.launched))

/-! ## Events and budgets (R355) -/

/-- Steps 3 and 4: the completion value and the message. -/
def State.eventSend (s : State) (vector : Nat) (addr value : Word) : State :=
  let send (t : State) : State := t.cpDone.sendMsi t.cur.part vector
  if addr = 0 then send s
  else if s.cpHeld addr.toNat 8 then (s.cpHold addr.toNat 8).cpWait (.eventSend vector addr value)
  else match s.cpWrite s.cpCtx addr.toNat (bytesOf 8 value.toNat) with
  | (some e, t) => t.cpFail e
  | (none, t) => send t

/-- A context's cores on the stream's partition are halted. -/
def State.ctxHalted (s : State) (ctx : Nat) : Bool :=
  !s.clusters.any (fun p => p.1 / 256 == s.cur.part && p.2.ctx == some ctx && !p.2.tasks.isEmpty)

/-- Step 2: pre-emption, and the wait for the halt. -/
def State.eventPre (s : State) (pre : Bool) (vector : Nat) (addr value : Word) (ctx : Nat) : State :=
  if !pre then s.eventSend vector addr value
  else
    let t := s.preemptOn ctx (fun c => c / 256 == s.cur.part)
    if t.ctxHalted ctx then t.eventSend vector addr value else t.cpWait (.eventHalt vector addr value ctx)

/-- Optionally waits and pre-empts, writes a completion value and sends a message (R355). -/
def execEvent (pre after : Bool) (vector : BitVec 11) (addr value : Word) (ctx : BitVec 12) (s : State) : Out :=
  match s.cpS with
  | none => .next s
  | some t =>
    if addr.toNat % 8 ≠ 0 then .next (s.cpFail 3)
    else if after && t.completed != t.launched then .next (s.cpWait (.eventIdle t.launched pre vector.toNat addr value ctx.toNat))
    else .next (s.eventPre pre vector.toNat addr value ctx.toNat)

/-- A stream held by wait idle or by an event goes on once what it waits for has come. -/
def State.cpContinue (s : State) : State :=
  match s.cpS with
  | none => s
  | some t =>
    match t.wait with
    | .idle n => if t.completed = n then s.cpDone else s
    | .eventIdle n pre v a x c => if t.completed = n then s.eventPre pre v a x c else s
    | .eventHalt v a x c => if s.ctxHalted c then s.eventSend v a x else s
    | .eventSend v a x => s.eventSend v a x
    | _ => s

/-- Sets a budget of the partition from the next window on (R355). -/
def execBudget (cls : BitVec 3) (value : BitVec 24) (s : State) : Out :=
  if 5 < cls.toNat then .next (s.cpFail 3)
  else .next (s.cpDone.modPart s.cur.part (fun p => { p with newBudgets := place p.newBudgets cls.toNat value }))

/-- The host writes TAIL (R342). -/
def execDoorbell (part stream : Nat) (tail : BitVec 32) (s : State) : Out :=
  .next (s.modStream part stream (fun t => { t with tail := tail }))

/-! ## Launches (R348, R359, R362) -/

/-- A launch of a task: started, or waiting under R33; one whose cluster has gone meanwhile is refused (01 R19). -/
def State.launch (s : State) (l : LaunchWait) : State :=
  if s.noCluster (l.key s) then s.cpFail 8
  else match s.tryStart l with
  | some t => t.cpCount.cpDone
  | none => (s.askFor l).cpWait (.launch l)

/-- Starts the task that a record describes (R348). -/
def execLaunchTask (pre : Bool) (addr : Word) (s : State) : Out :=
  let s := s.fillRecord s.cpCtx addr.toNat (fun h => (launchOf h).items)
  match s.readLaunch s.cpCtx addr.toNat none pre s.cpOrigin with
  | .error e => .next (s.cpFail e)
  | .ok l => .next (s.tick1.launch l)

/-- A graph record read and checked: its walker and slot, and what is to be loaded (R360, R361). -/
def State.readGraph (s : State) (ctx addr : Nat) : Except Nat (Nat × Nat × List Quads × List Word) :=
  if addr % 64 ≠ 0 then .error 7
  else match s.cpRead ctx addr 64 with
  | .error e => .error e
  | .ok hb =>
    let hw := quadsOf hb 8
    let h := graphOf hw
    if h.bad then .error 9
    else match s.cpRead ctx (addr + 64) (32 * h.nodes) with
    | .error e => .error e
    | .ok nb =>
      let ns := entriesOf nb h.nodes
      let part := s.partOfCtx ctx
      if s.clustersOf part ≤ h.cluster then .error 8
      else if (span 0 h.nodes).any (nodeBad ns) then .error 9
      else .ok (clKey part h.cluster, h.slot, ns, hw)

/-- The walker with the graphs that a context left with its halt, or in another's favour: none while they cannot come back. A context that was halted comes back to the cluster with them. -/
def State.withGraphs (s : State) (ctx c : Nat) : Option State :=
  match s.shadowOf ctx c with
  | none => some s
  | some h =>
    if h.graphs.isEmpty then some s
    else if !s.graphsFit ctx c then none
    else if h.graphsOnly then
      some (({ s with shadow := s.shadow.filter (fun y => !(y.ctx == ctx && y.cl == c)) } : State).loadGraphs ctx c h.graphs)
    else if s.mayTake ctx c then some (s.switchIn ctx c) else none

/-- A graph is loaded, where there is a record, and started; none while a change of role map drains the walker's cluster (01 R17), while the slot's graph runs or, with pre, while another context runs on the cluster. Error 9 for a slot that holds no graph of the context, and for a load that takes the walker beyond 1,024 nodes (R361, R362). -/
def State.startGraph (s : State) (ctx c slot : Nat) (load : Option (List Quads × List Word)) (pre : Bool) (origin : Nat × Nat) : Except Nat (Option State) :=
  match (if s.draining c then none else s.withGraphs ctx c) with
  | none => .ok none
  | some t =>
    let g := t.slot c slot
    if g.running || (pre && t.otherRuns c ctx) then .ok none
    else
      let go (g : GraphSlot) : Except Nat (Option State) := .ok (some (t.setSlot c slot (g.start origin pre)))
      match load with
      | none => if g.loaded && g.ctx == ctx then go g else .error 9
      | some (ns, h) =>
        if 1024 < (t.cl c).nodesBut (· == slot) + ns.length then .error 9
        else go { loaded := true, ctx := ctx, nodes := ns, cond0 := (graphOf h).cond, status := (graphOf h).status }

/-- A launch of a graph: started, refused, or waiting; one whose walker has gone meanwhile is refused (01 R19). -/
def State.launchG (s : State) (c slot : Nat) (load : Option (List Quads × List Word)) (pre : Bool) : State :=
  if s.noCluster c then s.cpFail 8
  else match s.startGraph s.cpCtx c slot load pre (s.cur.part, s.cur.stream) with
  | .error e => s.cpFail e
  | .ok (some t) => t.cpCount.cpDone
  | .ok none => (s.clearWay pre c s.cpCtx).cpWait (.graph c slot load pre)

/-- Loads a graph record into a walker slot and starts it (R362). -/
def execLaunchGraph (pre : Bool) (addr : Word) (s : State) : Out :=
  let s := s.fillRecord s.cpCtx addr.toNat (fun h => (graphOf h).nodes)
  match s.readGraph s.cpCtx addr.toNat with
  | .error e => .next (s.cpFail e)
  | .ok (c, slot, ns, h) => .next (s.launchG c slot (some (ns, h)) pre)

/-- Starts a graph already loaded (R362). -/
def execLaunchGraphResident (pre : Bool) (cluster : BitVec 16) (graph : BitVec 3) (s : State) : Out :=
  match s.walker cluster with
  | none => .next (s.cpFail 8)
  | some c => .next (s.launchG c graph.toNat none pre)

/-- A waiting launch proceeds, once R33 or the walker lets it (R348, R359). -/
def execLaunchStart (part stream : Nat) (s : State) : Out :=
  match s.stream part stream with
  | none => .next s
  | some t =>
    let u := s.atStream part stream
    match t.wait with
    | .launch l => .next (u.launch l)
    | .graph c slot load pre => .next (u.launchG c slot load pre)
    | _ => .next s

/-! ## Step schedules (R363 to R365) -/

/-- A step number of an entry, before a bound: both taken modulo 2^32 (R364). -/
def stepBelow (e : Nat) (b : Nat) : Bool := decide (2 ^ 31 ≤ (BitVec.ofNat 32 e - BitVec.ofNat 32 b).toNat)

/-- A range of a handle in a context, or none where R256 would refuse it. -/
def State.rangeIn (s : State) (ctx handle : Nat) : Option (Nat × State) :=
  match look s.ctxs ctx with
  | none => none
  | some x =>
    let h := handleOf (tget {} x.handles handle)
    if 4096 ≤ handle ∨ h.valid = false then none else some (s.rangeOf x.part h)

def State.modPf (s : State) (part stream : Nat) (f : Prefetcher → Prefetcher) : State :=
  s.modStream part stream (fun t => { t with pf := f t.pf })

/-- An entry was skipped: bit 15 of the prefetcher's status (R364). -/
def State.pfSkip (s : State) (part stream : Nat) : State := s.modPf part stream (fun p => { p with status := p.status ||| 0x8000 })

/-- The eviction schedule as a sched packet finds it, each entry read once; none for one that cannot be read (DEDUCED: it is skipped as R364 has of an entry that it refuses). -/
def State.readEvicts (s : State) (ctx addr n : Nat) : List (Option (Word × Word)) :=
  (span 0 n).map (fun i => match s.cpRead ctx (addr + 16 * i) 16 with
    | .error _ => none
    | .ok bs => some (wordOf (bs.take 8), wordOf (bs.drop 8)))

/-- An eviction entry at its step (13 R223, R363). -/
def State.evictEntry (s : State) (part stream ctx : Nat) (e : Word × Word) : State :=
  if bitsOf e.1 61 44 ≠ 0 ∨ e.2 ≠ 0 then s.pfSkip part stream
  else match s.rangeIn ctx (bitsOf e.1 43 32) with
  | none => s.pfSkip part stream
  | some (i, t) => if bitOf e.1 62 then t.evict i false else t

/-- The step of a valid eviction entry. -/
def evictStepOf (e : Word × Word) : Option Nat := if bitOf e.1 63 then some (bitsOf e.1 31 0) else none

/-- The entries of one step, in table order. -/
def State.evictStep (s : State) (part stream ctx : Nat) (p : Prefetcher) (step : Nat) : State :=
  (p.evicts.filterMap id).foldl (fun t e => if evictStepOf e = some (step % 2 ^ 32) then t.evictEntry part stream ctx e else t) s

/-- The steps in (old, new] that entries name, or new itself where the step does not rise, in ascending order (R363). -/
def Prefetcher.evictSteps (p : Prefetcher) (old new : Nat) : List Nat :=
  let steps := (p.evicts.filterMap id).filterMap evictStepOf
  let dist (e : Nat) : Nat := (BitVec.ofNat 32 e - BitVec.ofNat 32 (old + 1)).toNat
  let hit := distinct (steps.filter (fun e => if new ≤ old then e == new % 2 ^ 32 else decide (dist e < new - old))) []
  -- insertion by distance from the old step
  hit.foldl (fun acc e => acc.takeWhile (fun x => decide (dist x < dist e)) ++ e :: acc.dropWhile (fun x => decide (dist x < dist e))) []

/-- Loads the schedules, sets the look-ahead, applies evictions and advances the step (R363). -/
def execSched (load : Bool) (look_ : BitVec 4) (step saddr : Word) (scount : BitVec 32) (eaddr : Word) (ecount : BitVec 32) (s : State) : Out :=
  match s.cpS with
  | none => .next s
  | some t =>
    if load && (decide (4096 < scount.toNat) || decide (4096 < ecount.toNat) || saddr.toNat % 32 != 0 || eaddr.toNat % 16 != 0) then .next (s.cpFail 10)
    else
      let s := if load then s.meetVa t.ctx eaddr.toNat (16 * ecount.toNat) else s
      let p1 := if load then { t.pf with
          saddr := saddr.toNat, scount := scount.toNat, eaddr := eaddr.toNat, ecount := ecount.toNat, next := 0, held := none
          evicts := s.readEvicts t.ctx eaddr.toNat ecount.toNat } else t.pf
      let p2 := if look_ = 0 then p1 else { p1 with look := look_.toNat }
      let old := p2.step.toNat
      let s0 := s.modPf s.cur.part s.cur.stream (fun _ => p2)
      let s1 := if load && p2.evicts.contains none then s0.pfSkip s.cur.part s.cur.stream else s0
      let s2 := (p2.evictSteps old step.toNat).foldl (fun u e => u.evictStep s.cur.part s.cur.stream t.ctx p2 e) s1
      -- deadlines counted from steps that now start are known from here on
      let s3 := s2.modPf s.cur.part s.cur.stream (fun p =>
        let due (w : Watch) : Watch :=
          let e := bitsOf w.entry.q0 31 0
          let starts := if step.toNat ≤ old then e == step.toNat % 2 ^ 32
            else decide ((BitVec.ofNat 32 e - BitVec.ofNat 32 (old + 1)).toNat < step.toNat - old)
          if w.due = none ∧ starts = true then { w with due := some (s.now + w.entry.q2.toNat) } else w
        { p with step := step, stepAt := s.now, watches := p.watches.map due })
      .next s3.cpDone

/-- The instant at which an entry's deadline falls: absolute, or counted from the start of its step, unknown until that step starts (R364, R365). -/
def Prefetcher.dueOf (p : Prefetcher) (q : Quads) : Option Nat :=
  if bitOf q.q0 62 then some q.q2.toNat
  else if bitsOf q.q0 31 0 = p.step.toNat % 2 ^ 32 then some (p.stepAt + q.q2.toNat)
  else none

/-- The prefetcher's next entry, read when it is first needed; one that cannot be read is skipped (R364; DEDUCED). -/
def State.pfRead (s : State) (part stream : Nat) (t : Stream) : State :=
  let p := t.pf
  if p.held.isSome || decide (p.scount ≤ p.next) then s
  else
    let s1 := s.meetVa t.ctx (p.saddr + 32 * p.next) 32
    match s1.cpRead t.ctx (p.saddr + 32 * p.next) 32 with
    | .error _ => (s1.modPf part stream (fun p => { p with next := p.next + 1 })).pfSkip part stream
    | .ok bs => s1.modPf part stream (fun p => { p with held := (entriesOf bs 1).head? })

/-- The prefetcher takes its next entry once its step is below s + look: it is promoted and its deadline watched (R365). In fenced state it issues nothing (23 R385). -/
def State.pfIssue (s : State) (part stream : Nat) (t : Stream) (q : Quads) : State :=
  let p := t.pf
  let step := bitsOf q.q0 31 0
  let on (u : State) : State := u.modPf part stream (fun p => { p with next := p.next + 1, held := none })
  if !bitOf q.q0 63 then on s
  else if bitsOf q.q0 35 32 ≠ 0 ∨ bitsOf q.q1 63 12 ≠ 0 ∨ q.q3 ≠ 0 then (on s).pfSkip part stream
  else if stepBelow step p.step.toNat then on s
  else if !stepBelow step (p.step.toNat + p.look) || s.pool.fenced then s
  else match s.rangeIn t.ctx (bitsOf q.q1 11 0) with
  | none => (on s).pfSkip part stream
  | some (i, u) =>
    let w : Watch := { entry := q, range := i, due := p.dueOf q }
    ((on u).modPf part stream (fun p => { p with watches := p.watches ++ [w] })).promoteRange i

/-- A turn of a stream's prefetcher. -/
def State.pfStep (s : State) (part stream : Nat) : State :=
  match s.stream part stream with
  | none => s
  | some t =>
    let s1 := s.pfRead part stream t
    match s1.stream part stream with
    | none => s1
    | some u => match u.pf.held with
      | none => s1
      | some q => s1.pfIssue part stream u q

/-- At its deadline, a range that is not resident sets the condition bit that its entry names (R365). -/
def execDeadlineMiss (part stream watch : Nat) (s : State) : Out :=
  match (s.stream part stream).bind (fun t => t.pf.watches[watch]?) with
  | none => .next s
  | some w =>
    match w.due with
    | none => .next s
    | some due =>
      if s.now < due then .next s
      else
        let s1 := s.modPf part stream (fun p => { p with watches := p.watches.take watch ++ p.watches.drop (watch + 1) })
        let there := match s.range w.range with | none => false | some r => r.resident
        if there || !bitOf w.entry.q0 61 || decide (s.clustersOf part ≤ bitsOf w.entry.q0 51 36) then .next s1
        else
          let ctx := match s.stream part stream with | none => 0 | some t => t.ctx
          let u : CondUpdate := { ctx := ctx, cl := clKey part (bitsOf w.entry.q0 51 36), slot := bitsOf w.entry.q0 60 58, src := .deadline, op := .set,
                                  value := wordN (2 ^ bitsOf w.entry.q0 57 52), mask := 0 }
          .next { s1 with condQueue := s1.condQueue ++ [u] }

end Sys2Proof.Machine
end

