-- ==== Sys2Proof/Machine/Gang.lean ====
section
/-! DEFINITION. Gangs (25 R421 to R429): the gang clock, timed launches with their ready reports, straggler notices and barrier tokens, and the exchange of publications (11 R198 to R201, 13 R255). -/

namespace Sys2Proof.Machine

open Sys2Proof

/-! ## The gang clock (R421 to R423) -/

/-- Units of State.tick in a millisecond. -/
def msTicks : Nat := 357 * 1000000

/-- A change of GANG.STATE, reported to management (R422). -/
def State.clockTo (s : State) (n : BitVec 2) : State :=
  (({ s with clock := { s.clock with state := n } } : State)).report "GANG.STATE" n.toNat

/-- A valid Sync has come within the last 250 ms. -/
def State.syncKept (s : State) : Bool :=
  match s.clock.lastSync with | none => false | some t => decide (s.tick < t + 250 * msTicks)

/-- A valid Sync whose offset from the grandmaster is known: GANG.NOW less the grandmaster's time, in ns. The correction is slewed (R421); in holdover eight valid Syncs in a row below 50 ns lock the clock (R422). Before the first lock any offset will do (R423). -/
def State.syncHeard (s : State) (offset : Int) : State :=
  let c := s.clock
  let near := decide (offset.natAbs < 50)
  let run := if near then c.goodRun + 1 else 0
  let since := match c.goodSince with | none => s.tick | some t => if s.syncKept then t else s.tick
  let s1 : State := { s with clock := { c with
    lastSync := some s.tick, goodRun := run, goodSince := if near || !c.everLocked then some since else none, corr := -offset * 3570000 } }
  if c.state = 1 ∧ 8 ≤ run then s1.clockTo 0 else s1

/-- The last Sync of a port takes the place of the one before. -/
def GangClock.keepSync (c : GangClock) (r : SyncRec) : GangClock := { c with syncs := c.syncs.filter (fun x => x.port != r.port) ++ [r] }

/-- The time of sending of a Sync is known: a delay request answers it, and its offset is the difference of the two times less the mean path delay of the port (R421; log entry 92). -/
def State.syncTimed (s : State) (port seq : Nat) (t1 t2 : Int) : State :=
  let u : State := { s with
    clock := s.clock.keepSync { port := port, seq := seq, t2 := t2, t1 := some t1, t3 := some (s.now : Int) }
    outbox := s.outbox ++ [.delayReq port seq] }
  u.syncHeard (t2 - t1 - tget 0 s.clock.delays port)

/-- A message of the IEEE 1588 clock comes to one of the two electrical ports (R421): a one-step Sync, a two-step Sync and the follow-up that completes it, or the response to a delay request, from which the port's mean path delay is taken. -/
def execSyncMessage (valid : Bool) (msg : SyncMsg) (s : State) : Out :=
  let kept (port seq : Nat) : Option SyncRec := s.clock.syncs.find? (fun r => r.port == port && r.seq == seq)
  if !valid then .next s
  else match msg with
  | .oneStep port seq t1 => if 1 < port then .next s else .next (s.syncTimed port seq t1 s.now)
  | .twoStep port seq =>
    if 1 < port then .next s
    else .next { s with clock := s.clock.keepSync { port := port, seq := seq, t2 := s.now, t1 := none, t3 := none } }
  | .followUp port seq t1 =>
    (match kept port seq with
     | none => .next s
     | some r => if r.t1.isSome then .next s else .next (s.syncTimed port seq t1 r.t2))
  | .delayResp port seq t4 =>
    (match (kept port seq).bind (fun r => r.t1.bind (fun t1 => r.t3.map (fun t3 => (r.t2 - t1) + (t4 - t3)))) with
     | none => .next s
     | some d => .next { s with clock := { s.clock with delays := tset 0 s.clock.delays port (d / 2) } })

/-- Without a valid Sync for 250 ms a locked clock enters holdover (R422). -/
def execHoldoverEntry (s : State) : Out :=
  if s.clock.state = 0 ∧ s.syncKept = false then
    .next (({ s with clock := { s.clock with holdAt := s.tick, goodRun := 0 } } : State).clockTo 1)
  else .next s

/-- 2 s after the entry into holdover the clock is lost: leases end (11 R207), and each partition is owed a clock-lost trap (R422, 27 R433). -/
def execClockLostEntry (s : State) : Out :=
  if s.clock.state = 1 ∧ s.clock.holdAt + 2000 * msTicks ≤ s.tick then
    let s1 : State := { s with
      clock := { s.clock with goodSince := none, goodRun := 0 }
      parts := s.parts.map (fun p => (p.1, { p.2 with clockTrap := true }))
      ctxs := s.ctxs.map (fun p => (p.1, { p.2 with leases := p.2.leases.filterMap Lease.ended }))
      mem := { s.mem with granted := [] } }
    .next (s1.clockTo 2)
  else .next s

/-- A peer's lease over this package's memory is granted: writes to its range that cluster caches hold go home before it, and from then on writes of others are delayed. In clock-lost state every such lease has expired (11 R206, R207; log entry 38). -/
def State.leaseAsked (s : State) (g : Grant) : State :=
  if s.clock.state = 2 then s
  else
    (s.clusters.foldl (fun t p => t.writeHome p.1 (fun h => g.covers (s.physOf (locOfNum h.pa))) (some s.lateInst) (some s.lateInst)) s).modMem (fun m =>
      { m with granted := m.granted.filter (fun x => decide (s.now < x.expiry)) ++ [g] })

/-- A peer releases its lease at a base. -/
def State.leaseEnded (s : State) (peer base : Nat) : State :=
  s.modMem (fun m => { m with granted := m.granted.filter (fun g => !(g.peer == peer && g.base == base)) })

/-- After 1 s of unbroken locked conditions the clock locks; the first time, GANG.NOW is set forward to the grandmaster's time (R422, R423). -/
def execClockLock (s : State) : Out :=
  match s.clock.goodSince with
  | none => .next s
  | some t =>
    if s.clock.state = 2 ∧ t + 1000 * msTicks ≤ s.tick ∧ s.syncKept = true then
      let jump : Nat := if s.clock.everLocked then 0 else s.clock.corr.toNat
      let s1 : State := { s with
        gang := s.gang + jump
        clock := { s.clock with everLocked := true, corr := s.clock.corr - jump } }
      .next (s1.clockTo 0)
    else .next s

/-! ## The gang record (R424) -/

/-- Fields of a gang record. -/
structure GangRec where
  gang : BitVec 32
  members : List Nat
  tol : Nat
  rank : Nat
  deriving DecidableEq, Repr

/-- The position of a peer in a member list. -/
def rankOf (members : List Nat) (p : Nat) : Nat := members.findIdx (fun m => m == p)

/-- A gang record read and checked, or the code of 21 R356. -/
def State.readGang (s : State) (ctx addr : Nat) : Except Nat GangRec :=
  if addr % 64 ≠ 0 then .error 7
  else match s.cpRead ctx addr 64 with
  | .error e => .error e
  | .ok hb =>
    let h := quadsOf hb 8
    let q0 := h.getD 0 0
    let q1 := h.getD 1 0
    let n := bitsOf q0 31 21
    if bitsOf q0 20 0 ≠ 0 ∨ bitsOf q1 31 0 ≠ 0 ∨ (h.drop 2).any (fun q => q != 0) = true ∨ n < 2 ∨ 1024 < n then .error 7
    else match s.cpRead ctx (addr + 64) (2 * n) with
    | .error e => .error e
    | .ok lb =>
      let ms := (span 0 n).map (fun i => natOf ((lb.drop (2 * i)).take 2))
      if (distinct ms []).length ≠ n ∨ !ms.contains s.fabric.self then .error 7
      else .ok { gang := q0.extractLsb' 32 32, members := ms, tol := if bitsOf q1 63 32 = 0 then 5000 else bitsOf q1 63 32,
                 rank := rankOf ms s.fabric.self }

/-! ## What a timed launch holds -/

/-- A control packet to every other member of a gang: kind 6 ready report, 7 straggler notice, 8 barrier token. The manual gives no place to the gang id, the rank and T, so the payload carries them, and in a notice of a publication its context and entry as well (log entry 29). -/
def State.tellGang (s : State) (part : Nat) (kind : BitVec 4) (gang : BitVec 32) (members : List Nat) (arg : Nat) (pub : Option (Nat × Nat) := none) : State :=
  (members.filter (fun m => m != s.fabric.self)).foldl (fun t m =>
    t.sendCtl part (t.mkPkt kind m 0 0 0 0 (bytesOf 8 gang.toNat ++ bytesOf 8 arg ++ (match pub with | none => [] | some p => bytesOf 8 (64 * p.1 + p.2))))) s

/-- Something received from a member is kept. -/
def State.gangKeep (s : State) (x : Nat × BitVec 32 × Nat × Word) : State :=
  s.modFab (fun f => if f.gangIn.contains x then f else { f with gangIn := f.gangIn ++ [x] })
def State.gangDrop (s : State) (kind : Nat) (gang : BitVec 32) : State :=
  s.modFab (fun f => { f with gangIn := f.gangIn.filter (fun x => !(x.1 == kind && x.2.1 == gang)) })

/-- The lowest rank from which nothing of a kind has come, this package's own apart. -/
def State.gangMissing (s : State) (kind : Nat) (gang : BitVec 32) (members : List Nat) (t : Word) : Option Nat :=
  (members.find? (fun m => m != s.fabric.self && !s.fabric.gangIn.contains (kind, gang, m, t))).map (rankOf members)

/-- Clusters of a timed launch: that of its task, or the walker's and those of a graph's tasks. -/
def State.timedClusters (s : State) (ctx : Nat) (r : TimedRec) : List Nat :=
  match r.launch, r.graph with
  | some l, _ => [l.key s]
  | none, some (c, _, ns, _) =>
    let node (i : Nat) : Option Nat :=
      let n := nodeAt ns i
      if n.kind ≠ 0 then none
      else if n.ovr then some (clKey (s.partOfCtx ctx) n.cluster)
      else match s.cpRead ctx n.record 64 with
      | .error _ => none
      | .ok hb => some (clKey (s.partOfCtx ctx) (launchOf (quadsOf hb 8)).cluster)
    distinct (c :: (span 0 ns.length).filterMap node) []
  | none, none => []

/-- Outgoing contexts: those whose tasks run on the clusters of the launch, the launched one apart. -/
def State.outgoing (s : State) (ctx : Nat) (cls : List Nat) : List Nat :=
  distinct (cls.filterMap (fun c => if s.otherRuns c ctx then (s.cl c).ctx else none)) []

/-- The conditions of 03 R33 hold for a timed launch; for a graph, its slot runs none and no cluster of its tasks runs another context. -/
def State.timedReady (s : State) (ctx : Nat) (r : TimedRec) : Bool :=
  match r.launch, r.graph with
  | some l, _ => s.canStart l
  | none, some (c, g, _, _) => (match s.withGraphs ctx c with | none => false | some t => !(t.slot c g).running) && (s.timedClusters ctx r).all (fun k => !s.otherRuns k ctx)
  | none, none => false

/-- The stream's wait with a change of its timed launch. -/
def State.setTimed (s : State) (part stream : Nat) (r : TimedRec) : State := s.modStream part stream (fun t => { t with wait := .timed r })

/-- The contexts whose injection was stopped inject again, where they still run (R426). -/
def State.liftInject (s : State) (r : TimedRec) : State :=
  (r.halted.getD []).foldl (fun t x => t.modCtx x (fun y => { y with noInject := false })) s

/-- A timed launch is kept with its stream, in place of an older one of its gang that is over. -/
def State.keepTimed (s : State) (part stream : Nat) (r : TimedRec) : State :=
  s.modStream part stream (fun t => { t with gangs := t.gangs.filter (fun x => !(x.gang == r.gang && (x.ended || x.checked))) ++ [r] })

/-! ## Stragglers (R427) -/

/-- A sequencer of a gang context takes a straggler fault at its next issue. -/
def stragglerTrap (gang : BitVec 32) (rank : Nat) : TrapRec := trapR codeStraggler (gang.toNat * 2 ^ 32 + rank % 2 ^ 16) 0

/-- A sequencer that has not come to its end: it runs, waits to resume, was stopped with its core, or returns from the trap of its core (mode). -/
def Seq.alive (q : Seq) (mode : Bool) : Bool := q.running || q.preempted || q.wasRunning || (mode && (q.savedRunning || q.savedPaused))

/-- Every sequencer of a context on the package takes a straggler fault at its next issue (R427, 27 R434). -/
def State.stragglerAll (s : State) (ctx : Nat) (r : TrapRec) : State :=
  let add (mode : Bool) (q : Seq) : Seq := if q.alive mode then { q with pend := q.pend ++ [{ r with async := true }] } else q
  let one (e : CoreE) : CoreE := { e with prim := add e.mode e.prim, second := add e.mode e.second }
  { s with
    clusters := s.clusters.map (fun p =>
      if p.2.ctx = some ctx then (p.1, { p.2 with cores := p.2.cores.map (fun q => (q.1, q.2.setE (one q.2.e))) }) else p)
    shadow := s.shadow.map (fun h => if h.ctx = ctx then { h with cores := h.cores.map (fun q => (q.1, one q.2.1, q.2.2)) } else h) }

/-- The packet of a launch that took place counts as completed now, unless what it launched is over (R427). -/
def State.countTimed (s : State) (part stream : Nat) (r : TimedRec) : State :=
  match r.graph with
  | some (c, g, _, _) =>
    let x := s.slot c g
    if x.running && x.origin == (part, stream) && !x.counted then (s.setSlot c g { x with counted := true }).countDone part stream else s
  | none =>
    match r.task with
    | none => s
    | some id =>
      let mine (t : Task) : Bool := t.id == id && (match t.origin with | .stream p i _ => p == part && i == stream | _ => false)
      let mark (t : Task) : Task := if mine t then { t with origin := (match t.origin with | .stream p i a => .counted p i a | o => o) } else t
      if s.clusters.any (fun p => p.2.tasks.any mine) || s.shadow.any (fun h => h.tasks.any mine) then
        ({ s with
          clusters := s.clusters.map (fun p => (p.1, { p.2 with tasks := p.2.tasks.map mark }))
          shadow := s.shadow.map (fun h => { h with tasks := h.tasks.map mark }) } : State).countDone part stream
      else s

/-- A timed launch that has not been made is not made; its packet counts in LAUNCHED and COMPLETED (R427). -/
def State.noLaunch (s : State) (part stream : Nat) (r : TimedRec) : State :=
  let u := (s.liftInject r).atStream part stream
  ((((u.gangDrop 6 r.gang).gangDrop 7 r.gang).gangDrop 8 r.gang).cpCount.countDone part stream).cpDone.keepTimed part stream { r with ended := true }

/-- A launch that was made: its gang context takes straggler faults, once (R427). -/
def State.stragglerOn (s : State) (part stream ctx rank : Nat) (r : TimedRec) : State :=
  if r.ended then s
  else
    let s1 := (s.stragglerAll ctx (stragglerTrap r.gang rank)).countTimed part stream r
    s1.modStream part stream (fun t => { t with gangs := t.gangs.map (fun x => if x = r then { x with ended := true } else x) })

/-! ## Timed launches (R425, R429) -/

/-- A timed launch starts to wait; a straggler notice that has come already ends it. -/
def State.beginTimed (s : State) (r : TimedRec) : State :=
  let s1 := s.modCp (fun t => { t with gangs := t.gangs.filter (fun x => !(x.gang == r.gang && x.ended)) })
  if s1.fabric.gangIn.any (fun x => x.1 == 7 && x.2.1 == r.gang) then s1.noLaunch s.cur.part s.cur.stream r
  else s1.cpWait (.timed r)

/-- A launch at a gang-time instant on every member (21 R349, R424, R425). kind 0 launches a task, 1 a graph. -/
def execTimed (pre kind : Bool) (t addr gang : Word) (s : State) : Out :=
  let s := s.fillRecord s.cpCtx gang.toNat (fun h => ceilDiv (2 * bitsOf (h.getD 0 0) 31 21) 32)
  match s.readGang s.cpCtx gang.toNat with
  | .error e => .next (s.cpFail e)
  | .ok g =>
    let s := s.fillRecord s.cpCtx addr.toNat (fun h => if kind then (graphOf h).nodes else (launchOf h).items)
    let r : TimedRec :=
      { t := t.toNat, pre := pre, gang := g.gang, members := g.members, tol := g.tol, rank := g.rank, halted := none
        ready := none, tokenAt := none, checked := false, launched := false, ended := false, task := none, launch := none, graph := none }
    if kind then
      (match s.readGraph s.cpCtx addr.toNat with
       | .error e => .next (s.cpFail e)
       | .ok x => .next (s.beginTimed { r with graph := some x }))
    else
      (match s.readLaunch s.cpCtx addr.toNat none pre s.cpOrigin with
       | .error e => .next (s.cpFail e)
       | .ok l => .next (s.tick1.beginTimed { r with launch := some l }))

/-- At T − 2 µs a member stops injecting the packets of the outgoing contexts, and asks for their pre-emption if pre is set (R425). -/
def execGangInjectHalt (part stream : Nat) (s : State) : Out :=
  match s.stream part stream with
  | none => .next s
  | some t =>
    match t.wait with
    | .timed r =>
      if r.halted.isSome ∨ s.now + 2000 < r.t then .next s
      else
        let cls := s.timedClusters t.ctx r
        let out := s.outgoing t.ctx cls
        let s1 := out.foldl (fun u x => u.modCtx x (fun y => { y with noInject := true })) s
        let s2 := if r.pre then cls.foldl (fun u c => match (u.cl c).ctx with
          | none => u
          | some x => if out.contains x then u.preempt x c else u) s1 else s1
        .next (s2.setTimed part stream { r with halted := some out })
    | _ => .next s

/-- The launch itself, with the gang of its context; none where R33 does not let it. A graph that the walker has no room for fails the packet (21 R361). -/
def State.makeTimed (s : State) (part stream ctx : Nat) (r : TimedRec) : Option State :=
  let after (u : State) (task : Option Nat) : State :=
    let v := ((u.liftInject r).modCtx ctx (fun x => { x with gang := r.gang, gangMembers := r.members })).gangDrop 8 r.gang
    v.cpCount.cpDone.keepTimed part stream { r with launched := true, task := task }
  match r.launch, r.graph with
  | some l, _ => (s.tryStart l).map (fun u => after u (((u.cl (l.key u)).tasks.getLast?).map (fun t => t.id)))
  | none, some (c, g, ns, h) =>
    (match s.startGraph ctx c g (some (ns, h)) r.pre (part, stream) with
     | .error e => some (((s.liftInject r).gangDrop 8 r.gang).failStream part stream e)
     | .ok u => u.map (fun u => after u none))
  | none, none => none

/-- A member becomes ready, and says so; in clock-lost state it sends its barrier token instead (R425, R429). -/
def State.timedNews (s : State) (part ctx : Nat) (r : TimedRec) : TimedRec × State :=
  let token := decide (s.clock.state = 2) && r.tokenAt.isNone
  let r1 : TimedRec := if token then { r with tokenAt := some s.now } else r
  let s1 := if token then s.tellGang part 8 r.gang r.members r.t else s
  if r1.ready.isNone && s1.timedReady ctx r1 then
    ({ r1 with ready := some s1.now }, if r1.tokenAt.isNone then s1.tellGang part 6 r.gang r.members 0 else s1)
  else (r1, s1)

/-- At T, or at readiness if later, a ready member launches; in clock-lost state it does so once it holds every token. One that is ready after T + tol does not (R425, R427, R429). One whose cluster has gone meanwhile is refused (01 R19). -/
def execTimedLaunchInstant (part stream : Nat) (s : State) : Out :=
  match s.stream part stream with
  | none => .next s
  | some t =>
    match t.wait with
    | .timed r0 =>
      if r0.launch.any (fun l => s.noCluster (l.key s)) || r0.graph.any (fun g => s.noCluster g.1) then
        .next (((s.liftInject r0).gangDrop 8 r0.gang).failStream part stream 8)
      else
      let (r, s1) := s.timedNews part t.ctx r0
      let u := (s1.setTimed part stream r).atStream part stream
      let go : Option State := u.makeTimed part stream t.ctx r
      (match r.ready with
       | none => .next ((u.timedClusters t.ctx r).foldl (fun v c => v.clearWay false c t.ctx) u)
       | some a =>
         if r.tokenAt.isSome then
           (if (u.gangMissing 8 r.gang r.members (wordN r.t)).isNone then .next (go.getD u) else .next u)
         else if r.t + r.tol < a then .next (u.noLaunch part stream r)
         else if r.t ≤ u.now then .next (go.getD u)
         else .next u)
    | _ => .next s

/-- A launch found to lack the report or the token of a rank (R427). -/
def State.timedLack (s : State) (part stream ctx rank : Nat) (r : TimedRec) : State :=
  if r.launched then s.stragglerOn part stream ctx rank r else s.noLaunch part stream r

/-- The straggler check of one launch that is due (R427); for a barrier, of the tokens (R429). -/
def State.timedCheck (s : State) (part stream ctx : Nat) (r : TimedRec) : State :=
  if r.checked || r.ended then s
  else match r.tokenAt with
  | some a =>
    if s.now < a + r.tol ∨ r.launched = true then s
    else match s.gangMissing 8 r.gang r.members (wordN r.t) with
    | none => s
    | some k => (s.tellGang part 7 r.gang r.members k).timedLack part stream ctx k r
  | none =>
    if s.now < r.t + r.tol then s
    else
      let lack := s.gangMissing 6 r.gang r.members 0
      let s1 := s.gangDrop 6 r.gang
      match lack with
      | some k => (s1.tellGang part 7 r.gang r.members k).timedLack part stream ctx k r
      | none =>
        if r.launched then s1.modStream part stream (fun t => { t with gangs := t.gangs.map (fun x => if x = r then { x with checked := true } else x) })
        else s1.setTimed part stream { r with checked := true }

/-- At T + tol a member that lacks a report sends straggler notices (R427). -/
def execStragglerCheck (part stream : Nat) (s : State) : Out :=
  match s.stream part stream with
  | none => .next s
  | some t =>
    let s1 := t.gangs.foldl (fun u r => u.timedCheck part stream t.ctx r) s
    match t.wait with
    | .timed r => .next (s1.timedCheck part stream t.ctx r)
    | _ => .next s1

/-- A ready report comes in (R425). -/
def execReadyReport (gang : BitVec 32) (src : Nat) (s : State) : Out := .next (s.gangKeep (6, gang, src, 0))

/-- A barrier token comes in (R429). -/
def execBarrierToken (gang : BitVec 32) (t : Word) (src : Nat) (s : State) : Out := .next (s.gangKeep (8, gang, src, t))

/-- Streams with their partitions. -/
def State.allStreams (s : State) : List (Nat × Nat × Stream) :=
  (s.parts.map (fun p => p.2.streams.filterMap (fun t => t.2.map (fun x => (p.1, t.1, x))))).flatten

/-- A gang exchange that a straggler undoes: the backings stand as they did before it (11 R201; log entry 29). -/
def State.pubUndo (s : State) (r : PubReq) : State :=
  if !r.done then s else
  let flip (q : Quads) : Quads := { q with q0 := q.q0 ^^^ (1 <<< 62), q3 := r.before }
  let s1 := s.modCtx r.ctx (fun x => { x with pubs := tset {} x.pubs r.idx (flip (tget {} x.pubs r.idx)) })
  s1.modMem (fun m => { m with exch := m.exch.filter (fun e => !(e.ctx == r.ctx && e.idx == r.idx && e.asked == r.asked)) })

/-- A straggler of a gang publication: the gang context takes straggler faults, and the exchange is not made, or undone where it has been (11 R201). -/
def State.pubStraggler (s : State) (ctx idx rank : Nat) : State :=
  match look s.ctxs ctx with
  | none => s
  | some x =>
    let lost := s.pubReqs.filter (fun r => r.scope == .gang && r.tp.isSome && r.ctx == ctx && r.idx == idx)
    let s1 := lost.foldl State.pubUndo (s.stragglerAll ctx (stragglerTrap x.gang rank))
    { s1 with pubReqs := s1.pubReqs.filter (fun r => !lost.contains r) }

/-- A straggler notice of a timed launch: one that has not been made is not made, the context of one that has takes straggler faults (R427); one for a gang not yet met is kept for its timed packet. A notice of a publication names it (11 R201; log entry 29). -/
def execStragglerNotice (gang : BitVec 32) (notice : Straggler) (s : State) : Out :=
  let rank := notice.rank
  match notice.pub with
  | some p => .next (s.pubStraggler p.1 p.2 rank)
  | none =>
    let all := s.allStreams
    let known := all.any (fun x => x.2.2.gangs.any (fun r => r.gang == gang) || (match x.2.2.wait with | .timed r => r.gang == gang | _ => false))
    if !known then .next (s.gangKeep (7, gang, rank, 0))
    else
      .next (all.foldl (fun u x =>
        let v := (x.2.2.gangs.filter (fun r => r.gang == gang && r.launched)).foldl (fun v r => v.stragglerOn x.1 x.2.1 x.2.2.ctx rank r) u
        match x.2.2.wait with
        | .timed r => if r.gang == gang then v.noLaunch x.1 x.2.1 r else v
        | _ => v) s)

/-! ## Publications (11 R198 to R201, 13 R255) -/

/-- Whether a cluster is within the scope of a publication. -/
def PubReq.covers (r : PubReq) (c : Nat) : Bool :=
  match r.scope with
  | .seq => c == r.cl
  | .cluster => c == r.cl
  | .layer => c / 256 == r.cl / 256 && c % 256 / 24 == r.cl % 256 / 24
  | .package => true
  | .gang => true

/-- The physical range of a buffer's shadow backing. -/
def shadowRange (q : Quads) : Nat × Nat := ((if bitOf q.q0 62 then bitsOf q.q1 39 0 else bitsOf q.q2 39 0) * 4096, bitsOf q.q0 61 40 * 4096)

/-- Whether the scope of a publication holds the agents that are of no cluster. -/
def PubReq.wide (r : PubReq) : Bool := r.scope == .package || r.scope == .gang

/-- Whether a write to the shadow that was issued before the publish, by an agent of the scope, is still to be performed at package scope (R199), or one that an earlier exchange held, by whatever agent (R200, R255): in a cluster cache, of a transfer, of a packet or a graph's status that is kept back, or of a fabric packet, whose agent only gang scope holds (R186). -/
def State.pubBusy (s : State) (r : PubReq) (pubs : Tbl Quads) : Bool :=
  let (a, n) := shadowRange (tget {} pubs r.idx)
  let due (inScope : Bool) (id : Nat) : Bool :=
    decide (id < r.asked) && (inScope || s.mem.exch.any (fun e => e.ctx == r.ctx && e.idx == r.idx && e.held id))
  s.clusters.any (fun p =>
    p.2.held.any (fun h => due (r.covers p.1) h.op && decide (a ≤ h.pa) && decide (h.pa < a + n)) ||
    p.2.graphs.any (fun g => g.2.statusNo.any (fun id => due (r.covers p.1) id && inBuffer g.2.ctx g.2.status.toNat 8 r.ctx r.idx pubs))) ||
  s.xfers.any (fun t => due (r.covers t.cl) t.id && t.writesTo r.ctx pubs r.idx) ||
  s.parts.any (fun p => p.2.streams.any (fun q => q.2.any (fun t => t.began.any (fun b => due r.wide b.1) && t.writesTo r.ctx pubs r.idx))) ||
  s.windows.any (fun w => w.waits.any (fun x => due (r.scope == .gang) x.1 && inBuffer w.owner x.2.1 x.2.2 r.ctx r.idx pubs))

/-- Live and shadow exchange, and Tp is recorded (R199, R255). A gang exchange stays known, should a straggler undo it (R201); earlier ones of the buffer do not. -/
def State.pubSwap (s : State) (r : PubReq) : State :=
  let tp := wordN (match r.tp with | none => s.now | some t => if t = 0 then s.now else t)
  let flip (q : Quads) : Quads := { q with q0 := q.q0 ^^^ (1 <<< 62), q3 := tp }
  let before : Word := match look s.ctxs r.ctx with | none => 0 | some x => (tget ({} : Quads) x.pubs r.idx).q3
  let s1 := s.modCtx r.ctx (fun x => { x with pubs := tset {} x.pubs r.idx (flip (tget {} x.pubs r.idx)) })
  let s2 := s1.modMem (fun m => { m with exch := m.exch ++ [{ ctx := r.ctx, idx := r.idx, at_ := s.exchInst, asked := r.asked }] })
  let others := (s2.pubReqs.erase r).filter (fun x => !(x.done && x.ctx == r.ctx && x.idx == r.idx))
  { s2 with pubReqs := if r.scope = .gang then others ++ [{ r with tp := some tp.toNat, done := true, before := before }] else others }

/-- The first 8 µs boundary at least 16 µs from an instant (R199). -/
def gangTp (now : Nat) : Nat := ceilDiv (now + 16000) 8000 * 8000

def State.setPub (s : State) (r r' : PubReq) : State := { s with pubReqs := s.pubReqs.map (fun x => if x = r then r' else x) }

/-- The notices of a gang publication to the other members. An instant of 0 asks for a barrier. -/
def State.pubNotices (s : State) (r : PubReq) (members : List Nat) (tp : Nat) : State :=
  { s with outbox := s.outbox ++ (members.filter (fun m => m != s.fabric.self)).map (fun m => .publish m r.ctx r.idx tp) }

/-- The other members of the gang are asked whether their writes to the shadow are performed (R199). -/
def State.askPub (s : State) (r : PubReq) (peers : List Nat) : State :=
  let s1 := s.setPub r { r with waits := some peers }
  { s1 with outbox := s1.outbox ++ peers.map (fun p => .pubAsk p r.ctx r.idx) }

/-- A member has answered that they are. -/
def State.pubAcked (s : State) (peer ctx idx : Nat) : State :=
  { s with pubReqs := s.pubReqs.map (fun r =>
    if r.ctx = ctx ∧ r.idx = idx ∧ r.done = false then { r with waits := r.waits.map (List.filter (· ≠ peer)) } else r) }

/-- A member asks: its question stands until what was issued here before it is performed. -/
def State.pubAsked (s : State) (peer ctx idx : Nat) : State :=
  ({ s with pubAsks := s.pubAsks ++ [{ peer := peer, ctx := ctx, idx := idx, asked := s.fresh }] } : State).tick1

/-- Questions whose writes are performed are answered. -/
def State.answerPubs (s : State) : State :=
  let settled (q : PubAsk) : Bool := match look s.ctxs q.ctx with
    | none => true
    | some x => !s.pubBusy { ctx := q.ctx, idx := q.idx, scope := .package, cl := 0, asked := q.asked, tp := none, token := false } x.pubs
  { s with
    pubAsks := s.pubAsks.filter (fun q => !settled q)
    outbox := s.outbox ++ (s.pubAsks.filter settled).map (fun q => .pubDone q.peer q.ctx q.idx) }

/-- The exchange of a publication at its Tp: once the writes before it are performed, on every member for a gang; for a gang at the window boundary chosen then, or at the completion of a barrier in clock-lost state (R199 to R201). -/
def execPublishExchange (ctx idx : Nat) (s : State) : Out :=
  match s.pubReqs.find? (fun r => !r.done && r.ctx == ctx && r.idx == idx), look s.ctxs ctx with
  | some r, some x =>
    let peers := if r.scope = .gang then x.gangMembers.filter (· ≠ s.fabric.self) else []
    (match r.tp with
     | none =>
       if r.waits.isNone && !peers.isEmpty then .next (s.askPub r peers)
       else if s.pubBusy r x.pubs || !(r.waits.getD []).isEmpty then .next s
       else if r.scope ≠ .gang then .next (s.pubSwap r)
       else
         let tp := if s.clock.state = 2 then 0 else gangTp s.now
         .next ((s.setPub r { r with tp := some tp }).pubNotices r x.gangMembers tp)
     | some 0 =>
       let s1 := if r.token then s else (s.tellGang x.part 8 x.gang x.gangMembers idx).setPub r { r with token := true }
       if (s1.gangMissing 8 x.gang x.gangMembers (wordN idx)).isNone then
         .next ((s1.setPub { r with token := true } r).pubSwap r |>.gangDrop 8 x.gang)
       else .next s1
     | some tp => if s.now < tp then .next s else .next (s.pubSwap r))
  | _, _ => .next s

/-- The notice of a gang publication reaches a member; after Tp it is a straggler, on every member, and no exchange is made (R201). -/
def execPublishNotice (ctx idx : Nat) (tp : Word) (s : State) : Out :=
  match look s.ctxs ctx with
  | none => .next s
  | some x =>
    if tp = 0 ∨ s.now ≤ tp.toNat then
      let r : PubReq := { ctx := ctx, idx := idx, scope := .gang, cl := clKey x.part 0, asked := s.fresh, tp := some tp.toNat, token := false }
      .next ({ s with pubReqs := s.pubReqs ++ [r] } : State).tick1
    else
      let rank := rankOf x.gangMembers s.fabric.self
      .next ((s.tellGang x.part 7 x.gang x.gangMembers rank (some (ctx, idx))).pubStraggler ctx idx rank)

end Sys2Proof.Machine
end

