-- ==== Sys2Proof/Machine/Reversible.lean ====
section
/-! DEFINITION. Reversible ops of majors 0x30 to 0x35, the remainder stack and the spill engine (17 R283 to R311). -/

namespace Sys2Proof.Machine

open Sys2Proof

/-! ## Remainders of arithmetic records (R298 to R300) -/

/-- The operations of kinds 1 to 4 and 6. -/
inductive RvOp | mul | fma | add | cvt | scale
  deriving DecidableEq, Repr

/-- A value i × 2^e. -/
abbrev Dyadic := Int × Int

def FVal.signed : FVal → Option Dyadic
  | .fin n m e => some (if n then -(m : Int) else (m : Int), e)
  | _ => none

def dyAdd (x y : Dyadic) : Dyadic :=
  let e := min x.2 y.2
  (x.1 * (2 ^ (x.2 - e).toNat : Nat) + y.1 * (2 ^ (y.2 - e).toNat : Nat), e)

def dyNeg (x : Dyadic) : Dyadic := (-x.1, x.2)
def dyMul (x y : Dyadic) : Dyadic := (x.1 * y.1, x.2 + y.2)

/-- The exponent of rvscale, cut where no format of R303 tells more apart. -/
def scaleOf (w b : Nat) : Int := max (-4000) (min 4000 (sextN w b))

/-- eps of an exact result and a finite result r with ulp 2^re, none where the element escapes (R298). -/
def epsOf (w : Nat) (exact r : Dyadic) (re : Int) : Option Int :=
  let d := dyAdd exact (dyNeg r)
  let sh : Int := d.2 + w - 3 - re
  let p : Int := (2 ^ (-sh).toNat : Nat)
  let v : Option Int := if 0 ≤ sh then some (d.1 * (2 ^ sh.toNat : Nat)) else if d.1 % p = 0 then some (d.1 / p) else none
  v.bind (fun x => if x.natAbs < 2 ^ (w - 1) then some x else none)

/-- An element of a forward op: result, flags, whether it escapes, slot field. -/
structure RvEl where
  r : Nat
  fl : Fl
  esc : Bool
  slot : Nat
  deriving DecidableEq, Repr

/-- The restored operand and the exact result, none where its op makes the element escape (R299). -/
def rvExact (op : RvOp) (w : Nat) (a b d : FVal) (bBits : Nat) : Option Dyadic :=
  match op with
  | .mul => if a.isZero || b.isZero then none else
      match a.signed, b.signed with | some x, some y => some (dyMul x y) | _, _ => none
  | .fma => if d.isZero then none else
      match a.signed, b.signed, d.signed with | some x, some y, some z => some (dyAdd (dyMul x y) z) | _, _, _ => none
  | .add => if a.isZero then none else
      match a.signed, b.signed with | some x, some y => some (dyAdd x y) | _, _ => none
  | .cvt => if a.isZero then none else a.signed
  | .scale => if a.isZero then none else a.signed.map (fun x => (x.1, x.2 + scaleOf w bBits))

/-- a × 2^s rounded (R299). -/
def FFmt.scaled (f : FFmt) (rm : Rm) (a : FVal) (s : Int) : Nat × Fl :=
  match a with
  | .fin n m e => f.round rm false n m 1 (e + s)
  | v => f.ofVal rm false v

/-- The result and flags of the plain op. -/
def rvPlain (op : RvOp) (f rf : FFmt) (rm : Rm) (w a b d : Nat) : Nat × Fl :=
  match op with
  | .mul => f.mul rm a b
  | .fma => f.fma rm a b d
  | .add => f.add rm a b
  | .cvt => rf.ofVal rm false (f.decode a)
  | .scale => f.scaled rm (f.decode a) (scaleOf w b)

/-- One element of a forward op (R298, R299): f the format of the restored operand, of width w, rf that of the result. -/
def rvElem (op : RvOp) (f rf : FFmt) (rm : Rm) (w a b d : Nat) : RvEl :=
  let x := if op = .fma then d else a
  let r := rvPlain op f rf rm w a b d
  match rvExact op w (f.decode a) (f.decode b) (f.decode d) b, rf.decode r.1 with
  | some ex, .fin n m e =>
    (match epsOf w ex (if n then -(m : Int) else (m : Int), e) e with
     | some i => { r := r.1, fl := r.2, esc := false, slot := (i % (2 ^ w : Nat)).toNat }
     | none => { r := r.1, fl := r.2, esc := true, slot := x })
  | _, _ => { r := r.1, fl := r.2, esc := true, slot := x }

/-- ROUND of num / den × 2^e under nearest even, an exact zero giving +0 (log entry 20). -/
def roundQuot (f : FFmt) (v : Dyadic) (neg : Bool) (den : Nat) : Nat :=
  if v.1 = 0 then 0 else (f.round .ne false (decide (v.1 < 0) != neg) v.1.natAbs den v.2).1

/-- The restored operand of an element that did not escape (R300). -/
def undoElem (op : RvOp) (f rf : FFmt) (w r a b slot : Nat) : Nat :=
  match rf.decode r with
  | .fin n m e =>
    let v := dyAdd (if n then -(m : Int) else (m : Int), e) (sextN w slot, e - (w - 3))
    let fb := f.decode b
    (match op with
     | .mul =>
       (match fb with
        | .fin bn bm be => if bm = 0 then f.nan else roundQuot f (v.1, v.2 - be) bn bm
        | _ => f.nan)
     | .fma =>
       (match (f.decode a).signed, fb.signed with
        | some x, some y => roundQuot f (dyAdd v (dyNeg (dyMul x y))) false 1
        | _, _ => f.nan)
     | .add =>
       (match fb.signed with
        | some y => roundQuot f (dyAdd v (dyNeg y)) false 1
        | none => f.nan)
     | .cvt => roundQuot f v false 1
     | .scale => roundQuot f (v.1, v.2 - scaleOf w b) false 1)
  | _ => f.nan

/-! ## Records (R287, R288) -/

def rvCode : RTy → Nat | .f32 => 1 | .f64 => 0 | .bf16 => 3 | .f16 => 2
def bfCode (bf : Bool) : Nat := if bf then 3 else 1

/-- Header fields of a record. -/
structure Hdr where
  len : Nat
  tag : BitVec 32
  kind : Nat
  fmt : Nat
  count : Nat
  rb : Nat
  deriving DecidableEq, Repr

/-- The header as it is stored: count and rb hold the low 16 bits of their values (R288; a view row of 65,536 bytes stores 0). -/
def Hdr.bytes (h : Hdr) : List Byte :=
  bytesOf 4 h.tag.toNat ++ bytesOf 4 h.len ++
    bytesOf 8 (h.kind * 2 ^ 56 + h.fmt * 2 ^ 52 + h.count % 2 ^ 16 * 2 ^ 32 + h.rb % 2 ^ 16 * 2 ^ 16)

def hdrOf (bs : List Byte) : Hdr :=
  let q0 := natOf (bs.take 8)
  let q1 := natOf (bs.drop 8)
  { len := q0 / 2 ^ 32, tag := BitVec.ofNat 32 q0, kind := q1 / 2 ^ 56, fmt := q1 / 2 ^ 52 % 16,
    count := q1 / 2 ^ 32 % 2 ^ 16, rb := q1 / 2 ^ 16 % 2 ^ 16 }

/-- Bytes of the hot region. -/
def hotSize : Nat := 0x40000

/-- An address of a partition's spill regions, which are not translated: it is under their key index (R293). -/
def State.spillLoc (s : State) (c a : Nat) : Loc :=
  .phys a (match look s.parts (c / 256) with | none => 0 | some p => p.spillKey.toNat)

/-- A byte of the stack at an offset: of a record still to be written, else of the hot region; above RS.BASE of its spill copy (R283). -/
def State.stackByte (s : State) (x : Nat) : Byte :=
  if x < s.e.rsBase then
    let i := x % hotSize
    let late := (s.here.pending.map (fun p => p.writes.filterMap (fun w => match w with
      | .hot off bs => if (i + hotSize - off) % hotSize < bs.length then bs[(i + hotSize - off) % hotSize]? else none
      | _ => none))).flatten
    match late.getLast? with
    | some b => b
    | none => tget 0 s.here.hot i
  else s.homeByte (s.spillLoc s.cur.cl (s.e.rsSpill + x))

/-- Bytes of the hot region from a stack offset. -/
def State.hotBytes (s : State) (x n : Nat) : List Byte := (span x n).map (fun i => tget 0 s.here.hot (i % hotSize))

/-- The header of the top record. -/
def State.topHdr (s : State) : Hdr := hdrOf ((span s.e.rsTop 16).map s.stackByte)

def State.stackEmpty (s : State) : Bool := decide (s.e.rsCap ≤ s.e.rsTop)
/-- Tag of the top record, 0 for an empty stack (R294). -/
def State.topTag (s : State) : Nat := if s.stackEmpty then 0 else s.topHdr.tag.toNat

/-- IDENT of an op word (R287), for the forward op. -/
def identTag (s : State) (w : BitVec 32) : BitVec 32 := s.e.mark ^^^ (w &&& 0x7FFFFFFF)

/-! ## Faults and checks (R290, R294, R295) -/

def State.remOrder (s : State) (reason : Nat) : TrapRec := trapR codeRemOrder (s.topTag * 2 ^ 32 + reason) s.pcN
def State.remOver (s : State) (need reason : Nat) : TrapRec := trapR codeRemOver (need * 2 ^ 32 + reason) s.pcN

/-- An op of the secondary sequencer (R285). -/
def State.chkPrim (s : State) : Option TrapRec := trapIf s.cur.sec (s.remOrder 5)

def portTrap (s : State) (reason : Nat) : TrapRec := trapR codeBank (256 + reason) s.pcN

/-- The transfer's port cycles are free (R290). -/
def State.chkPort (s : State) (start k : Nat) : Option TrapRec :=
  trapIf (s.here.portBusy.any (fun c => decide (start ≤ c) && decide (c < start + k))) (portTrap s 3)

/-- A push: items 1 and 2 of its checks, the record, and the op's results. -/
structure Push where
  pre : List (Option TrapRec)
  kind : Nat
  fmt : Nat
  count : Nat
  rb : Nat
  tag : BitVec 32
  pay : List Byte
  lat : Nat
  writes : List PWrite
  flags : Fl
  post : List (Option TrapRec)

def Push.need (p : Push) : Nat := 16 + p.pay.length
def Push.bytes (p : Push) : List Byte :=
  ({ len := p.pay.length, tag := p.tag, kind := p.kind, fmt := p.fmt, count := p.count, rb := p.rb } : Hdr).bytes ++ p.pay
def portCycles (n : Nat) : Nat := ceilDiv n 512

/-- The occupancy after a push of n bytes passes 256 KiB (R292); ck is RS.TOP of the primary's checkpoint. -/
def State.pushStalls (s : State) (p : Push) (ck : Nat) : Bool :=
  (firstTrap p.pre).isNone && decide (p.need ≤ s.e.rsTop) && decide (hotSize < s.e.rsBase - min (s.e.rsTop - p.need) ck)

/-- The checks of a push (R295 items 1, 2, 4, 5). -/
def State.chkPush (s : State) (p : Push) : Option TrapRec :=
  let n := p.need
  firstTrap (p.pre ++ [
    s.chkPort (s.cycle + p.lat) (portCycles n),
    trapIf s.me.popped (s.remOrder 4),
    trapIf (decide (p.kind = 8) && decide (0x10000 < p.pay.length)) (s.remOver n 3),
    trapIf (decide (s.e.rsTop < n)) (s.remOver n 1),
    trapIf (decide (0x20000 < s.me.pushed + n)) (s.remOver n 2)] ++ p.post)

/-- Port cycles and records still being written, those past dropped. -/
def Core.usePort (y : Core) (now start k : Nat) : Core :=
  { y with portBusy := y.portBusy.filter (fun c => decide (now ≤ c)) ++ span start k }

/-- A push (R286, R290, R301): RS.TOP moves at issue, the record is written with the result. -/
def State.push (s : State) (p : Push) : Out :=
  if s.pushStalls p s.e.prim.ckpt.rsTop then .next s else
  s.checked (s.chkPush p) (fun s =>
    let n := p.need
    let k := portCycles n
    let w := s.cycle + p.lat
    let top := s.e.rsTop - n
    let s1 := s.modHere (fun y =>
      let z := y.usePort s.cycle w k
      { z with recBusy := z.recBusy.filter (fun r => decide (s.cycle ≤ r.2)) ++ [(top, w + k - 1)], e := { z.e with rsTop := top } })
    ((s1.modMe (fun q => { q with pushed := q.pushed + n })).afterCsrw (.csr 0x020 (wordN top))).pend p.lat (p.writes ++ [.hot (top % hotSize) p.bytes]) p.flags)

/-- A pop: items 1 and 2 of its checks, what it expects of the header, and its results from the payload. len none: that of kind 5. -/
structure Pop where
  pre : List (Option TrapRec)
  tag : BitVec 32
  kind : Nat
  fmt : Nat
  len : Option Nat
  count : Option Nat
  rb : Option Nat
  width : Nat
  post : List (Option TrapRec)

def Pop.shape (p : Pop) (h : Hdr) : Bool :=
  h.kind == p.kind && h.fmt == p.fmt &&
  h.len == (match p.len with | some n => n | none => 16 + 16 * ceilDiv (h.count * p.width) 128) &&
  (match p.count with | some n => h.count == n | none => true) &&
  (match p.rb with | some n => h.rb == n % 2 ^ 16 | none => true)

/-- Whether the top record's header is held only in LPDDR6. -/
def State.hdrAway (s : State) : Bool := !s.stackEmpty && decide (s.e.rsBase < s.e.rsTop + 16)

/-- The checks of R289. -/
def State.chkHdr (s : State) (p : Pop) : Option TrapRec :=
  firstTrap [
    trapIf s.stackEmpty (s.remOrder 6),
    trapIf (s.topHdr.tag != p.tag) (s.remOrder 1),
    trapIf (!p.shape s.topHdr) (s.remOrder 2)]

/-- Bytes of the top record. -/
def State.topSize (s : State) : Nat := 16 + s.topHdr.len

/-- A pop stalls for its header, and, once the header has passed its checks, for its record (R292). -/
def State.popStalls (s : State) (p : Pop) : Bool :=
  (firstTrap p.pre).isNone &&
  (s.hdrAway || ((s.chkHdr p).isNone && decide (s.e.rsBase < s.e.rsTop + s.topSize)))

/-- A hot-region line with an uncorrectable error is met as the record is read (R27, R293). -/
def State.chkHot (s : State) (x n : Nat) : Option TrapRec :=
  firstTrap ((unitsOf 64 x n).map (fun l => (tget none s.here.hotMarks (l % (hotSize / 64))).map
    (fun m => integrityTrap m 3 11 (l % (hotSize / 64) * 64))))

/-- The checks of a pop (R295 items 1 to 4). -/
def State.chkPop (s : State) (p : Pop) : Option TrapRec :=
  firstTrap (p.pre ++ [
    s.chkHdr p,
    s.chkPort s.cycle (portCycles s.topSize),
    trapIf (s.here.recBusy.any (fun r => decide (r.1 = s.e.rsTop) && decide (s.cycle ≤ r.2))) (portTrap s 4),
    s.chkHot s.e.rsTop s.topSize] ++ p.post)

/-- A pop (R286, R289): RS.TOP moves at issue; the results come lat cycles later, from the payload. -/
def State.pop (s : State) (p : Pop) (lat : Nat → Nat) (f : State → Hdr → List Byte → List PWrite) : Out :=
  if s.popStalls p then .next s else
  s.checked (s.chkPop p) (fun s =>
    let h := s.topHdr
    let n := s.topSize
    let k := portCycles n
    let pay := s.hotBytes (s.e.rsTop + 16) h.len
    let s1 := s.modHere (fun y => let z := y.usePort s.cycle s.cycle k
      { z with e := { z.e with rsTop := z.e.rsTop + n } })
    ((s1.modMe (fun q => { q with popped := true })).afterCsrw (.csr 0x020 (wordN (s.e.rsTop + n)))).pend (lat k) (f s h pay))

/-! ## Rows of elements -/

/-- The elements of a row at a width. -/
def State.elems (s : State) (w : Nat) (r : Reg) : List Nat :=
  let v := s.rowVal r.toNat
  (span 0 (2048 / w)).map (fun e => elem w v e)

/-- A row write of elements at a width, the rest of the row zero. -/
def State.rowOf (s : State) (w : Nat) (d : Reg) (xs : List Nat) : PWrite := s.arenaW (rowCells (s.rowAt d.toNat) (packRow w xs))

/-- Values at a width in n bytes. -/
def packed (w n : Nat) (xs : List Nat) : List Byte := bytesOf n (packRow w xs)

/-- A mask of the elements that satisfy a test. -/
def maskOf (n : Nat) (f : Nat → Bool) : Nat := packRow 1 ((span 0 n).map (fun e => if f e then 1 else 0))

/-! ## Kinds 1 to 4 and 6 (R301, R302, R305) -/

/-- The push of a forward arithmetic op: fc and rc the format codes of the restored operand and the result. -/
def State.rvPush (s : State) (op : RvOp) (kind fc rc : Nat) (w32 : BitVec 32) (rm : Rm) (d a b : Reg) (lat : Nat) : Push :=
  let w := widthOf fc
  let as := s.elems w a
  let bs := s.elems w b
  let ds := s.elems w d
  let els := (as.zip (bs.zip ds)).map (fun p => rvElem op (fmtOf fc) (fmtOf rc) rm w p.1 p.2.1 p.2.2)
  let n := 2048 / w
  { pre := [s.chkPrim]
    kind := kind
    fmt := fc
    count := (els.filter (fun x => x.esc)).length
    rb := 0
    tag := identTag s w32
    pay := packed w 256 (els.map (fun x => x.slot)) ++ bytesOf 16 (maskOf n (fun e => (els[e]?).any (fun x => x.esc)))
    lat := lat
    writes := [s.rowOf (widthOf rc) d (els.map (fun x => x.r))]
    flags := els.foldl (fun f x => f ||| x.fl) 0
    post := [s.chkRows [a.toNat, b.toNat]] }

/-- The pop of an undo op. -/
def State.rvPop (s : State) (kind fc : Nat) (w32 : BitVec 32) (rows : List Reg) : Pop :=
  { pre := [s.chkPrim], tag := identTag s w32, kind := kind, fmt := fc, len := some 272, count := none, rb := none,
    width := widthOf fc, post := [s.chkRows (rows.map (fun r => r.toNat))] }

/-- The elements that an undo restores (R300). -/
def State.undone (s : State) (op : RvOp) (fc rc : Nat) (d a b : Reg) (pay : List Byte) : List Nat :=
  let w := widthOf fc
  let row := natOf (pay.take 256)
  let esc := natOf (pay.drop 256)
  let rs := s.elems (widthOf rc) d
  let as := s.elems w a
  let bs := s.elems w b
  (span 0 (2048 / w)).map (fun e =>
    let slot := elem w row e
    if esc / 2 ^ e % 2 = 1 then slot
    else undoElem op (fmtOf fc) (fmtOf rc) w (rs.getD e 0) (as.getD e 0) (bs.getD e 0) slot)

/-- Latencies of R310. -/
def latRv : RTy → Nat | .f64 => 6 | _ => 4
def latUrmul : RTy → Nat | .f32 => 10 | .f64 => 14 | _ => 8
def latUr : RTy → Nat | .f64 => 8 | _ => 6

/-- V(D, e) := ROUND(a × b), pushing the remainder (R301). -/
def execRvmul (t : RTy) (rm : Rm) (d a b : Reg) (s : State) : Out :=
  s.push (s.rvPush .mul 1 (rvCode t) (rvCode t) (encodeOp (.rvmul t rm d a b)) rm d a b (latRv t))

/-- V(A, e) := the restored operand of rvmul (R301). -/
def execUrmul (t : RTy) (_rm : Rm) (d a b : Reg) (s : State) : Out :=
  s.pop (s.rvPop 1 (rvCode t) (encodeOp (.rvmul t _rm d a b)) [d, b]) (fun _ => latUrmul t)
    (fun s _ pay => [s.rowOf (widthOf (rvCode t)) a (s.undone .mul (rvCode t) (rvCode t) d a b pay)])

/-- V(D, e) := ROUND(a × b + d), pushing the remainder (R301). -/
def execRvfma (t : RTy) (rm : Rm) (d a b : Reg) (s : State) : Out :=
  s.push (s.rvPush .fma 2 (rvCode t) (rvCode t) (encodeOp (.rvfma t rm d a b)) rm d a b (latRv t))

/-- V(D, e) := the restored addend of rvfma (R301). -/
def execUrfma (t : RTy) (_rm : Rm) (d a b : Reg) (s : State) : Out :=
  s.pop (s.rvPop 2 (rvCode t) (encodeOp (.rvfma t _rm d a b)) [d, a, b]) (fun _ => latUr t)
    (fun s _ pay => [s.rowOf (widthOf (rvCode t)) d (s.undone .fma (rvCode t) (rvCode t) d a b pay)])

/-- V(D, e) := ROUND(a + b), pushing the remainder (R301). -/
def execRvadd (t : RTy) (rm : Rm) (d a b : Reg) (s : State) : Out :=
  s.push (s.rvPush .add 3 (rvCode t) (rvCode t) (encodeOp (.rvadd t rm d a b)) rm d a b (latRv t))

/-- V(A, e) := the restored operand of rvadd (R301). -/
def execUradd (t : RTy) (_rm : Rm) (d a b : Reg) (s : State) : Out :=
  s.pop (s.rvPop 3 (rvCode t) (encodeOp (.rvadd t _rm d a b)) [d, b]) (fun _ => latUr t)
    (fun s _ pay => [s.rowOf (widthOf (rvCode t)) a (s.undone .add (rvCode t) (rvCode t) d a b pay)])

/-- The check that TO is narrower than FR (R302). -/
def State.chkNarrow (s : State) (tf ff : BitVec 4) : Option TrapRec := trapIf (!narrows tf.toNat ff.toNat) (s.illegal 22)

/-- Row D := row A narrowed, pushing what is lost (R302). -/
def execRvcvt (tf ff : BitVec 4) (rm : Rm) (d a : Reg) (s : State) : Out :=
  let p := s.rvPush .cvt 4 ff.toNat tf.toNat (encodeOp (.rvcvt tf ff rm d a)) rm d a a 4
  s.push { p with pre := s.chkNarrow tf ff :: p.pre }

/-- Row A := the row that rvcvt narrowed (R302). -/
def execUrcvt (tf ff : BitVec 4) (rm : Rm) (d a : Reg) (s : State) : Out :=
  let p := s.rvPop 4 ff.toNat (encodeOp (.rvcvt tf ff rm d a)) [d]
  s.pop { p with pre := s.chkNarrow tf ff :: p.pre } (fun _ => 6)
    (fun s _ pay => [s.rowOf (widthOf ff.toNat) a (s.undone .cvt ff.toNat tf.toNat d a a pay)])

/-- V(D, e) := ROUND(a × 2^s), pushing the remainder (R305). -/
def execRvscale (bf : Bool) (rm : Rm) (d a b : Reg) (s : State) : Out :=
  s.push (s.rvPush .scale 6 (bfCode bf) (bfCode bf) (encodeOp (.rvscale bf rm d a b)) rm d a b 4)

/-- V(A, e) := the restored operand of rvscale (R305). -/
def execUrscale (bf : Bool) (rm : Rm) (d a b : Reg) (s : State) : Out :=
  s.pop (s.rvPop 6 (bfCode bf) (encodeOp (.rvscale bf rm d a b)) [d, b]) (fun _ => 6)
    (fun s _ pay => [s.rowOf (widthOf (bfCode bf)) a (s.undone .scale (bfCode bf) (bfCode bf) d a b pay)])

/-! ## rvrelu and rvdrop (R304, R306) -/

/-- Whether an element's sign bit is set. -/
def signSet (w x : Nat) : Bool := decide (2 ^ (w - 1) ≤ x)

/-- Elements with their numbers. -/
def numbered (xs : List Nat) : List (Nat × Nat) := (span 0 xs.length).zip xs

/-- The push of rvrelu. -/
def State.reluPush (s : State) (bf : Bool) (d a : Reg) : Push :=
  let w := widthOf (bfCode bf)
  let as := s.elems w a
  let neg := as.filter (signSet w)
  { pre := [s.chkPrim]
    kind := 5
    fmt := bfCode bf
    count := neg.length
    rb := 0
    tag := identTag s (encodeOp (.rvrelu bf d a))
    pay := bytesOf 16 (maskOf (2048 / w) (fun e => signSet w (as.getD e 0))) ++ packed w (16 * ceilDiv (neg.length * w) 128) neg
    lat := 2
    writes := [s.rowOf w d (as.map (fun x => if signSet w x then 0 else x))]
    flags := 0
    post := [s.chkRows [a.toNat]] }

/-- Zeroes negative elements, pushing them (R304). -/
def execRvrelu (bf : Bool) (d a : Reg) (s : State) : Out := s.push (s.reluPush bf d a)

/-- Elements taken from a list of stored values where a test holds, else given. -/
def merge (f : Nat → Bool) : List (Nat × Nat) → List Nat → List Nat
  | [], _ => []
  | (e, x) :: r, vs => if f e then vs.headD 0 :: merge f r vs.tail else x :: merge f r vs

/-- Stored values of a payload at a width. -/
def storedVals (w n : Nat) (bs : List Byte) : List Nat := let v := natOf bs
  (span 0 n).map (fun e => elem w v e)

def State.reluPop (s : State) (bf : Bool) (d a : Reg) : Pop :=
  { pre := [s.chkPrim], tag := identTag s (encodeOp (.rvrelu bf d a)), kind := 5, fmt := bfCode bf, len := none,
    count := none, rb := none, width := widthOf (bfCode bf), post := [s.chkRows [d.toNat]] }

/-- Row A := row D with the negative elements restored (R304). -/
def execUrrelu (bf : Bool) (d a : Reg) (s : State) : Out :=
  let w := widthOf (bfCode bf)
  s.pop (s.reluPop bf d a) (fun _ => 4) (fun s h pay =>
    let neg := natOf (pay.take 16)
    [s.rowOf w a (merge (fun e => neg / 2 ^ e % 2 == 1) (numbered (s.elems w d)) (storedVals w h.count (pay.drop 16)))])

/-- Whether a mask keeps an element (R306). -/
def State.kept (s : State) (bf : Bool) (m : BitVec 3) (e : Nat) : Bool := (s.m m.toNat).getLsbD (if bf then e / 2 else e)

/-- The check of the mask field (R306). -/
def State.chkDrop (s : State) (m : BitVec 3) : Option TrapRec := trapIf (m == 0) (s.illegal 22)

def State.dropPush (s : State) (bf : Bool) (d a : Reg) (m : BitVec 3) : Push :=
  let w := widthOf (bfCode bf)
  let as := s.elems w a
  let gone := ((numbered as).filter (fun p => !s.kept bf m p.1)).map (·.2)
  { pre := [s.chkDrop m, s.chkPrim]
    kind := 7
    fmt := bfCode bf
    count := gone.length
    rb := 0
    tag := identTag s (encodeOp (.rvdrop bf d a m))
    pay := packed w (16 * ceilDiv (gone.length * w) 128) gone
    lat := 2
    writes := [s.rowOf w d ((numbered as).map (fun p => if s.kept bf m p.1 then p.2 else 0))]
    flags := 0
    post := [s.chkRows [a.toNat]] }

/-- Zeroes the elements that a mask drops, pushing them (R306). -/
def execRvdrop (bf : Bool) (d a : Reg) (m : BitVec 3) (s : State) : Out := s.push (s.dropPush bf d a m)

def State.dropCount (s : State) (bf : Bool) (m : BitVec 3) : Nat :=
  ((span 0 (2048 / widthOf (bfCode bf))).filter (fun e => !s.kept bf m e)).length

def State.dropPop (s : State) (bf : Bool) (d a : Reg) (m : BitVec 3) : Pop :=
  let w := widthOf (bfCode bf)
  let n := s.dropCount bf m
  { pre := [s.chkDrop m, s.chkPrim], tag := identTag s (encodeOp (.rvdrop bf d a m)), kind := 7, fmt := bfCode bf,
    len := some (16 * ceilDiv (n * w) 128), count := some n, rb := none, width := w, post := [s.chkRows [d.toNat]] }

/-- Row A := row D with the dropped elements restored (R306). -/
def execUrdrop (bf : Bool) (d a : Reg) (m : BitVec 3) (s : State) : Out :=
  let w := widthOf (bfCode bf)
  s.pop (s.dropPop bf d a m) (fun _ => 4) (fun s h pay =>
    [s.rowOf w a (merge (fun e => !s.kept bf m e) (numbered (s.elems w d)) (storedVals w h.count pay))])

/-! ## Tensors and stack control (R308, R309) -/

/-- Stored bytes of a view row. -/
def rb16 (rb : Nat) : Nat := 16 * ceilDiv rb 16

def State.tensorPush (s : State) (v : BitVec 4) (b : Reg) : Push :=
  let w := s.tileView v
  let rb := s.tileRb w
  let rows := (span 0 w.rows.toNat).map w.row
  { pre := [s.chkPrim, s.chkView w]
    kind := 8
    fmt := (tidOf (s.tid w.tid.toNat)).format
    count := w.rows.toNat
    rb := rb16 rb
    tag := (s.g b).truncate 32
    pay := (rows.map (fun a => readB s.here.arena a rb ++ List.replicate (rb16 rb - rb) 0)).flatten
    lat := 2
    writes := []
    flags := 0
    post := rows.map (fun a => s.chkArena a rb) }

/-- Pushes a tile view (R308). -/
def execPusht (v : BitVec 4) (b : Reg) (s : State) : Out := s.push (s.tensorPush v b)

def State.tensorPop (s : State) (v : BitVec 4) (b : Reg) : Pop :=
  let w := s.tileView v
  let r := rb16 (s.tileRb w)
  { pre := [s.chkPrim, s.chkView w]
    tag := (s.g b).truncate 32
    kind := 8
    fmt := (tidOf (s.tid w.tid.toNat)).format
    len := some (w.rows.toNat * r)
    count := some w.rows.toNat
    rb := some r
    width := 8
    post := [] }

/-- Pops a tile view, writing the arena at issue + 3 + k (R308). -/
def execPopt (v : BitVec 4) (b : Reg) (s : State) : Out :=
  s.pop (s.tensorPop v b) (fun k => 3 + k) (fun s _ pay =>
    let w := s.tileView v
    let rb := s.tileRb w
    [s.arenaW ((span 0 w.rows.toNat).map (fun i => cells (w.row i) ((pay.drop (rb16 rb * i)).take rb))).flatten])

/-- g[D] := RS.TOP; the mark word := g[A] (R309). -/
def execRsmark (d a : Reg) (s : State) : Out :=
  s.checked s.chkPrim (fun s =>
    ((s.wrG d (wordN s.e.rsTop) 2).modHereE (fun e => { e with mark := (s.g a).truncate 32 })).afterCsrw (.mark ((s.g a).truncate 32)))

/-- The checks of rsck. -/
def State.chkRsck (s : State) (a b : Reg) : Option TrapRec :=
  firstTrap [s.chkPrim,
    trapIf (decide (s.e.rsTop ≠ (s.g a).toNat) || s.e.mark != (s.g b).truncate 32) (s.remOrder 3)]

/-- Traps unless the stack stands at a mark (R309). -/
def execRsck (a b : Reg) (s : State) : Out :=
  s.checked (s.chkRsck a b) id

/-! ## The stalls of a bundle's stack op, and the units it touches (R292) -/

/-- A stack op as its bundle's issue sees it. -/
inductive StackUse
  | none
  | push (p : Push)
  | pop (p : Pop)

def State.stackUse (s : State) (i : Instr) : StackUse :=
  match i with
  | .rvmul t rm d a b => .push (s.rvPush .mul 1 (rvCode t) (rvCode t) (encodeOp (.rvmul t rm d a b)) rm d a b (latRv t))
  | .rvfma t rm d a b => .push (s.rvPush .fma 2 (rvCode t) (rvCode t) (encodeOp (.rvfma t rm d a b)) rm d a b (latRv t))
  | .rvadd t rm d a b => .push (s.rvPush .add 3 (rvCode t) (rvCode t) (encodeOp (.rvadd t rm d a b)) rm d a b (latRv t))
  | .rvcvt tf ff rm d a => .push (s.rvPush .cvt 4 ff.toNat tf.toNat (encodeOp (.rvcvt tf ff rm d a)) rm d a a 4)
  | .rvscale bf rm d a b => .push (s.rvPush .scale 6 (bfCode bf) (bfCode bf) (encodeOp (.rvscale bf rm d a b)) rm d a b 4)
  | .rvrelu bf d a => .push (s.reluPush bf d a)
  | .rvdrop bf d a m => .push (s.dropPush bf d a m)
  | .pusht v b => .push (s.tensorPush v b)
  | .urmul t rm d a b => .pop (s.rvPop 1 (rvCode t) (encodeOp (.rvmul t rm d a b)) [d, b])
  | .urfma t rm d a b => .pop (s.rvPop 2 (rvCode t) (encodeOp (.rvfma t rm d a b)) [d, a, b])
  | .uradd t rm d a b => .pop (s.rvPop 3 (rvCode t) (encodeOp (.rvadd t rm d a b)) [d, b])
  | .urcvt tf ff rm d a => .pop (s.rvPop 4 ff.toNat (encodeOp (.rvcvt tf ff rm d a)) [d])
  | .urscale bf rm d a b => .pop (s.rvPop 6 (bfCode bf) (encodeOp (.rvscale bf rm d a b)) [d, b])
  | .urrelu bf d a => .pop (s.reluPop bf d a)
  | .urdrop bf d a m => .pop (s.dropPop bf d a m)
  | .popt v b => .pop (s.tensorPop v b)
  | _ => .none

/-- Whether a stack op holds its bundle before issue; ck is the checkpoint's RS.TOP. -/
def State.stackStalls (s : State) (i : Instr) (ck : Nat) : Bool :=
  match s.stackUse i with
  | .none => false
  | .push p => s.pushStalls p ck
  | .pop p => s.popStalls p

/-- Units of the hot region that stack bytes lie in. -/
def hotUnits (x n : Nat) : List Nat := distinct ((unitsOf 0x4000 x n).map (· % 16)) []

/-- The units of the top record's header, which a remainder-order fault reports (R294), where the hot region holds it. -/
def State.hdrUnits (s : State) : List Nat := if s.stackEmpty || s.hdrAway then [] else hotUnits s.e.rsTop 16

/-- Whether checks end in a remainder-order fault. -/
def isRemOrder (t : Option TrapRec) : Bool := t.any (fun r => r.code == codeRemOrder)

/-- The hot-region units that a stack op touches. -/
def State.stackUnits (s : State) (i : Instr) : List Nat :=
  match s.stackUse i with
  | .none =>
    (match i with
     | .rsmark _ _ => if s.cur.sec then s.hdrUnits else []
     | .rsck a b => if isRemOrder (s.chkRsck a b) then s.hdrUnits else []
     | _ => [])
  | .push p =>
    if isRemOrder (s.chkPush p) then s.hdrUnits
    else if s.e.rsTop < p.need then [] else hotUnits (s.e.rsTop - p.need) p.need
  | .pop p =>
    if s.stackEmpty then []
    else if s.cur.sec then (if isRemOrder (firstTrap p.pre) then s.hdrUnits else [])
    else if (s.chkHdr p).isSome then hotUnits s.e.rsTop 16 else hotUnits s.e.rsTop s.topSize

/-! ## The spill engine (R291, R293, R297) -/

/-- What the engine does for a core: 0 nothing, 1 spill, 2 refill, from what it did before. -/
def CoreE.spillNeed (e : CoreE) (was : Nat) : Nat :=
  let ck := e.prim.ckpt.rsTop
  let o := e.rsBase - min e.rsTop ck
  let below := decide (e.rsBase < max e.rsTop ck + 64)
  let full := decide (hotSize < o + 64)
  let now := if was = 1 then (if o ≤ 0x20000 ∨ below = true then 0 else 1)
    else if was = 2 then (if 0x20000 ≤ o ∨ e.rsCap ≤ e.rsBase ∨ full = true then 0 else 2) else 0
  if now ≠ 0 then now
  else if 0x30000 < o ∧ below = false then 1
  else if o < 0x10000 ∧ e.rsBase < e.rsCap ∧ full = false then 2
  else 0

def State.spillNeed (s : State) (c k : Nat) : Nat := (s.core c k).e.spillNeed (tget 0 (s.cl c).e.spilling k)

/-- Whether it is a core's turn: no core before it in rotating order needs the engine, and its port is free (R290, R291). -/
def State.spillTurn (s : State) (c k : Nat) : Bool :=
  let n := (s.cl c).e.spillNext
  decide (k < 8) && !(s.core c k).portBusy.contains s.cycle &&
  ((span 0 ((k + 8 - n % 8) % 8)).all (fun i =>
    let j := (n + i) % 8
    s.spillNeed c j = 0 || (s.core c j).portBusy.contains s.cycle))

/-- The engine serves the next core, in the next cycle; its work for this one goes on until the condition of its action ends it. -/
def State.spillDone (s : State) (c k mode : Nat) : State :=
  s.modCl c (fun x => { x with spillAt := s.cycle + 1, e := { x.e with
    spillNext := (k + 1) % 8
    spilling := tset 0 x.e.spilling k (if (x.co k).e.spillNeed mode = mode then mode else 0) } })

/-- Actions whose end has come are over: a spill or refill starts again only from its own condition (R291). -/
def State.spillRest (s : State) (c : Nat) : State :=
  s.modCl c (fun x => { x with e := { x.e with
    spilling := x.e.spilling.filter (fun p => (x.co p.1).e.spillNeed p.2 == p.2) } })

/-- The unit of a stack offset is the running context's. -/
def State.ownsHot (s : State) (c k x : Nat) : Bool :=
  match (s.cl c).ctx with
  | none => false
  | some ctx => tget 0 (s.core c k).hotTag (x % hotSize / 0x4000) == tagOf ctx

/-- A line of a spill engine, one in a cycle: the turn, the unit's owner and the budget, then the move. -/
def State.spillMove (s : State) (c k mode x : Nat) (f : State → State) : Out :=
  match (s.cl c).ctx with
  | none => .next s
  | some ctx =>
    if (s.cl c).spillAt ≠ s.cycle + 1 ∧ s.spillNeed c k = mode ∧ s.spillTurn c k = true then
      if s.ownsHot c k x then
        match s.charge (s.partOfCtx ctx) clsSpill 1 with
        | none => .next s
        | some s1 => .next ((f s1).spillDone c k mode)
      else .next (s.touch c k .hot (x % hotSize / 0x4000))
    else .next s

/-- A fault of the spill engine: its status records it, and the context takes it at the next instruction of the core whose stack it is (01 R26; DEDUCED: the primary, which alone uses the stack). -/
def State.spillFail (s : State) (c k : Nat) (r : TrapRec) : State :=
  (s.modCl c (fun x => { x with e := { x.e with spillFault := some r } })).postFault (((s.cl c).ctx).getD 0) c k false r

/-- Writes the line below RS.BASE to LPDDR6 (R291). A line of the hot region with an uncorrectable error fails the check that is made as it enters LPDDR6 (check point 3, last hop 10; R293), and goes there poisoned; a poisoned line goes with its mark (01 R28). -/
def execSpillLine (cl core : Nat) (s : State) : Out :=
  let e := (s.core cl core).e
  let x := e.rsBase - 64
  s.spillMove cl core 1 x (fun s =>
    let bs := (span x 64).map (fun i => tget 0 (s.core cl core).hot (i % hotSize))
    let a := s.spillLoc cl (e.rsSpill + x)
    let s1 := (s.wrHomes none ((cells (e.rsSpill + x) bs).map (fun p => (s.spillLoc cl p.1, p.2)))).setMark a none
    let s2 := match tget none (s.core cl core).hotMarks (x % hotSize / 64) with
      | none => s1
      | some m =>
        if m.kind = 2 then s1.setMark a (some { m with hop := 10 })
        else (s1.poison a 10).spillFail cl core (trapR codeData (integrityInfo m.kind.toNat 3 3 10) (x % hotSize))
    s2.modE cl core (fun e => { e with rsBase := x }))

/-- The fault of a line that fails its check as a refill brings it into the hot region (R293). -/
def refillFault (m : LineMark) (a : Nat) : TrapRec := trapR codeData (integrityInfo m.kind.toNat 1 11 3) a

/-- Reads the line at RS.BASE back into the hot region (R291); a line that fails its check as it enters stays where it is, poisoned (R293), and the engine passes the core over while its status holds that fault. -/
def execRefillLine (cl core : Nat) (s : State) : Out :=
  let e := (s.core cl core).e
  let x := e.rsBase
  let a := e.rsSpill + x
  if (s.cl cl).e.spillFault.any (fun r => r.addr == wordN a) && (s.markAt (.phys a)).isSome then
    .next (if s.spillTurn cl core then s.modCl cl (fun y => { y with e := { y.e with spillNext := (core + 1) % 8 } }) else s)
  else s.spillMove cl core 2 x (fun s =>
    match s.markAt (.phys a) with
    | some m => (if m.kind = 2 then s else s.poison (.phys a) m.hop).spillFail cl core (refillFault m a)
    | none =>
      (s.modCore cl core (fun y => { y with
        hot := writeB y.hot (x % hotSize) ((span a 64).map (fun i => s.homeByte (s.spillLoc cl i)))
        hotMarks := tset none y.hotMarks (x % hotSize / 64) none })).modE cl core (fun e => { e with rsBase := x + 64 }))

/-- The spill engine of a cluster in a cycle: a line for the core whose turn it is (R291; its engine cycle is the core's, log entry 4). -/
def State.runSpill (s : State) (c : Nat) : State :=
  match (span 0 8).find? (fun k => s.spillNeed c k != 0 && s.spillTurn c k) with
  | none => s
  | some k =>
    match (if s.spillNeed c k = 1 then execSpillLine c k s else execRefillLine c k s) with
    | .next t => t
    | _ => s

end Sys2Proof.Machine
end

