-- ==== Sys2Proof/Machine/Matrix.lean ====
section
/-! DEFINITION. The matrix unit (19): calls, the micro-ops of routines, the arithmetic paths (07 R120 to R122), drains, and the matrix instructions of majors 0x38 to 0x3B. -/

namespace Sys2Proof.Machine

open Sys2Proof

/-! ## Elements and products (R315, 07 R104) -/

/-- An element's value under its scale byte; 0xFF is a NaN scale. -/
def scaleVal (byte : Nat) (v : FVal) : FVal :=
  if byte = 0xFF then .nan false
  else match v with
    | .fin n m e => .fin n m (e + (byte : Int) - 127)
    | x => x

/-- The scratch offset of the n-th scale byte of row i under an entry of scale mode 1 (07 R104). -/
def TidE.scaleAt (t : TidE) (i n : Nat) : Nat := t.scalebase + i * ceilDiv t.cols 32 + n

/-- The scratch offsets of the scale bytes of n columns from c of some rows, none outside scale mode 1. -/
def TidE.scaleOffs (t : TidE) (rows : List Nat) (c n : Nat) : List Nat :=
  if t.scale = 1 then (rows.map (fun i => (unitsOf 32 c n).map (t.scaleAt i))).flatten else []

/-- The scale byte of element (i, j) under an entry (07 R104); 127 stands for no scale. -/
def scaleByte (x : Cluster) (t : TidE) (i j : Nat) : Nat :=
  if t.scale = 1 then (tget 0 x.scratch (t.scaleAt i (j / 32))).toNat
  else if t.scale = 2 then t.scalebase % 256
  else 127

/-- The bits of element j of a row of bytes that starts at a. -/
def elemBits (t : Tbl Byte) (a w j : Nat) : Nat :=
  if w = 4 then (tget 0 t (a + j / 2)).toNat / 16 ^ (j % 2) % 16 else natOf (readB t (a + j * (w / 8)) (w / 8))

/-- An exact product (R315), with NV for 0 × ∞ and for a signalling operand. -/
def prodV (a b : FVal) : FVal × Fl :=
  match a, b with
  | .nan s, y => (.nan false, flIf (s || y.isSNaN) flNV)
  | _, .nan s => (.nan false, flIf s flNV)
  | .inf n, y => if y.isZero then (.nan false, flNV) else (.inf (n != y.neg), 0)
  | x, .inf n => if x.isZero then (.nan false, flNV) else (.inf (n != x.neg), 0)
  | .fin n m e, .fin n' m' e' => (.fin (n != n') (m * m') (e + e'), 0)

/-! ## The narrow paths (07 R121) -/

/-- |v| in units of 2^-152 of a finite element: encoding and guard bits. -/
def accMag (m : Nat) (e : Int) (guard : BitVec 3) : Nat := (8 * m + guard.toNat) * 2 ^ (e + 149).toNat

/-- The element of a value of at most 27 significant bits, in units of 2^-152. -/
def accPack (neg : Bool) (v : Nat) (sticky : Bool) : AccElem :=
  let s := if neg then fmt32.signBit else 0
  if 2 ^ 280 ≤ v then { enc := wordN (s + fmt32.infBits), sticky := sticky }
  else
    let t := Nat.log2 v - 26
    let x := v / 2 ^ t
    let mag := if Nat.log2 v < 26 then v / 8 else (Nat.log2 v - 25) * 2 ^ 23 + (x / 8 - 2 ^ 23)
    { enc := wordN (s + mag), guard := BitVec.ofNat 3 x, sticky := sticky }

/-- The working element of a NaN: the guard and sticky bits are clear; R121 does not say whether s survives (log entry 32). -/
def accNan : AccElem := { enc := wordN fmt32.nan }

/-- TRUNC of a nonzero exact sum i × 2^sc, with sc at most −152. -/
def accTrunc (i : Int) (sc : Int) (sticky : Bool) : AccElem :=
  let a := i.natAbs
  let sh := max ((Nat.log2 a : Int) - 26) (-152 - sc)
  let t := a / 2 ^ sh.toNat
  accPack (decide (i < 0)) (t * 2 ^ (sh + sc + 152).toNat) (sticky || t * 2 ^ sh.toNat != a)

/-- v := TRUNC(v + p). -/
def accAdd (rm : Rm) (a : AccElem) (p : FVal) : AccElem × Fl :=
  match fmt32.decode a.enc.toNat, p with
  | .nan s, q => (accNan, flIf (s || q.isSNaN) flNV)
  | _, .nan s => (accNan, flIf s flNV)
  | .inf n, .inf n' => if n = n' then (a, 0) else (accNan, flNV)
  | .inf _, .fin _ _ _ => (a, 0)
  | .fin _ _ _, .inf n => ({ enc := wordN (fmt32.inf n), sticky := a.sticky }, 0)
  | .fin n m e, .fin n' m' e' =>
    let v := accMag m e a.guard
    let sc := min e' (-152)
    let x : Int := (v * 2 ^ (-152 - sc).toNat : Nat)
    let y : Int := (m' * 2 ^ (e' - sc).toNat : Nat)
    let sum := (if n then -x else x) + (if n' then -y else y)
    if sum = 0 then
      let neg := zeroSign rm [(n, v, -152), (n', m', e')]
      ({ enc := wordN (fmt32.zero neg), sticky := a.sticky }, 0)
    else (accTrunc sum sc a.sticky, 0)

/-- CHUNK_END. -/
def accChunk (rm : Rm) (a : AccElem) : AccElem × Fl :=
  match fmt32.decode a.enc.toNat with
  | .nan s => (accNan, flIf s flNV)
  | .inf n => ({ enc := wordN (fmt32.inf n) }, 0)
  | .fin n m e =>
    let v := accMag m e a.guard
    let q := if v = 0 then 1 else 2 ^ (Nat.log2 v - 26)
    let y := if a.sticky then 2 * v + q else 2 * v
    if y = 0 then ({ enc := wordN (fmt32.zero n) }, 0)
    else
      let r := fmt32.round rm false n y 1 (-153)
      ({ enc := wordN r.1 }, r.2)

/-! ## The FP64 path (07 R120) -/

/-- The terms of a block, and whether each is finite. -/
def finTerm : FVal → Option Term
  | .fin n m e => some (n, m, e)
  | _ => none

/-- acc := ROUND(acc + the products of the open block). -/
def accClose (rm : Rm) (a : AccElem) : AccElem × Fl :=
  if a.open_.isEmpty then (a, 0) else
  let v := fmt64.decode a.enc.toNat
  let ps := a.open_.map (fun p => prodV (fmt64.decode p.1.toNat) (fmt64.decode p.2.toNat))
  let vs := v :: ps.map (·.1)
  let fl := ps.foldl (fun f p => f ||| p.2) (flIf v.isSNaN flNV)
  let infs := vs.filterMap (fun x => match x with | .inf n => some n | _ => none)
  let r : Nat × Fl :=
    if infs.contains true && infs.contains false then (fmt64.nan, fl ||| flNV)
    else if vs.any FVal.isNaN then (fmt64.nan, fl)
    else match infs with
      | n :: _ => (fmt64.inf n, 0)
      | [] => fmt64.sum rm (vs.filterMap finTerm)
  ({ a with enc := wordN r.1, open_ := [], blk := 0 }, r.2)

/-- A product enters its block, which closes after its last k index. -/
def accAdd64 (rm : Rm) (a : AccElem) (x y : Word) (k : Nat) : AccElem × Fl :=
  let c := if a.open_.isEmpty || a.blk == k / 4 then (a, 0) else accClose rm a
  let b : AccElem := { c.1 with open_ := c.1.open_ ++ [(x, y)], blk := k / 4 }
  if k % 4 = 3 then
    let d := accClose rm b
    (d.1, c.2 ||| d.2)
  else (b, c.2)

/-! ## Format pairs (R314) -/

/-- The paths of R120, R121, R122. -/
inductive MPath | f64 | narrow | int
  deriving DecidableEq, Repr

/-- kb of a native narrow B format against A formats 4 and 5. -/
def kbOf (f : Nat) : Nat := if f = 2 ∨ f = 3 then 64 else if f = 6 then 256 else 128

/-- The path, accumulator format and kb of a pair of formats. -/
def pairOf (fa fb : Nat) : Option (MPath × Nat × Nat) :=
  let emu (f : Nat) : Bool := f == 11 || f == 12
  let wide (f : Nat) : Bool := decide (2 ≤ f) && decide (f ≤ 6)
  let byte (f : Nat) : Bool := f == 7 || f == 10
  if fa = 0 ∧ fb = 0 then some (.f64, 0, 4)
  else if (fa = 2 ∨ fa = 3) ∧ wide fb = true then some (.narrow, 1, 64)
  else if (fa = 4 ∨ fa = 5) ∧ wide fb = true then some (.narrow, 1, kbOf fb)
  else if byte fa && byte fb then some (.int, 9, 128)
  else if emu fa && wide fb then some (.narrow, 1, kbOf fb)
  else if emu fb && wide fa then some (.narrow, 1, kbOf fa)
  else none

/-! ## Calls (R316 to R322) -/

/-- A tile argument (R316). -/
structure Arg where
  kind : Nat
  view : Nat
  tid : Nat
  row : Nat
  col : Nat
  bad : Bool
  deriving DecidableEq, Repr

def argOf (p : Word) : Arg :=
  let kind := bitsOf p 63 62
  let view := bitsOf p 61 58
  let tid := bitsOf p 55 48
  { kind := kind, view := view, tid := tid, row := bitsOf p 47 32, col := bitsOf p 31 16
    bad := decide (bitsOf p 57 56 ≠ 0 ∨ bitsOf p 15 0 ≠ 0) ||
      (kind == 0 && tid != 0) || (kind == 1 && (decide (4 ≤ view) || tid != 0)) || (kind == 2 && view != 0) }

/-- The call word (R317). -/
structure CallWord where
  drain : Bool
  sat : Bool
  rm : Nat
  queue : Nat
  target : Nat
  reserved : Bool
  kbase : Nat
  deriving DecidableEq, Repr

def callWordOf (p : Word) : CallWord where
  drain := bitOf p 63
  sat := bitOf p 62
  rm := bitsOf p 61 59
  queue := bitsOf p 58 57
  target := bitsOf p 56 53
  reserved := bitsOf p 52 32 != 0
  kbase := bitsOf p 31 0

def Call.arg (c : Call) (n : Nat) : Arg := argOf (tget 0 c.p n)
def Call.word (c : Call) : CallWord := callWordOf (tget 0 c.p 7)
def Call.rm (c : Call) : Rm := (Rm.ofCode c.word.rm).getD .ne
def Call.pair (c : Call) : Option (MPath × Nat × Nat) := pairOf (tidOf c.aTid).format (tidOf c.bTid).format
def Call.path (c : Call) : MPath := match c.pair with | some (p, _, _) => p | none => .narrow
def Call.kb (c : Call) : Nat := match c.pair with | some (_, _, k) => k | none => 0
/-- N (R316). -/
def Call.cols (c : Call) : Nat := min 64 (c.cView.cols.toNat - (c.arg 2).col)

/-- The call that an mcall makes: p registers, views and entries as at issue (R318). -/
def State.callOf (s : State) (ent : BitVec 14) : Call :=
  let p (n : Nat) : Word := s.p n
  let a := argOf (p 0)
  let b := argOf (p 1)
  let c := argOf (p 2)
  let av := s.e.view (2 + a.view)
  let bv := s.e.view (2 + b.view)
  let cv := s.e.view (18 + c.view)
  let tv := s.e.view (2 + (callWordOf (p 7)).target)
  { sec := s.cur.sec, cn := s.me.cn + 1, pc := s.cur.pc, ent := ent, issued := s.cycle, p := s.e.p
    aLatch := a.kind == 2
    aView := av, aTid := s.tid (if a.kind = 2 then a.tid else av.tid.toNat)
    bView := bv, bTid := s.tid bv.tid.toNat
    cView := cv, cTid := s.tid cv.tid.toNat
    tView := tv, tTid := s.tid tv.tid.toNat }

def Core.unitRuns (y : Core) : Bool := y.run.isSome || y.call.isSome

/-- A queue fault of the matrix unit (R336). -/
def State.dqTrap (s : State) (q reason : Nat) : TrapRec := trapR codeQueue (q * 256 + reason) s.pcN

/-- Whether a drain's target format fits the accumulator's (R319). -/
def drainFits (accf tf : Nat) : Bool :=
  match accf with
  | 0 => tf == 0 || tf == 1
  | 1 => decide (1 ≤ tf) && decide (tf ≤ 5)
  | _ => tf == 9

/-- The issue checks of R319. -/
def State.chkCall (s : State) (c : Call) : Option TrapRec :=
  let a := c.arg 0
  let b := c.arg 1
  let k := c.arg 2
  let w := c.word
  let ta := tidOf c.aTid
  let tb := tidOf c.bTid
  let tc := tidOf c.cTid
  let tt := tidOf c.tTid
  let fault (n : Nat) (t : TidE) : Option TrapRec := trapIf (decide (t.bad ≠ 0)) (s.fmtFault n t.bad)
  let accf := match c.pair with | some (_, f, _) => f | none => 1
  firstTrap [
    trapIf ((s.here.unitRuns && s.here.wait.isSome) || decide (s.cycle < s.here.mloadUntil)) (s.dqTrap 0 34),
    trapIf (!(a.kind == 0 || a.kind == 2) || b.kind != 0 || k.kind != 1 || a.bad || b.bad || k.bad || w.reserved) (s.fmtFault 0 25),
    fault (if c.aLatch then a.tid else c.aView.tid.toNat) ta,
    fault c.bView.tid.toNat tb,
    fault c.cView.tid.toNat tc,
    if w.drain then fault c.tView.tid.toNat tt else none,
    trapIf c.pair.isNone (s.fmtFault 0 24),
    trapIf (tc.format != accf || decide (c.cView.cols.toNat ≤ k.col) || decide (c.bView.cols.toNat < b.col + c.cols) ||
      (!c.aLatch && !c.aView.fits ta) || !c.bView.fits tb || !c.cView.fits tc || (w.drain && !c.tView.fits tt) ||
      decide (6 ≤ w.rm)) (s.fmtFault 0 25),
    trapIf (w.drain && (!drainFits accf tt.format || decide (c.tView.rows.toNat < c.cView.rows.toNat) ||
      decide (c.tView.cols.toNat < c.cView.cols.toNat))) (s.fmtFault 0 25),
    trapIf (w.drain && decide (4 ≤ (tget [] s.e.dq w.queue).length)) (s.dqTrap w.queue 33)]

/-- The call that the emulation record of this bundle holds (07 R110). -/
def State.emuCall (s : State) : Option Call :=
  match s.me.emu with
  | none => none
  | some r => if r.pc = s.cur.pc then r.call else none

/-- What an emulated call computes from: the values at its trap (07 R110). -/
def State.snap (s : State) : Snap :=
  { arena := s.here.arena, side := s.here.side, latch := s.here.latch, scratch := s.hereCl.scratch }

/-- The core and the cluster as a call's routine reads them: as they are, or for an emulated call as they were at its trap. -/
def Call.coreOf (c : Call) (y : Core) : Core :=
  match c.snap with
  | none => y
  | some z => { y with arena := z.arena, side := z.side, latch := z.latch }
def Call.clusterOf (c : Call) (x : Cluster) : Cluster :=
  match c.snap with
  | none => x
  | some z => { x with scratch := z.scratch }

/-- An mcall that is emulated traps, and its call stands in the bundle's record, to be made when the bundle issues again (07 R110, R314). -/
def State.emulateCall (s : State) (c : Call) : State :=
  (s.raise (trapR codeEmul 0 s.pcN)).modMe (fun q =>
    let old : EmuRec := match s.me.emu with
      | some r => if r.pc = s.cur.pc then r else { pc := s.cur.pc, effects := [] }
      | none => { pc := s.cur.pc, effects := [] }
    { q with emu := some { old with call := some { c with snap := some s.snap } } })

/-- The call takes a slot of the unit and reserves its queue entry (R318). -/
def State.placeCall (s : State) (c : Call) : State :=
  let s1 := s.modMe (fun q => { q with cn := c.cn, started := c.cn })
  let s2 := if c.word.drain then
      s1.modHereE (fun e => { e with dq := tset [] e.dq c.word.queue (tget [] e.dq c.word.queue ++
        [{ desc := none, sec := c.sec, cn := c.cn, at_ := 0 }]) })
    else s1
  s2.modHere (fun y => if y.unitRuns then { y with wait := some c } else { y with call := some c })

/-- Starts the routine at an entry of the store (R318). A call that has started is not started again (R322). -/
def execMcall (ent : BitVec 14) (s : State) : Out :=
  if s.me.started - (s.me.cn + 1) < 0x80000000 then .next (s.modMe (fun q => { q with cn := q.cn + 1 }))
  else
    let c := match s.emuCall with
      | none => s.callOf ent
      | some z => { z with cn := s.me.cn + 1, issued := s.cycle }
    match s.chkCall c with
    | some r => .next (s.raise r)
    | none =>
      if (emulatedFmt (tidOf c.aTid).format || emulatedFmt (tidOf c.bTid).format) && s.emuCall.isNone then .next (s.emulateCall c)
      else .next (s.placeCall c)

/-! ## The running routine (R320, R324) -/

/-- The key of a working element. -/
def accKey (r c : Nat) : Nat := r * 65536 + c

/-- Width in bytes of the accumulator's elements. -/
def Call.accBytes (c : Call) : Nat := widthOf (tidOf c.cTid).format / 8

/-- The working accumulator: every element of the view with its side storage. -/
def loadAcc (y : Core) (c : Call) : Tbl AccElem :=
  let v := c.cView
  let n := c.accBytes
  ((span 0 v.rows.toNat).map (fun i => (span 0 v.cols.toNat).filterMap (fun j =>
    let a := v.row i + n * j
    let nib := tget 0 y.side (a / 4)
    let el : AccElem := { enc := wordOf (readB y.arena a n), guard := nib.extractLsb' 1 3, sticky := nib.getLsbD 0 }
    if el = {} then none else some (accKey i j, el)))).flatten

/-- ROUTINE_START (R320). -/
def execRoutineStart (cl core : Nat) (s : State) : Out :=
  let y := s.core cl core
  match y.run, y.call with
  | none, some c =>
    if c.issued < s.cycle then
      let r : Routine :=
        { call := c, upc := c.ent.toNat, x := [], kctr := BitVec.ofNat 32 c.word.kbase, loops := [], w := [], wScale := [],
          loaded := 0, acc := loadAcc (c.coreOf y) c, flags := 0, cycles := 0, sub := 0 }
      .next (s.setCore cl core { y with run := some r, call := none })
    else .next s
  | _, _ => .next s

/-- A call's reservation is released. -/
def CoreE.release (e : CoreE) (sec : Bool) (cn : BitVec 32) : CoreE :=
  let keep (d : DqEntry) : Bool := !(d.desc.isNone && d.sec == sec && d.cn == cn)
  let kept := (e.dq.map (fun p => (p.1, p.2.filter keep))).filter (fun p => !p.2.isEmpty)
  { e with dq := kept }

/-- The unit after a routine's end: the waiting call takes the running slot. -/
def Core.nextCall (y : Core) : Core := { y with run := none, call := y.wait, wait := none }

/-- A routine stops with a reason at its micro PC (R322, R324). -/
def State.stopRoutine (s : State) (c k : Nat) (r : Routine) (reason : Nat) : State :=
  let sec := r.call.sec
  let y := s.core c k
  let drop := match y.wait with | some w => w.sec == sec | none => false
  let e1 := y.e.release sec r.call.cn
  let e2 := match y.wait with | some w => if drop then e1.release sec w.cn else e1 | none => e1
  let e3 := e2.setSq sec { (e2.sq sec) with started := r.call.cn - 1 }
  let y1 : Core := { y with e := e3, wait := if drop then none else y.wait }
  (s.setCore c k y1.nextCall).postFault (((s.cl c).ctx).getD 0) c k sec
    (trapR codeFormat (r.upc * 256 + reason) r.call.pc.toNat)

/-- ROUTINE_TIMEOUT (R324, reason 29). -/
def execRoutineTimeout (cl core : Nat) (s : State) : Out :=
  match (s.core cl core).run with
  | none => .next s
  | some r => if 2 ^ 22 ≤ r.cycles then .next (s.stopRoutine cl core r 29) else .next s

/-- The running routine at this site replaced. -/
def State.setRun (s : State) (r : Routine) : State := s.modHere (fun y => { y with run := some r })
def State.stopHere (s : State) (r : Routine) (reason : Nat) : State := s.stopRoutine s.cur.cl s.cur.core r reason

/-- The micro PC goes to a target; past the store the routine stops (R324). -/
def State.uGoto (s : State) (r : Routine) (target : Nat) : State :=
  if 0x3FFF < target then s.stopHere r 28 else s.setRun { r with upc := target, sub := 0 }

/-- The micro-op is complete: the loop end is tested on the top entry (R326). -/
def State.uNext (s : State) (r : Routine) : State :=
  match r.loops with
  | [] => s.uGoto r (r.upc + 1)
  | l :: rest =>
    if l.last = r.upc then
      (if 1 < l.count then s.uGoto { r with loops := { l with count := l.count - 1 } :: rest } l.first
       else s.uGoto { r with loops := rest } (r.upc + 1))
    else s.uGoto r (r.upc + 1)

/-- A cycle of a micro-op that takes n cycles is over. -/
def State.uHold (s : State) (r : Routine) (n : Nat) : State :=
  if r.sub + 1 < n then s.setRun { r with sub := r.sub + 1 } else s.uNext r

/-- A micro-op of the routine at this site. -/
def State.micro (s : State) (f : Routine → State) : Out :=
  match s.here.run with
  | none => .next s
  | some r => .next (f r)

def Routine.xr (r : Routine) (n : BitVec 2) : BitVec 16 := tget 0 r.x n.toNat
def Routine.setX (r : Routine) (n : BitVec 2) (v : BitVec 16) : Routine := { r with x := tset 0 r.x n.toNat v }

/-! ## Micro-ops (R325 to R327) -/

/-- No effect. -/
def execUnop (s : State) : Out := s.micro (fun r => s.uNext r)

/-- x := imm. -/
def execUxset (x : BitVec 2) (imm : BitVec 16) (s : State) : Out := s.micro (fun r => s.uNext (r.setX x imm))

/-- x := (x + imm) mod 2^16. -/
def execUxadd (x : BitVec 2) (imm : BitVec 16) (s : State) : Out := s.micro (fun r => s.uNext (r.setX x (r.xr x + imm)))

/-- x := 16 bits of pN as at the mcall. -/
def execUxldp (x : BitVec 2) (p : BitVec 3) (h : BitVec 2) (s : State) : Out :=
  s.micro (fun r => s.uNext (r.setX x ((tget 0 r.call.p p.toNat).extractLsb' (16 * h.toNat) 16)))

/-- K := (K + imm or x) mod 2^32. -/
def execUkadd (src : Bool) (x : BitVec 2) (imm : BitVec 16) (s : State) : Out :=
  s.micro (fun r => s.uNext { r with kctr := r.kctr + (if src then r.xr x else imm).zeroExtend 32 })

/-- Pushes a micro loop; a count of zero continues at last + 1 (R326). -/
def execUloop (last : BitVec 14) (src : Bool) (count : BitVec 12) (s : State) : Out :=
  s.micro (fun r =>
    let n := if src then (r.xr (count.truncate 2)).toNat else count.toNat
    if n = 0 then s.uGoto r (last.toNat + 1)
    else if 2 ≤ r.loops.length then s.stopHere r 28
    else s.uGoto { r with loops := { first := r.upc + 1, last := last.toNat, count := n } :: r.loops } (r.upc + 1))

/-- Branches if x is not 0; the target lies in the innermost loop's body (R324). -/
def execUbnz (x : BitVec 2) (target : BitVec 14) (s : State) : Out :=
  s.micro (fun r =>
    let t := target.toNat
    if r.xr x = 0 then s.uNext r
    else match r.loops with
      | [] => s.uGoto r t
      | l :: _ => if l.first ≤ t ∧ t ≤ l.last then s.uGoto r t else s.stopHere r 28)

/-- Takes n + 1 cycles. -/
def execUwait (n : BitVec 12) (s : State) : Out := s.micro (fun r => s.uHold r (n.toNat + 1))

def Call.knOf (c : Call) (kn : BitVec 8) : Nat := if kn = 0 then c.kb else kn.toNat

/-- Bits and scale byte of an element of the B view. -/
def State.bElem (s : State) (c : Call) (i j : Nat) : Nat × Nat :=
  let t := tidOf c.bTid
  (elemBits (c.coreOf s.here).arena (c.bView.row i) (widthOf t.format) j, scaleByte (c.clusterOf s.hereCl) t i j)

/-- Bits and scale byte of an element of A, a view or the latch. -/
def State.aElem (s : State) (c : Call) (i j : Nat) : Nat × Nat :=
  let t := tidOf c.aTid
  let w := widthOf t.format
  let y := c.coreOf s.here
  (if c.aLatch then elemBits y.latch (256 * i) w j else elemBits y.arena (c.aView.row i) w j, scaleByte (c.clusterOf s.hereCl) t i j)

/-- Scratch lines with an uncorrectable ECC error from which the routine at this site reads scale bytes (13 R215): the line is poisoned, the sequencer of the call takes the fault at its next issue, as of an engine (01 R26), and the routine goes on with the bytes that stand there (DESIGN CHOICE, log entry 97). An emulated call reads none. -/
def State.scaleFaults (s : State) (c : Call) (offs : List Nat) : State :=
  if c.snap.isSome then s
  else (distinct (offs.map (· / 64)) []).foldl (fun t l => match tget none t.hereCl.marks l with
    | some m =>
      if m.kind = 1 then
        (t.poison (.scratch t.cur.cl (64 * l)) m.hop).postFault t.hereCtxId t.cur.cl t.cur.core c.sec (scratchTrap m 8 l)
      else t
    | none => t) s

/-- Cycles of UWLD (R325). -/
def Call.uwldCycles (c : Call) (kn : Nat) : Nat := max 1 (ceilDiv (kn * c.cols * widthOf (tidOf c.bTid).format) 16384)

/-- The weights loaded: elements and scale bytes by 64 j + c, none at their defaults listed. -/
def State.weights (s : State) (c : Call) (row kn : Nat) : List (Nat × Nat × Nat) :=
  ((span 0 kn).map (fun j => (span 0 c.cols).map (fun i => (64 * j + i, s.bElem c (row + j) ((c.arg 1).col + i))))).flatten

/-- Loads weights, read in the first cycle (R327). -/
def execUwld (xb : BitVec 2) (kn : BitVec 8) (s : State) : Out :=
  s.micro (fun r =>
    let c := r.call
    let n := c.knOf kn
    let row := (c.arg 1).row + (r.xr xb).toNat
    if 0 < r.sub then s.uHold r (c.uwldCycles n)
    else if c.kb < n ∨ c.bView.rows.toNat < row + n then s.stopHere r 26
    else
      let ws := s.weights c row n
      (s.scaleFaults c ((tidOf c.bTid).scaleOffs (span row n) (c.arg 1).col c.cols)).uHold { r with
        w := (ws.filter (fun p => p.2.1 != 0)).map (fun p => (p.1, wordN p.2.1))
        wScale := (ws.filter (fun p => p.2.2 != 127)).map (fun p => (p.1, BitVec.ofNat 8 p.2.2))
        loaded := n } (c.uwldCycles n))

/-- The decoded value of A's element, and of a weight. -/
def valOf (f : Nat) (x : Nat × Nat) : FVal := scaleVal x.2 (decodeFmt f x.1)

/-- One term added to a working element, with its k index (07 R120 to R122). -/
def addTerm (c : Call) (k : Nat) (a b : Nat × Nat) (el : AccElem) : AccElem × Fl :=
  match c.path with
  | .f64 => accAdd64 c.rm el (wordN a.1) (wordN b.1) k
  | .narrow =>
    let p := prodV (valOf (tidOf c.aTid).format a) (valOf (tidOf c.bTid).format b)
    let x := accAdd c.rm el p.1
    if k % 32 = 31 then
      let y := accChunk c.rm x.1
      (y.1, p.2 ||| x.2 ||| y.2)
    else (x.1, p.2 ||| x.2)
  | .int =>
    let v (f : Nat) (x : Nat) : Int := if f = 7 then sextN 8 x else x
    let p := v (tidOf c.aTid).format a.1 * v (tidOf c.bTid).format b.1
    ({ el with enc := ((BitVec.ofInt 32 (el.enc.toNat + p)).zeroExtend 64) }, 0)

/-- The terms of one element in ascending k. -/
def addTerms (c : Call) (k0 : Nat) (w : Nat → Nat × Nat) : List (Nat × Nat × Nat) → AccElem → Fl → AccElem × Fl
  | [], el, f => (el, f)
  | (j, a) :: r, el, f =>
    let x := addTerm c ((k0 + j) % 2 ^ 32) a (w j) el
    addTerms c k0 w r x.1 (f ||| x.2)

/-- The weight at (j, i). -/
def Routine.weight (r : Routine) (j i : Nat) : Nat × Nat :=
  ((tget 0 r.w (64 * j + i)).toNat, (tget 127 r.wScale (64 * j + i)).toNat)

/-- A row of UMAC over the N columns: element (rc, column + i) takes kn terms. -/
def macRow (r : Routine) (rc kn : Nat) (as : List (Nat × Nat × Nat)) : List Nat → Routine
  | [] => r
  | i :: rest =>
    let key := accKey rc ((r.call.arg 2).col + i)
    let x := addTerms r.call r.kctr.toNat (fun j => r.weight j i) as (tget {} r.acc key) r.flags
    macRow { r with acc := tset {} r.acc key x.1, flags := x.2 } rc kn as rest

/-- Multiplies and accumulates, row i in the micro-op's cycle i (R327). -/
def execUmac (xa xk xc : BitVec 2) (n : Reg) (kn : BitVec 8) (adv : Bool) (s : State) : Out :=
  s.micro (fun r =>
    let c := r.call
    let k := c.knOf kn
    let ra := (c.arg 0).row + (r.xr xa).toNat + r.sub
    let ca := (c.arg 0).col + (r.xr xk).toNat
    let rc := (c.arg 2).row + (r.xr xc).toNat + r.sub
    let outA := if c.aLatch then decide (63 < ra) || decide (2048 < (ca + k) * widthOf (tidOf c.aTid).format)
      else decide (c.aView.rows.toNat ≤ ra) || decide (c.aView.cols.toNat < ca + k)
    if c.kb < k ∨ r.loaded < k ∨ outA = true ∨ c.cView.rows.toNat ≤ rc then s.stopHere r 26
    else
      let as := (span 0 k).map (fun j => (j, s.aElem c ra (ca + j)))
      let r1 := macRow r rc k as (span 0 c.cols)
      let s := s.scaleFaults c ((tidOf c.aTid).scaleOffs [ra] ca k)
      if r.sub < n.toNat then s.uHold r1 (n.toNat + 1)
      else if adv then s.uHold { r1.setX xk (r1.xr xk + BitVec.ofNat 16 k) with kctr := r1.kctr + BitVec.ofNat 32 k } (n.toNat + 1)
      else s.uHold r1 (n.toNat + 1))

/-- Zeroes working elements (R325). -/
def execUzero (xc : BitVec 2) (n : Reg) (s : State) : Out :=
  s.micro (fun r =>
    let c := r.call
    let rows := n.toNat + 1
    let r0 := (c.arg 2).row + (r.xr xc).toNat
    let c0 := (c.arg 2).col
    if c.cView.rows.toNat < r0 + rows then s.stopHere r 26
    else
      let keep (p : Nat × AccElem) : Bool :=
        let i := p.1 / 65536
        let j := p.1 % 65536
        !(decide (r0 ≤ i) && decide (i < r0 + rows) && decide (c0 ≤ j) && decide (j < c0 + c.cols))
      s.uHold { r with acc := r.acc.filter keep } (ceilDiv rows 8))

/-- xd := xs. -/
def execUxmov (xd xs : BitVec 2) (s : State) : Out := s.micro (fun r => s.uNext (r.setX xd (r.xr xs)))

/-! ## The end of a routine and its drain (R320, R323) -/

/-- An element finalised: FP64 blocks closed; CHUNK_END for FP32 when the routine drains. -/
def finalElem (c : Call) (el : AccElem) : AccElem × Fl :=
  match c.path with
  | .f64 => accClose c.rm el
  | .narrow => if c.word.drain then accChunk c.rm el else (el, 0)
  | .int => (el, 0)

/-- The elements of the accumulator in row-major order: row, column, element, flags. -/
def finalAcc (r : Routine) : List (Nat × Nat × AccElem × Fl) :=
  let c := r.call
  ((span 0 c.cView.rows.toNat).map (fun i => (span 0 c.cView.cols.toNat).map (fun j =>
    (i, j, finalElem c (tget {} r.acc (accKey i j)))))).flatten

/-- The working accumulator written back to the arena with its side storage. -/
def Core.writeBack (y : Core) (c : Call) (els : List (Nat × Nat × AccElem × Fl)) : Core :=
  let n := c.accBytes
  let place (i j : Nat) : Nat := c.cView.row i + n * j
  { y with
    arena := els.foldl (fun t p => writeB t (place p.1 p.2.1) (bytesOf n p.2.2.1.enc.toNat)) y.arena
    side := els.foldl (fun t p => tset 0 t (place p.1 p.2.1 / 4) (p.2.2.1.guard ++ BitVec.ofBool p.2.2.1.sticky)) y.side }

/-- The bytes of the drained target, with the flags of the conversions. -/
def drainCells (c : Call) (els : List (Nat × Nat × AccElem × Fl)) : List (Nat × Byte) × Fl :=
  let accf := (tidOf c.cTid).format
  let tf := (tidOf c.tTid).format
  let w := widthOf tf / 8
  let out := els.map (fun p =>
    let v := encodeFmt tf c.rm c.word.sat (decodeFmt accf p.2.2.1.enc.toNat)
    (cells (c.tView.row p.1 + w * p.2.1) (bytesOf w v.1), v.2))
  ((out.map (·.1)).flatten, out.foldl (fun f p => f ||| p.2) 0)

/-- The descriptor of R334. -/
def descOf (c : Call) (fl : Fl) : Word :=
  wordN (2 ^ 63 + (c.arg 2).view * 2 ^ 56 + c.word.target * 2 ^ 52 + (tidOf c.tTid).format * 2 ^ 48 +
    c.cView.cols.toNat * 2 ^ 32 + c.cView.rows.toNat * 2 ^ 16 + fl.toNat)

/-- The routine's end in cycle E (R320, R323). -/
def execUend (s : State) : Out :=
  s.micro (fun r =>
    let c := r.call
    let els := finalAcc r
    let fl := els.foldl (fun f p => f ||| p.2.2.2) r.flags
    let s1 := s.modHere (fun y => (y.writeBack c els).nextCall)
    if c.word.drain then
      let (bs, fc) := drainCells c els
      let e1 : CoreE := { s.e with av := s.e.av ++ [(99, c.cView)] }
      let new : Drain :=
        { land := s.cycle + 4 + ceilDiv bs.length 2048, queue := c.word.queue, sec := c.sec, cn := c.cn, bytes := bs,
          clear := sideWords s.hereCl e1 (bs.map (·.1)), desc := descOf c (fl ||| fc), flags := fl ||| fc }
      s1.modHere (fun y => { y with drains := y.drains ++ [new] })
    else s1.modHereE (fun e => { e with raised := e.raised ||| fl }))

/-- The reservation of a call becomes its pushed entry. -/
def pushEntry (sec : Bool) (cn : BitVec 32) (desc : Word) (cycle : Nat) (l : List DqEntry) : List DqEntry :=
  l.map (fun d => if d.desc.isNone && d.sec == sec && d.cn == cn then { d with desc := some desc, at_ := cycle } else d)

/-- DRAIN_PUSH (R323): the drains due land. -/
def execDrainPush (cl core : Nat) (s : State) : Out :=
  let y := s.core cl core
  let due := y.drains.filter (fun d => decide (d.land ≤ s.cycle))
  let one (y : Core) (d : Drain) : Core :=
    { y with
      arena := writeCells y.arena d.bytes
      side := d.clear.foldl (fun t w => tset 0 t w 0) y.side
      e := { y.e with raised := y.e.raised ||| d.flags
                      dq := tset [] y.e.dq d.queue (pushEntry d.sec d.cn d.desc s.cycle (tget [] y.e.dq d.queue)) } }
  .next (s.setCore cl core (due.foldl one { y with drains := y.drains.filter (fun d => !decide (d.land ≤ s.cycle)) }))

/-! ## Parameters and the latch (R329 to R332) -/

/-- p[D] := g[A] (R329). -/
def execMparm (p : BitVec 3) (a : Reg) (s : State) : Out := .next (s.pend 1 [.p p.toNat (s.g a)])

/-- An mfoff of the secondary sequencer (R330). -/
def State.chkFeed (s : State) : Option TrapRec := trapIf s.cur.sec (s.illegal 22)

/-- o[D] := g[A] (R330). -/
def execMfoffSet (o : BitVec 3) (a : Reg) (s : State) : Out :=
  s.checked s.chkFeed (fun s => s.pend 1 [.o o.toNat ((s.g a).truncate 32)])

/-- The scratch offset of an mfoff, and the register's value after it. -/
def State.feedAddr (s : State) (o : BitVec 3) (a : Reg) : Nat := ((s.g a).toNat + (s.o o.toNat).toNat % 2 ^ 22) % 2 ^ 22
def feedStep (v : BitVec 32) : BitVec 32 :=
  (v.extractLsb' 22 10) ++ (v.truncate 22 + (v.extractLsb' 22 10).signExtend 22 : BitVec 22)

/-- Latch row L := 256 bytes of scratch; the offset steps (R330). -/
def execMfoff (o : BitVec 3) (a l : Reg) (s : State) : Out :=
  let x := s.feedAddr o a
  s.checked (firstTrap [s.chkFeed, chkScratch x 256 1, s.chkSeals [(x, 256)]]) (fun s =>
    ((s.readLines false [(x, 256)]).pend 4 [.latch l.toNat (s.scr x 256)]).pend 1 [.o o.toNat (feedStep (s.o o.toNat))])

/-- The scratch offsets of an mgath's rows (R331). -/
def State.gathAddrs (s : State) (n a b : Reg) : List Nat :=
  (span 0 (n.toNat + 1)).map (fun l =>
    bitsOf (s.g b) 21 0 + 64 * bitsOf (s.g b) 63 48 * natOf (readB s.here.arena (s.e.vBase.toNat + 256 * a.toNat + 4 * l) 4))

/-- Gathers rows into the latch, one a cycle; every check is made at issue, row by row, and the seals of all rows after them (R331). -/
def execMgath (n a b : Reg) (s : State) : Out :=
  let as := s.gathAddrs n a b
  let x := as.headD 0
  s.checked (firstTrap [s.chkArena (s.e.vBase.toNat + 256 * a.toNat) 256, firstTrap (as.map (fun x => chkScratch x 256 64)),
      s.chkSeals (as.map (fun x => (x, 256)))]) (fun s =>
    let rest := ((span 0 as.length).zip as).drop 1
    let g : Gather := { id := s.fresh, issued := s.cycle, sec := s.cur.sec, slot := s.cur.slot, pc := s.cur.pc,
                        rows := rest.map (fun p => (s.cycle + p.1, p.1, p.2)) }
    let s1 := (s.readLines false [(x, 256)]).pend 4 [.latch 0 (s.scr x 256)]
    if rest.isEmpty then s1 else s1.modHere (fun y => { y with gathers := y.gathers ++ [g] }))

/-! ## Drain queues (R333 to R335) -/

def State.queue (s : State) (q : Nat) : List DqEntry := tget [] s.e.dq q

/-- A queue past the entries that earlier ops of the bundle pop, while the bundle is tested (R333). -/
def State.dqRest (s : State) (q : Nat) : List DqEntry := (s.queue q).drop (s.cur.pops.filter (· == q)).length

/-- The next entry of a queue, where it has been pushed in an earlier cycle. -/
def State.dqHead (s : State) (q : Nat) : Option Word :=
  match s.dqRest q with
  | [] => none
  | d :: _ => if d.at_ < s.cycle then d.desc else none

def State.dropHead (s : State) (q : Nat) : State :=
  s.modHereE (fun e => { e with dq := tset [] e.dq q (tget [] e.dq q).tail })

/-- The underflow of a pop (reason 32). -/
def State.chkUnder (s : State) (q : Nat) : Option TrapRec := trapIf (s.queue q).isEmpty (s.dqTrap q 32)

/-- g[D] := the head descriptor, removed (R334). A pop whose head is reserved does not issue. -/
def execDqpop (d : Reg) (q : BitVec 2) (s : State) : Out :=
  match s.dqHead q.toNat with
  | none => s.checked (s.chkUnder q.toNat) id
  | some v => .next ((s.dropHead q.toNat).wrG d v 2)

/-- The rows of a dqst: scratch offset and arena offset of each, and their bytes (R335). -/
def State.dqstRows (s : State) (desc : Word) (b : Reg) : List (Nat × Nat) :=
  let t := s.e.view (2 + bitsOf desc 55 52)
  (span 0 (bitsOf desc 31 16)).map (fun r => (bitsOf (s.g b) 21 0 + 64 * bitsOf (s.g b) 63 48 * r, t.row r))
def dqstRb (desc : Word) : Nat := ceilDiv (bitsOf desc 47 32 * widthOf (bitsOf desc 51 48)) 8

/-- The scratch form of dqpop: the drained rows go to scratch (R335). -/
def execDqst (q : BitVec 2) (b : Reg) (s : State) : Out :=
  match s.dqHead q.toNat with
  | none => s.checked (s.chkUnder q.toNat) id
  | some v =>
    let rows := s.dqstRows v b
    let rb := dqstRb v
    s.checked (firstTrap (chkScratchAll (rows.map (·.1)) rb 16 :: rows.map (fun p => s.chkArena p.2 rb))) (fun s =>
      (s.dropHead q.toNat).landAt (4 + s.cur.wbeats) ((rows.map (fun p => cells p.1 (readB s.here.arena p.2 rb))).flatten))

/-! ## Accumulator spill and refill (R337, R338) -/

def State.accView (s : State) (v : BitVec 2) : View := s.e.view (18 + v.toNat)
def State.viewWidth (s : State) (v : View) : Nat := widthOf (tidOf (s.tid v.tid.toNat)).format

/-- The pieces of the scratch layout: offset and length of each row, then of the side area. -/
def State.macPieces (s : State) (v : BitVec 2) (b : Reg) : List (Nat × Nat) :=
  let w := s.accView v
  let base := bitsOf (s.g b) 21 0
  let p := bitsOf (s.g b) 63 48
  let rows := w.rows.toNat
  (span 0 rows).map (fun r => (base + 64 * p * r, w.rb (s.viewWidth w))) ++
    [(base + 64 * p * rows, ceilDiv (ceilDiv (rows * w.cols.toNat) 2) 64 * 64)]

/-- The checks of the view and of every piece. -/
def State.chkMac (s : State) (v : BitVec 2) (b : Reg) : Option TrapRec :=
  let ps := s.macPieces v b
  firstTrap [
    s.chkView (s.accView v),
    (ps.find? (fun p => decide (0x400000 < p.1 + p.2))).map (fun p => pageFault 4 p.1),
    (ps.find? (fun p => decide (p.1 % 64 ≠ 0))).map (fun p => pageFault 5 p.1)]

/-- The side-storage words of a view's elements in row-major order. -/
def elemWords (v : View) (w : Nat) : List Nat :=
  ((span 0 v.rows.toNat).map (fun i => (span 0 v.cols.toNat).map (fun j => (v.row i + j * w / 8) / 4))).flatten

/-- Nibbles packed two to a byte (R337). -/
def nibbles : List (BitVec 4) → List Byte
  | [] => []
  | [a] => [(0 : BitVec 4) ++ a]
  | a :: b :: r => (b ++ a) :: nibbles r

/-- The accumulator view and its side storage to scratch (R338). -/
def execMacst (v : BitVec 2) (b : Reg) (s : State) : Out :=
  let w := s.accView v
  let rb := w.rb (s.viewWidth w)
  let ps := s.macPieces v b
  let side := ps.getLastD (0, 0)
  s.checked (firstTrap (s.chkMac v b :: (span 0 w.rows.toNat).map (fun i => s.chkArena (w.row i) rb))) (fun s =>
    let bs := nibbles ((elemWords w (s.viewWidth w)).map (fun x => tget 0 s.here.side x))
    let rows := ((span 0 w.rows.toNat).zip ps).map (fun p => cells p.2.1 (readB s.here.arena (w.row p.1) rb))
    s.landAt (4 + s.cur.wbeats) (rows.flatten ++ cells side.1 (bs ++ List.replicate (side.2 - bs.length) 0)))

/-- The accumulator view and its side storage from scratch (R338). -/
def execMacld (v : BitVec 2) (b : Reg) (s : State) : Out :=
  let w := s.accView v
  let rb := w.rb (s.viewWidth w)
  let ps := s.macPieces v b
  let side := ps.getLastD (0, 0)
  s.checked (firstTrap [s.chkMac v b, s.chkSeals ps]) (fun s =>
    let bs := s.scr side.1 side.2
    let ws := elemWords w (s.viewWidth w)
    let srcs := ((span 0 w.rows.toNat).zip ps).map (fun p => Src.arena p.2.1 (w.row p.1) rb) ++ [.nibs side.1 ws]
    let nib (i : Nat) : BitVec 4 := ((bs.getD (i / 2) 0) >>> (4 * (i % 2))).truncate 4
    let rows := ((span 0 w.rows.toNat).zip ps).map (fun p => cells (w.row p.1) (s.scr p.2.1 rb))
    (s.readLines false ps).pend (8 + s.cur.beats)
      [s.arenaW rows.flatten, .side (((span 0 ws.length).zip ws).map (fun p => (p.2, nib p.1)))] 0 srcs)

/-! ## Loading the store (R339) -/

/-- A word that mload refuses at an address of the store. -/
def badMicro (addr : Nat) (w : BitVec 32) : Bool :=
  match decodeMicro w with
  | none => true
  | some (.uloop last _ _) => decide (last.toNat < addr + 1)
  | some _ => false

/-- Words of scratch. -/
def State.scrWords (s : State) (a n : Nat) : List (BitVec 32) :=
  (span 0 n).map (fun i => BitVec.ofNat 32 (natOf (s.scr (a + 4 * i) 4)))

/-- Words of the microprogram store := words of scratch (R339). -/
def execMload (d a b : Reg) (s : State) : Out :=
  let x := (s.g a).toNat
  let n := (s.g b).toNat
  let at_ := (s.g d).toNat
  let ws := if n ≤ 16384 then s.scrWords x n else []
  s.checked (firstTrap [
      s.chkPriv,
      trapIf (s.here.unitRuns || s.here.wait.isSome) (s.dqTrap 0 34),
      trapIf (decide (n = 0 ∨ 16384 < n ∨ 16384 < at_ + n)) (pageFault 7 x),
      chkScratch x (4 * n) 4,
      if n ≤ 16384 then s.chkEcc x (4 * n) else none,
      trapIf (((span at_ ws.length).zip ws).any (fun p => badMicro p.1 p.2)) (s.illegal 22)]) (fun s =>
    let lat := 4 + s.cur.beats
    ((s.readLines false [(x, 4 * n)]).pend lat [.store at_ ws] 0 [.words x at_ n]).modHere (fun y => { y with mloadUntil := s.cycle + lat }))

end Sys2Proof.Machine
end

