-- ==== Sys2Proof/Machine/Sha3.lean ====
section
/-! DEFINITION. SHA3-384, with which the boot ROM measures its image (27 R455). The spec names the function and gives no tables: the round constants and the rotations are computed here as the standard generates them, by a shift register and by a walk over the lanes. -/

namespace Sys2Proof.Machine

open Sys2Proof

/-- The sponge's 1,600 bits as 25 lanes, column x of row y at place x + 5 y. -/
abbrev Sponge := List Word

/-- The lane in column x of row y. -/
def Sponge.at_ (p : Sponge) (x y : Nat) : Word := p.getD (x % 5 + 5 * (y % 5)) 0

/-- A sponge from the value of each lane. -/
def Sponge.build (g : Nat → Nat → Word) : Sponge := (span 0 25).map (fun n => g (n % 5) (n / 5))

/-- One step of the shift register of the round constants, whose polynomial is x^8 + x^6 + x^5 + x^4 + 1. -/
def lfsrStep (r : Nat) : Nat := if 128 ≤ r then (2 * r) ^^^ 0x171 else 2 * r

/-- Seven steps of the register: the constant that its bits make, bit j at place 2^j − 1, and the register after them. -/
def lfsrConst (r : Nat) : Nat → Nat → Nat → Nat × Nat
  | 0, _, acc => (acc, r)
  | n + 1, j, acc => lfsrConst (lfsrStep r) n (j + 1) (acc + r % 2 * 2 ^ (2 ^ j - 1))

/-- Each column XORed with the columns on both sides, the right one rotated by one. -/
def Sponge.mixColumns (p : Sponge) : Sponge :=
  let col (x : Nat) : Word := p.at_ x 0 ^^^ p.at_ x 1 ^^^ p.at_ x 2 ^^^ p.at_ x 3 ^^^ p.at_ x 4
  let cs := (span 0 5).map col
  let mix (x : Nat) : Word := cs.getD ((x + 4) % 5) 0 ^^^ (cs.getD ((x + 1) % 5) 0).rotateLeft 1
  Sponge.build (fun x y => p.at_ x y ^^^ mix x)

/-- The walk over the 24 lanes outside the corner: at step t the lane at (x, y) moves on to (y, 2 x + 3 y), the walk's next place, rotated by the t-th triangular number. -/
def Sponge.walk (p : Sponge) : Nat → Nat → Nat → Nat → Sponge → Sponge
  | 0, _, _, _, out => out
  | n + 1, t, x, y, out =>
    let y' := (2 * x + 3 * y) % 5
    p.walk n (t + 1) y y' (out.set (y + 5 * y') ((p.at_ x y).rotateLeft (t * (t + 1) / 2 % 64)))

/-- Each lane XORed with what its two right neighbours select. -/
def Sponge.mixRows (p : Sponge) : Sponge :=
  Sponge.build (fun x y => p.at_ x y ^^^ (p.at_ (x + 2) y &&& ~~~(p.at_ (x + 1) y)))

/-- One round: the mixes and the walk between them, then the constant into the corner lane. -/
def Sponge.round (p : Sponge) (rc : Nat) : Sponge :=
  let m := p.mixColumns
  let q := (m.walk 24 1 1 0 m).mixRows
  q.set 0 (q.at_ 0 0 ^^^ wordN rc)

/-- n rounds from a state of the shift register. -/
def Sponge.rounds : Nat → Nat → Sponge → Sponge
  | 0, _, p => p
  | n + 1, r, p =>
    let k := lfsrConst r 7 0 0
    Sponge.rounds n k.2 (p.round k.1)

/-- Blocks of 104 bytes XORed into the first 13 lanes, each followed by the 24 rounds. -/
def Sponge.absorb (p : Sponge) (bs : List Byte) : Nat → Sponge
  | 0 => p
  | n + 1 =>
    let word (i : Nat) : Word := wordOf (((bs.take 104).drop (8 * i)).take 8)
    Sponge.absorb (Sponge.rounds 24 1 (Sponge.build (fun x y => p.at_ x y ^^^ word (x + 5 * y)))) (bs.drop 104) n

/-- The message padded to whole blocks: the bits 01, then 1, zeros, and 1 as the last bit. -/
def sha3Pad (bs : List Byte) : List Byte :=
  let k := 104 - bs.length % 104
  bs ++ (if k = 1 then [0x86] else [0x06] ++ List.replicate (k - 2) 0 ++ [0x80])

/-- The digest, its first byte least significant (R5). -/
def sha3_384 (bs : List Byte) : BitVec 384 :=
  let m := sha3Pad bs
  let p := Sponge.absorb (List.replicate 25 0) m (m.length / 104)
  BitVec.ofNat 384 (natOf (((p.take 6).map (fun w => bytesOf 8 w.toNat)).flatten))

end Sys2Proof.Machine
end

