-- ==== Sys2Proof/Machine/Mgmt.lean ====
section
/-! DEFINITION. Management, boot and the host (01 R14 to R22, 27 R448, R452 to R457): changes of role map, partitions and contexts, streams and tables, power, attestation, host accesses. -/

namespace Sys2Proof.Machine

open Sys2Proof

/-! ## Numbering (01 R19) -/

/-- Compute layers of a partition under a role map, in ascending order. -/
def Partition.compute (p : Partition) (roles : List Bool) : List Nat := p.layers.filter (fun l => roles.getD l true)

/-- The logical clusters of a partition under a role map: layer, physical cluster, key. -/
def Partition.numbers (p : Partition) (roles : List Bool) : List (Nat × Nat × Nat) :=
  let ls := p.compute roles
  ((span 0 ls.length).map (fun i => (span 0 24).map (fun j => (ls.getD i 0, j, clKey p.num (24 * i + j))))).flatten

/-- The routines that partition set-up loads into every microprogram store (19 R339): mm, mz and md. -/
def bootStore : Tbl (BitVec 32) :=
  [(0x3C00, 0x10000000), (0x3C01, 0x12000000), (0x3C02, 0x14000000), (0x3C03, 0x26C00000), (0x3C04, 0x3780D003), (0x3C05, 0x4A000000),
   (0x3C06, 0x50DF8040), (0x3C07, 0x08000000), (0x3C10, 0x14000000), (0x3C11, 0x5C1F8000), (0x3C12, 0x08000000), (0x3C20, 0x08000000)]

/-- A cluster at partition set-up. -/
def newCluster : Cluster := { cores := (span 0 8).map (fun k => (k, { store := bootStore })) }

/-- The number of a physical cluster of the package (01 R11). -/
def physKey (layer phys : Nat) : Nat := 24 * layer + phys

/-- Physical clusters of a set of layers. -/
def physOf (layers : List Nat) : List (Nat × Nat) := (layers.map (fun l => (span 0 24).map (fun j => (l, j)))).flatten

/-! ## Changes of role map (01 R17, R18) -/

/-- Layers whose role differs between two maps. -/
def changedLayers (old new : List Bool) : List Nat := (span 0 6).filter (fun l => old.getD l true != new.getD l true)

/-- Drained layers of a partition: compute layers whose role or whose cluster numbers change. -/
def Partition.drains (p : Partition) (old new : List Bool) : List Nat :=
  let before := p.compute old
  let after := p.compute new
  before.filter (fun l => before.findIdx (fun x => x == l) != after.findIdx (fun x => x == l) || !after.contains l)

/-- Keys of the clusters of a set of layers under the old map. -/
def State.keysOn (s : State) (roles : List Bool) (layers : List Nat) : List Nat :=
  ((s.parts.map (fun p => (p.2.numbers roles).filter (fun x => layers.contains x.1))).flatten).map (fun x => x.2.2)

/-- Step 1 of a change to a role map: packets of the affected partitions are held, and the tasks of the drained layers pre-empted (R17). -/
def State.roleBegin (s : State) (roles : List Bool) : State :=
  let changed := changedLayers s.roles roles
  let drained := (s.parts.map (fun p => if p.2.layers.any changed.contains then p.2.drains s.roles roles else [])).flatten
  let live := (s.keysOn s.roles drained).filterMap (fun c => match (s.cl c).ctx with
    | none => none
    | some x => if (s.cl c).tasks.isEmpty then none else some (x, c))
  let r : RoleChange := { step := .drain, old := s.roles, new := roles, changed := changed, drained := drained, resume := live }
  let s1 : State := { s with role := some r, parts := s.parts.map (fun p => (p.1, { p.2 with held := p.2.held || p.2.layers.any changed.contains })) }
  live.foldl (fun t x => t.preempt x.1 x.2) s1

/-- Why a role map is not set: it leaves the package or a partition without a compute layer, which is reported (R15, R22). -/
def State.roleBad (s : State) (roles : List Bool) : Bool := !roles.any id || s.parts.any (fun p => (p.2.compute roles).isEmpty)

/-- A role map is set. The command is under way until step 5 of its sequence, which gives its status; one that changes no layer is done at once (R17, 27 R457). -/
def execRoleMapSet (roles : List Bool) (s : State) : Out :=
  s.mailTurn (.roleMap roles) (
    if s.boot = .recovery then .next (s.mailStatus 1)
    else if roles.length ≠ 6 then .next (s.mailStatus 2)
    else if s.roleBad roles then .next ((s.report "illegal role map" 0).mailStatus 1)
    else if (changedLayers s.roles roles).isEmpty then .next (s.mailStatus 0)
    else .next (s.roleBegin roles))

/-- Every lazy unit of a cluster, under whatever tag, goes to the bank area (R18). -/
def State.bankAll (s : State) (c : Nat) : State :=
  let out (k : Nat) (kind : UnitKind) (t : State) (i : Nat) : State := (t.unitSave c k kind i).setTag c k kind i 0
  let core (t : State) (k : Nat) : State := (span 0 16).foldl (out k .hot) ((span 0 16).foldl (out k .bank) t)
  (span 0 4).foldl (out 0 .group) ((span 0 8).foldl core s)

/-- Offsets of layer store by memory-only layer, under a role map (13 R221). -/
def Partition.storeBase (p : Partition) (roles : List Bool) (layer : Nat) : Nat :=
  0x12000000 * ((p.layers.filter (fun l => !roles.getD l true)).findIdx (fun l => l == layer))

/-- The memory-only layer that bears an offset of layer store, and the offset within it. -/
def Partition.storeAt (p : Partition) (roles : List Bool) (off : Nat) : Option (Nat × Nat) :=
  ((p.layers.filter (fun l => !roles.getD l true))[off / 0x12000000]?).map (fun l => (l, off % 0x12000000))

/-- A location's number where layer store and what is held of it get new numbers. -/
def State.renumber (s : State) (num : Nat → Nat) : State :=
  { s with
    mem := { s.mem with hist := s.mem.hist.map (fun h => { h with pa := num h.pa }) }
    clusters := s.clusters.map (fun p => (p.1, { p.2 with held := p.2.held.map (fun h => { h with pa := num h.pa }) })) }

/-- A data-integrity fault that step 2 meets, reported with its hop and address in one word, hop × 2^52 + address (R21, log entry 37). -/
def State.flushFault (s : State) (hop addr : Nat) : State := s.report "data-integrity" (hop * 2 ^ 52 + addr)

/-- A line of layer store written back to its frame, where its bytes are found from then on by phases and by the cluster caches that hold writes to them. A poisoned line goes with its mark (R28); a line that fails its check is reported and its destination poisoned (R17 step 2, R21). -/
def State.storeBack (s : State) (key frame : Nat) : State :=
  let loc : Loc := .layer (key / 2 ^ 40) (key % 2 ^ 40) frame
  let mark := s.markAt loc
  let s1 := s.modMem (fun m => { m with
    phys := writeB m.phys frame (readB m.layer key 64)
    cipher := tset none m.cipher (frame / 64) none
    layer := m.layer.filter (fun p => decide (p.1 / 64 * 64 ≠ key))
    layerFilled := m.layerFilled.filter (fun p => decide (p.1 * 64 ≠ key))
    marks := tset none m.marks (loc.num / 64) none })
  let s2 := s1.renumber (fun n => if loc.num ≤ n ∧ n < loc.num + 64 then n - loc.num + frame else n)
  match mark with
  | none => s2.setMark (.phys frame) none
  | some m =>
    if m.kind = 2 then s2.setMark (.phys frame) (some { m with hop := 5 })
    else (s2.poison (.phys frame) 5).flushFault 5 frame

/-- The lines of layer store, with their frames, of layers that leave memory-only role. -/
def State.storeLeft (s : State) (r : RoleChange) : List (Nat × Nat) :=
  let leaving (key : Nat) : Bool := match look s.parts (key / 2 ^ 40) with
    | none => false
    | some p => match p.storeAt r.old (key % 2 ^ 40) with
      | none => false
      | some (l, _) => r.new.getD l true
  s.mem.layerFilled.filterMap (fun p => match p.2 with
    | none => none
    | some f => if leaving (64 * p.1) then some (64 * p.1, f) else none)

/-- The lines that the cluster caches of drained layers hold: cluster and line. -/
def State.cacheLeft (s : State) (r : RoleChange) : List (Nat × Nat) :=
  ((s.keysOn r.old r.drained).map (fun c => (distinct ((s.cl c).held.map (fun h => h.pa / 64)) []).map (fun n => (c, n)))).flatten

/-- A line of a cluster cache written back (R17 step 2, R21). -/
def State.cacheBack (s : State) (c line : Nat) : State :=
  let t := s.writeHome c (fun h => h.pa / 64 == line) (some s.lateInst) (some s.lateInst)
  match s.homeFails line ((s.cl c).held.filter (fun h => h.pa / 64 == line)) with
  | none => t
  | some _ => t.flushFault 7 (s.physOf (locOfNum (64 * line)))

/-- Transfers that the control core makes for a command, each charged a line to the management class of its partition (R24); one that the budget holds is left for a later window. -/
def chargedEach {A : Type} (part : A → Nat) (f : A → State → State) : List A → State → State
  | [], s => s
  | a :: r, s => match s.charge (part a) clsMgmt 1 with
    | none => chargedEach part f r s
    | some t => chargedEach part f r (f a t)

/-- The write-backs of step 2, as many as the budgets admit. -/
def State.flushStep (s : State) (r : RoleChange) : State :=
  let t := chargedEach (fun p => p.1 / 256) (fun p u => u.cacheBack p.1 p.2) (s.cacheLeft r) s
  chargedEach (fun p => p.1 / 2 ^ 40) (fun p u => u.storeBack p.1 p.2) (t.storeLeft r) t

/-- In each cycle of step 2 the write-backs that a budget held go on. -/
def State.roleEvents (s : State) : State :=
  match s.role with
  | none => s
  | some r => if r.step = .flush then s.flushStep r else s

/-- The L2 slices of the drained layers of each partition let their lines go (R17 step 2). -/
def State.slicesOut (s : State) (r : RoleChange) : State :=
  s.parts.foldl (fun t p =>
    let ls := p.2.compute r.old
    let mine := (span 0 ls.length).filter (fun i => r.drained.contains (ls.getD i 6))
    t.l2Flush p.1 ((mine.map (fun i => span (96 * i) 96)).flatten)) s

/-- Once every core of the drained layers is halted with its context saved, lazy units are written out, and dirty lines, layer store and TLBs of the affected layers flushed (R17 steps 1 and 2). -/
def execRoleFlush (s : State) : Out :=
  match s.role with
  | none => .next s
  | some r =>
    let keys := s.keysOn r.old r.drained
    let busy (c : Nat) : Bool := !(s.cl c).tasks.isEmpty || !(span 0 8).all (s.coreQuiet c) || !(s.cl c).landings.isEmpty || !(s.cl c).pwb.isEmpty
    if r.step ≠ .drain ∨ keys.any busy = true then .next s
    else
      let r1 : RoleChange := { r with step := .flush }
      let s1 := keys.foldl (fun t c => (t.switchOut c true).bankAll c) s
      let s2 := ({ s1 with role := some r1 } : State).flushStep r1
      let gone (t : TlbEntry) : Bool := match t.cl with | none => false | some c => keys.contains c
      .next (({ s2 with mem := { s2.mem with tlb := s2.mem.tlb.filter (fun t => !gone t) } } : State).slicesOut r1)

/-- Once the write-backs are acknowledged, the ports of the affected layers go dark (R17 step 3). -/
def execRoleDark (s : State) : Out :=
  match s.role with
  | none => .next s
  | some r =>
    if r.step ≠ .flush ∨ (s.cacheLeft r).isEmpty = false ∨ (s.storeLeft r).isEmpty = false then .next s
    else
      .next { s with
        role := some { r with step := .dark }
        darkPoolLayers := r.changed
        fabric := { s.fabric with darkPorts := (r.changed.map peerPortsOf).flatten } }

/-- A physical cluster before the change: that which bore its number, or one that bore none. -/
def State.physical (s : State) (p : Partition) (r : RoleChange) (layer phys : Nat) : Cluster :=
  match (p.numbers r.old).find? (fun x => x.1 == layer && x.2.1 == phys) with
  | none => tget {} s.spare (physKey layer phys)
  | some x => s.cl x.2.2

/-- A physical cluster whose contexts have been saved: its microprogram stores stay. -/
def Cluster.emptied (x : Cluster) : Cluster := { cores := (span 0 8).map (fun k => (k, { store := (x.co k).store })) }

/-- A cluster under its new number: one that is not drained as it is; else the physical cluster, with the graphs of the number's walker (R18). -/
def State.renewed (s : State) (p : Partition) (r : RoleChange) (x : Nat × Nat × Nat) : Cluster :=
  let old := s.cl x.2.2
  if r.old.getD x.1 true && !r.drained.contains x.1 then old
  else
    let y := (s.physical p r x.1 x.2.1).emptied
    { y with graphs := old.graphs, cores := y.cores.map (fun q => (q.1, { q.2 with order := (old.co q.1).order })) }

/-- The layer store moves with its layers to their new offsets (13 R221). -/
def State.storeMove (s : State) (r : RoleChange) : State :=
  let move (key : Nat) : Nat := match look s.parts (key / 2 ^ 40) with
    | none => key
    | some p => match p.storeAt r.old (key % 2 ^ 40) with
      | none => key
      | some (l, x) => layerKey (key / 2 ^ 40) (p.storeBase r.new l + x)
  let num (n : Nat) : Nat := if 2 ^ 48 ≤ n ∧ n < 2 ^ 52 then 2 ^ 48 + move (n - 2 ^ 48) else n
  let under {V : Type} (u : Nat) (f : Nat → Nat) (t : Tbl V) : Tbl V := t.foldl (fun a p => tins a (f (u * p.1) / u) p.2) []
  (s.modMem (fun m => { m with
    layer := under 1 move m.layer
    layerFilled := under 64 move m.layerFilled
    marks := under 64 num m.marks })).renumber num

/-- The slice hash of each partition whose compute layers change in number is rewritten, and its slices begin empty (R17 step 4, R20). -/
def State.rehash (s : State) (r : RoleChange) : State :=
  s.parts.foldl (fun t p =>
    let n := (p.2.compute r.old).length
    if n = (p.2.compute r.new).length then t else t.l2Flush p.1 (span 0 (96 * n))) s

/-- A graph whose walker is gone is discarded, with bit 1 of its status set; a graph that had completed keeps the bit that says so (R18, 21 R362; DEDUCED, log entry 39). -/
def State.graphLost (s : State) (g : GraphSlot) : State :=
  if !g.loaded then s
  else
    let bits : Word := if g.running then g.statusBits.zeroExtend 64 else g.word
    let s1 := if g.status = 0 then s else
      match s.writeVa g.ctx g.status.toNat (bytesOf 8 (bits ||| 2).toNat) with
      | .error r => s.writeFails g.ctx r
      | .ok t => t
    s1.report "graph discarded" g.ctx

/-- With no request outstanding on a dark port, cluster numbers, layer store and clocks follow the new map (R17 step 4). -/
def execRoleReenumerate (s : State) : Out :=
  match s.role with
  | none => .next s
  | some r =>
    let open_ := s.pool.reqs.any (fun q => decide (0 < q.sends) && r.changed.contains (q.port / 16))
    if r.step ≠ .dark ∨ open_ = true then .next s
    else
      let s1 := (s.storeMove r).rehash r
      let all := (s1.parts.map (fun p => (p.2.numbers r.new).map (fun x => (x.2.2, s1.renewed p.2 r x)))).flatten
      let s2 := (s1.clusters.filter (fun p => !all.any (fun x => x.1 == p.1))).foldl (fun t p => p.2.graphs.foldl (fun u g => u.graphLost g.2) t) s1
      let dark := (s1.parts.map (fun p => (physOf (p.2.layers.filter (fun l => !r.new.getD l true))).map (fun x =>
        (physKey x.1 x.2, if r.old.getD x.1 true then (s1.physical p.2 r x.1 x.2).emptied else tget {} s1.spare (physKey x.1 x.2))))).flatten
      .next { s2 with
        role := some { r with step := .renumber }, roles := r.new
        clusters := all.foldl (fun t x => tins t x.1 x.2) []
        spare := dark.foldl (fun t x => tset {} t x.1 x.2) [] }

/-- A drained task that does not resume: error 8 at its launch packet, or a graph that starts no further node (R18). -/
def State.taskLost (s : State) (t : Task) : State :=
  let s1 := s.report "task discarded" t.record
  let fail (part i packet : Nat) : State :=
    (s1.modStream part i (fun x => { x with error := wordN (packet % 2 ^ 52 * 4096 + 8), wait := .none })).sendMsi part 0
  match t.origin with
  | .stream part i packet => fail part i packet
  | .counted part i packet => fail part i packet
  | .node c g i => s1.modGraph t.ctx c g (fun x => { x.put i .completed with faulted := true, statusBits := x.statusBits ||| 2 })

/-- Saved state of clusters that no longer exist is discarded (R18). -/
def State.dropLost (s : State) : State :=
  let lost (c : Nat) : Bool := decide (s.clustersOf (c / 256) ≤ c % 256)
  let gone := s.shadow.filter (fun h => lost h.cl)
  let s1 : State := { s with
    shadow := s.shadow.filter (fun h => !lost h.cl)
    banked := s.banked.filter (fun b => !lost b.cl)
    xfers := s.xfers.filter (fun t => !lost t.cl)
    ctxs := s.ctxs.map (fun p => (p.1, { p.2 with preempt := p.2.preempt.filter (fun q => !lost q.1) })) }
  gone.foldl (fun t h => h.graphs.foldl (fun u g => u.graphLost g.2) (h.tasks.foldl State.taskLost t)) s1

/-- The commands that waited for a change of role map follow it, in their order of arrival (27 R457). -/
def State.mailGo (s : State) : State := { s with agenda := s.mailQueue.map Act.mail ++ s.agenda, mailQueue := [] }

/-- The ports relight, held packets run, and drained tasks resume in ascending cluster number, each when R33 lets it (R17 step 5, R18). The command that set the map is done. -/
def execRoleRelight (s : State) : Out :=
  match s.role with
  | none => .next s
  | some r =>
    if r.step ≠ .renumber then .next s
    else
      let ports := s.fabric.darkPorts
      let s1 : State := { s with
        role := none, darkPoolLayers := [], fabric := { s.fabric with darkPorts := [] }
        parts := s.parts.map (fun p => (p.1, { p.2 with held := p.2.held && !p.2.layers.any r.changed.contains })) }
      let s2 := (s1.resumePorts ports).dropLost.pumpPool
      let s3 := s2.resumeSoon (r.resume.filter s2.halted)
      .next (((s3.resumes.foldl State.tryResume s3).mailStatus 0).mailGo)

/-! ## Partitions and contexts (27 R452, 01 R22) -/

/-- A partition of free layers with at least one compute layer; its clusters, those of its memory-only layers too, start with the routines of set-up. -/
def execPartitionCreate (r : PartitionRec) (s : State) : Out :=
  let computing := r.layers.any (fun l => r.roles.getD l false)
  let s0 := if !computing && s.boot == .up && s.role.isNone then s.report "illegal role map" 0 else s
  s0.mailbox (.partition r) (refuseIf [
      (decide (5 < r.num) || decide (r.roles.length ≠ 6) || r.layers.isEmpty || r.layers.any (fun l => decide (5 < l)) ||
        decide ((distinct r.layers []).length ≠ r.layers.length), 2),
      (decide (r.service.toNat % 4 ≠ 0) || [r.overflow, r.egress, r.parked].any (fun x => decide (0x6000000000 < x.1 + x.2)) ||
        decide (5 < r.vf) || decide (2 ^ 36 < r.bar2Size), 2),
      ((look s.parts r.num).isSome || s.parts.any (fun p => p.2.vf == r.vf) || r.layers.any (fun l => s.partOf.getD l 6 != 6) || !computing, 1)]) (fun s =>
    let ls := (span 0 6).filter (fun l => r.layers.contains l)
    let roles := (span 0 6).map (fun l => if ls.contains l then r.roles.getD l true else s.roles.getD l true)
    let p : Partition := { num := r.num, layers := ls, service := r.service, spillKey := r.spillKey, cacheKey := r.cacheKey, overflow := r.overflow,
                           egress := r.egress, parked := r.parked, vf := r.vf, bar2 := r.bar2, bar2Size := r.bar2Size }
    let idle := physOf (ls.filter (fun l => !roles.getD l true))
    { s with
      roles := roles
      partOf := (span 0 6).map (fun l => if ls.contains l then r.num else s.partOf.getD l 6)
      parts := place s.parts r.num p
      clusters := (p.numbers roles).foldl (fun t x => tins t x.2.2 newCluster) s.clusters
      spare := idle.foldl (fun t x => tset {} t (physKey x.1 x.2) newCluster) s.spare })

/-- The state of a context id: free where no context has it (R452). -/
def State.ctxState (s : State) (ctx : Nat) : CtxState := match look s.ctxs ctx with | none => .free | some x => x.state

/-- A context in a partition, resident; at most 64 (R452). -/
def execContextCreate (r : ContextRec) (s : State) : Out :=
  s.mailbox (.context r) (refuseIf [
      (decide (0xFFE < r.id) || decide (r.root % 256 ≠ 0) || !physOk r.root || r.spill.any (fun x => !spillOk x.2.2.1 x.2.2.2), 2),
      ((look s.ctxs r.id).isSome || (look s.parts r.part).isNone || decide (64 ≤ s.ctxs.length), 1)]) (fun s =>
    { s with ctxs := place s.ctxs r.id {
        id := r.id, part := r.part, root := r.root, handler := r.handler, tidBase := r.tidBase, spill := r.spill, parkedMax := r.parked } })

/-- Releases of the leases of a context, those granted and those only requested (23 R379). -/
def State.releaseAll (s : State) (x : Context) : State :=
  (x.leases.filter (fun _ => !s.pool.fenced)).foldl (fun t l =>
    t.addReq { t.newReq kRelease 4 l.object l.addr 0 .none with arg0 := l.opnd, ctx := 0xFFF, part := x.part, ofSeq := false }) s

/-- An open request of a destroyed context: it runs to its response, which goes nowhere. -/
def PoolReq.orphan (r : PoolReq) : PoolReq := { r with ctx := 0xFFF, ofSeq := false, dest := .none }

/-- A cluster without a destroyed context: its cores are halted and its units carry no tag (R452, 03 R60). -/
def Cluster.without (x : Cluster) (ctx : Nat) : Cluster :=
  let free (t : Tbl Nat) : Tbl Nat := t.filter (fun p => p.2 != ctx + 1)
  let untag (y : Core) : Core := { y with bankTag := free y.bankTag, hotTag := free y.hotTag }
  let x1 : Cluster := { x with
    groupTag := free x.groupTag
    graphs := x.graphs.filter (fun g => g.2.ctx != ctx)
    cores := x.cores.map (fun p => (p.1, untag p.2)) }
  if x1.ctx = some ctx then
    { x1 with
      e := {}, ctx := none, tasks := [], touched := [], landings := [], reads := [], pwb := []
      held := x1.held.filter (fun h => h.released.isSome)
      cores := x1.cores.map (fun p => (p.1, {
        arena := p.2.arena, side := p.2.side, arenaBad := p.2.arenaBad, hot := p.2.hot, hotMarks := p.2.hotMarks
        bankTag := p.2.bankTag, hotTag := p.2.hotTag, store := p.2.store, order := p.2.order })) }
  else x1

/-- The fabric without a destroyed context: its ops end, its packets leave, those not yet sent too, and what is held for it goes (25 R399). -/
def State.fabWithout (s : State) (ctx : Nat) : State :=
  let mine (o : OutPkt) : Bool := o.pkt.src.toNat == s.fabric.self && o.pkt.ctx.toNat == ctx && decide (o.pkt.kind.toNat < 4)
  s.modFab (fun f => { f with
    ops := f.ops.filter (fun g => g.ctx != ctx)
    out := f.out.filter (fun o => !mine o)
    windows := f.windows.map (fun w => if w.owner = ctx then { w with heldPkts := [], waits := none } else w) })

/-- Pending evictions of ranges that have lost their last pin are made (13 R225). -/
def State.evictUnpinned (s : State) : State := (span 0 s.pool.ranges.length).foldl (fun t i => t.evictPending i) s

/-- A context is destroyed: cores halted, leases released, lazy units discarded, translations dropped, its id freed (R452). Its pins go with it, which R452 does not say (DESIGN CHOICE, log entry 94). -/
def execContextDestroy (ctx : Nat) (s : State) : Out :=
  s.mailbox (.destroy ctx) (refuseIf [((look s.ctxs ctx).isNone, 1)]) (fun s =>
    match look s.ctxs ctx with
    | none => s
    | some x =>
      let s1 := s.releaseAll x
      let mine := (s1.clusters.filter (fun p => p.2.ctx == some ctx)).map (·.1)
      let unbind (t : Option Stream) : Option Stream := match t with
        | none => none
        | some v => if v.ctx = ctx then none else some v
      let s2 : State := { s1 with
        ctxs := s1.ctxs.filter (fun p => p.1 != ctx)
        clusters := s1.clusters.map (fun p => (p.1, p.2.without ctx))
        shadow := s1.shadow.filter (fun h => h.ctx != ctx)
        banked := s1.banked.filter (fun b => b.ctx != ctx)
        xfers := s1.xfers.filter (fun t => t.ctx != ctx)
        arrivals := s1.arrivals.filter (fun a => !mine.contains a.cl)
        condQueue := s1.condQueue.filter (fun u => u.ctx != ctx)
        pubReqs := s1.pubReqs.filter (fun r => r.ctx != ctx)
        pubAsks := s1.pubAsks.filter (fun r => r.ctx != ctx)
        parts := s1.parts.map (fun p => (p.1, { p.2 with streams := (p.2.streams.map (fun t => (t.1, unbind t.2))).filter (fun t => t.2.isSome) }))
        mem := { s1.mem with tlb := s1.mem.tlb.filter (fun t => t.ctx != ctx), exch := s1.mem.exch.filter (fun e => e.ctx != ctx) }
        pool := { s1.pool with
          reqs := s1.pool.reqs.map (fun r => if r.ctx = ctx then r.orphan else r)
          ranges := s1.pool.ranges.map (fun r => { r with pins := r.pins.filter (· ≠ ctx) }) }
        resumes := s1.resumes.filter (fun x => x.1 != ctx)
        tripped := s1.tripped.filter (fun x => x.1 != ctx) }
      (s2.fabWithout ctx).dropUnnamed.evictUnpinned.pumpPool)

/-! ## Streams and tables -/

/-- A stream is bound to a resident context of its partition (21 R342). -/
def execStreamBind (part stream ctx : Nat) (base : BitVec 52) (size : Nat) (s : State) : Out :=
  s.mailbox (.bind part stream ctx base size) (refuseIf [
      (decide (7 < stream) || decide (size < 12) || decide (24 < size) || decide (base.toNat % 2 ^ size ≠ 0), 2),
      ((look s.parts part).isNone || (match look s.ctxs ctx with | none => true | some x => x.part != part), 1)]) (fun s =>
    let ring : Level := { base := base.toNat, len := 2 ^ size, pos := 0, loop := none }
    let t : Stream := { ctx := ctx, base := base, size := size, levels := [ring] }
    s.modPart part (fun p => { p with streams := tset none p.streams stream (some t) }))

/-- ERROR is cleared and the stream goes on (21 R342). -/
def execErrorClear (part stream : Nat) (s : State) : Out :=
  s.mailbox (.clearError part stream) (refuseIf [((s.stream part stream).isNone, 1)]) (fun s =>
    s.modStream part stream (fun t => { t with error := 0 }))

/-- A slot of a context's capability table is written as one unit (23 R376). -/
def execCapSlotWrite (ctx slot : Nat) (value : BitVec 128) (tag : Bool) (s : State) : Out :=
  s.mailbox (.capSlot ctx slot value tag) (refuseIf [(decide (65535 < slot), 2), ((look s.ctxs ctx).isNone, 1)]) (fun s =>
    s.modCtx ctx (fun x => { x with caps := if tag then place x.caps slot value else x.caps.filter (fun p => p.1 != slot) }))

/-- An entry of a context's handle table (13 R224). -/
def execHandleWrite (ctx idx : Nat) (q0 q1 q2 : Word) (s : State) : Out :=
  s.mailbox (.handle ctx idx q0 q1 q2) (refuseIf [(decide (4095 < idx), 2), ((look s.ctxs ctx).isNone, 1)]) (fun s =>
    (s.modCtx ctx (fun x => { x with handles := tset {} x.handles idx { q0 := q0, q1 := q1, q2 := q2, q3 := 0 } })).dropUnnamed)

/-- The package joins the pool under an id and a fence number; seq is 0 (23 R384, R386). -/
def execFenceAssign (pkg : BitVec 16) (fence : Word) (s : State) : Out :=
  s.mailbox (.fence pkg fence) (refuseIf [(fence == 0, 2), (s.pool.fenced, 1)]) (fun s =>
    { s with pool := { s.pool with pkg := pkg, fence := fence, seq := 0 } })

/-- The package leaves fenced state with a new id and fence number: no resident pool data, leases or buffered writes, seq 0 (23 R387). -/
def execFencedStateExit (pkg : BitVec 16) (fence : Word) (s : State) : Out :=
  s.mailbox (.leaveFenced pkg fence) (refuseIf [(fence == 0, 2), (!s.pool.fenced, 1)]) (fun s =>
    { s with
      pool := { s.pool with pkg := pkg, fence := fence, seq := 0, fenced := false, reqs := [], lines := [], ranges := s.pool.ranges.map RangeRec.clear }
      clusters := s.clusters.map (fun p => (p.1, { p.2 with pwb := [] }))
      ctxs := s.ctxs.map (fun p => (p.1, { p.2 with leases := [] })) })

/-- A key value is loaded, which nothing reads back (27 R448). -/
def execKeyLoad (idx : Nat) (key : BitVec 512) (s : State) : Out :=
  s.mailbox (.key idx key) (refuseIf [(decide (idx = 0 ∨ 63 < idx), 2)]) (fun s => { s with keys := tset 0 s.keys idx key })

/-! ## Power, pre-emption and start -/

/-- The power cap, 1.2 kW to 3.0 kW (27 R456). -/
def execPowerCapSet (watts : Nat) (s : State) : Out :=
  s.mailbox (.powerCap watts) (refuseIf [(decide (watts < 1200 ∨ 3000 < watts), 1)]) (fun s => { s with powerCap := watts })

/-- Management asks for the pre-emption of a context (03 R56). -/
def execMgmtPreempt (ctx : Nat) (s : State) : Out :=
  s.mailbox (.preempt ctx) (refuseIf [((look s.ctxs ctx).isNone, 1)]) (fun s => s.preemptAll ctx)

/-- A sequencer that ran when its core halted runs again. -/
def Seq.wake (q : Seq) : Seq := if q.wasRunning then { q with running := true, wasRunning := false } else q

/-- The context that comes back where management starts a core: the one last saved on the cluster in the middle of a task, if the core is not halted in one and the cluster runs none. -/
def State.comesBack (s : State) (cl core : Nat) : Option Nat :=
  if (s.core cl core).e.wasHalted || (s.cl cl).cores.any (fun p => p.2.task.isSome && !p.2.e.wasHalted) then none
  else ((s.shadow.filter (fun h => h.cl == cl && !h.tasks.isEmpty)).getLast?).map (fun h => h.ctx)

/-- A halted core with the sequencers that ran, at their checkpoints (27 R443). -/
def Core.start (y : Core) (cycle : Nat) : Core :=
  if y.halted && y.e.wasHalted then
    { y with halted := false, e := ({ y.e with prim := y.e.prim.wake, second := y.e.second.wake } : CoreE).restart none cycle }
  else y

/-- Management starts a halted core, with the context that comes back first, where it may take the cluster (27 R443, 03 R33). -/
def execMgmtStart (cl core : Nat) (s : State) : Out :=
  let back := s.comesBack cl core
  s.mailbox (.start cl core) (refuseIf [
      (decide (7 < core) || decide (s.clustersOf (cl / 256) ≤ cl % 256), 2), (back.any (fun x => !s.mayTake x cl), 1)]) (fun s =>
    (match back with | none => s | some x => s.switchIn x cl).modCore cl core (fun y => y.start s.cycle))

/-- The contexts that run tasks, with their clusters. -/
def State.runningOn (s : State) : List (Nat × Nat) :=
  s.clusters.filterMap (fun p => match p.2.ctx with | none => none | some x => if p.2.tasks.isEmpty then none else some (x, p.1))

/-- A die at 110 °C: every context is pre-empted, and management is told (27 R456). -/
def execThermalTrip (layer : Nat) (s : State) : Out :=
  if s.hotDies.contains layer then .next s
  else
    let t : State := { s with hotDies := s.hotDies ++ [layer], tripped := (s.tripped ++ s.runningOn).eraseDups }
    .next (s.ctxs.foldl (fun t p => t.preemptAll p.1) (t.report "110 C" layer))

/-- Below 95 °C issue resumes; once no die is hot, the contexts that were pre-empted for one resume, as R33 lets them (27 R456; log entry 85). -/
def execThermalResume (layer : Nat) (s : State) : Out :=
  let t : State := { s with hotDies := s.hotDies.filter (· ≠ layer) }
  .next (if t.hotDies.isEmpty then ({ t with tripped := [] } : State).resumeSoon s.tripped else t)

/-! ## Boot, reset and attestation (27 R455, 25 R423) -/

/-- The clocks at power-on: GANG.NOW counts from 0 in clock-lost state (25 R423). -/
def State.clockZero (s : State) : State := { s with gang := 0, window := 0, clock := {} }

/-- The boot ROM of L0: reads, checks and measures the image, and starts the control cores; a failure at any step leaves recovery. The fused counter only rises: to the value that comes with an image that has passed (log entry 96). -/
def execPowerOn (img : BootImage) (s : State) : Out :=
  if s.boot ≠ .off then .next s
  else
  let s := s.clockZero
  let alone : State := { s with boot := .recovery, controls := [true, false, false, false, false, false] }
  match img.bytes with
  | none => .next alone
  | some bs =>
    if !img.ed25519 || !img.mldsa || decide (img.version < s.fused) then .next alone
    else .next { s with boot := .up, measure := sha3_384 bs, fused := max s.fused img.fuse, controls := List.replicate 6 true }

/-- The measurement and the requester's nonce, signed under Ed25519 and ML-DSA-65 (R455). The mailbox answers in recovery too. -/
def execAttestationReport (nonce : BitVec 256) (s : State) : Out :=
  s.mailTurn (.attest nonce) (.next { s with outbox := s.outbox ++
    [.attest s.measure nonce (Config.attestEd25519 s.measure nonce) (Config.attestMldsa s.measure nonce)] })

/-- The package is reset: State.reset, with what is fused or lies outside the package kept, and the acts still to come. -/
def execPackageReset (s : State) : Out :=
  .next { State.reset with
    cycle := s.cycle, tick := s.tick, schedule := s.schedule, free := s.free, fresh := s.fresh, stamp := s.stamp
    fused := s.fused, outbox := s.outbox, mem := { host := s.mem.host } }

/-- The package leaves recovery: GANG.NOW counts from 0 in clock-lost state (25 R423). -/
def execRecoveryExit (s : State) : Out :=
  if s.boot = .recovery then .next { s.clockZero with boot := .up, controls := List.replicate 6 true } else .next s

/-! ## Host accesses (27 R450, R453, R454) -/

/-- A register of a stream as the host reads it, in the order of 21 R342. -/
def Stream.regVal (t : Stream) (n : Nat) : Word :=
  match n with
  | 0 => t.base.zeroExtend 64
  | 1 => wordN t.size
  | 2 => t.head.zeroExtend 64
  | 3 => t.tail.zeroExtend 64
  | 4 => t.launched
  | 5 => t.completed
  | 6 => t.error
  | _ => 0

/-- A byte of memory that does not exist. -/
def noByte (pa n : Nat) : Option Nat := (span pa n).find? (fun a => !physOk a)

/-- Whether a leaf that satisfies a test maps a physical address, in the tables from one on, over the levels left (27 R445 to R447). -/
def State.mapsFrom (s : State) (f : Word → Bool) (pa t : Nat) : List (Nat × Nat) → Bool
  | [] => false
  | (_, level) :: r => (span 0 (if level = 5 then 16 else 512)).any (fun i =>
      let q0 := s.physQ (t + 16 * i)
      let q1 := s.physQ (t + 16 * i + 8)
      if !bitOf q0 63 then false
      else if bitOf q0 62 then
        decide (level < 4) && !s.leafBad t i level q0 q1 && f q0 && decide (frameOf q0 ≤ pa) && decide (pa < frameOf q0 + pageSize level (bitOf q0 55))
      else level != 1 && !tableBad q0 q1 && s.mapsFrom f pa (frameOf q0) r)

/-- The lowest context of a partition with a page at a physical address, among those that a test of the leaf admits (log entry 95). -/
def State.mapsAt (s : State) (part pa : Nat) (f : Word → Bool) : Option Nat :=
  (s.ctxs.find? (fun x => x.2.part == part && s.mapsFrom f pa x.2.root walkLevels)).map (·.1)

/-- The context whose page with SEAL 1 holds a physical address. -/
def State.sealedAt (s : State) (part pa : Nat) : Option Nat := s.mapsAt part pa (fun q0 => bitOf q0 56)

/-- A data-integrity fault that the host attachment meets at a physical line, which is its address: the line is poisoned, and the context that has the page takes the fault; management is told, with the address (01 R26, R27, R28). -/
def State.hostFails (s : State) (part pa : Nat) (m : LineMark) (hop : Nat) : State :=
  let r := integrityFrom m hop 1 1 (pa / 64 * 64)
  let t := (((s.poison (.phys pa) (BitVec.ofNat 4 hop)).report "data-integrity" r.info.toNat).report "address" (pa / 64 * 64))
  match s.mapsAt part pa (fun _ => true) with
  | none => t
  | some ctx => t.ownerFault ctx r

/-- The hop that a physical line leaves on its way to the host (01 R26). -/
def homeHop (pa : Nat) : Nat := if isLpddr pa then 3 else 4

/-- The line that a host write of some bytes leaves. -/
def State.hostMerge (s : State) (pa : Nat) (bs : List Byte) : List Byte :=
  (span (pa / 64 * 64) 64).map (fun a => if pa ≤ a ∧ a < pa + bs.length then bs.getD (a - pa) 0 else s.homeByte (.phys a))

/-- A host write of the bytes of one line. Part of a marked line is not merged (01 R28). On a page with SEAL 1 the line's CRC-32C must come with it and match; on another the attachment makes the seal (R450). -/
def State.hostLine (s : State) (part pa : Nat) (bs : List Byte) (crc : Option (BitVec 32)) : State :=
  let t := (s.wrHomes none ((span 0 bs.length).map (fun i => (.phys (pa + i), bs.getD i 0)))).setMark (.phys pa) none
  match (if bs.length < 64 then s.markAt (.phys pa) else none) with
  | some m => s.hostFails part pa m (homeHop pa)
  | none =>
    if (s.sealedAt part pa).isSome ∧ crc ≠ some (sealOf (s.hostMerge pa bs)) then t.hostFails part pa { kind := 0, hop := 1 } 1
    else t

/-- Bytes of a host write, line by line. -/
def State.hostLines (s : State) (part pa : Nat) (bs : List Byte) (crc : List (BitVec 32)) : Nat → State
  | 0 => s
  | n + 1 =>
    if bs.isEmpty then s else
    let k := min bs.length (64 - pa % 64)
    (s.hostLine part pa (bs.take k) crc.head?).hostLines part (pa + k) (bs.drop k) (crc.drop 1) n

/-- A host write; one that a lease granted to a peer delays is tried again in the next cycle (11 R207). -/
def State.hostWrite (s : State) (part pa : Nat) (bs : List Byte) (crc : List (BitVec 32)) (again : MailCmd) : State :=
  if s.grantHolds none (.phys pa) bs.length then { s with schedule := s.schedule ++ [(s.cycle + 1, .mail again)] }
  else s.hostLines part pa bs crc (bs.length / 64 + 2)

/-- A host read: lines that fail their check do not leave the package (01 R28). -/
def State.hostRead (s : State) (part pa n : Nat) : State :=
  match (unitsOf 64 pa n).findSome? (fun l => (s.markAt (.phys (64 * l))).map (fun m => (64 * l, m))) with
  | some (a, m) => s.hostFails part a m (homeHop a)
  | none => { s with outbox := s.outbox ++ [.hostRead ((span pa n).map (fun a => s.outByte (.phys a)))] }

/-- What management reads through the mailbox answers with words (27 R457). -/
def State.mailRead (s : State) (i : MailCmd) (vs : List Word) : Out := s.mailTurn i (.next { s with outbox := s.outbox ++ vs.map OutMsg.reply })

/-- A host access: through BAR2, whose window of up to 64 GiB management places; a read of a stream register; a read or setting of management's. -/
def execHostAccess (acc : HostAcc) (s : State) : Out :=
  let i : MailCmd := .host acc
  match acc with
  | .read part off len =>
    (match look s.parts part with
     | none => .next s
     | some p =>
       let pa := p.bar2 + off
       if p.bar2Size < off + len then .next s
       else match noByte pa len with
       | some a => .fault (.noMemory a)
       | none => .next (s.hostRead part pa len))
  | .write part off bytes crc =>
    (match look s.parts part with
     | none => .next s
     | some p =>
       let pa := p.bar2 + off
       if p.bar2Size < off + bytes.length then .next s
       else match noByte pa bytes.length with
       | some a => .fault (.noMemory a)
       | none => .next (s.hostWrite part pa bytes crc i))
  | .streamReg part stream reg =>
    (match s.stream part stream with
     | none => .next s
     | some t => .next { s with outbox := s.outbox ++ [.reply (t.regVal reg)] })
  | .portErrors port => s.mailRead i [wordN (tget 0 s.pool.errors port)]
  | .peerErrors port => s.mailRead i [wordN (tget 0 s.fabric.errors port)]
  | .poisoned => s.mailRead i [wordN s.poisonCount, wordN s.poisonLast]
  | .prefetchStatus part stream => s.mailRead i [match s.stream part stream with | none => 0 | some t => t.pf.status]
  | .cacheSpace => s.mailRead i [wordN (0x10000 * s.hbmPages)]
  | .peerNumber n => s.mailbox i (refuseIf [(decide (992 < n), 2)]) (fun s => s.modFab (fun f => { f with self := n }))
  | .vectorEnable fn vector on =>
    if 6 < fn ∨ 2047 < vector then .next s
    else .next { s with msix := s.msix.filter (· ≠ (fn, vector)) ++ (if on then [(fn, vector)] else []) }

/-- A command that has waited (27 R457). -/
def State.mailAct (s : State) (c : MailCmd) : Out :=
  match c with
  | .roleMap r => execRoleMapSet r s
  | .partition r => execPartitionCreate r s
  | .context r => execContextCreate r s
  | .destroy x => execContextDestroy x s
  | .bind p i x b n => execStreamBind p i x b n s
  | .clearError p i => execErrorClear p i s
  | .capSlot x n v t => execCapSlotWrite x n v t s
  | .handle x n a b c => execHandleWrite x n a b c s
  | .fence p f => execFenceAssign p f s
  | .leaveFenced p f => execFencedStateExit p f s
  | .router p n e => execRouterTableWrite p n e s
  | .exportEntry n a b c d => execExportTableWrite n a b c d s
  | .key n k => execKeyLoad n k s
  | .powerCap w => execPowerCapSet w s
  | .preempt x => execMgmtPreempt x s
  | .start c k => execMgmtStart c k s
  | .attest n => execAttestationReport n s
  | .host a => execHostAccess a s
  | .resetStream x n => execFabricStreamReset x n s

end Sys2Proof.Machine
end

