-- ==== Sys2Proof/Machine/Transcend.lean ====
section
/-! DEFINITION. The transcendentals (07 R126, R127). f(x) is computed in fixed point with far more bits than any format has; the y that is rounded deviates from it by a free value within 0.01 ulp (log entry 7). -/

namespace Sys2Proof.Machine

open Sys2Proof

/-- Fraction bits of the fixed-point computation. -/
def fxBits : Nat := 1280

/-- One in fixed point. -/
def fxOne : Int := (2 ^ fxBits : Nat)

def fxMul (a b : Int) : Int := a * b / fxOne

/-- num / den × 2^e in fixed point with b fraction bits, rounded down. -/
def fxOf (b : Nat) (m : Nat) (e : Int) : Int :=
  ((m * 2 ^ (e + b).toNat / 2 ^ (-(e + b)).toNat : Nat) : Int)

/-- Σ over k of x^k / k!, from term t of index k on. -/
def fxExpSum (x : Int) : Nat → Nat → Int → Int → Int
  | 0, _, _, acc => acc
  | n + 1, k, t, acc => fxExpSum x n (k + 1) (fxMul t x / (k + 1 : Nat)) (acc + t)

/-- e^x for 0 ≤ x < 1, in fixed point. -/
def fxExp01 (x : Int) : Int := fxExpSum x 260 0 fxOne 0

/-- Σ of z^(2k+1) / (2k+1), with sign −1 for alternating, p being the current power. -/
def fxAtanSum (z2 : Int) (alt : Bool) (one : Int) : Nat → Nat → Int → Int → Int
  | 0, _, _, acc => acc
  | n + 1, k, p, acc =>
    let t := p / (2 * k + 1 : Nat)
    fxAtanSum z2 alt one n (k + 1) (p * z2 / one) (if alt && k % 2 == 1 then acc - t else acc + t)

/-- ln m for m in fixed point near 1 (between 1/2 and 2): 2 artanh((m − 1)/(m + 1)). -/
def fxLn (m : Int) : Int :=
  let z := (m - fxOne) * fxOne / (m + fxOne)
  2 * fxAtanSum (fxMul z z) false fxOne 420 0 z 0

def fxLn2 : Int := fxLn (2 * fxOne)

/-- Fraction bits of π. -/
def piBits : Nat := 2500

/-- arctan(1/n) with piBits fraction bits. -/
def fxAtanInv (n : Nat) : Int :=
  let one : Int := (2 ^ piBits : Nat)
  let z := one / (n : Int)
  fxAtanSum (z / (n : Int)) true one 560 0 z 0

/-- π with piBits fraction bits, by Machin's formula. -/
def fxPi : Int := 16 * fxAtanInv 5 - 4 * fxAtanInv 239

/-- sin or cos of |r| ≤ 1 by its series: t the current term of index k. -/
def fxTrigSum (x2 : Int) : Nat → Nat → Int → Int → Int
  | 0, _, _, acc => acc
  | n + 1, k, t, acc => fxTrigSum x2 n (k + 2) (-(fxMul t x2) / ((k + 1) * (k + 2) : Nat)) (acc + t)

def fxSinCore (r : Int) : Int := fxTrigSum (fxMul r r) 130 1 r 0
def fxCosCore (r : Int) : Int := fxTrigSum (fxMul r r) 130 0 fxOne 0

/-- A value nearer zero by more than its computation's error: sin, cos and tanh of a nonzero number lie strictly below the power of two that a series cut short may reach. -/
def fxBelow (a : Int) : Int := if a < 0 then a + 1024 else a - 1024

/-- sin x, or cos x with q0 = 1, of x = ±m × 2^e reduced exactly by a multiple of π/2. -/
def fxSin (q0 : Int) (neg : Bool) (m : Nat) (e : Int) : Int :=
  let x0 := fxOf piBits m e
  let x := if neg then -x0 else x0
  let k := (2 * x + fxPi / 2) / fxPi
  let r := (2 * x - k * fxPi) / 2 / ((2 ^ (piBits - fxBits) : Nat) : Int)
  fxBelow (match ((k + q0) % 4).toNat with
    | 0 => fxSinCore r
    | 1 => fxCosCore r
    | 2 => -(fxSinCore r)
    | _ => -(fxCosCore r))

/-- Σ of 2^n x^(2n+1) / (2n+1)!!. -/
def fxErfSum (x2 : Int) : Nat → Nat → Int → Int → Int
  | 0, _, _, acc => acc
  | n + 1, k, t, acc => fxErfSum x2 n (k + 1) (2 * fxMul t x2 / (2 * k + 3 : Nat)) (acc + t)

/-- e^x for x in fixed point, as a fixed-point number times 2^n. -/
def fxExp (x : Int) : Int × Int :=
  let n := x / fxLn2
  (fxExp01 (x - n * fxLn2), n)

/-- The functions of R126, with the number that Config.transDev takes. -/
inductive TFn | exp2 | log2 | exp | log | sin | cos | tanh | erf
  deriving DecidableEq, Repr

def TFn.num : TFn → Nat
  | .exp2 => 0 | .log2 => 1 | .exp => 2 | .log => 3 | .sin => 4 | .cos => 5 | .tanh => 6 | .erf => 7

/-- The bound of |x| from which tanh and erf lie within 2^-200 of ±1. -/
def nearOne : Int := fxOne - ((2 ^ (fxBits - 200) : Nat) : Int)

/-- f(x) of a nonzero finite x = ±m × 2^e, as a signed fixed-point number times a power of two. Where an exponential leaves every format's range, a number of the same kind stands for it. -/
def TFn.value (fn : TFn) (neg : Bool) (m : Nat) (e : Int) : Int × Int :=
  let huge := decide (12 ≤ expOf m 1 e)
  let s : Int := if neg then -1 else 1
  let x := if huge then s * 4096 * fxOne else s * fxOf fxBits m e
  match fn with
  | .exp2 => let n := x / fxOne; (fxExp01 (fxMul (x - n * fxOne) fxLn2), n)
  | .exp => fxExp x
  | .log2 => let g := expOf m 1 e; (fxLn (fxOf fxBits m (e - g)) * fxOne / fxLn2 + g * fxOne, 0)
  | .log => let g := expOf m 1 e; (fxLn (fxOf fxBits m (e - g)) + g * fxLn2, 0)
  | .sin => (fxSin 0 neg m e, 0)
  | .cos => (fxSin 1 neg m e, 0)
  | .tanh =>
    if 100 * fxOne < x.natAbs then (s * nearOne, 0)
    else
      let (a, n) := fxExp (2 * (s * x))
      let ex := a * ((2 ^ n.toNat : Nat) : Int)
      (s * fxBelow ((ex - fxOne) * fxOne / (ex + fxOne)), 0)
  | .erf =>
    if 12 * fxOne < x.natAbs then (s * nearOne, 0)
    else
      let x2 := fxMul x x
      let (a, n) := fxExp (-x2)
      let sum := fxErfSum x2 1000 0 x 0
      let rootPi : Int := (Nat.sqrt (fxPi.natAbs * 2 ^ (2 * fxBits - piBits)) : Nat)
      (2 * (fxMul sum a) * fxOne / rootPi / ((2 ^ (-n).toNat : Nat) : Int), 0)

/-- Whether f(x) is representable in the format, with its value: the powers of two of exp2 that lie in its range, and their logarithms (R126). A power of two that the format cannot represent is rounded from a y with the free deviation, as any other value (log entry 7). -/
def TFn.exact (fn : TFn) (f : FFmt) (neg : Bool) (m : Nat) (e : Int) : Option FVal :=
  match fn with
  | .exp2 =>
    let (n, nx) := roundInt .tz neg m e
    let k : Int := if neg then -(min n 4096 : Nat) else (min n 4096 : Nat)
    if nx || decide (k < f.emin - f.mb) || decide ((f.bias : Int) < k) then none else some (.fin false 1 k)
  | .log2 =>
    let g := Nat.log2 m
    if m = 2 ^ g then (let k : Int := e + g; some (.fin (decide (k < 0)) k.natAbs 0)) else none
  | .log => if decide (expOf m 1 e = 0) && m = 2 ^ Nat.log2 m then some (.fin false 0 0) else none
  | _ => none

/-- The special inputs of R127: NaN, ±∞, ±0 and the negative operands of the logarithms. -/
def TFn.special (fn : TFn) (f : FFmt) (v : FVal) : Option (Nat × Fl) :=
  let one (n : Bool) := (f.ofVal .ne false (.fin n 1 0)).1
  match v with
  | .nan s => some (f.nan, flIf s flNV)
  | .inf n =>
    (match fn with
     | .exp2 => some (if n then f.zero false else f.inf false, 0)
     | .exp => some (if n then f.zero false else f.inf false, 0)
     | .log2 => some (if n then (f.nan, flNV) else (f.inf false, 0))
     | .log => some (if n then (f.nan, flNV) else (f.inf false, 0))
     | .sin => some (f.nan, flNV)
     | .cos => some (f.nan, flNV)
     | .tanh => some (one n, 0)
     | .erf => some (one n, 0))
  | .fin n m _ =>
    if m = 0 then
      (match fn with
       | .exp2 => some (one false, 0)
       | .exp => some (one false, 0)
       | .cos => some (one false, 0)
       | .log2 => some (f.inf true, flDZ)
       | .log => some (f.inf true, flDZ)
       | .sin => some (f.zero n, 0)
       | .tanh => some (f.zero n, 0)
       | .erf => some (f.zero n, 0))
    else if n && (fn == .log2 || fn == .log) then some (f.nan, flNV)
    else none

/-- The free deviation in units of 2^-30 ulp, cut to the 0.01 ulp of R126, which is 10737418.24 of them. -/
def cutDev (d : Int) : Int := max (-10737418) (min 10737418 d)

/-- The magnitude of y kept from passing the power of two above f(x), where the spacing of the results doubles, so that a directed mode errs by less than 1.01 ulp (R126): top is that power in the unit of y. -/
def cutTop (top : Int) (y : Int) : Int := max (-top) (min top y)

/-- ROUND(y, fmt, rm) for the y of R126. -/
def FFmt.trans (f : FFmt) (fn : TFn) (rm : Rm) (x : Nat) : Nat × Fl :=
  let v := f.decode x
  match fn.special f v with
  | some r => r
  | none =>
    match v with
    | .fin neg m e =>
      (match fn.exact f neg m e with
       | some w => f.ofVal rm false w
       | none =>
         let (a, n) := fn.value neg m e
         let g := n - fxBits
         let ex := expOf a.natAbs 1 g
         let ulp := max ex f.emin - f.mb - 30
         let lo := min g ulp
         let y0 := a * ((2 ^ (g - lo).toNat : Nat) : Int)
           + cutDev (Config.transDev fn.num f.bits x) * ((2 ^ (ulp - lo).toNat : Nat) : Int)
         let y := if f.emin ≤ ex then cutTop ((2 ^ (ex + 1 - lo).toNat : Nat) : Int) y0 else y0
         let neg' := if y = 0 then decide (a < 0) else decide (y < 0)
         let (r, fl) := f.round rm false neg' y.natAbs 1 lo
         let tiny := decide (ex < f.emin)
         (r, fl ||| flNX ||| flIf (tiny && decide (r % f.signBit < 2 ^ f.mb)) flUF))
    | _ => (f.nan, 0)

end Sys2Proof.Machine
end

