-- ==== Sys2Proof/Machine/Scalar.lean ====
section
/-! DEFINITION. Scalar integer instructions of majors 0x08 to 0x0E (09 R158 to R168) and scalar floating-point instructions of majors 0x10 to 0x13 (09 R169 to R183). -/

namespace Sys2Proof.Machine

open Sys2Proof

/-! ## Integer operations at a width -/

/-- An operation at width 64, or on bits 31:0 with its result sign-extended (R158). -/
def alu (w : Bool) (f : (n : Nat) → BitVec n → BitVec n → BitVec n) (a b : Word) : Word :=
  if w then (f 32 (a.truncate 32) (b.truncate 32)).signExtend 64 else f 64 a b

def aluShl (n : Nat) (a b : BitVec n) : BitVec n := a <<< (b.toNat % n)
def aluShr (n : Nat) (a b : BitVec n) : BitVec n := a >>> (b.toNat % n)
def aluSar (n : Nat) (a b : BitVec n) : BitVec n := a.sshiftRight (b.toNat % n)
def aluRot (n : Nat) (a b : BitVec n) : BitVec n := a.rotateLeft (b.toNat % n)
def aluMin (n : Nat) (a b : BitVec n) : BitVec n := if a.toInt ≤ b.toInt then a else b
def aluMax (n : Nat) (a b : BitVec n) : BitVec n := if a.toInt ≤ b.toInt then b else a
def aluMinn (n : Nat) (a b : BitVec n) : BitVec n := if a.toNat ≤ b.toNat then a else b
def aluMaxn (n : Nat) (a b : BitVec n) : BitVec n := if a.toNat ≤ b.toNat then b else a
def aluBool (n : Nat) (c : Bool) : BitVec n := BitVec.ofNat n c.toNat
def aluSeq (n : Nat) (a b : BitVec n) : BitVec n := aluBool n (a == b)
def aluSlt (n : Nat) (a b : BitVec n) : BitVec n := aluBool n (decide (a.toInt < b.toInt))
def aluSltn (n : Nat) (a b : BitVec n) : BitVec n := aluBool n (decide (a.toNat < b.toNat))

/-- Leading zeros of an n-bit value. -/
def aluClz (n : Nat) (a : BitVec n) : BitVec n := BitVec.ofNat n (if a.toNat = 0 then n else n - 1 - Nat.log2 a.toNat)

/-- Trailing zeros among the low k bits. -/
def ctzFrom (x : Nat) : Nat → Nat
  | 0 => 0
  | k + 1 => if x % 2 = 1 then 0 else 1 + ctzFrom (x / 2) k
def aluCtz (n : Nat) (a : BitVec n) : BitVec n := BitVec.ofNat n (ctzFrom a.toNat n)

/-- One bits among the low k bits. -/
def popFrom (x : Nat) : Nat → Nat
  | 0 => 0
  | k + 1 => x % 2 + popFrom (x / 2) k
def aluPopc (n : Nat) (a : BitVec n) : BitVec n := BitVec.ofNat n (popFrom a.toNat n)

def aluMul (n : Nat) (a b : BitVec n) : BitVec n := a * b
def aluMulh (n : Nat) (a b : BitVec n) : BitVec n := BitVec.ofInt n (a.toInt * b.toInt / (2 ^ n : Nat))
def aluMulhn (n : Nat) (a b : BitVec n) : BitVec n := BitVec.ofNat n (a.toNat * b.toNat / 2 ^ n)
/-- Division with the special cases of R161. -/
def aluDiv (n : Nat) (a b : BitVec n) : BitVec n :=
  if b = 0 then BitVec.allOnes n else BitVec.ofInt n (a.toInt.tdiv b.toInt)
def aluDivn (n : Nat) (a b : BitVec n) : BitVec n :=
  if b = 0 then BitVec.allOnes n else BitVec.ofNat n (a.toNat / b.toNat)
def aluRem (n : Nat) (a b : BitVec n) : BitVec n :=
  if b = 0 then a else BitVec.ofInt n (a.toInt.tmod b.toInt)
def aluRemn (n : Nat) (a b : BitVec n) : BitVec n :=
  if b = 0 then a else BitVec.ofNat n (a.toNat % b.toNat)

def latMul : Nat := 3
def latDivInt (w : Bool) : Nat := if w then 14 else 26

/-! ## Major 0x08 (R159) -/

/-- a + b (R159). -/
def execAdd (w : Bool) (d a b : Reg) (s : State) : Out := .next (s.wrG d (alu w (fun _ x y => x + y) (s.g a) (s.g b)) 1)

/-- a − b (R159). -/
def execSub (w : Bool) (d a b : Reg) (s : State) : Out := .next (s.wrG d (alu w (fun _ x y => x - y) (s.g a) (s.g b)) 1)

/-- a AND b (R159). -/
def execAnd (w : Bool) (d a b : Reg) (s : State) : Out := .next (s.wrG d (alu w (fun _ x y => x &&& y) (s.g a) (s.g b)) 1)

/-- a OR b (R159). -/
def execOr (w : Bool) (d a b : Reg) (s : State) : Out := .next (s.wrG d (alu w (fun _ x y => x ||| y) (s.g a) (s.g b)) 1)

/-- a XOR b (R159). -/
def execXor (w : Bool) (d a b : Reg) (s : State) : Out := .next (s.wrG d (alu w (fun _ x y => x ^^^ y) (s.g a) (s.g b)) 1)

/-- a << (b mod w) (R159). -/
def execShl (w : Bool) (d a b : Reg) (s : State) : Out := .next (s.wrG d (alu w aluShl (s.g a) (s.g b)) 1)

/-- Logical right shift (R159). -/
def execShr (w : Bool) (d a b : Reg) (s : State) : Out := .next (s.wrG d (alu w aluShr (s.g a) (s.g b)) 1)

/-- Arithmetic right shift (R159). -/
def execSar (w : Bool) (d a b : Reg) (s : State) : Out := .next (s.wrG d (alu w aluSar (s.g a) (s.g b)) 1)

/-- Rotation left (R159). -/
def execRot (w : Bool) (d a b : Reg) (s : State) : Out := .next (s.wrG d (alu w aluRot (s.g a) (s.g b)) 1)

/-- Signed minimum (R159). -/
def execMin (w : Bool) (d a b : Reg) (s : State) : Out := .next (s.wrG d (alu w aluMin (s.g a) (s.g b)) 1)

/-- Signed maximum (R159). -/
def execMax (w : Bool) (d a b : Reg) (s : State) : Out := .next (s.wrG d (alu w aluMax (s.g a) (s.g b)) 1)

/-- Unsigned minimum (R159). -/
def execMinn (w : Bool) (d a b : Reg) (s : State) : Out := .next (s.wrG d (alu w aluMinn (s.g a) (s.g b)) 1)

/-- Unsigned maximum (R159). -/
def execMaxn (w : Bool) (d a b : Reg) (s : State) : Out := .next (s.wrG d (alu w aluMaxn (s.g a) (s.g b)) 1)

/-- 1 if a == b (R159). -/
def execSeq (w : Bool) (d a b : Reg) (s : State) : Out := .next (s.wrG d (alu w aluSeq (s.g a) (s.g b)) 1)

/-- 1 if a < b, signed (R159). -/
def execSlt (w : Bool) (d a b : Reg) (s : State) : Out := .next (s.wrG d (alu w aluSlt (s.g a) (s.g b)) 1)

/-- 1 if a < b, unsigned (R159). -/
def execSltn (w : Bool) (d a b : Reg) (s : State) : Out := .next (s.wrG d (alu w aluSltn (s.g a) (s.g b)) 1)

/-- Leading zeros (R159). -/
def execClz (w : Bool) (d a : Reg) (s : State) : Out :=
  .next (s.wrG d (alu w (fun n x _ => aluClz n x) (s.g a) 0) 1)

/-- Trailing zeros (R159). -/
def execCtz (w : Bool) (d a : Reg) (s : State) : Out :=
  .next (s.wrG d (alu w (fun n x _ => aluCtz n x) (s.g a) 0) 1)

/-- One bits (R159). -/
def execPopc (w : Bool) (d a : Reg) (s : State) : Out :=
  .next (s.wrG d (alu w (fun n x _ => aluPopc n x) (s.g a) 0) 1)

/-- a if gD, or its low bits under W, is not 0, else b (R159). -/
def execSel (w : Bool) (d a b : Reg) (s : State) : Out :=
  .next (s.wrG d (alu w (fun n x y => if (s.g d).truncate n = 0 then y else x) (s.g a) (s.g b)) 1)

/-- a + (b << sh) (R159). -/
def execLea (w : Bool) (sh : BitVec 2) (d a b : Reg) (s : State) : Out :=
  .next (s.wrG d (alu w (fun _ x y => x + (y <<< sh.toNat)) (s.g a) (s.g b)) 1)

/-! ## Major 0x09 (R160, R161) -/

/-- (a × b) mod 2^w (R160). -/
def execMul (w : Bool) (d a b : Reg) (s : State) : Out := .next (s.wrG d (alu w aluMul (s.g a) (s.g b)) latMul)

/-- High bits of the signed product (R160). -/
def execMulh (w : Bool) (d a b : Reg) (s : State) : Out := .next (s.wrG d (alu w aluMulh (s.g a) (s.g b)) latMul)

/-- High bits of the unsigned product (R160). -/
def execMulhn (w : Bool) (d a b : Reg) (s : State) : Out := .next (s.wrG d (alu w aluMulhn (s.g a) (s.g b)) latMul)

/-- Signed division (R160, R161). -/
def execDiv (w : Bool) (d a b : Reg) (s : State) : Out := .next (s.wrG d (alu w aluDiv (s.g a) (s.g b)) (latDivInt w))

/-- Unsigned division (R160, R161). -/
def execDivn (w : Bool) (d a b : Reg) (s : State) : Out := .next (s.wrG d (alu w aluDivn (s.g a) (s.g b)) (latDivInt w))

/-- Signed remainder (R160, R161). -/
def execRem (w : Bool) (d a b : Reg) (s : State) : Out := .next (s.wrG d (alu w aluRem (s.g a) (s.g b)) (latDivInt w))

/-- Unsigned remainder (R160, R161). -/
def execRemn (w : Bool) (d a b : Reg) (s : State) : Out := .next (s.wrG d (alu w aluRemn (s.g a) (s.g b)) (latDivInt w))

/-! ## Immediates and bit fields (R162 to R166) -/

/-- g[A] + imm (R162). -/
def execAddi (d a : Reg) (imm : Imm) (s : State) : Out := .next (s.wrG d (s.g a + imm) 1)

/-- g[A] AND imm (R163). -/
def execAndi (d a : Reg) (imm : Imm) (s : State) : Out := .next (s.wrG d (s.g a &&& imm) 1)

/-- g[A] OR imm (R163). -/
def execOri (d a : Reg) (imm : Imm) (s : State) : Out := .next (s.wrG d (s.g a ||| imm) 1)

/-- g[A] XOR imm (R163). -/
def execXori (d a : Reg) (imm : Imm) (s : State) : Out := .next (s.wrG d (s.g a ^^^ imm) 1)

/-- a << SH (R164). -/
def execShli (w : Bool) (d a sh : Reg) (s : State) : Out :=
  .next (s.wrG d (alu w (fun _ x _ => x <<< sh.toNat) (s.g a) 0) 1)

/-- zext(a, w) >> SH (R164). -/
def execShri (w : Bool) (d a sh : Reg) (s : State) : Out :=
  .next (s.wrG d (alu w (fun _ x _ => x >>> sh.toNat) (s.g a) 0) 1)

/-- sext(a, w) >> SH (R164). -/
def execSari (w : Bool) (d a sh : Reg) (s : State) : Out :=
  .next (s.wrG d (alu w (fun _ x _ => x.sshiftRight sh.toNat) (s.g a) 0) 1)

/-- A word of len + 1 one bits (R165: LEN is the length less 1). -/
def lowOnes (len : Reg) : Word := wordN (2 ^ (len.toNat + 1) - 1)

/-- The field of g[A] from pos, zero-extended (R165). -/
def execBfx (d a pos len : Reg) (s : State) : Out :=
  .next (s.wrG d ((s.g a >>> pos.toNat) &&& lowOnes len) 1)

/-- g[D] with a field from pos replaced by the low bits of g[A] (R165). -/
def execBfi (d a pos len : Reg) (s : State) : Out :=
  let m := lowOnes len <<< pos.toNat
  .next (s.wrG d ((s.g d &&& ~~~m) ||| ((s.g a <<< pos.toNat) &&& m)) 1)

/-- The sign-extended immediate (R166). -/
def execMovi (d : Reg) (imm : Imm) (s : State) : Out := .next (s.wrG d imm 1)

/-- (g[D] << 31) OR imm (R166). -/
def execMovhi (d : Reg) (imm : Imm) (s : State) : Out := .next (s.wrG d ((s.g d <<< 31) ||| imm) 1)

/-! ## Scalar floating point (R170 to R183) -/

/-- ROUND(a + b) (R170). -/
def execFadd (t : FTy) (rm : Rm) (d a b : Reg) (s : State) : Out :=
  .next (s.fRes d (latArith t) ((ftyFmt t).add rm (s.fOp t a) (s.fOp t b)))

/-- ROUND(a − b) (R170). -/
def execFsub (t : FTy) (rm : Rm) (d a b : Reg) (s : State) : Out :=
  .next (s.fRes d (latArith t) ((ftyFmt t).sub rm (s.fOp t a) (s.fOp t b)))

/-- ROUND(a × b) (R170). -/
def execFmul (t : FTy) (rm : Rm) (d a b : Reg) (s : State) : Out :=
  .next (s.fRes d (latArith t) ((ftyFmt t).mul rm (s.fOp t a) (s.fOp t b)))

/-- ROUND(a / b) (R170). -/
def execFdiv (t : FTy) (rm : Rm) (d a b : Reg) (s : State) : Out :=
  .next (s.fRes d (latDiv t) ((ftyFmt t).div rm (s.fOp t a) (s.fOp t b)))

/-- ROUND(a × b + d), d being gD at issue (R171). -/
def execFfma (t : FTy) (rm : Rm) (d a b : Reg) (s : State) : Out :=
  .next (s.fRes d (latArith t) ((ftyFmt t).fma rm (s.fOp t a) (s.fOp t b) (s.fOp t d)))

/-- The lesser operand (R172). -/
def execFmin (t : FTy) (d a b : Reg) (s : State) : Out :=
  .next (s.fRes d (latArith t) ((ftyFmt t).minmax false (s.fOp t a) (s.fOp t b)))

/-- The greater operand (R172). -/
def execFmax (t : FTy) (d a b : Reg) (s : State) : Out :=
  .next (s.fRes d (latArith t) ((ftyFmt t).minmax true (s.fOp t a) (s.fOp t b)))

/-- The comparison of R173 as 0 or 1. -/
def execFcmp (t : FTy) (c : BitVec 3) (d a b : Reg) (s : State) : Out :=
  let r := (ftyFmt t).cmp c.toNat (s.fOp t a) (s.fOp t b)
  .next (s.fRes d (latArith t) (r.1.toNat, r.2))

/-- √a (R175). -/
def execFsqrt (t : FTy) (rm : Rm) (d a : Reg) (s : State) : Out :=
  .next (s.fRes d (latDiv t) ((ftyFmt t).sqrt rm (s.fOp t a)))

/-- The exp2 of a under R126 and R127 (R176). -/
def execFexp2 (t : FTy) (rm : Rm) (d a : Reg) (s : State) : Out :=
  .next (s.fRes d (latTrans t) ((ftyFmt t).trans .exp2 rm (s.fOp t a)))

/-- The log2 of a under R126 and R127 (R176). -/
def execFlog2 (t : FTy) (rm : Rm) (d a : Reg) (s : State) : Out :=
  .next (s.fRes d (latTrans t) ((ftyFmt t).trans .log2 rm (s.fOp t a)))

/-- The exp of a under R126 and R127 (R176). -/
def execFexp (t : FTy) (rm : Rm) (d a : Reg) (s : State) : Out :=
  .next (s.fRes d (latTrans t) ((ftyFmt t).trans .exp rm (s.fOp t a)))

/-- The log of a under R126 and R127 (R176). -/
def execFlog (t : FTy) (rm : Rm) (d a : Reg) (s : State) : Out :=
  .next (s.fRes d (latTrans t) ((ftyFmt t).trans .log rm (s.fOp t a)))

/-- The sin of a under R126 and R127 (R176). -/
def execFsin (t : FTy) (rm : Rm) (d a : Reg) (s : State) : Out :=
  .next (s.fRes d (latTrans t) ((ftyFmt t).trans .sin rm (s.fOp t a)))

/-- The cos of a under R126 and R127 (R176). -/
def execFcos (t : FTy) (rm : Rm) (d a : Reg) (s : State) : Out :=
  .next (s.fRes d (latTrans t) ((ftyFmt t).trans .cos rm (s.fOp t a)))

/-- The tanh of a under R126 and R127 (R176). -/
def execFtanh (t : FTy) (rm : Rm) (d a : Reg) (s : State) : Out :=
  .next (s.fRes d (latTrans t) ((ftyFmt t).trans .tanh rm (s.fOp t a)))

/-- The erf of a under R126 and R127 (R176). -/
def execFerf (t : FTy) (rm : Rm) (d a : Reg) (s : State) : Out :=
  .next (s.fRes d (latTrans t) ((ftyFmt t).trans .erf rm (s.fOp t a)))

/-- The approximation of 1/a (R128, R177). The rounding mode has no effect. -/
def execFrcpa (t : FTy) (_rm : Rm) (d a : Reg) (s : State) : Out :=
  .next (s.fRes d (latArith t) ((ftyFmt t).rcpa (s.fOp t a)))

/-- The approximation of 1/√a (R128, R177). The rounding mode has no effect. -/
def execFrsqa (t : FTy) (_rm : Rm) (d a : Reg) (s : State) : Out :=
  .next (s.fRes d (latArith t) ((ftyFmt t).rsqa (s.fOp t a)))

/-- The class word (R178). -/
def execFclass (t : FTy) (d a : Reg) (s : State) : Out :=
  .next (s.fRes d (latArith t) ((ftyFmt t).cls (s.fOp t a), 0))

/-- Rounding to an integral value (R179). -/
def execFrnd (t : FTy) (rm : Rm) (d a : Reg) (s : State) : Out :=
  .next (s.fRes d (latArith t) ((ftyFmt t).rnd rm (s.fOp t a)))

/-- The word that fcvt writes: integer formats 7 to 9 sign-extended, the others zero-extended (R180). -/
def fcvtWord (c : Nat) (x : Nat) : Word :=
  match intFmt c with
  | some (w, true) => wordI (sextN w x)
  | _ => wordN x

/-- Conversion to format c (R180); codes 11 and 12 are emulated (R110). -/
def execFcvt (t : FTy) (rm : Rm) (c : BitVec 4) (d a : Reg) (s : State) : Out :=
  let r := encodeFmt c.toNat rm false (decodeFmt (ftyCode t) (s.fOp t a))
  if emulatedFmt c.toNat then s.emulate (latArith t) [.g d.toNat (wordN r.1)] r.2
  else .next (s.wrG d (fcvtWord c.toNat r.1) (latArith t) r.2)

/-- Conversion from integer format c (R181). -/
def execFcvtFromInt (t : FTy) (rm : Rm) (c : BitVec 4) (d a : Reg) (s : State) : Out :=
  .next (s.fRes d (latArith t) ((ftyFmt t).ofVal rm false (decodeFmt c.toNat (s.g a).toNat)))

end Sys2Proof.Machine
end

