-- ==== Sys2Proof/Machine/Vector.lean ====
section
/-! DEFINITION. Vector instructions of majors 0x20 to 0x2D (15). In slot X the row fields name the shadow view (05 R76); State.rowAt says which. -/

namespace Sys2Proof.Machine

open Sys2Proof

/-! ## Latencies (R281) -/

def vlatArith (f64 : Bool) : Nat := if f64 then 6 else 4
def vlatDiv (f64 : Bool) : Nat := if f64 then 30 else 16
def vlatTrans (f64 : Bool) : Nat := if f64 then 44 else 24

/-! ## Floating-point arithmetic (R264, R265) -/

/-- A two-operand floating-point op: f takes the format, a, b and d of each element. -/
def State.vecF (s : State) (f64 : Bool) (m : BitVec 3) (d a b : Reg) (lat : Nat) (f : FFmt → Nat → Nat → Nat → Nat × Fl) : Out :=
  let w := tWidth f64
  s.checked (s.chkRows [a.toNat, b.toNat, d.toNat]) (fun s =>
    let va := s.rowVal a.toNat
    let vb := s.rowVal b.toNat
    let vd := s.rowVal d.toNat
    s.vecW w m d lat (fun e => f (tFmt f64) (elem w va e) (elem w vb e) (elem w vd e)))

/-- A one-operand floating-point op. -/
def State.vecF1 (s : State) (f64 : Bool) (m : BitVec 3) (d a : Reg) (lat : Nat) (f : FFmt → Nat → Nat × Fl) : Out :=
  let w := tWidth f64
  s.checked (s.chkRows [a.toNat]) (fun s =>
    let va := s.rowVal a.toNat
    s.vecW w m d lat (fun e => f (tFmt f64) (elem w va e)))

/-- d − a × b, with d and −(a × b) as the terms of the sum (R264). -/
def FFmt.nms (f : FFmt) (rm : Rm) (a b d : Nat) : Nat × Fl := f.fmaV rm (f.decode a).flip (f.decode b) (f.decode d)

/-- ROUND(a + b) in each active element (R264). -/
def execVadd (f64 : Bool) (rm : Rm) (m : BitVec 3) (d a b : Reg) (s : State) : Out :=
  s.vecF f64 m d a b (vlatArith f64) (fun f x y _ => f.add rm x y)

/-- ROUND(a − b) in each active element (R264). -/
def execVsub (f64 : Bool) (rm : Rm) (m : BitVec 3) (d a b : Reg) (s : State) : Out :=
  s.vecF f64 m d a b (vlatArith f64) (fun f x y _ => f.sub rm x y)

/-- ROUND(a × b) in each active element (R264). -/
def execVmul (f64 : Bool) (rm : Rm) (m : BitVec 3) (d a b : Reg) (s : State) : Out :=
  s.vecF f64 m d a b (vlatArith f64) (fun f x y _ => f.mul rm x y)

/-- ROUND(a × b + d) in each active element (R264). -/
def execVfma (f64 : Bool) (rm : Rm) (m : BitVec 3) (d a b : Reg) (s : State) : Out :=
  s.vecF f64 m d a b (vlatArith f64) (fun f x y z => f.fma rm x y z)

/-- ROUND(d − a × b) in each active element (R264). -/
def execVfms (f64 : Bool) (rm : Rm) (m : BitVec 3) (d a b : Reg) (s : State) : Out :=
  s.vecF f64 m d a b (vlatArith f64) (fun f x y z => f.nms rm x y z)

/-- ROUND(a / b) in each active element (R264). -/
def execVdiv (f64 : Bool) (rm : Rm) (m : BitVec 3) (d a b : Reg) (s : State) : Out :=
  s.vecF f64 m d a b (vlatDiv f64) (fun f x y _ => f.div rm x y)

/-- √a in each active element (R265). -/
def execVsqrt (f64 : Bool) (rm : Rm) (m : BitVec 3) (d a : Reg) (s : State) : Out :=
  s.vecF1 f64 m d a (vlatDiv f64) (fun f x => f.sqrt rm x)

/-- The approximation of 1/a in each active element (R265, 07 R128). -/
def execVrcpa (f64 : Bool) (_rm : Rm) (m : BitVec 3) (d a : Reg) (s : State) : Out :=
  s.vecF1 f64 m d a (vlatArith f64) (fun f x => f.rcpa x)

/-- The approximation of 1/√a in each active element (R265, 07 R128). -/
def execVrsqa (f64 : Bool) (_rm : Rm) (m : BitVec 3) (d a : Reg) (s : State) : Out :=
  s.vecF1 f64 m d a (vlatArith f64) (fun f x => f.rsqa x)

/-- The exp2 of each active element (R265, 07 R126, R127). -/
def execVexp2 (f64 : Bool) (rm : Rm) (m : BitVec 3) (d a : Reg) (s : State) : Out :=
  s.vecF1 f64 m d a (vlatTrans f64) (fun f x => f.trans .exp2 rm x)

/-- The log2 of each active element (R265, 07 R126, R127). -/
def execVlog2 (f64 : Bool) (rm : Rm) (m : BitVec 3) (d a : Reg) (s : State) : Out :=
  s.vecF1 f64 m d a (vlatTrans f64) (fun f x => f.trans .log2 rm x)

/-- The exp of each active element (R265, 07 R126, R127). -/
def execVexp (f64 : Bool) (rm : Rm) (m : BitVec 3) (d a : Reg) (s : State) : Out :=
  s.vecF1 f64 m d a (vlatTrans f64) (fun f x => f.trans .exp rm x)

/-- The log of each active element (R265, 07 R126, R127). -/
def execVlog (f64 : Bool) (rm : Rm) (m : BitVec 3) (d a : Reg) (s : State) : Out :=
  s.vecF1 f64 m d a (vlatTrans f64) (fun f x => f.trans .log rm x)

/-- The sin of each active element (R265, 07 R126, R127). -/
def execVsin (f64 : Bool) (rm : Rm) (m : BitVec 3) (d a : Reg) (s : State) : Out :=
  s.vecF1 f64 m d a (vlatTrans f64) (fun f x => f.trans .sin rm x)

/-- The cos of each active element (R265, 07 R126, R127). -/
def execVcos (f64 : Bool) (rm : Rm) (m : BitVec 3) (d a : Reg) (s : State) : Out :=
  s.vecF1 f64 m d a (vlatTrans f64) (fun f x => f.trans .cos rm x)

/-- The tanh of each active element (R265, 07 R126, R127). -/
def execVtanh (f64 : Bool) (rm : Rm) (m : BitVec 3) (d a : Reg) (s : State) : Out :=
  s.vecF1 f64 m d a (vlatTrans f64) (fun f x => f.trans .tanh rm x)

/-- The erf of each active element (R265, 07 R126, R127). -/
def execVerf (f64 : Bool) (rm : Rm) (m : BitVec 3) (d a : Reg) (s : State) : Out :=
  s.vecF1 f64 m d a (vlatTrans f64) (fun f x => f.trans .erf rm x)

/-- A sign operation; a NaN gives the canonical NaN (R265). -/
def FFmt.signOp (f : FFmt) (g : FFmt → Nat → Nat) (x : Nat) : Nat × Fl :=
  match f.decode x with
  | .nan q => (f.nan, flIf q flNV)
  | _ => (g f x, 0)

/-- |a| (R265). -/
def execVabs (f64 : Bool) (m : BitVec 3) (d a : Reg) (s : State) : Out :=
  s.vecF1 f64 m d a 2 (fun f x => f.signOp FFmt.absBits x)

/-- −a (R265). -/
def execVneg (f64 : Bool) (m : BitVec 3) (d a : Reg) (s : State) : Out :=
  s.vecF1 f64 m d a 2 (fun f x => f.signOp FFmt.negBits x)

/-- The class word of each element (R265, 09 R178). -/
def execVclass (f64 : Bool) (m : BitVec 3) (d a : Reg) (s : State) : Out :=
  s.vecF1 f64 m d a 2 (fun f x => (f.cls x, 0))

/-! ## Integer and logical operations (R266) -/

/-- A lane op: f takes a, b and d of each lane as 32-bit words. -/
def State.vecI (s : State) (m : BitVec 3) (d a b : Reg) (lat : Nat)
    (f : BitVec 32 → BitVec 32 → BitVec 32 → BitVec 32) : Out :=
  s.checked (s.chkRows [a.toNat, b.toNat, d.toNat]) (fun s =>
    let va := s.rowVal a.toNat
    let vb := s.rowVal b.toNat
    let vd := s.rowVal d.toNat
    let at32 (v e : Nat) : BitVec 32 := BitVec.ofNat 32 (elem 32 v e)
    s.vecW 32 m d lat (fun e => ((f (at32 va e) (at32 vb e) (at32 vd e)).toNat, 0)))

/-- The sum of the four signed byte products (R266, vmadi). -/
def dotBytes (a b : BitVec 32) : Nat → Int
  | 0 => 0
  | i + 1 => dotBytes a b i + (a.extractLsb' (8 * i) 8).toInt * (b.extractLsb' (8 * i) 8).toInt

/-- a + b in each active lane (R266). -/
def execVaddI32 (m : BitVec 3) (d a b : Reg) (s : State) : Out := s.vecI m d a b 1 (fun x y _ => x + y)

/-- a − b in each active lane (R266). -/
def execVsubI32 (m : BitVec 3) (d a b : Reg) (s : State) : Out := s.vecI m d a b 1 (fun x y _ => x - y)

/-- a × b in each active lane (R266). -/
def execVmulI32 (m : BitVec 3) (d a b : Reg) (s : State) : Out := s.vecI m d a b 3 (fun x y _ => x * y)

/-- d plus the four signed byte products in each active lane (R266). -/
def execVmadi (m : BitVec 3) (d a b : Reg) (s : State) : Out := s.vecI m d a b 3 (fun x y z => z + BitVec.ofInt 32 (dotBytes x y 4))

/-- a AND b in each active lane (R266). -/
def execVand (m : BitVec 3) (d a b : Reg) (s : State) : Out := s.vecI m d a b 1 (fun x y _ => x &&& y)

/-- a OR b in each active lane (R266). -/
def execVor (m : BitVec 3) (d a b : Reg) (s : State) : Out := s.vecI m d a b 1 (fun x y _ => x ||| y)

/-- a XOR b in each active lane (R266). -/
def execVxor (m : BitVec 3) (d a b : Reg) (s : State) : Out := s.vecI m d a b 1 (fun x y _ => x ^^^ y)

/-- NOT a in each active lane (R266). -/
def execVnot (m : BitVec 3) (d a : Reg) (s : State) : Out := s.vecI m d a a 1 (fun x _ _ => ~~~x)

/-- a << (b mod 32) in each active lane (R266). -/
def execVshl (m : BitVec 3) (d a b : Reg) (s : State) : Out := s.vecI m d a b 1 (fun x y _ => x <<< (y.toNat % 32))

/-- a >> (b mod 32) in each active lane (R266). -/
def execVshr (m : BitVec 3) (d a b : Reg) (s : State) : Out := s.vecI m d a b 1 (fun x y _ => x >>> (y.toNat % 32))

/-- a >> (b mod 32) with sign fill in each active lane (R266). -/
def execVsar (m : BitVec 3) (d a b : Reg) (s : State) : Out := s.vecI m d a b 1 (fun x y _ => x.sshiftRight (y.toNat % 32))

/-- |a| in each active lane (R266). -/
def execVabsI32 (m : BitVec 3) (d a : Reg) (s : State) : Out := s.vecI m d a a 1 (fun x _ _ => BitVec.ofInt 32 x.toInt.natAbs)

/-- −a in each active lane (R266). -/
def execVnegI32 (m : BitVec 3) (d a : Reg) (s : State) : Out := s.vecI m d a a 1 (fun x _ _ => -x)

/-! ## Minimum, maximum, compare and select (R267 to R269) -/

/-- The lesser or greater of two elements in the order of the type (R267). -/
def vMinMax (ty : VTy) (isMax : Bool) (x y : Nat) : Nat × Fl :=
  match ty with
  | .f32 => fmt32.minmax isMax x y
  | .f64 => fmt64.minmax isMax x y
  | .i32 => (if decide (sextN 32 x ≤ sextN 32 y) == isMax then y else x, 0)
  | .n32 => (if decide (x ≤ y) == isMax then y else x, 0)

/-- A two-operand op on elements of a type. -/
def State.vecT (s : State) (ty : VTy) (m : BitVec 3) (d a b : Reg) (lat : Nat) (f : Nat → Nat → Nat × Fl) : Out :=
  let w := vtyWidth ty
  s.checked (s.chkRows [a.toNat, b.toNat]) (fun s =>
    let va := s.rowVal a.toNat
    let vb := s.rowVal b.toNat
    s.vecW w m d lat (fun e => f (elem w va e) (elem w vb e)))

/-- The lesser of each pair (R267). -/
def execVmin (ty : VTy) (m : BitVec 3) (d a b : Reg) (s : State) : Out := s.vecT ty m d a b 2 (vMinMax ty false)

/-- The greater of each pair (R267). -/
def execVmax (ty : VTy) (m : BitVec 3) (d a b : Reg) (s : State) : Out := s.vecT ty m d a b 2 (vMinMax ty true)

/-- The condition of vcmp on two elements (R268). -/
def vCond (ty : VTy) (cond x y : Nat) : Bool × Fl :=
  match ty with
  | .f32 => fmt32.cmp cond x y
  | .f64 => fmt64.cmp cond x y
  | .i32 => (intCmp cond (sextN 32 x) (sextN 32 y), 0)
  | .n32 => (intCmp cond x y, 0)

/-- A mask with the listed bits set. -/
def lanesOf : List Nat → Word
  | [] => 0
  | e :: r => lanesOf r ||| wordN (2 ^ e)

/-- Writes mask mC with the condition of each active element (R268). -/
def execVcmp (ty : VTy) (cond c m : BitVec 3) (a b : Reg) (s : State) : Out :=
  let w := vtyWidth ty
  s.checked (s.chkRows [a.toNat, b.toNat]) (fun s =>
    let va := s.rowVal a.toNat
    let vb := s.rowVal b.toNat
    let rs := (s.active m (2048 / w)).map (fun e => (e, vCond ty cond.toNat (elem w va e) (elem w vb e)))
    let mk := lanesOf ((rs.filter (fun p => p.2.1)).map (·.1))
    s.pend 2 [.m c.toNat mk] (orFl (rs.map (fun p => (0, p.2.2)))))

/-- Copies whole elements under a select mask (R269). -/
def execVsel (ty : VTy) (m : BitVec 3) (d a b : Reg) (s : State) : Out :=
  let w := vtyWidth ty
  s.checked (s.chkRows [a.toNat, b.toNat]) (fun s =>
    let va := s.rowVal a.toNat
    let vb := s.rowVal b.toNat
    let mk := s.m m.toNat
    s.rowW d 2 (packRow w ((span 0 (2048 / w)).map (fun e => if mk.getLsbD e then elem w va e else elem w vb e))))

/-! ## Conversion (R270) -/

/-- CONVERT of one element from format ff to format tf (R270). Integer formats copy when they are the same. -/
def convertElem (tf ff : Nat) (rm : Rm) (sat : Bool) (x : Nat) : Nat × Fl :=
  if tf = ff ∧ (ff = 6 ∨ (intFmt ff).isSome) then (x, 0)
  else encodeFmt tf rm sat (decodeFmt ff x)

/-- The elements converted and the row they make. -/
def convertRow (tf ff : Nat) (rm : Rm) (sat : Bool) (row : Nat) : Nat × Fl :=
  let wf := widthOf ff
  let wt := widthOf tf
  let rs := (span 0 (2048 / max wf wt)).map (fun e => convertElem tf ff rm sat (elem wf row e))
  (packRow wt (rs.map (·.1)), orFl rs)

/-- The bytes of row A that a conversion reads: the c leading elements of the source format (R270). -/
def convertBytes (tf ff : Nat) : Nat := 2048 / max (widthOf ff) (widthOf tf) * widthOf ff / 8

/-- Converts the leading elements of row A (R270); formats 11 and 12 are emulated (07 R110). -/
def execVcvt (tf ff : BitVec 4) (rm : Rm) (sat : Bool) (d a : Reg) (s : State) : Out :=
  let r := convertRow tf.toNat ff.toNat rm sat (s.rowVal a.toNat)
  match s.chkArena (s.rowAt a.toNat) (convertBytes tf.toNat ff.toNat) with
  | some t => .next (s.raise t)
  | none =>
    if emulatedFmt tf.toNat || emulatedFmt ff.toNat then
      s.emulate 4 [s.arenaW (rowCells (s.rowAt d.toNat) r.1)] r.2
    else .next (s.rowW d 4 r.1 r.2)

/-! ## Data movement (R271) -/

def wWidth (w : BitVec 2) : Nat := 8 * 2 ^ w.toNat

/-- Low halves of double-width elements of two rows (R271). -/
def execVpack (w : BitVec 2) (d a b : Reg) (s : State) : Out :=
  let k := wWidth w
  s.checked (s.chkRows [a.toNat, b.toNat]) (fun s =>
    let half (r : Reg) := (span 0 (1024 / k)).map (fun e => elem (2 * k) (s.rowVal r.toNat) e % 2 ^ k)
    s.rowW d 2 (packRow k (half a ++ half b)))

/-- Elements of half a row widened (R271). -/
def execVunpack (w : BitVec 2) (hi sx : Bool) (d a : Reg) (s : State) : Out :=
  let k := wWidth w
  let n := 2048 / k
  s.checked (s.chkRows [a.toNat]) (fun s =>
    let va := s.rowVal a.toNat
    s.rowW d 2 (packRow (2 * k) ((span 0 (n / 2)).map (fun e =>
      let x := elem k va ((if hi then n / 2 else 0) + e)
      if sx then (BitVec.ofInt (2 * k) (sextN k x)).toNat else x))))

/-- The low bits of gA in every element (R271). -/
def execVbcast (w : BitVec 2) (d a : Reg) (s : State) : Out :=
  let k := wWidth w
  .next (s.rowW d 2 (packRow k ((span 0 (2048 / k)).map (fun _ => (s.g a).toNat % 2 ^ k))))

/-- Elements of vA picked by vB (R271). -/
def execVperm (w : BitVec 2) (d a b : Reg) (s : State) : Out :=
  let k := wWidth w
  let n := 2048 / k
  s.checked (s.chkRows [a.toNat, b.toNat]) (fun s =>
    let va := s.rowVal a.toNat
    let vb := s.rowVal b.toNat
    s.rowW d 3 (packRow k ((span 0 n).map (fun e => elem k va (elem k vb e % n)))))

/-- Elements of the pair vA, vB picked by vD (R271). -/
def execVshuf (w : BitVec 2) (d a b : Reg) (s : State) : Out :=
  let k := wWidth w
  let n := 2048 / k
  s.checked (s.chkRows [a.toNat, b.toNat, d.toNat]) (fun s =>
    let va := s.rowVal a.toNat
    let vb := s.rowVal b.toNat
    let vd := s.rowVal d.toNat
    s.rowW d 3 (packRow k ((span 0 n).map (fun e =>
      let i := elem k vd e % (2 * n)
      if i < n then elem k va i else elem k vb (i - n)))))

/-- Elements moved by gB places, zeros filling (R271). -/
def execVslide (w : BitVec 2) (d a b : Reg) (s : State) : Out :=
  let k := wWidth w
  let n := 2048 / k
  s.checked (s.chkRows [a.toNat]) (fun s =>
    let va := s.rowVal a.toNat
    let sh := (s.g b).toInt
    s.rowW d 2 (packRow k ((span 0 n).map (fun (e : Nat) =>
      let i : Int := (e : Int) - sh
      if 0 ≤ i ∧ i < n then elem k va i.toNat else 0))))

/-! ## Reductions and scans (R272 to R274, 07 R123, R124) -/

/-- The combination of two elements by an operation. -/
def redStep (op : RedOp) (ty : VTy) (rm : Rm) (x y : Nat) : Nat × Fl :=
  match op with
  | .add =>
    (match ty with
     | .f32 => fmt32.add rm x y
     | .f64 => fmt64.add rm x y
     | _ => ((x + y) % 2 ^ 32, 0))
  | .min => vMinMax ty false x y
  | .max => vMinMax ty true x y
  | .and => (x &&& y, 0)
  | .or => (x ||| y, 0)
  | .xor => (x ^^^ y, 0)

/-- The result when every element is absent (R123). -/
def redAbsent (op : RedOp) (ty : VTy) : Nat :=
  match op with
  | .add => 0
  | .min => (match ty with | .f32 => fmt32.inf false | .f64 => fmt64.inf false | .i32 => 0x7FFFFFFF | .n32 => 0xFFFFFFFF)
  | .max => (match ty with | .f32 => fmt32.inf true | .f64 => fmt64.inf true | .i32 => 0x80000000 | .n32 => 0)
  | .and => 2 ^ vtyWidth ty - 1
  | .or => 0
  | .xor => 0

/-- A present or absent element, with the flags so far. -/
abbrev RedVal := Option Nat × Fl

/-- One level of the tree: neighbours combined (R123). -/
def redLevel (f : Nat → Nat → Nat × Fl) : List RedVal → List RedVal
  | (some x, p) :: (some y, q) :: r => let (v, g) := f x y; (some v, p ||| q ||| g) :: redLevel f r
  | (some x, p) :: (none, q) :: r => (some x, p ||| q) :: redLevel f r
  | (none, p) :: (some y, q) :: r => (some y, p ||| q) :: redLevel f r
  | (none, p) :: (none, q) :: r => (none, p ||| q) :: redLevel f r
  | l => l

/-- The tree over n levels. -/
def redTree (f : Nat → Nat → Nat × Fl) : Nat → List RedVal → List RedVal
  | 0, l => l
  | n + 1, l => redTree f n (redLevel f l)

/-- The elements of a row under a predicate, absent where inactive. -/
def State.redElems (s : State) (ty : VTy) (m : BitVec 3) (a : Reg) : List RedVal :=
  let w := vtyWidth ty
  let va := s.rowVal a.toNat
  (span 0 (2048 / w)).map (fun e => (if (s.mask m).getLsbD e then some (elem w va e) else none, 0))

def redFloatAdd (op : RedOp) (ty : VTy) : Bool := op == .add && (ty == .f32 || ty == .f64)
def latRed (op : RedOp) (ty : VTy) : Nat :=
  if redFloatAdd op ty then (if ty == .f64 then 12 else 14) else (if ty == .f64 then 7 else 8)
def latScan (op : RedOp) (ty : VTy) : Nat :=
  if redFloatAdd op ty then (if ty == .f64 then 18 else 20) else (if ty == .f64 then 9 else 10)

/-- The reduction over the fixed tree, in element 0 (R273). -/
def execVred (op : RedOp) (ty : VTy) (rm : Rm) (m : BitVec 3) (d a : Reg) (s : State) : Out :=
  s.checked (s.chkRows [a.toNat]) (fun s =>
    match redTree (redStep op ty rm) 6 (s.redElems ty m a) with
    | (some x, fl) :: _ => s.rowW d (latRed op ty) x fl
    | (none, fl) :: _ => s.rowW d (latRed op ty) (redAbsent op ty) fl
    | [] => s)

/-- The results of a scan after an element whose result is p: an absent element repeats it, a present one is combined with it (07 R124). -/
def scanFrom (f : Nat → Nat → Nat × Fl) : Nat → List RedVal → List (Nat × Fl)
  | _, [] => []
  | p, (none, _) :: r => (p, 0) :: scanFrom f p r
  | p, (some x, _) :: r => f p x :: scanFrom f (f p x).1 r

/-- The running combination (R274): element 0 as it is, or the absent result where it is absent. -/
def scanList (f : Nat → Nat → Nat × Fl) (absent : Nat) : List RedVal → List (Nat × Fl)
  | [] => []
  | (x, _) :: r => (x.getD absent, 0) :: scanFrom f (x.getD absent) r

/-- The scan in ascending element (R274). -/
def execVscan (op : RedOp) (ty : VTy) (rm : Rm) (m : BitVec 3) (d a : Reg) (s : State) : Out :=
  s.checked (s.chkRows [a.toNat]) (fun s =>
    let rs := scanList (redStep op ty rm) (redAbsent op ty) (s.redElems ty m a)
    s.rowW d (latScan op ty) (packRow (vtyWidth ty) (rs.map (·.1))) (orFl rs))

/-! ## Random numbers and masks (R276, R277, 07 R129) -/

/-- The key words y0 to y4 of VRNG. -/
def rngKey (key : BitVec 128) (j : Nat) : BitVec 32 :=
  let y (i : Nat) : BitVec 32 := key.extractLsb' (32 * i) 32
  if j % 5 = 4 then y 0 ^^^ y 1 ^^^ y 2 ^^^ y 3 ^^^ 0x6A5D3C91 else y (j % 5)

/-- The four words w0 to w3. -/
abbrev Rng4 := BitVec 32 × BitVec 32 × BitVec 32 × BitVec 32

def rngInject (key : BitVec 128) (j : Nat) (v : Rng4) : Rng4 :=
  (v.1 + rngKey key j, v.2.1 + rngKey key (j + 1), v.2.2.1 + rngKey key (j + 2),
   v.2.2.2 + rngKey key (j + 3) + BitVec.ofNat 32 j)

/-- Rounds n to 9, each with its rotations SH1 and SH2. -/
def rngRounds (key : BitVec 128) (n : Nat) : List (Nat × Nat) → Rng4 → Rng4
  | [], v => v
  | (s1, s2) :: r, (w0, w1, w2, w3) =>
    let a0 := w0 + w1
    let a1 := w1.rotateLeft s1 ^^^ a0
    let a2 := w2 + w3
    let a3 := w3.rotateLeft s2 ^^^ a2
    let v : Rng4 := (a0, a3, a2, a1)
    rngRounds key (n + 1) r (if n % 2 = 1 then rngInject key ((n + 1) / 2) v else v)

/-- VRNG(key, idx) (07 R129). -/
def vrngValue (key : BitVec 128) (idx : Word) : BitVec 128 :=
  let v : Rng4 := (idx.extractLsb' 0 32, idx.extractLsb' 32 32, 0x5149A3D7, 0x0E6C2B85)
  let (w0, w1, w2, w3) := rngRounds key 0
    [(13, 9), (15, 22), (26, 19), (6, 3), (17, 28), (29, 5), (16, 12), (24, 21), (7, 25), (11, 14)]
    (rngInject key 0 v)
  w3 ++ w2 ++ w1 ++ w0

/-- A row of counter-based random words (R276). -/
def execVrng (d a b : Reg) (s : State) : Out :=
  let key : BitVec 128 := s.g (a + 1) ++ s.g a
  .next (s.rowW d 6 (packRow 32 ((span 0 64).map (fun l =>
    (vrngValue key (s.g b + wordN l)).toNat % 2 ^ 32))))

/-- m[A] AND m[B] (R277). -/
def execVmand (d a b : BitVec 3) (s : State) : Out := .next (s.pend 1 [.m d.toNat (s.m a.toNat &&& s.m b.toNat)])

/-- m[A] OR m[B] (R277). -/
def execVmor (d a b : BitVec 3) (s : State) : Out := .next (s.pend 1 [.m d.toNat (s.m a.toNat ||| s.m b.toNat)])

/-- NOT m[A] (R277). -/
def execVmnot (d a : BitVec 3) (s : State) : Out := .next (s.pend 1 [.m d.toNat (~~~(s.m a.toNat))])

/-- One bits of a word. -/
def onesOf (x : Nat) : Nat → Nat
  | 0 => 0
  | k + 1 => x % 2 + onesOf (x / 2) k

/-- The number of one bits of m[A] (R277). -/
def execVmpopc (d : Reg) (a : BitVec 3) (s : State) : Out :=
  .next (s.wrG d (wordN (onesOf (s.m a.toNat).toNat 64)) 2)

/-! ## Block scales (R278 to R280) -/

/-- Whether m × 2^(127 − e) fits the target format (R279), for m not zero. -/
def scaleFits (fmt : Nat) (rm : Rm) (m : Nat) (x : Int) (e : Nat) : Bool :=
  let g := x + 127 - (e : Int)
  if fmt = 6 then decide (m * 2 ^ g.toNat ≤ 2 * 2 ^ (-g).toNat)
  else
    let f := fmtOf fmt
    let q := expOf m 1 g - f.mb
    let (n, r, d) := atQuantum m 1 g q
    decide (f.encodeMag (roundNat rm false n r d) (max q (f.emin - f.mb)) ≤ f.maxFin) || decide (q + f.mb < f.emin)

/-- The least scale byte of 0 to 254 from e on that fits. -/
def leastScale (fmt : Nat) (rm : Rm) (m : Nat) (x : Int) : Nat → Nat → Nat
  | 0, e => e
  | n + 1, e => if scaleFits fmt rm m x e then e else leastScale fmt rm m x n (e + 1)

/-- The greatest magnitude of a list of FP32 values, as (m, exponent). -/
def maxMag : List FVal → Nat × Int → Nat × Int
  | [], b => b
  | .fin _ m e :: r, b => maxMag r (if ltV false (.fin false b.1 b.2) (.fin false m e) then (m, e) else b)
  | _ :: r, b => maxMag r b

/-- The scale byte of a block (R279). -/
def blockScale (fmt : Nat) (rm : Rm) (vs : List FVal) : Nat :=
  if vs.any (fun v => match v with | .fin _ _ _ => false | _ => true) then 0xFF
  else
    let (m, x) := maxMag vs (0, 0)
    if m = 0 then 0x7F else leastScale fmt rm m x 254 0

/-- One scale byte for each block of 32 lanes (R279). -/
def execVscale (fmt : BitVec 6) (rm : Rm) (m : BitVec 3) (d a : Reg) (s : State) : Out :=
  s.checked (s.chkRows [a.toNat]) (fun s =>
    let va := s.rowVal a.toNat
    let lanes (j : Nat) := ((s.active m 64).filter (fun l => l / 32 == j)).map (fun l => fmt32.decode (elem 32 va l))
    let all := lanes 0 ++ lanes 1
    s.rowW d 6 (blockScale fmt.toNat rm (lanes 0) + 256 * blockScale fmt.toNat rm (lanes 1)) (flSN all))

/-- A value divided by a block scale (R280, 07 R104). -/
def descale (sc : Nat) (v : FVal) : FVal :=
  if sc = 255 then .nan false
  else match v with
    | .fin n m e => .fin n m (e - ((sc : Int) - 127))
    | x => x

/-- FP32 lanes encoded into W2P8 under the scale bytes of vB (R280). -/
def execVw2enc (rm : Rm) (m : BitVec 3) (d a b : Reg) (s : State) : Out :=
  s.checked (s.chkRows [a.toNat, b.toNat]) (fun s =>
    let va := s.rowVal a.toNat
    let vb := s.rowVal b.toNat
    let ls := s.active m 64
    let rs := ls.map (fun l => w2Encode rm (descale (elem 8 vb (l / 32)) (fmt32.decode (elem 32 va l))))
    let base := s.rowAt d.toNat
    s.pend 6 [s.arenaW (elemCells base 8 (ls.zip (rs.map (·.1))) ++ cells (base + 64) (List.replicate 192 0))] (orFl rs))

end Sys2Proof.Machine
end

