-- ==== Sys2Proof/Machine/Dispatch.lean ====
section
/-! DEFINITION. The dispatch of exec: one arm per constructor of Instr, each a call of its meaning. -/

namespace Sys2Proof.Machine

open Sys2Proof

/-- The meaning of each instruction. -/
def exec (i : Instr) (s : State) : Host.Outcome State Fault Refusal :=
  match i with
  | .nop => Sys2Proof.Machine.execNop s
  | .tend => Sys2Proof.Machine.execTend s
  | .yieldOp => Sys2Proof.Machine.execYieldOp s
  | .ret a pop => Sys2Proof.Machine.execRet a pop s
  | .rdtime d => Sys2Proof.Machine.execRdtime d s
  | .rdctr d sel => Sys2Proof.Machine.execRdctr d sel s
  | .xchk a b => Sys2Proof.Machine.execXchk a b s
  | .xchkV a b => Sys2Proof.Machine.execXchkV a b s
  | .gwcondSet a => Sys2Proof.Machine.execGwcondSet a s
  | .gwcondClr a => Sys2Proof.Machine.execGwcondClr a s
  | .gwcondIns a b => Sys2Proof.Machine.execGwcondIns a b s
  | .pbr t a => Sys2Proof.Machine.execPbr t a s
  | .pbri t imm => Sys2Proof.Machine.execPbri t imm s
  | .br t cond pop a => Sys2Proof.Machine.execBr t cond pop a s
  | .brl t pop d => Sys2Proof.Machine.execBrl t pop d s
  | .loop a imm => Sys2Proof.Machine.execLoop a imm s
  | .loopi cnt imm => Sys2Proof.Machine.execLoopi cnt imm s
  | .trap code => Sys2Proof.Machine.execTrap code s
  | .svc code => Sys2Proof.Machine.execSvc code s
  | .phase sc => Sys2Proof.Machine.execPhase sc s
  | .phaseProbe sc a b => Sys2Proof.Machine.execPhaseProbe sc a b s
  | .fence sc => Sys2Proof.Machine.execFence sc s
  | .stage e n => Sys2Proof.Machine.execStage e n s
  | .add w d a b => Sys2Proof.Machine.execAdd w d a b s
  | .sub w d a b => Sys2Proof.Machine.execSub w d a b s
  | .and w d a b => Sys2Proof.Machine.execAnd w d a b s
  | .or w d a b => Sys2Proof.Machine.execOr w d a b s
  | .xor w d a b => Sys2Proof.Machine.execXor w d a b s
  | .shl w d a b => Sys2Proof.Machine.execShl w d a b s
  | .shr w d a b => Sys2Proof.Machine.execShr w d a b s
  | .sar w d a b => Sys2Proof.Machine.execSar w d a b s
  | .rot w d a b => Sys2Proof.Machine.execRot w d a b s
  | .min w d a b => Sys2Proof.Machine.execMin w d a b s
  | .max w d a b => Sys2Proof.Machine.execMax w d a b s
  | .minn w d a b => Sys2Proof.Machine.execMinn w d a b s
  | .maxn w d a b => Sys2Proof.Machine.execMaxn w d a b s
  | .seq w d a b => Sys2Proof.Machine.execSeq w d a b s
  | .slt w d a b => Sys2Proof.Machine.execSlt w d a b s
  | .sltn w d a b => Sys2Proof.Machine.execSltn w d a b s
  | .clz w d a => Sys2Proof.Machine.execClz w d a s
  | .ctz w d a => Sys2Proof.Machine.execCtz w d a s
  | .popc w d a => Sys2Proof.Machine.execPopc w d a s
  | .sel w d a b => Sys2Proof.Machine.execSel w d a b s
  | .lea w sh d a b => Sys2Proof.Machine.execLea w sh d a b s
  | .mul w d a b => Sys2Proof.Machine.execMul w d a b s
  | .mulh w d a b => Sys2Proof.Machine.execMulh w d a b s
  | .mulhn w d a b => Sys2Proof.Machine.execMulhn w d a b s
  | .div w d a b => Sys2Proof.Machine.execDiv w d a b s
  | .divn w d a b => Sys2Proof.Machine.execDivn w d a b s
  | .rem w d a b => Sys2Proof.Machine.execRem w d a b s
  | .remn w d a b => Sys2Proof.Machine.execRemn w d a b s
  | .addi d a imm => Sys2Proof.Machine.execAddi d a imm s
  | .andi d a imm => Sys2Proof.Machine.execAndi d a imm s
  | .ori d a imm => Sys2Proof.Machine.execOri d a imm s
  | .xori d a imm => Sys2Proof.Machine.execXori d a imm s
  | .shli w d a sh => Sys2Proof.Machine.execShli w d a sh s
  | .shri w d a sh => Sys2Proof.Machine.execShri w d a sh s
  | .sari w d a sh => Sys2Proof.Machine.execSari w d a sh s
  | .bfx d a pos len => Sys2Proof.Machine.execBfx d a pos len s
  | .bfi d a pos len => Sys2Proof.Machine.execBfi d a pos len s
  | .movi d imm => Sys2Proof.Machine.execMovi d imm s
  | .movhi d imm => Sys2Proof.Machine.execMovhi d imm s
  | .fadd t rm d a b => Sys2Proof.Machine.execFadd t rm d a b s
  | .fsub t rm d a b => Sys2Proof.Machine.execFsub t rm d a b s
  | .fmul t rm d a b => Sys2Proof.Machine.execFmul t rm d a b s
  | .fdiv t rm d a b => Sys2Proof.Machine.execFdiv t rm d a b s
  | .ffma t rm d a b => Sys2Proof.Machine.execFfma t rm d a b s
  | .fmin t d a b => Sys2Proof.Machine.execFmin t d a b s
  | .fmax t d a b => Sys2Proof.Machine.execFmax t d a b s
  | .fcmp t c d a b => Sys2Proof.Machine.execFcmp t c d a b s
  | .fsqrt t rm d a => Sys2Proof.Machine.execFsqrt t rm d a s
  | .fexp2 t rm d a => Sys2Proof.Machine.execFexp2 t rm d a s
  | .flog2 t rm d a => Sys2Proof.Machine.execFlog2 t rm d a s
  | .fexp t rm d a => Sys2Proof.Machine.execFexp t rm d a s
  | .flog t rm d a => Sys2Proof.Machine.execFlog t rm d a s
  | .fsin t rm d a => Sys2Proof.Machine.execFsin t rm d a s
  | .fcos t rm d a => Sys2Proof.Machine.execFcos t rm d a s
  | .ftanh t rm d a => Sys2Proof.Machine.execFtanh t rm d a s
  | .ferf t rm d a => Sys2Proof.Machine.execFerf t rm d a s
  | .frcpa t rm d a => Sys2Proof.Machine.execFrcpa t rm d a s
  | .frsqa t rm d a => Sys2Proof.Machine.execFrsqa t rm d a s
  | .fclass t d a => Sys2Proof.Machine.execFclass t d a s
  | .frnd t rm d a => Sys2Proof.Machine.execFrnd t rm d a s
  | .fcvt t rm c d a => Sys2Proof.Machine.execFcvt t rm c d a s
  | .fcvtFromInt t rm c d a => Sys2Proof.Machine.execFcvtFromInt t rm c d a s
  | .ld ty wait clear d a imm => Sys2Proof.Machine.execLd ty wait clear d a imm s
  | .st ty d a imm => Sys2Proof.Machine.execSt ty d a imm s
  | .vld wait clear d a imm => Sys2Proof.Machine.execVld wait clear d a imm s
  | .vst d a imm => Sys2Proof.Machine.execVst d a imm s
  | .vldm wait clear d a cnt => Sys2Proof.Machine.execVldm wait clear d a cnt s
  | .vstm d a cnt => Sys2Proof.Machine.execVstm d a cnt s
  | .tld wait clear tv a imm => Sys2Proof.Machine.execTld wait clear tv a imm s
  | .tst tv a imm => Sys2Proof.Machine.execTst tv a imm s
  | .feset a b => Sys2Proof.Machine.execFeset a b s
  | .feclr a b => Sys2Proof.Machine.execFeclr a b s
  | .atom i32 op q a b => Sys2Proof.Machine.execAtom i32 op q a b s
  | .sbind q a => Sys2Proof.Machine.execSbind q a s
  | .sunbind q => Sys2Proof.Machine.execSunbind q s
  | .sstatVal d q => Sys2Proof.Machine.execSstatVal d q s
  | .sstatQ d q => Sys2Proof.Machine.execSstatQ d q s
  | .sstatCe d e => Sys2Proof.Machine.execSstatCe d e s
  | .sstatCf d e => Sys2Proof.Machine.execSstatCf d e s
  | .sstatPut d => Sys2Proof.Machine.execSstatPut d s
  | .gget d a b => Sys2Proof.Machine.execGget d a b s
  | .gput d a b => Sys2Proof.Machine.execGput d a b s
  | .pld ty q k a => Sys2Proof.Machine.execPld ty q k a s
  | .pst ty k a b => Sys2Proof.Machine.execPst ty k a b s
  | .patom op q k a b => Sys2Proof.Machine.execPatom op q k a b s
  | .pget k a b l => Sys2Proof.Machine.execPget k a b l s
  | .lease k a b => Sys2Proof.Machine.execLease k a b s
  | .lrel k a b => Sys2Proof.Machine.execLrel k a b s
  | .capld k a => Sys2Proof.Machine.execCapld k a s
  | .capst k a => Sys2Proof.Machine.execCapst k a s
  | .capder k kb a b => Sys2Proof.Machine.execCapder k kb a b s
  | .capchk k a b => Sys2Proof.Machine.execCapchk k a b s
  | .publish sc a => Sys2Proof.Machine.execPublish sc a s
  | .reshPin a => Sys2Proof.Machine.execReshPin a s
  | .reshUnpin a => Sys2Proof.Machine.execReshUnpin a s
  | .reshPrio a b => Sys2Proof.Machine.execReshPrio a b s
  | .evict a => Sys2Proof.Machine.execEvict a s
  | .evictDemote a => Sys2Proof.Machine.execEvictDemote a s
  | .pref a => Sys2Proof.Machine.execPref a s
  | .vadd f64 rm m d a b => Sys2Proof.Machine.execVadd f64 rm m d a b s
  | .vsub f64 rm m d a b => Sys2Proof.Machine.execVsub f64 rm m d a b s
  | .vmul f64 rm m d a b => Sys2Proof.Machine.execVmul f64 rm m d a b s
  | .vfma f64 rm m d a b => Sys2Proof.Machine.execVfma f64 rm m d a b s
  | .vfms f64 rm m d a b => Sys2Proof.Machine.execVfms f64 rm m d a b s
  | .vdiv f64 rm m d a b => Sys2Proof.Machine.execVdiv f64 rm m d a b s
  | .vsqrt f64 rm m d a => Sys2Proof.Machine.execVsqrt f64 rm m d a s
  | .vrcpa f64 rm m d a => Sys2Proof.Machine.execVrcpa f64 rm m d a s
  | .vrsqa f64 rm m d a => Sys2Proof.Machine.execVrsqa f64 rm m d a s
  | .vexp2 f64 rm m d a => Sys2Proof.Machine.execVexp2 f64 rm m d a s
  | .vlog2 f64 rm m d a => Sys2Proof.Machine.execVlog2 f64 rm m d a s
  | .vexp f64 rm m d a => Sys2Proof.Machine.execVexp f64 rm m d a s
  | .vlog f64 rm m d a => Sys2Proof.Machine.execVlog f64 rm m d a s
  | .vsin f64 rm m d a => Sys2Proof.Machine.execVsin f64 rm m d a s
  | .vcos f64 rm m d a => Sys2Proof.Machine.execVcos f64 rm m d a s
  | .vtanh f64 rm m d a => Sys2Proof.Machine.execVtanh f64 rm m d a s
  | .verf f64 rm m d a => Sys2Proof.Machine.execVerf f64 rm m d a s
  | .vabs f64 m d a => Sys2Proof.Machine.execVabs f64 m d a s
  | .vneg f64 m d a => Sys2Proof.Machine.execVneg f64 m d a s
  | .vclass f64 m d a => Sys2Proof.Machine.execVclass f64 m d a s
  | .vaddI32 m d a b => Sys2Proof.Machine.execVaddI32 m d a b s
  | .vsubI32 m d a b => Sys2Proof.Machine.execVsubI32 m d a b s
  | .vmulI32 m d a b => Sys2Proof.Machine.execVmulI32 m d a b s
  | .vmadi m d a b => Sys2Proof.Machine.execVmadi m d a b s
  | .vand m d a b => Sys2Proof.Machine.execVand m d a b s
  | .vor m d a b => Sys2Proof.Machine.execVor m d a b s
  | .vxor m d a b => Sys2Proof.Machine.execVxor m d a b s
  | .vnot m d a => Sys2Proof.Machine.execVnot m d a s
  | .vshl m d a b => Sys2Proof.Machine.execVshl m d a b s
  | .vshr m d a b => Sys2Proof.Machine.execVshr m d a b s
  | .vsar m d a b => Sys2Proof.Machine.execVsar m d a b s
  | .vabsI32 m d a => Sys2Proof.Machine.execVabsI32 m d a s
  | .vnegI32 m d a => Sys2Proof.Machine.execVnegI32 m d a s
  | .vmin ty m d a b => Sys2Proof.Machine.execVmin ty m d a b s
  | .vmax ty m d a b => Sys2Proof.Machine.execVmax ty m d a b s
  | .vcmp ty cond c m a b => Sys2Proof.Machine.execVcmp ty cond c m a b s
  | .vsel ty m d a b => Sys2Proof.Machine.execVsel ty m d a b s
  | .vcvt tf ff rm sat d a => Sys2Proof.Machine.execVcvt tf ff rm sat d a s
  | .vpack w d a b => Sys2Proof.Machine.execVpack w d a b s
  | .vunpack w hi sx d a => Sys2Proof.Machine.execVunpack w hi sx d a s
  | .vbcast w d a => Sys2Proof.Machine.execVbcast w d a s
  | .vperm w d a b => Sys2Proof.Machine.execVperm w d a b s
  | .vshuf w d a b => Sys2Proof.Machine.execVshuf w d a b s
  | .vslide w d a b => Sys2Proof.Machine.execVslide w d a b s
  | .vred op ty rm m d a => Sys2Proof.Machine.execVred op ty rm m d a s
  | .vscan op ty rm m d a => Sys2Proof.Machine.execVscan op ty rm m d a s
  | .vrng d a b => Sys2Proof.Machine.execVrng d a b s
  | .vmand d a b => Sys2Proof.Machine.execVmand d a b s
  | .vmor d a b => Sys2Proof.Machine.execVmor d a b s
  | .vmnot d a => Sys2Proof.Machine.execVmnot d a s
  | .vmpopc d a => Sys2Proof.Machine.execVmpopc d a s
  | .vscale fmt rm m d a => Sys2Proof.Machine.execVscale fmt rm m d a s
  | .vw2enc rm m d a b => Sys2Proof.Machine.execVw2enc rm m d a b s
  | .rvmul t rm d a b => Sys2Proof.Machine.execRvmul t rm d a b s
  | .urmul t rm d a b => Sys2Proof.Machine.execUrmul t rm d a b s
  | .rvfma t rm d a b => Sys2Proof.Machine.execRvfma t rm d a b s
  | .urfma t rm d a b => Sys2Proof.Machine.execUrfma t rm d a b s
  | .rvadd t rm d a b => Sys2Proof.Machine.execRvadd t rm d a b s
  | .uradd t rm d a b => Sys2Proof.Machine.execUradd t rm d a b s
  | .rvcvt tf ff rm d a => Sys2Proof.Machine.execRvcvt tf ff rm d a s
  | .urcvt tf ff rm d a => Sys2Proof.Machine.execUrcvt tf ff rm d a s
  | .rvrelu bf d a => Sys2Proof.Machine.execRvrelu bf d a s
  | .urrelu bf d a => Sys2Proof.Machine.execUrrelu bf d a s
  | .rvscale bf rm d a b => Sys2Proof.Machine.execRvscale bf rm d a b s
  | .urscale bf rm d a b => Sys2Proof.Machine.execUrscale bf rm d a b s
  | .rvdrop bf d a m => Sys2Proof.Machine.execRvdrop bf d a m s
  | .urdrop bf d a m => Sys2Proof.Machine.execUrdrop bf d a m s
  | .pusht v b => Sys2Proof.Machine.execPusht v b s
  | .popt v b => Sys2Proof.Machine.execPopt v b s
  | .rsmark d a => Sys2Proof.Machine.execRsmark d a s
  | .rsck a b => Sys2Proof.Machine.execRsck a b s
  | .mcall ent => Sys2Proof.Machine.execMcall ent s
  | .routineStart cl core => Sys2Proof.Machine.execRoutineStart cl core s
  | .routineTimeout cl core => Sys2Proof.Machine.execRoutineTimeout cl core s
  | .drainPush cl core => Sys2Proof.Machine.execDrainPush cl core s
  | .unop => Sys2Proof.Machine.execUnop s
  | .uend => Sys2Proof.Machine.execUend s
  | .uxset x imm => Sys2Proof.Machine.execUxset x imm s
  | .uxadd x imm => Sys2Proof.Machine.execUxadd x imm s
  | .uxldp x p h => Sys2Proof.Machine.execUxldp x p h s
  | .ukadd src x imm => Sys2Proof.Machine.execUkadd src x imm s
  | .uloop last src count => Sys2Proof.Machine.execUloop last src count s
  | .ubnz x target => Sys2Proof.Machine.execUbnz x target s
  | .uwait n => Sys2Proof.Machine.execUwait n s
  | .uwld xb kn => Sys2Proof.Machine.execUwld xb kn s
  | .umac xa xk xc n kn adv => Sys2Proof.Machine.execUmac xa xk xc n kn adv s
  | .uzero xc n => Sys2Proof.Machine.execUzero xc n s
  | .uxmov xd xs => Sys2Proof.Machine.execUxmov xd xs s
  | .mparm p a => Sys2Proof.Machine.execMparm p a s
  | .mfoffSet o a => Sys2Proof.Machine.execMfoffSet o a s
  | .mfoff o a l => Sys2Proof.Machine.execMfoff o a l s
  | .mgath n a b => Sys2Proof.Machine.execMgath n a b s
  | .dqpop d q => Sys2Proof.Machine.execDqpop d q s
  | .dqst q b => Sys2Proof.Machine.execDqst q b s
  | .macst v b => Sys2Proof.Machine.execMacst v b s
  | .macld v b => Sys2Proof.Machine.execMacld v b s
  | .mload d a b => Sys2Proof.Machine.execMload d a b s
  | .fwr ntf k a b => Sys2Proof.Machine.execFwr ntf k a b s
  | .fatom op q k a b => Sys2Proof.Machine.execFatom op q k a b s
  | .freq q k b => Sys2Proof.Machine.execFreq q k b s
  | .fmc ntf k a b => Sys2Proof.Machine.execFmc ntf k a b s
  | .fstatOut d => Sys2Proof.Machine.execFstatOut d s
  | .fstatDone d => Sys2Proof.Machine.execFstatDone d s
  | .fstatErr d => Sys2Proof.Machine.execFstatErr d s
  | .fstatPeer d a => Sys2Proof.Machine.execFstatPeer d a s
  | .fgrp a b => Sys2Proof.Machine.execFgrp a b s
  | .csrr d csr => Sys2Proof.Machine.execCsrr d csr s
  | .csrw d csr => Sys2Proof.Machine.execCsrw d csr s
  | .csrwFlags d => Sys2Proof.Machine.execCsrwFlags d s
  | .csrwMode d => Sys2Proof.Machine.execCsrwMode d s
  | .csrwStage d => Sys2Proof.Machine.execCsrwStage d s
  | .csrwRsSpill limit d => Sys2Proof.Machine.execCsrwRsSpill limit d s
  | .eret => Sys2Proof.Machine.execEret s
  | .tlbinv d a b => Sys2Proof.Machine.execTlbinv d a b s
  | .vwset view a b => Sys2Proof.Machine.execVwset view a b s
  | .tidset a b => Sys2Proof.Machine.execTidset a b s
  | .halt => Sys2Proof.Machine.execHalt s
  | .copyx dst src d a b => Sys2Proof.Machine.execCopyx dst src d a b s
  | .yieldCycle cl core => Sys2Proof.Machine.execYieldCycle cl core s
  | .scratchBufferDrain cl bank => Sys2Proof.Machine.execScratchBufferDrain cl bank s
  | .lineLanding xfer line => Sys2Proof.Machine.execLineLanding xfer line s
  | .streamSlotLand arrival => Sys2Proof.Machine.execStreamSlotLand arrival s
  | .copyEntryStart cl e => Sys2Proof.Machine.execCopyEntryStart cl e s
  | .copyEntryComplete cl e => Sys2Proof.Machine.execCopyEntryComplete cl e s
  | .spillLine cl core => Sys2Proof.Machine.execSpillLine cl core s
  | .refillLine cl core => Sys2Proof.Machine.execRefillLine cl core s
  | .lazyUnitMove cl core kind idx => Sys2Proof.Machine.execLazyUnitMove cl core kind idx s
  | .preemptWatchdog ctx cl => Sys2Proof.Machine.execPreemptWatchdog ctx cl s
  | .contextHalt ctx cl => Sys2Proof.Machine.execContextHalt ctx cl s
  | .taskComplete cl task => Sys2Proof.Machine.execTaskComplete cl task s
  | .graphNodeLaunch cl slot node => Sys2Proof.Machine.execGraphNodeLaunch cl slot node s
  | .conditionalNodeEval cl slot node => Sys2Proof.Machine.execConditionalNodeEval cl slot node s
  | .whileNodeEval cl slot node => Sys2Proof.Machine.execWhileNodeEval cl slot node s
  | .graphComplete cl slot => Sys2Proof.Machine.execGraphComplete cl slot s
  | .condWordUpdate update => Sys2Proof.Machine.execCondWordUpdate update s
  | .poolResponse rsp => Sys2Proof.Machine.execPoolResponse rsp s
  | .poolRetransmit req => Sys2Proof.Machine.execPoolRetransmit req s
  | .leaseGrant rsp => Sys2Proof.Machine.execLeaseGrant rsp s
  | .leaseExpiry ctx idx => Sys2Proof.Machine.execLeaseExpiry ctx idx s
  | .promotionComplete range => Sys2Proof.Machine.execPromotionComplete range s
  | .deadlineMiss part stream watch => Sys2Proof.Machine.execDeadlineMiss part stream watch s
  | .budgetWindow => Sys2Proof.Machine.execBudgetWindow s
  | .publishExchange ctx idx => Sys2Proof.Machine.execPublishExchange ctx idx s
  | .doorbell part stream tail => Sys2Proof.Machine.execDoorbell part stream tail s
  | .nopPacket => Sys2Proof.Machine.execNopPacket s
  | .launchTask pre addr => Sys2Proof.Machine.execLaunchTask pre addr s
  | .launchGraph pre addr => Sys2Proof.Machine.execLaunchGraph pre addr s
  | .launchGraphResident pre cluster graph => Sys2Proof.Machine.execLaunchGraphResident pre cluster graph s
  | .launchStart part stream => Sys2Proof.Machine.execLaunchStart part stream s
  | .timed pre kind t addr gang => Sys2Proof.Machine.execTimed pre kind t addr gang s
  | .indirect addr len => Sys2Proof.Machine.execIndirect addr len s
  | .pred sense span addr mask value => Sys2Proof.Machine.execPred sense span addr mask value s
  | .loopPacket span rep => Sys2Proof.Machine.execLoopPacket span rep s
  | .writeMemory addr data => Sys2Proof.Machine.execWriteMemory addr data s
  | .writeCondWord cluster graph value => Sys2Proof.Machine.execWriteCondWord cluster graph value s
  | .waitPacket cond addr mask value => Sys2Proof.Machine.execWaitPacket cond addr mask value s
  | .waitIdle => Sys2Proof.Machine.execWaitIdle s
  | .waitPoll part stream => Sys2Proof.Machine.execWaitPoll part stream s
  | .ffence => Sys2Proof.Machine.execFfence s
  | .sched load look step saddr scount eaddr ecount => Sys2Proof.Machine.execSched load look step saddr scount eaddr ecount s
  | .event pre after vector addr value ctx => Sys2Proof.Machine.execEvent pre after vector addr value ctx s
  | .budget cls value => Sys2Proof.Machine.execBudget cls value s
  | .gangInjectHalt part stream => Sys2Proof.Machine.execGangInjectHalt part stream s
  | .readyReport gang src => Sys2Proof.Machine.execReadyReport gang src s
  | .timedLaunchInstant part stream => Sys2Proof.Machine.execTimedLaunchInstant part stream s
  | .stragglerCheck part stream => Sys2Proof.Machine.execStragglerCheck part stream s
  | .stragglerNotice gang notice => Sys2Proof.Machine.execStragglerNotice gang notice s
  | .barrierToken gang t src => Sys2Proof.Machine.execBarrierToken gang t src s
  | .fabricWriteArrival pkt => Sys2Proof.Machine.execFabricWriteArrival pkt s
  | .fabricAtomicArrival pkt => Sys2Proof.Machine.execFabricAtomicArrival pkt s
  | .fabricRequestArrival pkt => Sys2Proof.Machine.execFabricRequestArrival pkt s
  | .multicastArrival pkt => Sys2Proof.Machine.execMulticastArrival pkt s
  | .fabricAck pkt => Sys2Proof.Machine.execFabricAck pkt s
  | .fabricRetransmit out => Sys2Proof.Machine.execFabricRetransmit out s
  | .completionNotice pkt => Sys2Proof.Machine.execCompletionNotice pkt s
  | .resumeMarker pkt => Sys2Proof.Machine.execResumeMarker pkt s
  | .packetForward pkt => Sys2Proof.Machine.execPacketForward pkt s
  | .virtualEgressSend part dst => Sys2Proof.Machine.execVirtualEgressSend part dst s
  | .syncMessage valid msg => Sys2Proof.Machine.execSyncMessage valid msg s
  | .holdoverEntry => Sys2Proof.Machine.execHoldoverEntry s
  | .clockLostEntry => Sys2Proof.Machine.execClockLostEntry s
  | .clockLock => Sys2Proof.Machine.execClockLock s
  | .shootdownInstant => Sys2Proof.Machine.execShootdownInstant s
  | .roleMapSet roles => Sys2Proof.Machine.execRoleMapSet roles s
  | .roleFlush => Sys2Proof.Machine.execRoleFlush s
  | .roleDark => Sys2Proof.Machine.execRoleDark s
  | .roleReenumerate => Sys2Proof.Machine.execRoleReenumerate s
  | .roleRelight => Sys2Proof.Machine.execRoleRelight s
  | .partitionCreate r => Sys2Proof.Machine.execPartitionCreate r s
  | .contextCreate r => Sys2Proof.Machine.execContextCreate r s
  | .contextDestroy ctx => Sys2Proof.Machine.execContextDestroy ctx s
  | .streamBind part stream ctx base size => Sys2Proof.Machine.execStreamBind part stream ctx base size s
  | .errorClear part stream => Sys2Proof.Machine.execErrorClear part stream s
  | .capSlotWrite ctx slot value tag => Sys2Proof.Machine.execCapSlotWrite ctx slot value tag s
  | .handleWrite ctx idx q0 q1 q2 => Sys2Proof.Machine.execHandleWrite ctx idx q0 q1 q2 s
  | .fenceAssign pkg fence => Sys2Proof.Machine.execFenceAssign pkg fence s
  | .fencedStateExit pkg fence => Sys2Proof.Machine.execFencedStateExit pkg fence s
  | .routerTableWrite part peer entry => Sys2Proof.Machine.execRouterTableWrite part peer entry s
  | .exportTableWrite idx q0 q1 q2 q3 => Sys2Proof.Machine.execExportTableWrite idx q0 q1 q2 q3 s
  | .keyLoad idx key => Sys2Proof.Machine.execKeyLoad idx key s
  | .powerCapSet watts => Sys2Proof.Machine.execPowerCapSet watts s
  | .mgmtPreempt ctx => Sys2Proof.Machine.execMgmtPreempt ctx s
  | .mgmtStart cl core => Sys2Proof.Machine.execMgmtStart cl core s
  | .attestationReport nonce => Sys2Proof.Machine.execAttestationReport nonce s
  | .powerOn img => Sys2Proof.Machine.execPowerOn img s
  | .thermalTrip layer => Sys2Proof.Machine.execThermalTrip layer s
  | .thermalResume layer => Sys2Proof.Machine.execThermalResume layer s
  | .hostAccess acc => Sys2Proof.Machine.execHostAccess acc s
  | .packageReset => Sys2Proof.Machine.execPackageReset s
  | .recoveryExit => Sys2Proof.Machine.execRecoveryExit s
  | .publishNotice ctx idx tp => Sys2Proof.Machine.execPublishNotice ctx idx tp s
  | .fabricStreamReset ctx peer => Sys2Proof.Machine.execFabricStreamReset ctx peer s
  | .peerPortFailure port => Sys2Proof.Machine.execPeerPortFailure port s
  | .circuitChange ports => Sys2Proof.Machine.execCircuitChange ports s
  | .portRelight port => Sys2Proof.Machine.execPortRelight port s
  | .clusterCacheEviction cl line => Sys2Proof.Machine.execClusterCacheEviction cl line s
  | .gputComplete xfer => Sys2Proof.Machine.execGputComplete xfer s

end Sys2Proof.Machine
end

