-- ==== Sys2Proof/Machine/Uses.lean ====
section
/-! DEFINITION. What the ops of a bundle read, write and touch, as its issue needs it: the things that the group check compares (05 R72), arena banks (03 R41), scratch lines (13 R213), lazy units (03 R60), and the ops that wait or cannot be repeated (03 R52). -/

namespace Sys2Proof.Machine

open Sys2Proof

/-! ## Named registers and arena ranges (05 R72) -/

/-- Scalar registers by name; g0 and g32 are excluded. -/
def gRes (rs : List Reg) : List Res := rs.filterMap (fun r => if r.toNat % 32 = 0 then none else some (.g r.toNat))

/-- A predicate: mask 0 is none (05 R77). -/
def mRes (m : BitVec 3) : List Res := if m = 0 then [] else [.m m.toNat]

/-- Rows of the vector view, or of the shadow view for a duplicate in slot X (05 R76). -/
def State.rowRes (s : State) (rs : List Reg) : List Res := rs.map (fun r => .arena (s.rowAt r.toNat) 256)

/-- Rows of consecutive numbers from D (13 R237). -/
def State.rowsRes (s : State) (d cnt : Reg) : List Res := (span d.toNat (cntOf cnt)).map (fun n => .arena (s.rowAt n) 256)

/-- The bytes that a row of a tile or accumulator view covers: those that its entry's width gives, or its whole pitch under an ill-formed entry (05 R72). -/
def State.rowCover (s : State) (v : View) : Nat :=
  let t := tidOf (s.tid v.tid.toNat)
  if t.bad = 0 then v.rb (widthOf t.format) else 64 * v.pitch.toNat

/-- The rows of a tile or accumulator view. -/
def State.viewRes (s : State) (v : View) : List Res := (span 0 v.rows.toNat).map (fun i => .arena (v.row i) (s.rowCover v))

/-- The operand register after gB, where the operation is compare-and-swap (13 R241, R248, 25 R408). -/
def casRes (op : Nat) (b : Reg) : List Res := gRes (if op = 5 then [b, b + 1] else [b])

def pRes : List Res := (span 0 8).map Res.p

/-- The rows of its target that a dqst reads at issue, once its entry has been pushed (19 R335). -/
def State.dqstReads (s : State) (q : Nat) : List (Nat × Nat) :=
  match s.dqHead q with
  | none => []
  | some v =>
    let t := s.e.view (2 + bitsOf v 55 52)
    (span 0 (bitsOf v 31 16)).map (fun r => (t.row r, s.rowCover t))

/-- What an op reads, then what it writes, among the things that R72 names. mcall names p0 to p7, and its arena effects are not compared (19 R321); a dqst reads its target's rows (19 R335). -/
def State.uses (s : State) (i : Instr) : List Res × List Res :=
  match i with
  | .ret a _ => (gRes [a], [])
  | .rdtime d => ([], gRes [d])
  | .rdctr d _ => ([], gRes [d])
  | .xchk a b => (gRes [a, b], [])
  | .xchkV a b => ([.arena (s.e.vBase.toNat + 256 * a.toNat) 256, .arena (s.e.svBase.toNat + 256 * b.toNat) 256], [])
  | .gwcondSet a => (gRes [a], [])
  | .gwcondClr a => (gRes [a], [])
  | .gwcondIns a b => (gRes [a, b], [])
  | .pbr t a => (gRes [a], [.b t.toNat])
  | .pbri t _ => ([], [.b t.toNat])
  | .br t _ _ a => (.b t.toNat :: gRes [a], [])
  | .brl t _ d => ([.b t.toNat], gRes [d])
  | .loop a _ => (gRes [a], [])
  | .phaseProbe _ a b => (gRes [a, b], [])
  | .add _ d a b => (gRes [a, b], gRes [d])
  | .sub _ d a b => (gRes [a, b], gRes [d])
  | .and _ d a b => (gRes [a, b], gRes [d])
  | .or _ d a b => (gRes [a, b], gRes [d])
  | .xor _ d a b => (gRes [a, b], gRes [d])
  | .shl _ d a b => (gRes [a, b], gRes [d])
  | .shr _ d a b => (gRes [a, b], gRes [d])
  | .sar _ d a b => (gRes [a, b], gRes [d])
  | .rot _ d a b => (gRes [a, b], gRes [d])
  | .min _ d a b => (gRes [a, b], gRes [d])
  | .max _ d a b => (gRes [a, b], gRes [d])
  | .minn _ d a b => (gRes [a, b], gRes [d])
  | .maxn _ d a b => (gRes [a, b], gRes [d])
  | .seq _ d a b => (gRes [a, b], gRes [d])
  | .slt _ d a b => (gRes [a, b], gRes [d])
  | .sltn _ d a b => (gRes [a, b], gRes [d])
  | .clz _ d a => (gRes [a], gRes [d])
  | .ctz _ d a => (gRes [a], gRes [d])
  | .popc _ d a => (gRes [a], gRes [d])
  | .sel _ d a b => (gRes [d, a, b], gRes [d])
  | .lea _ _ d a b => (gRes [a, b], gRes [d])
  | .mul _ d a b => (gRes [a, b], gRes [d])
  | .mulh _ d a b => (gRes [a, b], gRes [d])
  | .mulhn _ d a b => (gRes [a, b], gRes [d])
  | .div _ d a b => (gRes [a, b], gRes [d])
  | .divn _ d a b => (gRes [a, b], gRes [d])
  | .rem _ d a b => (gRes [a, b], gRes [d])
  | .remn _ d a b => (gRes [a, b], gRes [d])
  | .addi d a _ => (gRes [a], gRes [d])
  | .andi d a _ => (gRes [a], gRes [d])
  | .ori d a _ => (gRes [a], gRes [d])
  | .xori d a _ => (gRes [a], gRes [d])
  | .shli _ d a _ => (gRes [a], gRes [d])
  | .shri _ d a _ => (gRes [a], gRes [d])
  | .sari _ d a _ => (gRes [a], gRes [d])
  | .bfx d a _ _ => (gRes [a], gRes [d])
  | .bfi d a _ _ => (gRes [d, a], gRes [d])
  | .movi d _ => ([], gRes [d])
  | .movhi d _ => (gRes [d], gRes [d])
  | .fadd _ _ d a b => (gRes [a, b], gRes [d])
  | .fsub _ _ d a b => (gRes [a, b], gRes [d])
  | .fmul _ _ d a b => (gRes [a, b], gRes [d])
  | .fdiv _ _ d a b => (gRes [a, b], gRes [d])
  | .ffma _ _ d a b => (gRes [d, a, b], gRes [d])
  | .fmin _ d a b => (gRes [a, b], gRes [d])
  | .fmax _ d a b => (gRes [a, b], gRes [d])
  | .fcmp _ _ d a b => (gRes [a, b], gRes [d])
  | .fsqrt _ _ d a => (gRes [a], gRes [d])
  | .fexp2 _ _ d a => (gRes [a], gRes [d])
  | .flog2 _ _ d a => (gRes [a], gRes [d])
  | .fexp _ _ d a => (gRes [a], gRes [d])
  | .flog _ _ d a => (gRes [a], gRes [d])
  | .fsin _ _ d a => (gRes [a], gRes [d])
  | .fcos _ _ d a => (gRes [a], gRes [d])
  | .ftanh _ _ d a => (gRes [a], gRes [d])
  | .ferf _ _ d a => (gRes [a], gRes [d])
  | .frcpa _ _ d a => (gRes [a], gRes [d])
  | .frsqa _ _ d a => (gRes [a], gRes [d])
  | .fclass _ d a => (gRes [a], gRes [d])
  | .frnd _ _ d a => (gRes [a], gRes [d])
  | .fcvt _ _ _ d a => (gRes [a], gRes [d])
  | .fcvtFromInt _ _ _ d a => (gRes [a], gRes [d])
  | .ld _ _ _ d a _ => (gRes [a], gRes [d])
  | .st _ d a _ => (gRes [d, a], [])
  | .vld _ _ d a _ => (gRes [a], s.rowRes [d])
  | .vst d a _ => (gRes [a] ++ s.rowRes [d], [])
  | .vldm _ _ d a cnt => (gRes [a], s.rowsRes d cnt)
  | .vstm d a cnt => (gRes [a] ++ s.rowsRes d cnt, [])
  | .tld _ _ tv a _ => (gRes [a], s.viewRes (s.tileView tv))
  | .tst tv a _ => (gRes [a] ++ s.viewRes (s.tileView tv), [])
  | .feset a b => (gRes [a, b], [])
  | .feclr a b => (gRes [a, b], [])
  | .atom _ op _ a b => (gRes [a] ++ casRes op.toNat b, [])
  | .sbind _ a => (gRes [a], [])
  | .sstatVal d _ => ([], gRes [d])
  | .sstatQ d _ => ([], gRes [d])
  | .sstatCe d _ => ([], gRes [d])
  | .sstatCf d _ => ([], gRes [d])
  | .sstatPut d => ([], gRes [d])
  | .gget d a b => (gRes [d, a, b], [])
  | .gput d a b => (gRes [d, a, b], [])
  | .pld _ _ k a => (.k k.toNat :: gRes [a], [])
  | .pst _ k a b => (.k k.toNat :: gRes [a, b], [])
  | .patom op _ k a b => (.k k.toNat :: gRes [a] ++ casRes op.toNat b, [])
  | .pget k a b l => (.k k.toNat :: gRes [a, b, l], [])
  | .lease k a b => (.k k.toNat :: gRes [a, b], [])
  | .lrel k a b => (.k k.toNat :: gRes [a, b], [])
  | .capld k a => (gRes [a], [.k k.toNat])
  | .capst k a => (.k k.toNat :: gRes [a], [])
  | .capder k kb a b => (.k kb.toNat :: gRes [a, b], [.k k.toNat])
  | .capchk k a b => (.k k.toNat :: gRes [a, b], [])
  | .publish _ a => (gRes [a], [])
  | .reshPin a => (gRes [a], [])
  | .reshUnpin a => (gRes [a], [])
  | .reshPrio a b => (gRes [a, b], [])
  | .evict a => (gRes [a], [])
  | .evictDemote a => (gRes [a], [])
  | .pref a => (gRes [a], [])
  | .vadd _ _ m d a b => (mRes m ++ s.rowRes [a, b], s.rowRes [d])
  | .vsub _ _ m d a b => (mRes m ++ s.rowRes [a, b], s.rowRes [d])
  | .vmul _ _ m d a b => (mRes m ++ s.rowRes [a, b], s.rowRes [d])
  | .vfma _ _ m d a b => (mRes m ++ s.rowRes [d, a, b], s.rowRes [d])
  | .vfms _ _ m d a b => (mRes m ++ s.rowRes [d, a, b], s.rowRes [d])
  | .vdiv _ _ m d a b => (mRes m ++ s.rowRes [a, b], s.rowRes [d])
  | .vsqrt _ _ m d a => (mRes m ++ s.rowRes [a], s.rowRes [d])
  | .vrcpa _ _ m d a => (mRes m ++ s.rowRes [a], s.rowRes [d])
  | .vrsqa _ _ m d a => (mRes m ++ s.rowRes [a], s.rowRes [d])
  | .vexp2 _ _ m d a => (mRes m ++ s.rowRes [a], s.rowRes [d])
  | .vlog2 _ _ m d a => (mRes m ++ s.rowRes [a], s.rowRes [d])
  | .vexp _ _ m d a => (mRes m ++ s.rowRes [a], s.rowRes [d])
  | .vlog _ _ m d a => (mRes m ++ s.rowRes [a], s.rowRes [d])
  | .vsin _ _ m d a => (mRes m ++ s.rowRes [a], s.rowRes [d])
  | .vcos _ _ m d a => (mRes m ++ s.rowRes [a], s.rowRes [d])
  | .vtanh _ _ m d a => (mRes m ++ s.rowRes [a], s.rowRes [d])
  | .verf _ _ m d a => (mRes m ++ s.rowRes [a], s.rowRes [d])
  | .vabs _ m d a => (mRes m ++ s.rowRes [a], s.rowRes [d])
  | .vneg _ m d a => (mRes m ++ s.rowRes [a], s.rowRes [d])
  | .vclass _ m d a => (mRes m ++ s.rowRes [a], s.rowRes [d])
  | .vaddI32 m d a b => (mRes m ++ s.rowRes [a, b], s.rowRes [d])
  | .vsubI32 m d a b => (mRes m ++ s.rowRes [a, b], s.rowRes [d])
  | .vmulI32 m d a b => (mRes m ++ s.rowRes [a, b], s.rowRes [d])
  | .vmadi m d a b => (mRes m ++ s.rowRes [d, a, b], s.rowRes [d])
  | .vand m d a b => (mRes m ++ s.rowRes [a, b], s.rowRes [d])
  | .vor m d a b => (mRes m ++ s.rowRes [a, b], s.rowRes [d])
  | .vxor m d a b => (mRes m ++ s.rowRes [a, b], s.rowRes [d])
  | .vnot m d a => (mRes m ++ s.rowRes [a], s.rowRes [d])
  | .vshl m d a b => (mRes m ++ s.rowRes [a, b], s.rowRes [d])
  | .vshr m d a b => (mRes m ++ s.rowRes [a, b], s.rowRes [d])
  | .vsar m d a b => (mRes m ++ s.rowRes [a, b], s.rowRes [d])
  | .vabsI32 m d a => (mRes m ++ s.rowRes [a], s.rowRes [d])
  | .vnegI32 m d a => (mRes m ++ s.rowRes [a], s.rowRes [d])
  | .vmin _ m d a b => (mRes m ++ s.rowRes [a, b], s.rowRes [d])
  | .vmax _ m d a b => (mRes m ++ s.rowRes [a, b], s.rowRes [d])
  | .vcmp _ _ c m a b => (mRes m ++ s.rowRes [a, b], [.m c.toNat])
  | .vsel _ m d a b => (mRes m ++ s.rowRes [a, b], s.rowRes [d])
  | .vcvt _ _ _ _ d a => (s.rowRes [a], s.rowRes [d])
  | .vpack _ d a b => (s.rowRes [a, b], s.rowRes [d])
  | .vunpack _ _ _ d a => (s.rowRes [a], s.rowRes [d])
  | .vbcast _ d a => (gRes [a], s.rowRes [d])
  | .vperm _ d a b => (s.rowRes [a, b], s.rowRes [d])
  | .vshuf _ d a b => (s.rowRes [d, a, b], s.rowRes [d])
  | .vslide _ d a b => (gRes [b] ++ s.rowRes [a], s.rowRes [d])
  | .vred _ _ _ m d a => (mRes m ++ s.rowRes [a], s.rowRes [d])
  | .vscan _ _ _ m d a => (mRes m ++ s.rowRes [a], s.rowRes [d])
  | .vrng d a b => (gRes [a, a + 1, b], s.rowRes [d])
  | .vmand d a b => ([.m a.toNat, .m b.toNat], [.m d.toNat])
  | .vmor d a b => ([.m a.toNat, .m b.toNat], [.m d.toNat])
  | .vmnot d a => ([.m a.toNat], [.m d.toNat])
  | .vmpopc d a => ([.m a.toNat], gRes [d])
  | .vscale _ _ m d a => (mRes m ++ s.rowRes [a], s.rowRes [d])
  | .vw2enc _ m d a b => (mRes m ++ s.rowRes [a, b], s.rowRes [d])
  | .rvmul _ _ d a b => (s.rowRes [a, b], s.rowRes [d])
  | .urmul _ _ d a b => (s.rowRes [d, b], s.rowRes [a])
  | .rvfma _ _ d a b => (s.rowRes [d, a, b], s.rowRes [d])
  | .urfma _ _ d a b => (s.rowRes [d, a, b], s.rowRes [d])
  | .rvadd _ _ d a b => (s.rowRes [a, b], s.rowRes [d])
  | .uradd _ _ d a b => (s.rowRes [d, b], s.rowRes [a])
  | .rvcvt _ _ _ d a => (s.rowRes [a], s.rowRes [d])
  | .urcvt _ _ _ d a => (s.rowRes [d], s.rowRes [a])
  | .rvrelu _ d a => (s.rowRes [a], s.rowRes [d])
  | .urrelu _ d a => (s.rowRes [d], s.rowRes [a])
  | .rvscale _ _ d a b => (s.rowRes [a, b], s.rowRes [d])
  | .urscale _ _ d a b => (s.rowRes [d, b], s.rowRes [a])
  | .rvdrop _ d a m => (.m m.toNat :: s.rowRes [a], s.rowRes [d])
  | .urdrop _ d a m => (.m m.toNat :: s.rowRes [d], s.rowRes [a])
  | .pusht v b => (gRes [b] ++ s.viewRes (s.tileView v), [])
  | .popt v b => (gRes [b], s.viewRes (s.tileView v))
  | .rsmark d a => (gRes [a], gRes [d])
  | .rsck a b => (gRes [a, b], [])
  | .mcall _ => (pRes, [])
  | .mparm p a => (gRes [a], [.p p.toNat])
  | .mfoffSet o a => (gRes [a], [.o o.toNat])
  | .mfoff o a _ => (.o o.toNat :: gRes [a], [.o o.toNat])
  | .mgath _ a b => (.arena (s.e.vBase.toNat + 256 * a.toNat) 256 :: gRes [b], [])
  | .dqpop d _ => ([], gRes [d])
  | .dqst q b => (gRes [b] ++ (s.dqstReads q.toNat).map (fun p => .arena p.1 p.2), [])
  | .macst v b => (gRes [b] ++ s.viewRes (s.accView v), [])
  | .macld v b => (gRes [b], s.viewRes (s.accView v))
  | .mload d a b => (gRes [d, a, b], [])
  | .fwr _ k a b => (.k k.toNat :: gRes [a, b], [])
  | .fatom op _ k a b => (.k k.toNat :: gRes [a] ++ casRes op.toNat b, [])
  | .freq _ k b => (.k k.toNat :: gRes [b], [])
  | .fmc _ k a b => (.k k.toNat :: gRes [a, b, b + 1], [])
  | .fstatOut d => ([], gRes [d])
  | .fstatDone d => ([], gRes [d])
  | .fstatErr d => ([], gRes [d])
  | .fstatPeer d a => (gRes [a], gRes [d])
  | .fgrp a b => (gRes [a, b], [])
  | .csrr d _ => ([], gRes [d])
  | .csrw d _ => (gRes [d], [])
  | .csrwFlags d => (gRes [d], [])
  | .csrwMode d => (gRes [d], [])
  | .csrwStage d => (gRes [d], [])
  | .csrwRsSpill _ d => (gRes [d], [])
  | .tlbinv d a b => (gRes [a, b], gRes [d])
  | .vwset _ a b => (gRes [a, b], [])
  | .tidset a b => (gRes [a, b], [])
  | .copyx _ _ d a b => (gRes [d, a, b], [])
  | _ => ([], [])

/-- Two of the things compared overlap: one register, or arena ranges with a byte in common. -/
def Res.meets (x y : Res) : Bool :=
  match x, y with
  | .arena lo n, .arena lo' n' => decide (0 < n) && decide (0 < n') && decide (lo < lo' + n') && decide (lo' < lo + n)
  | x, y => x == y

def anyMeets (xs ys : List Res) : Bool := xs.any (fun x => ys.any (fun y => x.meets y))

/-! ## Ops that wait or cannot be repeated (03 R52) -/

/-- The ops that cannot be repeated. -/
def noRepeat (i : Instr) : Bool :=
  match i with
  | .atom _ _ _ _ _ => true
  | .patom _ _ _ _ _ => true
  | .fatom _ _ _ _ _ => true
  | .freq _ _ _ => true
  | .fmc _ _ _ _ => true
  | .publish _ _ => true
  | .stage _ _ => true
  | .gwcondSet _ => true
  | .gwcondClr _ => true
  | .gwcondIns _ _ => true
  | .phase _ => true
  | .phaseProbe _ _ _ => true
  | .fence _ => true
  | .lease _ _ _ => true
  | .lrel _ _ _ => true
  | .sbind _ _ => true
  | .sunbind _ => true
  | .dqpop _ _ => true
  | .dqst _ _ => true
  | .ld _ _ clear _ _ _ => clear
  | .vld _ clear _ _ _ => clear
  | .vldm _ clear _ _ _ => clear
  | .tld _ clear _ _ _ => clear
  | .svc _ => true
  | .trap _ => true
  | .yieldOp => true
  | .tend => true
  | _ => false

/-- The ops that wait at issue under R52: those that cannot be repeated, and eret, halt and tlbinv (27 R438, R443, R451). -/
def waitsAtIssue (i : Instr) : Bool :=
  match i with
  | .eret => true
  | .halt => true
  | .tlbinv _ _ _ => true
  | i => noRepeat i

/-- The ops that read scratch at fixed latency, as R52 lists them. -/
def readsFixed (i : Instr) : Bool :=
  match i with
  | .ld _ _ _ _ _ _ => true
  | .vld _ _ _ _ _ => true
  | .vldm _ _ _ _ _ => true
  | .tld _ _ _ _ _ => true
  | .capld _ _ => true
  | .macld _ _ => true
  | .mfoff _ _ _ => true
  | .mgath _ _ _ => true
  | .mload _ _ _ => true
  | _ => false

/-- trap and svc: requested traps, taken after the other ops of their bundle have issued (27 R435). -/
def requested (i : Instr) : Bool :=
  match i with
  | .trap _ => true
  | .svc _ => true
  | _ => false

/-! ## Scratch accesses (13 R213, R216) -/

/-- Offsets and lengths that an op reads at fixed latency when it issues; those of an mgath are its first row (19 R331). -/
def State.scrReads (s : State) (i : Instr) : List (Nat × Nat) :=
  match i with
  | .ld ty _ _ _ a imm => [(s.ldAddr ty a imm, tyBytes ty)]
  | .vld _ _ _ a imm => [(s.vldAddr a imm, 256)]
  | .vldm _ _ _ a cnt => (s.cols a cnt).map (fun e => (e.1, 4))
  | .tld _ _ tv a imm => (s.tileRows (s.tileView tv) (s.tldAddr a imm)).map (fun p => (p.2, s.tileRb (s.tileView tv)))
  | .capld _ a => [((s.g a).toNat, 16)]
  | .macld v b => s.macPieces v b
  | .mfoff o a _ => [(s.feedAddr o a, 256)]
  | .mgath n a b => ((s.gathAddrs n a b).take 1).map (fun x => (x, 256))
  | .mload _ a b => [((s.g a).toNat, 4 * (s.g b).toNat)]
  | .tidset _ b => [((s.g b).toNat, 24)]
  | _ => []

/-- Offsets and lengths that an op writes at a fixed latency. -/
def State.scrWrites (s : State) (i : Instr) : List (Nat × Nat) :=
  match i with
  | .st ty _ a imm => [(s.ldAddr ty a imm, tyBytes ty)]
  | .vst _ a imm => [(s.vldAddr a imm, 256)]
  | .vstm _ a cnt => (s.cols a cnt).map (fun e => (e.1, 4))
  | .tst tv a imm => (s.tileRows (s.tileView tv) (s.tldAddr a imm)).map (fun p => (p.2, s.tileRb (s.tileView tv)))
  | .capst _ a => [((s.g a).toNat, 16)]
  | .macst v b => s.macPieces v b
  | .atom i32 _ _ a _ => [((s.g a).toNat, if i32 then 4 else 8)]
  | .dqst q b =>
    (match s.dqHead q.toNat with
     | none => []
     | some v => (s.dqstRows v b).map (fun p => (p.1, dqstRb v)))
  | _ => []

/-- Other scratch that an op touches: granules of feset and feclr, later rows of an mgath, the sources and records of fabric ops, the record of fgrp. -/
def State.scrOther (s : State) (i : Instr) : List (Nat × Nat) :=
  match i with
  | .feset a b => [((s.g a).toNat, (s.g b).toNat)]
  | .feclr a b => [((s.g a).toNat, (s.g b).toNat)]
  | .mgath n a b => (s.gathAddrs n a b).map (fun x => (x, 256))
  | .fwr _ _ _ b => [s.fwrSrc b]
  | .freq _ _ b => [(bitsOf (s.g b) 21 0, 64)]
  | .fmc _ _ _ b => [s.fwrSrc b, (bitsOf (s.gNext b) 21 0, 64)]
  | .fgrp _ b => [((s.g b).toNat, 160)]
  | _ => []

/-- The accesses of an op under .wait. -/
def State.scrWaits (s : State) (i : Instr) : List (Nat × Nat) :=
  match i with
  | .ld _ wait _ _ _ _ => if wait then s.scrReads i else []
  | .vld wait _ _ _ _ => if wait then s.scrReads i else []
  | .vldm wait _ _ _ _ => if wait then s.scrReads i else []
  | .tld wait _ _ _ _ => if wait then s.scrReads i else []
  | _ => []

/-- The checks that come before an op under .wait looks at its granules (13 R235 to R238). -/
def State.waitChecks (s : State) (i : Instr) : Option TrapRec :=
  match i with
  | .ld ty _ _ _ a imm => chkScratch (s.ldAddr ty a imm) (tyBytes ty) (tyBytes ty)
  | .vld _ _ _ a imm => chkScratch (s.vldAddr a imm) 256 16
  | .vldm _ _ d a cnt => s.chkCols d a cnt
  | .tld _ _ tv a imm => s.chkTile tv a imm
  | _ => none

/-- The targets of a fabric op, none for any other. -/
def State.fabPeers (s : State) (i : Instr) : Option (List Nat) :=
  match i with
  | .fwr _ k _ _ => some [(s.k k.toNat).peer]
  | .fatom _ _ k _ _ => some [(s.k k.toNat).peer]
  | .freq _ k _ => some [(s.k k.toNat).peer]
  | .fmc _ k _ _ => some (match s.groupEntry (s.k k.toNat).group with | none => [] | some e => e.members)
  | _ => none

/-- The drain queue that an op pops (19 R333). -/
def popOf (i : Instr) : Option Nat :=
  match i with
  | .dqpop _ q => some q.toNat
  | .dqst q _ => some q.toNat
  | _ => none

/-- An access within the scratchpad and of a length that some op may have; an access outside it stalls for nothing, since its op traps at issue. -/
def inScratch (p : Nat × Nat) : Bool := decide (p.1 + p.2 ≤ 0x400000)

/-! ## Arena banks and lazy units (03 R41, R60) -/

/-- Arena ranges that an op reads or writes in its cycle: those of R72. -/
def State.arenaUse (s : State) (i : Instr) : List (Nat × Nat) :=
  let u := s.uses i
  (u.1 ++ u.2).filterMap (fun r => match r with | .arena a n => some (a, n) | _ => none)

/-- The views of a call, which its routine reads and writes. -/
def State.callUse (s : State) (i : Instr) : List (Nat × Nat) :=
  match i with
  | .mcall ent =>
    let c := s.callOf ent
    let rows (v : View) (q : Quads) : List (Nat × Nat) :=
      (span 0 v.rows.toNat).map (fun n => (v.row n, v.rb (widthOf (tidOf q).format)))
    (if c.aLatch then [] else rows c.aView c.aTid) ++ rows c.bView c.bTid ++ rows c.cView c.cTid ++
      (if c.word.drain then rows c.tView c.tTid else [])
  | _ => []

/-- The scratch bytes that a call's routine reads as scales of mode 1 (07 R104): those of A, a view or the latch, and of B. -/
def State.callScales (s : State) (i : Instr) : List (Nat × Nat) :=
  match i with
  | .mcall ent =>
    let c := s.callOf ent
    let a := tidOf c.aTid
    let as := if c.aLatch then a.scaleOffs (span 0 64) 0 (2048 / widthOf a.format) else a.scaleOffs (span 0 c.aView.rows.toNat) 0 c.aView.cols.toNat
    (as ++ (tidOf c.bTid).scaleOffs (span 0 c.bView.rows.toNat) 0 c.bView.cols.toNat).map (fun x => (x, 1))
  | _ => []

/-- The banks of arena ranges, 16 KiB each. -/
def arenaBanks (rs : List (Nat × Nat)) : List Nat :=
  (distinct ((rs.map (fun p => unitsOf 0x4000 p.1 p.2)).flatten) []).filter (fun b => decide (b < 16))

/-- The parity groups of scratch accesses. -/
def scrGroups (rs : List (Nat × Nat)) : List Nat :=
  distinct (((rs.filter inScratch).map (fun p => (unitsOf 512 p.1 p.2).map (· % 4))).flatten) []

/-- The lazy units that an op touches, by kind and index. -/
def State.unitsTouched (s : State) (i : Instr) : List (UnitKind × Nat) :=
  (arenaBanks (s.arenaUse i ++ s.callUse i)).map (fun b => (UnitKind.bank, b)) ++
  (s.stackUnits i).map (fun u => (UnitKind.hot, u)) ++
  (scrGroups (s.scrReads i ++ s.scrWrites i ++ s.scrOther i ++ s.callScales i)).map (fun g => (UnitKind.group, g))

/-- Whether the running context holds a unit of the cluster or core here. -/
def State.owned (s : State) (u : UnitKind × Nat) : Bool :=
  let t := match u.1 with
    | .bank => tget 0 s.here.bankTag u.2
    | .hot => tget 0 s.here.hotTag u.2
    | .group => tget 0 s.hereCl.groupTag u.2
  t == tagOf s.hereCtxId

end Sys2Proof.Machine
end

