-- ==== Sys2Proof/Machine/Issue.lean ====
section
/-! DEFINITION. The issue of a bundle: fetch and its checks (05 R62 to R85), stalls (03 R53), the group check (05 R72), the bank test (13 R213, R214), the effects of its ops as one, loop-back (03 R46), checkpoints (03 R50, R52). -/

namespace Sys2Proof.Machine

open Sys2Proof

/-! ## Fetching and forming a bundle (05 R62 to R68) -/

/-- An illegal-encoding trap (05 R85). -/
def encTrap (slot reason pc : Nat) : TrapRec := trapR codeEncoding (slot * 256 + reason) pc

/-- Words at consecutive addresses from va, as fetch reads them. -/
def State.fetchWords (s : State) (cl ctx va : Nat) : Nat → Except TrapRec (List (BitVec 32))
  | 0 => .ok []
  | n + 1 =>
    match s.fetchWord cl ctx va with
    | .error r => .error r
    | .ok w =>
      match s.fetchWords cl ctx (va + 4) n with
      | .error r => .error r
      | .ok ws => .ok (w :: ws)

/-- The bundle at an address: the checks of R85 step 1, in their order. -/
def State.fetchBundle (s : State) (cl ctx pc : Nat) : Except TrapRec Bundle :=
  if pc % 4 ≠ 0 then .error (trapR codeIllegal 22 pc)
  else
    match s.fetchWord cl ctx pc with
    | .error r => .error r
    | .ok w =>
      match bundleLen w with
      | .error n => .error (encTrap 0 n pc)
      | .ok len =>
        if 64 < pc % 64 + len then .error (encTrap 0 1 pc)
        else
          match s.fetchWords cl ctx pc (len / 4) with
          | .error r => .error r
          | .ok ws =>
            match bundleOf ws with
            | .error n => .error (encTrap 0 n pc)
            | .ok b => .ok b

/-- The ops of a bundle by slot, nop encodings left out; each is decoded and its privilege checked in slot order (R85 step 2). -/
def decodeOps (mode : Bool) (pc : Nat) : List (Nat × BitVec 32 × BitVec 14) → Except TrapRec (List (Nat × Instr))
  | [] => .ok []
  | (slot, w, l) :: r =>
    if isNopWord w then decodeOps mode pc r
    else
      match decodeOp slot w l with
      | .error n => .error (trapR codeIllegal (slot * 256 + n) pc)
      | .ok i =>
        match privReason i mode with
        | some n => .error (trapR codeIllegal (slot * 256 + n) pc)
        | none =>
          match decodeOps mode pc r with
          | .error e => .error e
          | .ok is => .ok ((slot, i) :: is)

/-- An op that cannot be repeated together with another op that reads scratch at fixed latency: the slot of the first such reader (03 R52, reason 25). Neither R52 nor R85 gives this check a place or a slot: it comes after the decoding and privilege checks of every op, before the group's size and dependences, and names that reader (DESIGN CHOICE, log entry 24). -/
def badMix (ops : List (Nat × Instr)) : Option Nat :=
  (ops.find? (fun p => readsFixed p.2 && ops.any (fun q => q.1 != p.1 && noRepeat q.2))).map (·.1)

/-! ## The group check (05 R71, R72) -/

/-- An op with what it reads and writes. -/
structure OpUse where
  slot : Nat
  rd : List Res
  wr : List Res
  deriving DecidableEq, Repr

/-- An op at a slot of the bundle. -/
def State.atSlot (s : State) (slot : Nat) : State := { s with cur := { s.cur with slot := slot } }

/-- An op of a bundle that is tested: at its slot, and past the pops of the ops before it (19 R333). -/
def State.atOp (s : State) (ops : List (Nat × Instr)) (p : Nat × Instr) : State :=
  { s with cur := { s.cur with slot := p.1, pops := (ops.filter (fun o => decide (o.1 < p.1))).filterMap (fun o => popOf o.2) } }

def State.opUse (s : State) (ops : List (Nat × Instr)) (p : Nat × Instr) : OpUse :=
  let u := (s.atOp ops p).uses p.2
  { slot := p.1, rd := u.1, wr := u.2 }

/-- A later op depends on an earlier one: a true or an output dependence. -/
def OpUse.after (x y : OpUse) : Bool := anyMeets x.wr y.rd || anyMeets x.wr y.wr

/-- The lowest slot that takes part in a forbidden dependence, against the earlier writes of the group and among the ops in slot order. -/
def depSlot (before : List Res) : List OpUse → Option Nat
  | [] => none
  | u :: r =>
    if anyMeets before (u.rd ++ u.wr) || r.any (fun v => u.after v) then some u.slot else depSlot before r

/-- The group after a bundle, or the slot and reason of its illegal-encoding trap: 6 the fifth counted bundle, then 7 a dependence. -/
def groupAfter (g : Group) (us : List OpUse) : Except (Nat × Nat) Group :=
  let n := if us.isEmpty then g.counted else g.counted + 1
  if 4 < n then .error (0, 6)
  else
    match depSlot g.writes us with
    | some slot => .error (slot, 7)
    | none => .ok { counted := n, reads := g.reads ++ (us.map (·.rd)).flatten, writes := g.writes ++ (us.map (·.wr)).flatten }

/-! ## Preparing a bundle -/

/-- A bundle that has passed the checks of R85. -/
structure Prep where
  bundle : Bundle
  ops : List (Nat × Instr)
  restart : Bool
  group : Group
  deriving DecidableEq, Repr

/-- The checks of R85 on the bundle at the sequencer's pc, whose site State.cur names. -/
def State.prep (s : State) : Except TrapRec Prep :=
  let q := s.me
  let pc := q.pc.toNat
  match s.fetchBundle s.cur.cl s.hereCtxId pc with
  | .error r => .error r
  | .ok b =>
    match decodeOps s.e.mode pc b.ops with
    | .error r => .error r
    | .ok ops =>
      match badMix ops with
      | some slot => .error (trapR codeIllegal (slot * 256 + 25) pc)
      | none =>
        let restart := b.restart || q.restartNext
        match groupAfter (if q.newGroup || restart then {} else q.group) (ops.map (s.opUse ops)) with
        | .error (slot, n) => .error (encTrap slot n pc)
        | .ok g => .ok { bundle := b, ops := ops, restart := restart, group := g }

/-! ## Stalls (03 R53) -/

/-- Fixed-latency results of the sequencer here that are still to come: registers, arena, scratch landings, rows of an mgath (03 R50, R52). -/
def State.resultsDue (s : State) : Bool :=
  s.here.pending.any (fun p => p.sec == s.cur.sec && decide (s.cycle < p.land) && !p.late) ||
  s.hereCl.landings.any (fun l => l.core == s.cur.core && l.sec == s.cur.sec) ||
  s.here.gathers.any (fun g => g.sec == s.cur.sec)

/-- A .wait that finds an empty granule where the op's earlier checks pass, a stream whose head has not landed, a drain queue whose next entry is reserved, the stalls of stack ops (cases 1 to 3 and 5), and a fabric op that finds its queue full (25 R399, R417), which it does before its range and capability checks (DESIGN CHOICE, log entry 24). -/
def State.opStalls (s : State) (i : Instr) : Bool :=
  ((s.waitChecks i).isNone && (granulesOf (s.scrWaits i)).any (fun g => !s.hereCl.full g)) ||
  (match s.fabPeers i with | none => false | some ps => s.fabFull ps) ||
  s.stackStalls i s.e.prim.ckpt.rsTop ||
  (match i with
   | .sstatVal _ q =>
     s.e.bound q.toNat && (match headSlot (s.e.stream q.toNat) with | none => true | some x => x.val.isNone)
   | i => (match popOf i with
     | none => false
     | some q => !(s.dqRest q).isEmpty && (s.dqHead q).isNone))

/-- The units of other contexts that a bundle touches (case 5). -/
def State.foreignUnits (s : State) (ops : List (Nat × Instr)) : List (UnitKind × Nat) :=
  ((ops.map (fun p => (s.atOp ops p).unitsTouched p.2)).flatten).filter (fun u => !s.owned u)

/-- The moves of those units begin. -/
def State.touchAll (s : State) (us : List (UnitKind × Nat)) : State :=
  us.foldl (fun t u => t.touch s.cur.cl (if u.1 = .group then 0 else s.cur.core) u.1 u.2) s

/-- Whether a prepared bundle stalls (cases 1 to 5). -/
def State.stalls (s : State) (p : Prep) : Bool :=
  ((p.restart || s.me.resumed || p.ops.any (fun o => waitsAtIssue o.2)) && s.resultsDue) ||
  p.ops.any (fun o => (s.atOp p.ops o).opStalls o.2) ||
  !(s.foreignUnits p.ops).isEmpty

/-! ## The bank test (13 R213, R214; 19 R331) -/

def countIn (f : Nat → Bool) (ls : List Nat) : Nat := (ls.filter f).length

/-- The beats of a set of distinct lines, and the lowest bank over its limit. -/
def bankTest (ls : List Nat) : Nat × Option Nat :=
  let beats := max 1 (ceilDiv ls.length 32)
  let inBank (b : Nat) : Nat := countIn (fun l => bankOf l == b) ls
  let inGroup (b : Nat) : Nat := countIn (fun l => groupOf l == b / 8) ls
  let bad (b : Nat) : Bool :=
    if beats = 1 then decide (2 < inBank b) || (inBank b == 2 && decide (2 < inGroup b)) else decide (beats < inBank b)
  (beats, (span 0 32).find? bad)

def isGather (i : Instr) : Bool := match i with | .mgath _ _ _ => true | _ => false

/-- The lines that accesses within the scratchpad touch. -/
def linesIn (as : List (Nat × Nat)) : List Nat := linesOf (as.filter inScratch)

/-- The lines that an op of a bundle reads or writes. -/
def State.opLines (s : State) (ops : List (Nat × Instr)) (write : Bool) (p : Nat × Instr) : List Nat :=
  linesIn (if write then (s.atOp ops p).scrWrites p.2 else (s.atOp ops p).scrReads p.2)

/-- Lines that the bundle's ops read, those of an mgath apart. -/
def State.readLinesOf (s : State) (ops : List (Nat × Instr)) : List Nat :=
  distinct (((ops.filter (fun p => !isGather p.2)).map (s.opLines ops false)).flatten) []

/-- Lines that mgaths read in this cycle, of this bundle and of those issued before. -/
def State.gatherLines (s : State) (ops : List (Nat × Instr)) : List Nat :=
  ((ops.filter (fun p => isGather p.2)).map (s.opLines ops false)).flatten ++
  (s.hereCl.reads.filter (fun r => r.gather && r.cycle == s.cycle && r.core == s.cur.core && r.sec == s.cur.sec)).map (·.line)

def State.writeLinesOf (s : State) (ops : List (Nat × Instr)) : List Nat := distinct ((ops.map (s.opLines ops true)).flatten) []

/-- The beats of the bundle's reads and of its writes, and its bank-conflict trap: of the lines that it reads itself (reason 1), of these with the mgath lines of the cycle (reason 5), of those that it writes (reason 2). -/
def State.bankCheck (s : State) (ops : List (Nat × Instr)) : Nat × Nat × Option TrapRec :=
  let own := s.readLinesOf ops
  let mine := bankTest own
  let rd := bankTest (distinct (own ++ s.gatherLines ops) [])
  let wr := bankTest (s.writeLinesOf ops)
  let slotOf (write : Bool) (b : Nat) : Nat :=
    match ops.find? (fun p => (write || !isGather p.2) && (s.opLines ops write p).any (fun l => bankOf l == b)) with
    | some p => p.1
    | none => 3
  let conflict (write : Bool) (reason b : Nat) : TrapRec := trapR codeBank (b * 65536 + slotOf write b * 256 + reason) s.me.pc.toNat
  (rd.1, wr.1, firstTrap [mine.2.map (conflict false 1), rd.2.map (conflict false 5), wr.2.map (conflict true 2)])

/-- Lines over the beats of the access: in each bank the k-th line is read in beat k. -/
def beatsOf : List Nat → List Nat → List (Nat × Nat)
  | _, [] => []
  | seen, l :: r => (l, (seen.filter (fun x => bankOf x == bankOf l)).length) :: beatsOf (seen ++ [l]) r

/-- The reads that the bundle has put since a number in flight get the cycles of their beats (R213); a granule that .clear empties in a later beat is full until then (R216). -/
def State.giveBeats (s : State) (since beats : Nat) (lines : List Nat) : State :=
  let bs := beatsOf [] lines
  let mine (r : BankRead) : Bool := decide (since ≤ r.pend) && r.core == s.cur.core && r.sec == s.cur.sec && !r.gather
  let beat (r : BankRead) : Nat := min ((look bs r.line).getD 0) (beats - 1)
  s.modHereCl (fun x => { x with
    fe := x.reads.foldl (fun t r => if mine r && decide (0 < beat r) then setFE t true r.clear else t) x.fe
    reads := x.reads.map (fun r => if mine r then { r with cycle := r.cycle + beat r } else r) })

/-! ## The ops of a bundle as one (27 R435) -/

/-- Runs ops in slot order until one traps at issue. -/
def runOps : List (Nat × Instr) → State → Out
  | [], s => .next s
  | (slot, i) :: r, s =>
    match exec i (s.atSlot slot) with
    | .next t => if t.trapped.isSome then .next t else runOps r t
    | .fault f => .fault f
    | .refused x => .refused x

/-- The emulation records of all ops of the bundle that are emulated (07 R110), each made from the state before the bundle. -/
def State.emuAll (s : State) : List (Nat × Instr) → Option EmuRec → Option EmuRec
  | [], r => r
  | (slot, i) :: rest, r =>
    match exec i ((s.atSlot slot).modMe (fun q => { q with emu := r })) with
    | .next t =>
      (match t.trapped with
       | some x => s.emuAll rest (if x.code = codeEmul then t.me.emu else r)
       | none => s.emuAll rest r)
    | _ => s.emuAll rest r

/-! ## After the ops: where fetch continues (03 R46, 05 R66) -/

/-- The sequencer after a bundle in which no branch is taken, and whether the loop-back rule led back to a first bundle. -/
def Seq.advance (q : Seq) (pc next : BitVec 52) (stop : Bool) (ready : Nat) : Seq × Bool :=
  let on (q : Seq) : Seq := { q with pc := next, newGroup := stop, nextIssue := ready }
  match q.loops with
  | [] => (on q, false)
  | l :: r =>
    if l.last = pc then
      (if l.index.toNat + 1 < l.count.toNat then
        ({ q with loops := { l with index := l.index + 1 } :: r, pc := l.first, newGroup := true, nextIssue := ready }, true)
       else (on { q with loops := r }, false))
    else (on q, false)

/-- Fetch moves on; under pre-emption a sequencer stops at a loop-back (03 R56). -/
def State.moveOn (s : State) (stop : Bool) : State :=
  let q := s.me
  if q.taken then s.modMe (fun q => { q with newGroup := q.newGroup || stop })
  else
    let (q', back) := q.advance s.cur.pc s.cur.next stop (s.cycle + 1 + s.cur.fold)
    let pause := back && q.running && s.preemptPending s.cur.cl
    s.modMe (fun _ => if pause then q'.pause else q')

/-- Slots that hold an op (03 R41). -/
def slotsOf (ops : List (Nat × Instr)) : List Nat := ops.map (·.1)

/-- Arena banks that the bundle reads or writes in its cycle (03 R41). -/
def State.banksOf (s : State) (ops : List (Nat × Instr)) : List Nat :=
  distinct ((ops.map (fun p => arenaBanks ((s.atOp ops p).arenaUse p.2))).flatten) []

def disjoint (xs ys : List Nat) : Bool := xs.all (fun x => !ys.contains x)

/-- What the issue of a sequencer's next bundle comes to: it stalls, it is kept back under R41, it traps (with the emulation record made), or it issues. -/
inductive IssueRes
  | stall (s : State)
  | kept
  | trap (r : TrapRec) (emu : Option EmuRec)
  | done (o : Out)

/-- The checkpoint that a restart point takes (R50); a bundle at which its sequencer resumes after a trap keeps the one restored (R55). An emulation record of another bundle is discarded (07 R110). -/
def State.takeCkpt (s : State) (restart : Bool) : State :=
  if restart && !s.me.resumed then
    let emu := s.me.emu.filter (fun r => r.pc == s.cur.pc)
    (s.modHereE (fun e => e.checkpoint s.cur.sec s.cur.pc s.here.order)).modMe (fun q => { q with emu := emu })
  else s

/-- The eager registers as a csrw in flight of a remainder-stack register leaves them (27 R440). -/
def Core.stackNow (y : Core) : CoreE :=
  ((y.pending.filter (fun p => p.writes.any PWrite.ofStack)).map (fun p => p.writes)).flatten.foldl (fun e w => match w with
    | .csr n v => e.csrSet n v
    | .mark v => { e with mark := v }
    | _ => e) y.e

/-- The primary's checkpoint holds o0 to o7, RS.TOP and the mark word as the results in flight leave them: those of the bundle before it (17 R285, 19 R330). -/
def Core.keepFeeds (sec : Bool) (y : Core) : Core :=
  if sec then y else y.setE { y.e with prim := { y.e.prim with ckpt := { y.e.prim.ckpt with
    o := y.feedsNow, rsTop := y.stackNow.rsTop, mark := y.stackNow.mark } } }

/-- The bookkeeping of a bundle that has issued, before its requested trap: counters, group, emulation record, checkpoint past an op that cannot be repeated (R52). -/
def State.account (s : State) (p : Prep) (slots banks : List Nat) : State :=
  let s1 := (s.modMe (fun q => { q with group := p.group, cntIssued := q.cntIssued + 1, resumed := false, emu := q.emu.filter (fun r => r.pc != s.cur.pc) })).moveOn p.bundle.stop
  let s2 := if p.ops.any (fun o => noRepeat o.2) && !p.ops.any (fun o => o.2 == .eret) then
      (s1.modHereE (fun e => e.checkpoint s.cur.sec (e.sq s.cur.sec).pc s.ord)).modHere (Core.keepFeeds s.cur.sec) else s1
  (s2.modMe (fun q => { q with taken := false })).modHere (fun y =>
    { y with usedSlots := y.usedSlots ++ slots, usedBanks := y.usedBanks ++ banks })

/-- The order of the core moves on. -/
def State.countBundle (s : State) : State := s.modHere (fun y => { y with order := y.order + 1 })

/-- A prepared bundle that does not stall: its ops take effect as one, or its first trap stops it whole (R435). -/
def State.issueBundle (s : State) (p : Prep) : IssueRes :=
  let slots := slotsOf p.ops
  let banks := s.banksOf p.ops
  if !disjoint slots s.here.usedSlots || !disjoint banks s.here.usedBanks then .kept
  else
    let (beats, wbeats, conflict) := s.bankCheck p.ops
    let s0 : State := { s with cur := { s.cur with beats := beats, wbeats := wbeats } }
    let plain := p.ops.filter (fun o => !requested o.2)
    let req := p.ops.filter (fun o => requested o.2)
    match runOps plain ((s0.takeCkpt p.restart).modMe (fun q => { q with restartNext := false, newGroup := false, taken := false })) with
    | .next t =>
      (match t.trapped with
       | some r => .trap r (if r.code = codeEmul then s0.emuAll p.ops s0.me.emu else none)
       | none =>
         match conflict with
         | some r => .trap r none
         | none =>
           if plain.any (fun o => o.2 == .eret) then .done (.next (t.modMe (fun q => { q with cntIssued := q.cntIssued + 1 })).countBundle)
           else
             let t1 := (t.giveBeats s.fresh beats (s.readLinesOf p.ops)).account p slots banks
             match runOps req t1 with
             | .next u => .done (.next u.countBundle)
             | o => .done o)
    | o => .done o

/-- The next bundle of the sequencer that State.cur names. -/
def State.tryIssue (s : State) : IssueRes :=
  match s.prep with
  | .error r => .trap r none
  | .ok p =>
    let pc := s.me.pc
    let s1 : State := { s with trapped := none, cur := { s.cur with
      pc := pc, next := pc + BitVec.ofNat 52 p.bundle.len, fold := p.bundle.fold, slot := 0 } }
    if s1.stalls p then .stall (s1.touchAll (s1.foreignUnits p.ops)) else s1.issueBundle p

/-! ## The act of issue (03 R41, R42; 27 R434, R435) -/

/-- The site of a sequencer. -/
def State.visit (s : State) (cl core : Nat) (sec : Bool) : State := { s with trapped := none, cur := { cl := cl, core := core, sec := sec } }

/-- A bundle ready but stalled (09 R155). -/
def Seq.countStall (q : Seq) : Seq := { q with cntStalled := q.cntStalled + 1 }

/-- The count of R42 for the secondary: kept back raises it, other outcomes reset it. -/
def State.noteKept (s : State) (kept : Bool) : State :=
  if s.cur.sec then s.modHere (fun y => { y with secWait := if kept then y.secWait + 1 else 0 }) else s

/-- Whether this core's issue is withheld in the cycle (case 6 of R53). -/
def State.withheldHere (s : State) : Bool :=
  decide (0 < s.here.withheld) || s.hotHolds s.cur.cl

/-- The clock-lost trap of the partition, for the primary of core 0 of logical cluster 0 (R433). -/
def State.clockTrapHere (s : State) : Bool :=
  decide (s.cur.cl % 256 = 0) && s.cur.core == 0 && !s.cur.sec &&
  (match look s.parts (s.cur.cl / 256) with | some p => p.clockTrap | none => false)

/-- A gang notice's traps hold the address of the bundle in whose place they are taken. -/
def TrapRec.at_ (r : TrapRec) (pc : BitVec 52) : TrapRec :=
  if r.code = codeStraggler ∨ r.code = codeClockLost then { r with addr := pc.zeroExtend 64 } else r

/-- A trap taken at the site, with the emulation record made. -/
def State.takeTrap (s : State) (r : TrapRec) (emu : Option EmuRec) : State :=
  let t := s.deliver s.cur.cl s.cur.core s.cur.sec r
  if r.code = codeEmul then t.modMe (fun q => { q with emu := emu }) else t

/-- Whether the sequencer at this site may move in the cycle: it runs, is ready, and its core has taken no trap. -/
def State.mayMove (s : State) : Bool :=
  s.me.running && !s.here.halted && s.hereCtx.isSome && decide (s.me.nextIssue ≤ s.cycle) && decide (s.here.trapAt ≠ s.cycle + 1)

/-- The trap that the sequencer at this site takes in place of its bundle: the partition's clock-lost trap, then the first pending one (R433, R434). -/
def State.pendingTrap (s : State) : Option State :=
  if s.clockTrapHere then
    some ((s.modPart (s.cur.cl / 256) (fun p => { p with clockTrap := false })).takeTrap ((trapR codeClockLost 0 0).at_ s.me.pc) none)
  else match s.me.pend with
    | [] => none
    | r :: rest => some ((s.modMe (fun q => { q with pend := rest })).takeTrap (r.at_ s.me.pc) none)

/-- The layer-store line of the sequencer's bundle, which lies in one line, is filled (13 R221). -/
def State.fillPc (s : State) : State := s.fillFetch s.cur.cl s.hereCtxId s.me.pc.toNat

/-- The trap that the sequencer at this site takes in this cycle, in place of its bundle or at its issue. -/
def State.trapNow (s : State) : Option State :=
  if !s.mayMove then none
  else (s.pendingTrap).orElse (fun _ => match s.fillPc.tryIssue with
    | .trap r emu => some (s.fillPc.takeTrap r emu)
    | _ => none)

/-- A trap of the sequencer at this site, unless the core's primary, whose turn comes after it (first: a yield cycle), has one: then the primary's is taken, and this one arises again (R435). -/
def State.yieldTrap (s : State) (first : Bool) (t : State) : Out :=
  .next ((if first then (s.visit s.cur.cl s.cur.core false).trapNow else none).getD (t.noteKept false))

/-- A sequencer's turn in a cycle: nothing where it is stopped or not ready, a pending trap in place of its issue, or its bundle. -/
def State.issueAct (s : State) (cl core : Nat) (sec first : Bool) : Out :=
  let s := s.visit cl core sec
  if !s.mayMove then .next (if s.withheldHere then s else s.noteKept false)
  else if s.withheldHere then .next (s.modMe Seq.countStall)
  else match s.pendingTrap with
  | some t => s.yieldTrap first t
  | none =>
    let s := s.fillPc
    match s.tryIssue with
    | .stall t => .next ((t.modMe Seq.countStall).noteKept false)
    | .kept => .next (s.noteKept true)
    | .done (.next t) => .next ((t.visit cl core sec).noteKept false)
    | .done o => o
    | .trap r emu => s.yieldTrap first (s.takeTrap r emu)

end Sys2Proof.Machine
end

