-- ==== Sys2Proof/Machine/Cycle.lean ====
section
/-! DEFINITION. A cycle's end and the start of the next: arbitration of scratch reads (13 R211, R212) and landings (11 R195), time (01 R14, R15, 25 R421), results of fixed-latency ops (03 R48, 07 R118, R119), events whose instant the manual fixes, and the agenda of those who move in the cycle. -/

namespace Sys2Proof.Machine

open Sys2Proof

/-! ## Traps at results and landings (27 R435 item 1) -/

/-- A trap found at a result or landing, with what the choice among several compares. -/
structure Cand where
  core : Nat
  sec : Bool
  slot : Nat
  issued : Nat
  trap : TrapRec
  deriving DecidableEq, Repr

/-- A timing trap that the hardware handles alone, as it does all but the 16th in a row (03 R55), yields to any other; then the primary's wins, then that of the op issued earlier, then of the lower slot. -/
def Cand.beats (alone : Cand → Bool) (a b : Cand) : Bool :=
  if alone a ≠ alone b then alone b
  else if a.sec ≠ b.sec then b.sec
  else if a.issued ≠ b.issued then decide (a.issued < b.issued)
  else decide (a.slot < b.slot)

/-- The first of a list under an order. -/
def best {A : Type} (lt : A → A → Bool) : List A → Option A
  | [] => none
  | a :: r => match best lt r with
    | none => some a
    | some b => if lt b a then some b else some a

/-- Each core takes the best of its traps, unless it has taken one in this cycle. -/
def State.takeBest (s : State) (c : Nat) (cs : List Cand) : State :=
  let alone (x : Cand) : Bool := x.trap.code == codeTiming && decide ((s.sq c x.core x.sec).timingRow + 1 < 16)
  (span 0 8).foldl (fun t k =>
    match best (Cand.beats alone) (cs.filter (fun x => x.core == k)) with
    | none => t
    | some x => if (t.core c k).trapAt = t.cycle + 1 then t else t.deliver c k x.sec x.trap) s

/-! ## The read ports of the banks (R211, R212) -/

/-- The order in which reads are served: a sequencer with priority, core number, primary before secondary. -/
def State.readBefore (s : State) (c : Nat) (a b : BankRead) : Bool :=
  let first (r : BankRead) : Bool := (s.sq c r.core r.sec).priority
  if first a ≠ first b then first a
  else if a.core ≠ b.core then decide (a.core < b.core)
  else !a.sec && b.sec

/-- The line that each bank's port serves. -/
def State.servedLines (s : State) (c : Nat) (rs : List BankRead) : List Nat :=
  (span 0 32).filterMap (fun b => (best (s.readBefore c) (rs.filter (fun r => bankOf r.line == b))).map (·.line))

/-- Whether an engine, a get or a fabric write has the port of a bank in this cycle. -/
def Cluster.engineHas (x : Cluster) (b : Nat) : Bool := x.portUsed.any (fun u => bankOf u.1 == b)

/-- Whether a bank with no core read drains a line in this cycle: a buffer of 16 lines or more before engines, another where no engine has the port (R211). -/
def Cluster.drains (x : Cluster) (served : List Nat) (b : Nat) : Bool :=
  !(tget [] x.buf b).isEmpty && !(served.any (fun l => bankOf l == b)) &&
  (decide (16 ≤ (tget [] x.buf b).length) || !x.engineHas b)

/-- The line that a group rebuilds from parity: that of its first unserved read, where no other bank of the group is in use, nothing drains into the group, and the group is the running context's. -/
def State.rebuiltLine (s : State) (c : Nat) (rs : List BankRead) (served : List Nat) (g : Nat) : Option Nat :=
  let x := s.cl c
  match best (s.readBefore c) (rs.filter (fun r => groupOf r.line == g && !served.contains r.line)) with
  | none => none
  | some r =>
    let busy (b : Nat) : Bool := b != bankOf r.line && (served.any (fun l => bankOf l == b) || x.engineHas b)
    let ours := match x.ctx with | none => false | some id => tget 0 x.groupTag g == tagOf id
    if ours && !(span (8 * g) 8).any (fun b => busy b || x.drains served b) then some r.line else none

/-- Reads of this cycle that go late (03 R54). -/
def State.lateReads (s : State) (c : Nat) : List BankRead :=
  let rs := (s.cl c).reads.filter (fun r => decide (r.cycle ≤ s.cycle))
  let served := s.servedLines c rs
  let rebuilt := (span 0 4).filterMap (s.rebuiltLine c rs served)
  rs.filter (fun r => !served.contains r.line && !rebuilt.contains r.line)

/-- Whether a result is of the same op as another. -/
def Pend.sameOp (a b : Pend) : Bool := a.issued == b.issued && a.sec == b.sec && a.slot == b.slot

/-- An op writes nothing from now on: its results, and an mgath's rows still to be read. -/
def Core.cancel (y : Core) (p : Pend) : Core :=
  { y with
    pending := y.pending.filter (fun q => !q.sameOp p)
    gathers := y.gathers.filter (fun g => !(g.issued == p.issued && g.sec == p.sec && g.slot == p.slot)) }

/-- A late read: its op writes nothing and makes no further read, granules that its .clear emptied are full again, and its sequencer is owed a timing trap. -/
def State.goLate (s : State) (c : Nat) (r : BankRead) : Option Cand × State :=
  match (s.core c r.core).pending.find? (fun p => p.id == r.pend) with
  | none => (none, s)
  | some p =>
    let s1 := s.modCl c (fun x => { x with
      fe := setFE x.fe true r.refill
      reads := x.reads.filter (fun q => q.pend != r.pend || decide (q.cycle ≤ s.cycle)) })
    (some { core := r.core, sec := r.sec, slot := p.slot, issued := p.issued, trap := trapR codeTiming 0 p.pc.toNat },
     s1.modCore c r.core (fun y => y.cancel p))

/-- Late reads in turn. -/
def State.goAllLate (s : State) (c : Nat) : List BankRead → List Cand × State
  | [] => ([], s)
  | r :: rest =>
    let (x, s1) := s.goLate c r
    let (xs, s2) := s1.goAllLate c rest
    (x.toList ++ xs, s2)

/-- The ports of a cluster's banks in the cycle that ends: late reads trap, buffers drain (R211, R212). -/
def State.endReads (s : State) (c : Nat) : State :=
  let rs := (s.cl c).reads.filter (fun r => decide (r.cycle ≤ s.cycle))
  let served := s.servedLines c rs
  let drain := (span 0 32).filter ((s.cl c).drains served)
  let (cands, s1) := s.goAllLate c (s.lateReads c)
  let s2 := s1.takeBest c cands
  let s3 := drain.foldl (fun t b => match execScratchBufferDrain c b t with | .next u => u | _ => t) s2
  s3.modCl c (fun x => { x with reads := x.reads.filter (fun r => decide (s.cycle < r.cycle)), portUsed := [] })

/-! ## What happens by itself -/

/-- An event that the state brings about. -/
def State.happen (s : State) (f : State → Out) : State := match f s with | .next t => t | _ => s

/-- Events over a list, each in the state that the one before left. -/
def State.happenAll {A : Type} (s : State) (l : List A) (f : A → State → Out) : State := l.foldl (fun t x => t.happen (f x)) s

def State.clusterKeys (s : State) : List Nat := s.clusters.map (·.1)
def State.streamKeys (s : State) : List (Nat × Nat) := s.allStreams.map (fun x => (x.1, x.2.1))

/-- Numbers below n, from the highest. -/
def downFrom : Nat → List Nat
  | 0 => []
  | n + 1 => n :: downFrom n

/-- Deadlines that the prefetcher of a stream watches; a range that becomes resident in the deadline's cycle counts (21 R365). -/
def State.deadlines (s : State) (p : Nat × Nat) : State :=
  let n := match s.stream p.1 p.2 with | none => 0 | some t => t.pf.watches.length
  s.happenAll (downFrom n) (execDeadlineMiss p.1 p.2)

/-- The spill engine moves its line of the cycle, and actions whose end has come are over (17 R291). -/
def State.endSpill (s : State) (c : Nat) : State :=
  let t := s.runSpill c
  if (t.cl c).e.spilling.isEmpty then t else t.spillRest c

/-- The core landings of a cycle, after what its cores issue: lines of later beats are read, then stores are performed in their order (11 R195, 13 R213). -/
def State.landCycle (s : State) : State := s.clusterKeys.foldl (fun t c => (t.readBeats c).landCluster c) s

/-- The end of a cycle: fabric writes, the last of those who use the banks (R211), the ports of the banks, and what the cycle's reads and writes of the pool bring about. -/
def State.endCycle (s : State) : State :=
  let s1 := s.clusterKeys.foldl (fun t c => (t.endReads c).endSpill c) s.pumpFabric
  let s2 := s1.happenAll (span 0 s1.pool.ranges.length) execPromotionComplete
  s2.streamKeys.foldl (fun t p => t.deadlines p) s2

/-! ## Time -/

/-- The period of the compute layers in units of 1/357 ns: 2.1 GHz for one to four of them, no three of them adjacent, 1.7 GHz for these, 1.4 GHz for six (01 R14, R15). -/
def period (roles : List Bool) : Nat :=
  let n := (roles.filter id).length
  let three := (span 0 4).any (fun i => roles.getD i false && roles.getD (i + 1) false && roles.getD (i + 2) false)
  if n = 6 then 255 else if n = 5 ∨ three = true then 210 else 170

/-- The next cycle: the clocks move on, and a correction is slewed at 100 ppm at most (25 R421); in clock-lost state gang time runs on the free-running oscillator (R423, 09 R154). -/
def State.advance (s : State) : State :=
  let n := period s.roles
  let d : Int := if s.clock.everLocked && s.clock.state != 2 then max (-(n : Int)) (min (n : Int) s.clock.corr) else 0
  { s with
    cycle := s.cycle + 1
    tick := s.tick + n
    gang := ((s.gang : Int) + 10000 * (n : Int) + d).toNat
    clock := { s.clock with corr := s.clock.corr - d } }

/-! ## Results (03 R48, 07 R118, R119) -/

/-- Arena bytes written; words named lose their side nibbles (07 R122), bytes their marks. -/
def Core.putArena (y : Core) (cs : List (Nat × Byte)) (clear : List Nat) : Core :=
  { y with
    arena := writeCells y.arena cs
    arenaBad := cs.foldl (fun t p => tset false t p.1 false) y.arenaBad
    side := clear.foldl (fun t w => tset 0 t w 0) y.side }

/-- Bytes of a record in the hot region, a ring; a line written whole loses its mark (17 R283). -/
def Core.putHot (y : Core) (off : Nat) (bs : List Byte) : Core :=
  let cs := (cells off bs).map (fun p => (p.1 % hotSize, p.2))
  let ls := distinct (cs.map (fun p => p.1 / 64)) []
  { y with
    hot := writeCells y.hot cs
    hotMarks := (ls.filter (fun l => covered cs l == 64)).foldl (fun t l => tset none t l none) y.hotMarks }

/-- Words of the microprogram store (19 R339). -/
def putStore (t : Tbl (BitVec 32)) (a : Nat) : List (BitVec 32) → Tbl (BitVec 32)
  | [] => t
  | w :: r => putStore (tset 0 t a w) (a + 1) r

/-- A write of a core's own registers and memories. -/
def Core.land (y : Core) (w : PWrite) : Core :=
  match w with
  | .g n v => { y with e := y.e.wG n v }
  | .m n v => { y with e := { y.e with m := tset 0 y.e.m n v } }
  | .b n v => { y with e := { y.e with b := tset 0 y.e.b n v } }
  | .o n v => { y with e := { y.e with o := tset 0 y.e.o n v } }
  | .p n v => { y with e := { y.e with p := tset 0 y.e.p n v } }
  | .k n c => { y with e := { y.e with k := tset {} y.e.k n c } }
  | .arena bs clear => y.putArena bs clear
  | .side ws => { y with side := ws.foldl (fun t p => tset 0 t p.1 p.2) y.side }
  | .latch row bs => { y with latch := writeB y.latch (256 * row) bs }
  | .store a ws => { y with store := putStore y.store a ws }
  | .hot off bs => y.putHot off bs
  | .mark v => { y with e := { y.e with mark := v } }
  | .view n v => { y with e := y.e.setView n v }
  | _ => y

/-- A result that cannot take its place yet, tried again in the next cycle in the order of issue. -/
def requeue (p : Pend) : List Pend → List Pend
  | [] => [p]
  | q :: r => if p.id < q.id then p :: q :: r else q :: requeue p r

def State.landLater (s : State) (c k : Nat) (p : Pend) (w : PWrite) : State :=
  s.modCore c k (fun y => { y with pending := requeue { p with land := s.cycle + 1, writes := [w], flags := 0, late := true } y.pending })

/-- A write of a result; a pst that finds the pool write buffer full waits (23 R371), and a stage waits for the fences before it (09 R152). -/
def State.landWrite (s : State) (c k : Nat) (p : Pend) (w : PWrite) : State :=
  match w with
  | .csr n v => s.csrLand c k n v
  | .stage e n =>
    if !s.mayPerform c k p.sec p.id then s.landLater c k p w
    else s.modCl c (fun x => { x with e := if e = 0 then { x.e with stage0 := x.e.stage0 + BitVec.ofNat 32 n } else { x.e with stage1 := x.e.stage1 + BitVec.ofNat 32 n } })
  | .tid n q => s.modCl c (fun x => { x with e := { x.e with tid := tset {} x.e.tid n q } })
  | .pool o a bs fence =>
    let (t, ok) := s.pstEnter c k p.sec p.id o a bs fence
    if ok then t else s.landLater c k p w
  | w => s.modCore c k (fun y => y.land w)

def State.landWrites (s : State) (c k : Nat) (p : Pend) : State := p.writes.foldl (fun t w => t.landWrite c k p w) s

/-- Results that control the machine: they are seen from the cycle after their op on, and come before the flags of that op's cycle (07 R118). -/
def PWrite.control : PWrite → Bool
  | .csr _ _ => true
  | .view _ _ => true
  | .stage _ _ => true
  | .tid _ _ => true
  | _ => false

/-- The results of a core that land in this cycle are taken out. -/
def State.duePends (s : State) (c k : Nat) (control : Bool) : List Pend :=
  (s.core c k).pending.filter (fun p => decide (p.land ≤ s.cycle) && p.writes.any PWrite.control == control)

def State.dropPends (s : State) (c k : Nat) (ps : List Pend) : State :=
  s.modCore c k (fun y => { y with pending := y.pending.filter (fun p => !ps.contains p) })

/-- The flags of the cycle before join FLAGS. -/
def CoreE.joinFlags (e : CoreE) : CoreE := { e with flags := e.flags ||| e.raised.zeroExtend 64, raised := 0 }

/-- The flags of a result that raise an arithmetic trap (07 R119). -/
def CoreE.enabled (e : CoreE) (fl : BitVec 6) : Nat := fl.toNat % 32 &&& e.fpen.toNat % 32

/-- A result lands: its flags are set, and it is written unless one of them is enabled, which is an arithmetic trap. -/
def State.landPend (s : State) (c k : Nat) (p : Pend) : Option Cand × State :=
  let on := (s.core c k).e.enabled p.flags
  let s1 := s.modE c k (fun e => { e with raised := e.raised ||| p.flags })
  if on = 0 then (none, s1.landWrites c k p)
  else (some { core := k, sec := p.sec, slot := p.slot, issued := p.issued, trap := trapR codeArith (p.slot * 256 + on) p.pc.toNat }, s1)

def State.landAll (s : State) (c k : Nat) : List Pend → List Cand × State
  | [] => ([], s)
  | p :: r =>
    let (x, s1) := s.landPend c k p
    let (xs, s2) := s1.landAll c k r
    (x.toList ++ xs, s2)

/-- The results of a core at the start of a cycle: the secondary's before the primary's. -/
def State.coreResults (s : State) (c k : Nat) : List Cand × State :=
  let ctl := s.duePends c k true
  let s1 := (ctl.foldl (fun t p => t.landWrites c k p) (s.dropPends c k ctl)).modE c k CoreE.joinFlags
  let due := s1.duePends c k false
  (s1.dropPends c k due).landAll c k (due.filter (fun p => p.sec) ++ due.filter (fun p => !p.sec))

/-- A row of an mgath read in this cycle (19 R331): its seals were checked at issue, its latch row is written four cycles on. -/
def State.gatherRow (s : State) (c k : Nat) (g : Gather) (row off : Nat) : State :=
  let p : Pend := { id := s.fresh, land := s.cycle + 4, issued := g.issued, sec := g.sec, slot := g.slot, pc := g.pc,
                    writes := [.latch row (readB (s.cl c).scratch off 256)], flags := 0 }
  let reads := (unitsOf 64 off 256).map (fun l => ({ cycle := s.cycle, line := l, core := k, sec := g.sec, pend := s.fresh, refill := [], gather := true } : BankRead))
  ((s.modCore c k (fun y => { y with pending := y.pending ++ [p] })).modCl c (fun x => { x with reads := x.reads ++ reads })).tick1

def State.gatherAll (s : State) (c k : Nat) (gs : List Gather) : State :=
  gs.foldl (fun t g => match g.rows.find? (fun p => p.1 == t.cycle) with
    | none => t
    | some p => t.gatherRow c k g p.2.1 p.2.2) s

/-- The mgaths of a core read their rows; one with no row left is over. -/
def State.coreGathers (s : State) (c k : Nat) : State :=
  (s.gatherAll c k (s.core c k).gathers).modCore c k (fun y => { y with gathers :=
    (y.gathers.map (fun g => { g with rows := g.rows.filter (fun p => decide (s.cycle < p.1)) })).filter (fun g => !g.rows.isEmpty) })

/-- Landings of this cycle that fail, found before the core issues, so that their traps come in place of its bundles (27 R435). -/
def failLandings : List Landing → Cluster → List (Landing × TrapRec)
  | [], _ => []
  | l :: r, x =>
    match x.tryLand l with
    | .error e => (l, e) :: failLandings r x
    | .ok y => failLandings r y

/-- The results, landings and rows of a cluster at the start of a cycle, and the traps that they raise. -/
def State.clusterResults (s : State) (c : Nat) : State :=
  let step (f : State → Nat → List Cand × State) (p : List Cand × State) (k : Nat) : List Cand × State :=
    let (xs, t) := f p.2 k
    (p.1 ++ xs, t)
  let (a, s1) := (span 0 8).foldl (step (fun t k => t.coreResults c k)) ([], s)
  let bad := failLandings (landSort ((s1.cl c).landings.filter (s1.landDue c))) (s1.cl c)
  let s2 := s1.modCl c (fun x => { x with landings := x.landings.filter (fun l => !bad.any (fun p => p.1 == l)) })
  let b := bad.map (fun p => ({ core := p.1.core, sec := p.1.sec, slot := p.1.slot, issued := p.1.issued, trap := p.2 } : Cand))
  let s3 := (span 0 8).foldl (fun t k => t.coreGathers c k) s2
  let s4 := (span 0 8).foldl (fun t k => t.happen (execDrainPush c k)) s3
  s4.takeBest c (a ++ b)

/-! ## Events with a fixed instant -/

/-- Responses and what follows from them: values land in return streams, puts complete, boundaries and fences pass. -/
def State.settleAll (s : State) : State :=
  let s1 := s.happenAll (s.arrivals.map (·.id)) execStreamSlotLand
  let s2 := s1.happenAll (s1.xfers.map (·.id)) execGputComplete
  s2.clusterKeys.foldl (fun t c => (span 0 8).foldl (fun u k => (u.settle c k false).settle c k true) t) s2

/-- Retransmissions, leases and residency. -/
def State.poolEvents (s : State) : State :=
  let s1 := s.happenAll (s.pool.reqs.map (·.id)) execPoolRetransmit
  let s2 := s1.ctxs.foldl (fun t p => t.happenAll (downFrom p.2.leases.length) (execLeaseExpiry p.1)) s1
  let s3 := s2.streamKeys.foldl (fun t p => t.pfStep p.1 p.2) s2
  (s3.pumpResidency).happen execBudgetWindow

/-- Destinations, by partition, for which packets wait in virtual egress queues (25 R417). -/
def State.egressWaits (s : State) : List (Nat × Nat) :=
  (s.fabric.out.filter (fun o => o.waiting)).map (fun o => (o.part, o.pkt.dst.toNat))

/-- Retransmissions, and packets whose destination has got its route. -/
def State.fabricEvents (s : State) : State :=
  let t := s.happenAll (s.fabric.out.map (·.id)) execFabricRetransmit
  t.happenAll t.egressWaits (fun p => execVirtualEgressSend p.1 p.2)

/-- Updates of condition words sent in the cycle before, in the order of 03 R39. -/
def State.condEvents (s : State) : State :=
  let us := s.condQueue
  let of (x : CondSrc) : List CondUpdate := us.filter (fun u => u.src == x)
  ({ s with condQueue := [] } : State).happenAll (of .packet ++ of .deadline ++ of .gwcond) execCondWordUpdate

/-- The clocks, publications, shootdowns, and the write-backs of a change of role map. -/
def State.clockEvents (s : State) : State :=
  let s1 := (((s.happen execHoldoverEntry).happen execClockLostEntry).happen execClockLock)
  let s2 := s1.happenAll s1.pubReqs (fun r => execPublishExchange r.ctx r.idx)
  ((s2.answerPubs.freeExch).happen execShootdownInstant).roleEvents

/-- Streams: timed launches, and launches that wait. A word that a stream waits for is read again each µs. -/
def State.streamEvents (s : State) (micro : Bool) : State :=
  let ps := s.streamKeys
  let s1 := ps.foldl (fun t p =>
    (((t.happen (execGangInjectHalt p.1 p.2)).happen (execTimedLaunchInstant p.1 p.2)).happen (execStragglerCheck p.1 p.2)).happen
      (execLaunchStart p.1 p.2)) s
  if micro then s1.happenAll ps (fun p => execWaitPoll p.1 p.2) else s1

/-- Copy engines start and complete their entries (13 R227, R232). -/
def State.engineEvents (s : State) (c : Nat) : State :=
  [0, 1].foldl (fun t e => if ((t.cl c).e.ce e).task.isNone then t else
    (t.happen (execCopyEntryComplete c e)).happen (execCopyEntryStart c e)) s

/-- The bound within which a lazy unit has moved, in units of State.tick: 2 µs for a bank or hot unit, 16 µs for a parity group (03 R60). -/
def moveBound : UnitKind → Nat
  | .group => 16000 * 357
  | _ => 2000 * 357

def State.moveEvents (s : State) (c : Nat) : State :=
  s.happenAll ((s.cl c).touched.filter (fun t => decide (t.2.2.2 + moveBound t.2.1 ≤ s.tick))) (fun t => execLazyUnitMove c t.1 t.2.1 t.2.2.1)

/-- The walker of a cluster: nodes in rising order (03 R37, R38). -/
def State.graphEvents (s : State) (c : Nat) : State :=
  (s.cl c).graphs.foldl (fun t g =>
    if !g.2.running then t else
    (span 0 g.2.nodes.length).foldl (fun u i =>
      ((u.happen (execGraphNodeLaunch c g.1 i)).happen (execConditionalNodeEval c g.1 i)).happen (execWhileNodeEval c g.1 i)) t) s

/-- The walkers' graphs that run, whose ends follow the core landings of the cycle. -/
def State.graphEnds (s : State) : List Act :=
  (s.clusters.map (fun p => (p.2.graphs.filter (fun g => g.2.running)).map (fun g => Act.graphEnd p.1 g.1))).flatten

/-- Tasks that are over, halts that are due, and the watchdog (03 R35, R57, R58). -/
def State.taskEvents (s : State) : State :=
  let s1 := s.clusterKeys.foldl (fun t c => t.happenAll ((t.cl c).tasks.map (·.id)) (execTaskComplete c)) s
  let asked := (s1.ctxs.map (fun p => p.2.preempt.map (fun q => (p.1, q.1)))).flatten
  (s1.happenAll asked (fun p => execPreemptWatchdog p.1 p.2)).happenAll asked (fun p => execContextHalt p.1 p.2)

/-- Contexts that are to resume do, as soon as they may take their clusters (01 R18, 27 R456). -/
def State.resumeEvents (s : State) : State := s.resumes.foldl State.tryResume s

/-- Every event whose instant has come. -/
def State.events (s : State) (micro : Bool) : State :=
  let s1 := (((s.settleAll.poolEvents).fabricEvents).condEvents).clockEvents
  let s2 := s1.clusterKeys.foldl (fun t c => (t.engineEvents c).moveEvents c) s1
  let s3 := s2.clusterKeys.foldl (fun t c => (span 0 8).foldl (fun u k => u.happen (execRoutineStart c k)) t) s2
  let s4 := ((s3.taskEvents).resumeEvents).streamEvents micro
  s4.clusterKeys.foldl (fun t c => t.graphEvents c) s4

/-! ## The agenda of a cycle -/

/-- Whether a core has a sequencer that runs. -/
def Core.active (y : Core) : Bool := !y.halted && (y.e.prim.running || y.e.second.running)

/-- A core at the start of a cycle: the cycle's marks are clear, its issue may be withheld (27 R456), and its counters run while its task's cores are not halted (09 R155). -/
def Core.open_ (y : Core) (withheld : Bool) : Core :=
  let ticks : Word := if y.task.isSome && !y.halted then 1 else 0
  { y with usedSlots := [], usedBanks := [], withheld := if withheld then 1 else 0, e := { y.e with cntRun := y.e.cntRun + ticks } }

/-- A core's turns in the cycle. In a yield cycle the secondary comes first, and a yield cycle that is withheld stays to come; a stopped secondary has no count (03 R42). -/
def State.openCore (s : State) (c k : Nat) : List Act × State :=
  let y := s.core c k
  if y = {} then ([], s)
  else
    let s1 := ({ s with free := s.free + 1 } : State).modCore c k (fun y => y.open_ (y.active && Config.withhold s.free))
    let hot := s1.hotHolds c
    if !y.active then ([], if hot then s1 else s1.modCore c k (fun y => { y with secWait := 0, yieldNow := false }))
    else
      let s2 := s1.happen (execYieldCycle c k)
      let p : Act := .issue c k false
      let q : Act := .issue c k true
      let held := decide (0 < (s2.core c k).withheld) || hot
      if (s2.core c k).yieldNow && !held then
        ([q, p], s2.modCore c k (fun y => { y with yieldNow := false, e := { y.e with cntYield := y.e.cntYield + 1 } }))
      else ([p, q], s2)

def State.openCores (s : State) : List (Nat × Nat) → List Act × State
  | [] => ([], s)
  | (c, k) :: r =>
    let (as, s1) := s.openCore c k
    let (bs, s2) := s1.openCores r
    (as ++ bs, s2)

/-- Cores by layer, cluster and number. -/
def State.coreKeys (s : State) : List (Nat × Nat) :=
  ((span 0 7).map (fun l => ((s.clusters.filter (fun p => (s.layerOf p.1).getD 6 == l)).map (fun p => p.2.cores.map (fun q => (p.1, q.1)))).flatten)).flatten

/-- The order in which events of a cycle use the banks: copy engines and copyx, the spill engine, gets and puts, incoming fabric packets (R211); what uses none comes first. -/
def State.turnOf (s : State) (a : Act) : Nat :=
  match a with
  | .event (.lineLanding x _) => (match s.xfer x with
    | none => 0
    | some t => if t.kind == .copy || t.kind == .copyx then 1 else 3)
  | .event (.spillLine _ _) => 2
  | .event (.refillLine _ _) => 2
  | .event (.fabricWriteArrival _) => 4
  | .event (.fabricAtomicArrival _) => 4
  | .event (.multicastArrival _) => 4
  | _ => 0

/-- Who moves in the cycle: the cores, their matrix units, the landings of the cores, the ends of graphs, the command processor's streams, then what comes from outside or at an instant that the manual leaves open (11 R195; log entry 4). -/
def State.open_ (s : State) : State :=
  let due := (s.schedule.filter (fun p => decide (p.1 ≤ s.cycle))).map (·.2)
  let turns := ((span 0 5).map (fun n => due.filter (fun a => s.turnOf a == n))).flatten
  let (issues, s1) := s.openCores s.coreKeys
  let micros := (s1.coreKeys.filter (fun p => (s1.core p.1 p.2).run.isSome)).map (fun p => Act.micro p.1 p.2)
  let cps := s1.streamKeys.map (fun p => Act.cp p.1 p.2)
  { s1 with schedule := s1.schedule.filter (fun p => !decide (p.1 ≤ s.cycle)), agenda := issues ++ micros ++ [.land] ++ s1.graphEnds ++ cps ++ turns }

/-- The end of a cycle and the start of the next. -/
def State.beginCycle (s : State) : State :=
  let s1 := s.endCycle.advance
  let s2 := s1.clusterKeys.foldl (fun t c => t.clusterResults c) s1
  (s2.events (s2.now / 1000 != s.now / 1000)).open_

end Sys2Proof.Machine
end

