-- ==== Sys2Proof/Machine/Step.lean ====
section
/-! DEFINITION. One step: the next act of the cycle's agenda, or, where none is left, the end of the cycle and the start of the next. And the placing of a word where the next step fetches. -/

namespace Sys2Proof.Machine

open Sys2Proof

/-- A micro-op of the routine that runs on a core's matrix unit (19 R325). -/
def State.microAct (s : State) (cl core : Nat) : Out :=
  let s := s.visit cl core false
  match s.here.run with
  | none => .next s
  | some r =>
    if 2 ^ 22 ≤ r.cycles then execRoutineTimeout cl core s
    else
      let r1 : Routine := { r with cycles := r.cycles + 1 }
      match decodeMicro (tget 0 s.here.store r.upc) with
      | none => .next (s.stopHere r1 28)
      | some i => exec i (s.setRun r1)

/-- Packets that a partition does not accept while a change of role map drains it (01 R17). -/
def heldPacket (i : Instr) : Bool :=
  match i with
  | .launchTask _ _ => true
  | .launchGraph _ _ => true
  | .launchGraphResident _ _ _ => true
  | .timed _ _ _ _ _ => true
  | .indirect _ _ => true
  | _ => false

/-- A stream of the command processor: its next packet, or what goes on while it waits (21 R343, R344). -/
def State.streamAct (s : State) (part stream : Nat) : Out :=
  let s : State := { s with trapped := none, cur := { part := part, stream := stream } }
  match s.cpS with
  | none => .next s
  | some t =>
    if t.error ≠ 0 then .next s
    else if t.wait ≠ .none then .next (s.cpContinue.prefetchAhead part stream)
    else
      let s0 := s.prefetchAhead part stream
      let s1 := match s0.cpS with | none => s0 | some x => s0.fillPacket x
      match s1.cpS.bind s1.nextPacket with
      | none => .next s1
      | some (_, .error e) => .next (s1.cpFail e)
      | some (n, .ok i) =>
        let hold := match look s1.parts part with | none => false | some p => p.held
        if hold && heldPacket i then .next s1 else exec i ((s1.modCp (fun t => { t with plen := n })).cpBegin)

/-- What an act does. -/
def State.act (s : State) (a : Act) : Out :=
  match a with
  | .issue c k sec => s.issueAct c k sec (sec && s.agenda.contains (.issue c k false))
  | .micro c k => s.microAct c k
  | .cp p i => s.streamAct p i
  | .event i => exec i { s with trapped := none }
  | .land => .next s.landCycle
  | .probeIn peer ctx base len => .next (s.probeAsked peer ctx base len)
  | .probeAck peer c k sec n => .next (s.probeAcked peer c k sec n)
  | .pubIn peer ctx idx => .next (s.pubAsked peer ctx idx)
  | .pubAck peer ctx idx => .next (s.pubAcked peer ctx idx)
  | .leaseIn g => .next (s.leaseAsked g)
  | .leaseOut peer base => .next (s.leaseEnded peer base)
  | .mail c => ({ s with trapped := none } : State).mailAct c
  | .graphEnd c g => execGraphComplete c g { s with trapped := none }

/-- One step of the package. -/
def step (s : State) : Host.Outcome State Fault Refusal :=
  match s.agenda with
  | [] => .next s.beginCycle
  | a :: r => ({ s with agenda := r } : State).act a

/-- A routine at the first word of the microprogram store, of a call whose arguments are all zero. -/
def Routine.blank : Routine where
  call := { sec := false, cn := 0, pc := 0, ent := 0, issued := 0, p := [], aLatch := false, aView := {}, aTid := {},
            bView := {}, bTid := {}, cView := {}, cTid := {}, tView := {}, tTid := {} }
  upc := 0
  x := []
  kctr := 0
  loops := []
  w := []
  wScale := []
  loaded := 0
  acc := []
  flags := 0
  cycles := 0
  sub := 0

/-- The state in which the very next step fetches and runs a micro-op's word: a routine runs on core 0 of cluster 0, the word stands at its micro PC, and the matrix unit moves next (log entry 5). -/
def State.withFetchWord (s : State) (nbits w : Nat) : State :=
  let y := s.core 0 0
  let r := y.run.getD Routine.blank
  let s1 := s.setCore 0 0 { y with run := some r, store := tset 0 y.store r.upc (BitVec.ofNat 32 (w % 2 ^ nbits)) }
  { s1 with agenda := [.micro 0 0] }

end Sys2Proof.Machine
end

