-- ==== Sys2Proof/Safety.lean ====
section
/-! DEFINITION. What counts as a safe run of the package: runs, stops, and the canonical form of its memories. -/

namespace Sys2Proof.Machine

open Sys2Proof

/-- The canonical form of the package's memories (00 R5): in physical memory, the layer store and host memory, addresses rise strictly and no byte listed equals the 0 that an unlisted address reads as (log entry 2). -/
def Memory.wf (m : Mem) : Bool := twf 0 m.phys && twf 0 m.layer && twf 0 m.host

/-- The same for the memories of a core: arena and hot region. -/
def Core.wf (y : Core) : Bool := twf 0 y.arena && twf 0 y.hot

/-- The same for a cluster's scratch and its cores. -/
def Cluster.wf (x : Cluster) : Bool := twf 0 x.scratch && x.cores.all (fun p => p.2.wf)

/-- What the state after n steps is, where no step stops. -/
def runFrom (n : Nat) (s : State) : Host.Outcome State Fault Refusal := Host.Core.run core n s

/-- A step from a state goes on: it answers a next state. -/
def GoesOn (s : State) : Prop := ∃ t, step s = .next t

/-- A run of n steps is safe: none of them stops, and its memories are in canonical form at its end. -/
def SafeRun (n : Nat) (s : State) : Prop := ∃ t, runFrom n s = .next t ∧ Memory.wf t.mem = true

/-- A trap is taken: the sequencer of a core is in service mode at a handler address. -/
def InHandler (s : State) (c k : Nat) (sec : Bool) (handler : BitVec 52) : Prop :=
  (s.core c k).e.mode = true ∧ (s.sq c k sec).pc = handler ∧ (s.sq c k sec).running = true

end Sys2Proof.Machine
end

