-- ==== Sys2Proof/WellFormed.lean ====
section
/-! DEFINITION. Which instructions are well formed: the form of each (a bundle op, a matrix micro-op, a command packet or an event), and the values that its encoding admits for its operands (05 R85, 19 R325, 21 R347). -/

namespace Sys2Proof

/-- What an instruction is: an op of a bundle, a micro-op of a matrix routine, a packet of a command stream, or an event with no encoding. -/
inductive Form | op | micro | packet | event
  deriving DecidableEq, Repr

/-- The form of each instruction. -/
def Instr.form : Instr → Form
  | .nop => .op
  | .tend => .op
  | .yieldOp => .op
  | .ret _ _ => .op
  | .rdtime _ => .op
  | .rdctr _ _ => .op
  | .xchk _ _ => .op
  | .xchkV _ _ => .op
  | .gwcondSet _ => .op
  | .gwcondClr _ => .op
  | .gwcondIns _ _ => .op
  | .pbr _ _ => .op
  | .pbri _ _ => .op
  | .br _ _ _ _ => .op
  | .brl _ _ _ => .op
  | .loop _ _ => .op
  | .loopi _ _ => .op
  | .trap _ => .op
  | .svc _ => .op
  | .phase _ => .op
  | .phaseProbe _ _ _ => .op
  | .fence _ => .op
  | .stage _ _ => .op
  | .add _ _ _ _ => .op
  | .sub _ _ _ _ => .op
  | .and _ _ _ _ => .op
  | .or _ _ _ _ => .op
  | .xor _ _ _ _ => .op
  | .shl _ _ _ _ => .op
  | .shr _ _ _ _ => .op
  | .sar _ _ _ _ => .op
  | .rot _ _ _ _ => .op
  | .min _ _ _ _ => .op
  | .max _ _ _ _ => .op
  | .minn _ _ _ _ => .op
  | .maxn _ _ _ _ => .op
  | .seq _ _ _ _ => .op
  | .slt _ _ _ _ => .op
  | .sltn _ _ _ _ => .op
  | .clz _ _ _ => .op
  | .ctz _ _ _ => .op
  | .popc _ _ _ => .op
  | .sel _ _ _ _ => .op
  | .lea _ _ _ _ _ => .op
  | .mul _ _ _ _ => .op
  | .mulh _ _ _ _ => .op
  | .mulhn _ _ _ _ => .op
  | .div _ _ _ _ => .op
  | .divn _ _ _ _ => .op
  | .rem _ _ _ _ => .op
  | .remn _ _ _ _ => .op
  | .addi _ _ _ => .op
  | .andi _ _ _ => .op
  | .ori _ _ _ => .op
  | .xori _ _ _ => .op
  | .shli _ _ _ _ => .op
  | .shri _ _ _ _ => .op
  | .sari _ _ _ _ => .op
  | .bfx _ _ _ _ => .op
  | .bfi _ _ _ _ => .op
  | .movi _ _ => .op
  | .movhi _ _ => .op
  | .fadd _ _ _ _ _ => .op
  | .fsub _ _ _ _ _ => .op
  | .fmul _ _ _ _ _ => .op
  | .fdiv _ _ _ _ _ => .op
  | .ffma _ _ _ _ _ => .op
  | .fmin _ _ _ _ => .op
  | .fmax _ _ _ _ => .op
  | .fcmp _ _ _ _ _ => .op
  | .fsqrt _ _ _ _ => .op
  | .fexp2 _ _ _ _ => .op
  | .flog2 _ _ _ _ => .op
  | .fexp _ _ _ _ => .op
  | .flog _ _ _ _ => .op
  | .fsin _ _ _ _ => .op
  | .fcos _ _ _ _ => .op
  | .ftanh _ _ _ _ => .op
  | .ferf _ _ _ _ => .op
  | .frcpa _ _ _ _ => .op
  | .frsqa _ _ _ _ => .op
  | .fclass _ _ _ => .op
  | .frnd _ _ _ _ => .op
  | .fcvt _ _ _ _ _ => .op
  | .fcvtFromInt _ _ _ _ _ => .op
  | .ld _ _ _ _ _ _ => .op
  | .st _ _ _ _ => .op
  | .vld _ _ _ _ _ => .op
  | .vst _ _ _ => .op
  | .vldm _ _ _ _ _ => .op
  | .vstm _ _ _ => .op
  | .tld _ _ _ _ _ => .op
  | .tst _ _ _ => .op
  | .feset _ _ => .op
  | .feclr _ _ => .op
  | .atom _ _ _ _ _ => .op
  | .sbind _ _ => .op
  | .sunbind _ => .op
  | .sstatVal _ _ => .op
  | .sstatQ _ _ => .op
  | .sstatCe _ _ => .op
  | .sstatCf _ _ => .op
  | .sstatPut _ => .op
  | .gget _ _ _ => .op
  | .gput _ _ _ => .op
  | .pld _ _ _ _ => .op
  | .pst _ _ _ _ => .op
  | .patom _ _ _ _ _ => .op
  | .pget _ _ _ _ => .op
  | .lease _ _ _ => .op
  | .lrel _ _ _ => .op
  | .capld _ _ => .op
  | .capst _ _ => .op
  | .capder _ _ _ _ => .op
  | .capchk _ _ _ => .op
  | .publish _ _ => .op
  | .reshPin _ => .op
  | .reshUnpin _ => .op
  | .reshPrio _ _ => .op
  | .evict _ => .op
  | .evictDemote _ => .op
  | .pref _ => .op
  | .vadd _ _ _ _ _ _ => .op
  | .vsub _ _ _ _ _ _ => .op
  | .vmul _ _ _ _ _ _ => .op
  | .vfma _ _ _ _ _ _ => .op
  | .vfms _ _ _ _ _ _ => .op
  | .vdiv _ _ _ _ _ _ => .op
  | .vsqrt _ _ _ _ _ => .op
  | .vrcpa _ _ _ _ _ => .op
  | .vrsqa _ _ _ _ _ => .op
  | .vexp2 _ _ _ _ _ => .op
  | .vlog2 _ _ _ _ _ => .op
  | .vexp _ _ _ _ _ => .op
  | .vlog _ _ _ _ _ => .op
  | .vsin _ _ _ _ _ => .op
  | .vcos _ _ _ _ _ => .op
  | .vtanh _ _ _ _ _ => .op
  | .verf _ _ _ _ _ => .op
  | .vabs _ _ _ _ => .op
  | .vneg _ _ _ _ => .op
  | .vclass _ _ _ _ => .op
  | .vaddI32 _ _ _ _ => .op
  | .vsubI32 _ _ _ _ => .op
  | .vmulI32 _ _ _ _ => .op
  | .vmadi _ _ _ _ => .op
  | .vand _ _ _ _ => .op
  | .vor _ _ _ _ => .op
  | .vxor _ _ _ _ => .op
  | .vnot _ _ _ => .op
  | .vshl _ _ _ _ => .op
  | .vshr _ _ _ _ => .op
  | .vsar _ _ _ _ => .op
  | .vabsI32 _ _ _ => .op
  | .vnegI32 _ _ _ => .op
  | .vmin _ _ _ _ _ => .op
  | .vmax _ _ _ _ _ => .op
  | .vcmp _ _ _ _ _ _ => .op
  | .vsel _ _ _ _ _ => .op
  | .vcvt _ _ _ _ _ _ => .op
  | .vpack _ _ _ _ => .op
  | .vunpack _ _ _ _ _ => .op
  | .vbcast _ _ _ => .op
  | .vperm _ _ _ _ => .op
  | .vshuf _ _ _ _ => .op
  | .vslide _ _ _ _ => .op
  | .vred _ _ _ _ _ _ => .op
  | .vscan _ _ _ _ _ _ => .op
  | .vrng _ _ _ => .op
  | .vmand _ _ _ => .op
  | .vmor _ _ _ => .op
  | .vmnot _ _ => .op
  | .vmpopc _ _ => .op
  | .vscale _ _ _ _ _ => .op
  | .vw2enc _ _ _ _ _ => .op
  | .rvmul _ _ _ _ _ => .op
  | .urmul _ _ _ _ _ => .op
  | .rvfma _ _ _ _ _ => .op
  | .urfma _ _ _ _ _ => .op
  | .rvadd _ _ _ _ _ => .op
  | .uradd _ _ _ _ _ => .op
  | .rvcvt _ _ _ _ _ => .op
  | .urcvt _ _ _ _ _ => .op
  | .rvrelu _ _ _ => .op
  | .urrelu _ _ _ => .op
  | .rvscale _ _ _ _ _ => .op
  | .urscale _ _ _ _ _ => .op
  | .rvdrop _ _ _ _ => .op
  | .urdrop _ _ _ _ => .op
  | .pusht _ _ => .op
  | .popt _ _ => .op
  | .rsmark _ _ => .op
  | .rsck _ _ => .op
  | .mcall _ => .op
  | .routineStart _ _ => .event
  | .routineTimeout _ _ => .event
  | .drainPush _ _ => .event
  | .unop => .micro
  | .uend => .micro
  | .uxset _ _ => .micro
  | .uxadd _ _ => .micro
  | .uxldp _ _ _ => .micro
  | .ukadd _ _ _ => .micro
  | .uloop _ _ _ => .micro
  | .ubnz _ _ => .micro
  | .uwait _ => .micro
  | .uwld _ _ => .micro
  | .umac _ _ _ _ _ _ => .micro
  | .uzero _ _ => .micro
  | .uxmov _ _ => .micro
  | .mparm _ _ => .op
  | .mfoffSet _ _ => .op
  | .mfoff _ _ _ => .op
  | .mgath _ _ _ => .op
  | .dqpop _ _ => .op
  | .dqst _ _ => .op
  | .macst _ _ => .op
  | .macld _ _ => .op
  | .mload _ _ _ => .op
  | .fwr _ _ _ _ => .op
  | .fatom _ _ _ _ _ => .op
  | .freq _ _ _ => .op
  | .fmc _ _ _ _ => .op
  | .fstatOut _ => .op
  | .fstatDone _ => .op
  | .fstatErr _ => .op
  | .fstatPeer _ _ => .op
  | .fgrp _ _ => .op
  | .csrr _ _ => .op
  | .csrw _ _ => .op
  | .csrwFlags _ => .op
  | .csrwMode _ => .op
  | .csrwStage _ => .op
  | .csrwRsSpill _ _ => .op
  | .eret => .op
  | .tlbinv _ _ _ => .op
  | .vwset _ _ _ => .op
  | .tidset _ _ => .op
  | .halt => .op
  | .copyx _ _ _ _ _ => .op
  | .yieldCycle _ _ => .event
  | .scratchBufferDrain _ _ => .event
  | .lineLanding _ _ => .event
  | .streamSlotLand _ => .event
  | .copyEntryStart _ _ => .event
  | .copyEntryComplete _ _ => .event
  | .spillLine _ _ => .event
  | .refillLine _ _ => .event
  | .lazyUnitMove _ _ _ _ => .event
  | .preemptWatchdog _ _ => .event
  | .contextHalt _ _ => .event
  | .taskComplete _ _ => .event
  | .graphNodeLaunch _ _ _ => .event
  | .conditionalNodeEval _ _ _ => .event
  | .whileNodeEval _ _ _ => .event
  | .graphComplete _ _ => .event
  | .condWordUpdate _ => .event
  | .poolResponse _ => .event
  | .poolRetransmit _ => .event
  | .leaseGrant _ => .event
  | .leaseExpiry _ _ => .event
  | .promotionComplete _ => .event
  | .deadlineMiss _ _ _ => .event
  | .budgetWindow => .event
  | .publishExchange _ _ => .event
  | .doorbell _ _ _ => .event
  | .nopPacket => .packet
  | .launchTask _ _ => .packet
  | .launchGraph _ _ => .packet
  | .launchGraphResident _ _ _ => .packet
  | .launchStart _ _ => .event
  | .timed _ _ _ _ _ => .packet
  | .indirect _ _ => .packet
  | .pred _ _ _ _ _ => .packet
  | .loopPacket _ _ => .packet
  | .writeMemory _ _ => .packet
  | .writeCondWord _ _ _ => .packet
  | .waitPacket _ _ _ _ => .packet
  | .waitIdle => .packet
  | .waitPoll _ _ => .event
  | .ffence => .packet
  | .sched _ _ _ _ _ _ _ => .packet
  | .event _ _ _ _ _ _ => .packet
  | .budget _ _ => .packet
  | .gangInjectHalt _ _ => .event
  | .readyReport _ _ => .event
  | .timedLaunchInstant _ _ => .event
  | .stragglerCheck _ _ => .event
  | .stragglerNotice _ _ => .event
  | .barrierToken _ _ _ => .event
  | .fabricWriteArrival _ => .event
  | .fabricAtomicArrival _ => .event
  | .fabricRequestArrival _ => .event
  | .multicastArrival _ => .event
  | .fabricAck _ => .event
  | .fabricRetransmit _ => .event
  | .completionNotice _ => .event
  | .resumeMarker _ => .event
  | .packetForward _ => .event
  | .virtualEgressSend _ _ => .event
  | .syncMessage _ _ => .event
  | .holdoverEntry => .event
  | .clockLostEntry => .event
  | .clockLock => .event
  | .shootdownInstant => .event
  | .roleMapSet _ => .event
  | .roleFlush => .event
  | .roleDark => .event
  | .roleReenumerate => .event
  | .roleRelight => .event
  | .partitionCreate _ => .event
  | .contextCreate _ => .event
  | .contextDestroy _ => .event
  | .streamBind _ _ _ _ _ => .event
  | .errorClear _ _ => .event
  | .capSlotWrite _ _ _ _ => .event
  | .handleWrite _ _ _ _ _ => .event
  | .fenceAssign _ _ => .event
  | .fencedStateExit _ _ => .event
  | .routerTableWrite _ _ _ => .event
  | .exportTableWrite _ _ _ _ _ => .event
  | .keyLoad _ _ => .event
  | .powerCapSet _ => .event
  | .mgmtPreempt _ => .event
  | .mgmtStart _ _ => .event
  | .attestationReport _ => .event
  | .powerOn _ => .event
  | .thermalTrip _ => .event
  | .thermalResume _ => .event
  | .hostAccess _ => .event
  | .packageReset => .event
  | .recoveryExit => .event
  | .publishNotice _ _ _ => .event
  | .fabricStreamReset _ _ => .event
  | .peerPortFailure _ => .event
  | .circuitChange _ => .event
  | .portRelight _ => .event
  | .clusterCacheEviction _ _ => .event
  | .gputComplete _ => .event

/-- The values that the encoding of an instruction admits for its operands: a lent immediate has the form of 05 R68, reserved codes are excluded, and fields that a form does not use are zero. -/
def Instr.wf : Instr → Bool
  | .ret _ pop => pop != 7
  | .rdctr _ n => decide (n.toNat ≤ 6)
  | .pbri _ imm => okS 23 imm
  | .br _ cond pop a => cond != 7 && pop != 7 && (cond != 0 || a == 0)
  | .brl _ pop _ => pop != 7
  | .loop _ imm => okU 13 imm
  | .loopi cnt _ => okU 12 cnt
  | .phaseProbe sc _ _ => sc == .package || sc == .gang
  | .stage _ n => n != 0
  | .addi _ _ imm => okS 13 imm
  | .andi _ _ imm => okU 11 imm
  | .ori _ _ imm => okU 11 imm
  | .xori _ _ imm => okU 11 imm
  | .shli w _ _ sh => !w || decide (sh.toNat < 32)
  | .shri w _ _ sh => !w || decide (sh.toNat < 32)
  | .sari w _ _ sh => !w || decide (sh.toNat < 32)
  | .bfx _ _ pos len => decide (pos.toNat + len.toNat + 1 ≤ 64)
  | .bfi _ _ pos len => decide (pos.toNat + len.toNat + 1 ≤ 64)
  | .movi _ imm => okS 17 imm
  | .movhi _ imm => okU 17 imm
  | .fcvt _ _ c _ _ => decide (c.toNat < 13)
  | .fcvtFromInt _ _ c _ _ => decide (7 ≤ c.toNat) && decide (c.toNat ≤ 10)
  | .ld ty _ _ _ _ imm => ty != 7 && okU 8 imm
  | .st ty _ _ imm => ty != 7 && okU 8 imm
  | .vld _ _ _ _ imm => okU 10 imm
  | .vst _ _ imm => okU 10 imm
  | .vldm _ _ d _ cnt => decide (d.toNat + cnt.toNat + 1 ≤ 64)
  | .vstm d _ cnt => decide (d.toNat + cnt.toNat + 1 ≤ 64)
  | .tld _ _ _ _ imm => okU 10 imm
  | .tst _ _ imm => okU 10 imm
  | .atom _ op _ _ b => decide (op.toNat < 10) && casOk op.toNat b.toNat
  | .pld ty _ _ _ => ty != 7
  | .pst ty _ _ _ => ty != 7
  | .patom op _ _ _ b => casOk op.toNat b.toNat
  | .publish sc _ => sc != .seq
  | .vsel _ m _ _ _ => m != 0
  | .vcvt tf ff _ _ _ _ => decide (tf.toNat < 13) && decide (ff.toNat < 13)
  | .vpack w _ _ _ => w != 3
  | .vunpack w _ _ _ _ => w != 3
  | .vred op ty rm _ _ _ => redLegal op ty && (redRounds op ty || rm == .ne)
  | .vscan op ty rm _ _ _ => redLegal op ty && (redRounds op ty || rm == .ne)
  | .vrng _ a _ => a.toNat % 2 == 0
  | .vscale fmt _ _ _ _ => scaleFmt fmt.toNat
  | .rvcvt tf ff _ _ _ => narrows tf.toNat ff.toNat
  | .urcvt tf ff _ _ _ => narrows tf.toNat ff.toNat
  | .rvdrop _ _ _ m => m != 0
  | .urdrop _ _ _ m => m != 0
  | .fatom op _ _ _ b => casOk op.toNat b.toNat
  | .fmc _ _ _ b => b.toNat % 2 == 0
  | .csrr _ csr => csrExists csr.toNat
  | .csrw _ csr => csrExists csr.toNat && csr != 0x001 && csr != 0x070 && csr != 0x060 && csr != 0x022 && csr != 0x023
  | .vwset v _ _ => decide (v.toNat ≤ 21)
  | .ukadd src _ imm => !src || imm == 0
  | .uloop _ src count => !src || decide (count.toNat < 4)
  | .pred _ span _ _ _ => span != 0
  | .loopPacket span _ => span != 0
  | .writeMemory _ data => decide (1 ≤ data.length) && decide (data.length ≤ 2045)
  | .sched load look _ saddr scount eaddr ecount =>
    decide (look.toNat ≤ 8) && (load || (saddr == 0 && scount == 0 && eaddr == 0 && ecount == 0))
  | .budget cls _ => decide (cls.toNat < 6)
  | _ => true

/-- A slot in which a bundle op of a major stands in its plain form (05 R74). -/
def homeSlot (maj : Nat) : Nat :=
  if maj ≤ 0x13 ∨ maj = 0x3E then slotC else if maj ≤ 0x1F then slotM else if maj ≤ 0x35 then slotV else slotX

end Sys2Proof
end

