-- ==== Sys2Proof/Certificates/Slice0/Obligations.lean ====
section
/-! DEFINITION. What is stated of the model, for the provers: each Obligations.<Name> says what an instruction, an event or the machine does, from the numbered rules of the spec. Names without the prefix are the parts of a statement, and helpers. -/

section

open Sys2Proof Sys2Proof.Machine

/-! ## Scalar integer instructions (09 R158 to R168) -/

/-- R159 with R158 and R167: the results of major 0x08 at width 64 (W 0) and at width 32, sign-extended (W 1), written to g[D] at latency 1. -/
def Obligations.ScalarIntegerResults : Prop :=
  ∀ (d a b : Reg) (s : State),
    let x := s.g a
    let y := s.g b
    let u : BitVec 32 := x.extractLsb' 0 32
    let v : BitVec 32 := y.extractLsb' 0 32
    let q (i : Instr) (r : Word) : Prop := exec i s = .next (s.wrG d r 1)
    let h (i : Instr) (r : BitVec 32) : Prop := exec i s = .next (s.wrG d (r.signExtend 64) 1)
    q (.add false d a b) (x + y) ∧ h (.add true d a b) (u + v) ∧
    q (.sub false d a b) (x - y) ∧ h (.sub true d a b) (u - v) ∧
    q (.and false d a b) (x &&& y) ∧ h (.and true d a b) (u &&& v) ∧
    q (.or false d a b) (x ||| y) ∧ h (.or true d a b) (u ||| v) ∧
    q (.xor false d a b) (x ^^^ y) ∧ h (.xor true d a b) (u ^^^ v) ∧
    q (.shl false d a b) (x <<< (y.toNat % 64)) ∧ h (.shl true d a b) (u <<< (y.toNat % 32)) ∧
    q (.shr false d a b) (x >>> (y.toNat % 64)) ∧ h (.shr true d a b) (u >>> (y.toNat % 32)) ∧
    q (.sar false d a b) (x.sshiftRight (y.toNat % 64)) ∧ h (.sar true d a b) (u.sshiftRight (y.toNat % 32)) ∧
    q (.rot false d a b) ((x <<< (y.toNat % 64)) ||| (x >>> (64 - y.toNat % 64))) ∧
    h (.rot true d a b) ((u <<< (y.toNat % 32)) ||| (u >>> (32 - y.toNat % 32))) ∧
    q (.min false d a b) (if x.slt y then x else y) ∧ h (.min true d a b) (if u.slt v then u else v) ∧
    q (.max false d a b) (if x.slt y then y else x) ∧ h (.max true d a b) (if u.slt v then v else u) ∧
    q (.minn false d a b) (if x.ult y then x else y) ∧ h (.minn true d a b) (if u.ult v then u else v) ∧
    q (.maxn false d a b) (if x.ult y then y else x) ∧ h (.maxn true d a b) (if u.ult v then v else u) ∧
    q (.seq false d a b) (if x = y then 1 else 0) ∧ h (.seq true d a b) (if u = v then 1 else 0) ∧
    q (.slt false d a b) (if x.slt y then 1 else 0) ∧ h (.slt true d a b) (if u.slt v then 1 else 0) ∧
    q (.sltn false d a b) (if x.ult y then 1 else 0) ∧ h (.sltn true d a b) (if u.ult v then 1 else 0) ∧
    q (.sel false d a b) (if s.g d = 0 then y else x) ∧
    h (.sel true d a b) (if (s.g d).extractLsb' 0 32 = (0 : BitVec 32) then v else u) ∧
    (∀ k : BitVec 2, q (.lea false k d a b) (x + y * 2 ^ k.toNat) ∧ h (.lea true k d a b) (u + v * 2 ^ k.toNat))

/-- R159: the counts of clz, ctz and popc at width w, w for clz and ctz of 0. -/
def ScalarBitCounts : Prop :=
  ∀ (w : Bool) (d a : Reg) (s : State),
    let n := if w then 32 else 64
    let x := (s.g a).toNat % 2 ^ n
    (∃ c, c ≤ n ∧ x < 2 ^ (n - c) ∧ (c < n → 2 ^ (n - 1 - c) ≤ x) ∧ exec (.clz w d a) s = .next (s.wrG d (BitVec.ofNat 64 c) 1)) ∧
    (∃ c, c ≤ n ∧ x % 2 ^ c = 0 ∧ (c < n → x.testBit c = true) ∧ exec (.ctz w d a) s = .next (s.wrG d (BitVec.ofNat 64 c) 1)) ∧
    exec (.popc w d a) s = .next (s.wrG d (BitVec.ofNat 64 ((List.range n).filter (fun i => (s.g a).getLsbD i)).length) 1)

/-- R160 with R158 and R167: products at latency 3. -/
def ScalarProducts : Prop :=
  ∀ (d a b : Reg) (s : State),
    let x := s.g a
    let y := s.g b
    let u : BitVec 32 := x.extractLsb' 0 32
    let v : BitVec 32 := y.extractLsb' 0 32
    let q (i : Instr) (r : Word) : Prop := exec i s = .next (s.wrG d r 3)
    let h (i : Instr) (r : BitVec 32) : Prop := exec i s = .next (s.wrG d (r.signExtend 64) 3)
    q (.mul false d a b) (BitVec.ofNat 64 (x.toNat * y.toNat)) ∧ h (.mul true d a b) (BitVec.ofNat 32 (x.toNat * y.toNat)) ∧
    q (.mulh false d a b) (((x.signExtend 128 * y.signExtend 128) >>> 64).truncate 64) ∧
    h (.mulh true d a b) (((u.signExtend 64 * v.signExtend 64) >>> 32).truncate 32) ∧
    q (.mulhn false d a b) (((x.zeroExtend 128 * y.zeroExtend 128) >>> 64).truncate 64) ∧
    h (.mulhn true d a b) (((u.zeroExtend 64 * v.zeroExtend 64) >>> 32).truncate 32)

/-- R160, R161, R167: quotients and remainders at width w, with the special cases; latency 26, or 14 under W. Signed division is stated by what determines it: dividend = quotient × divisor + remainder, with a remainder smaller than the divisor that has the dividend's sign or is 0. -/
def ScalarDivision : Prop :=
  ∀ (w : Bool) (d a b : Reg) (s : State),
    let n := if w then 32 else 64
    let lat := if w then 14 else 26
    let x : BitVec n := (s.g a).truncate n
    let y : BitVec n := (s.g b).truncate n
    let q (i : Instr) (r : BitVec n) : Prop := exec i s = .next (s.wrG d (r.signExtend 64) lat)
    (y = 0 → q (.div w d a b) (BitVec.allOnes n) ∧ q (.divn w d a b) (BitVec.allOnes n) ∧ q (.rem w d a b) x ∧ q (.remn w d a b) x) ∧
    (y ≠ 0 → q (.divn w d a b) (BitVec.ofNat n (x.toNat / y.toNat)) ∧ q (.remn w d a b) (BitVec.ofNat n (x.toNat % y.toNat))) ∧
    (x = BitVec.intMin n ∧ y = BitVec.allOnes n → q (.div w d a b) (BitVec.intMin n) ∧ q (.rem w d a b) 0) ∧
    (y ≠ 0 → ¬ (x = BitVec.intMin n ∧ y = BitVec.allOnes n) →
      ∃ k r : BitVec n, q (.div w d a b) k ∧ q (.rem w d a b) r ∧ x.toInt = k.toInt * y.toInt + r.toInt ∧
        r.toInt.natAbs < y.toInt.natAbs ∧ 0 ≤ x.toInt * r.toInt)

/-- R162 to R166, R167: the immediates and bit fields, at latency 1. imm is the effective immediate after extension and lending (R68), of 64 bits. Shifts by an immediate count under W take the counts 0 to 31, and bit fields those of 64 bits in all, which decoding admits. -/
def Obligations.ScalarImmediates : Prop :=
  ∀ (d a pos len : Reg) (imm : Imm) (s : State),
    let x := s.g a
    let u : BitVec 32 := x.extractLsb' 0 32
    let q (i : Instr) (r : Word) : Prop := exec i s = .next (s.wrG d r 1)
    q (.addi d a imm) (x + imm) ∧
    q (.andi d a imm) (x &&& imm) ∧
    q (.ori d a imm) (x ||| imm) ∧
    q (.xori d a imm) (x ^^^ imm) ∧
    q (.shli false d a pos) (x <<< pos.toNat) ∧ q (.shli true d a pos) ((u <<< pos.toNat).signExtend 64) ∧
    q (.shri false d a pos) (x >>> pos.toNat) ∧ q (.shri true d a pos) ((u >>> pos.toNat).signExtend 64) ∧
    q (.sari false d a pos) (x.sshiftRight pos.toNat) ∧ q (.sari true d a pos) ((u.sshiftRight pos.toNat).signExtend 64) ∧
    q (.movi d imm) imm ∧
    q (.movhi d imm) ((s.g d <<< 31) ||| imm) ∧
    (pos.toNat + len.toNat < 64 →
      (∃ r : Word, q (.bfx d a pos len) r ∧
        ∀ i < 64, r.getLsbD i = (decide (i ≤ len.toNat) && x.getLsbD (pos.toNat + i))) ∧
      (∃ r : Word, q (.bfi d a pos len) r ∧
        ∀ i < 64, r.getLsbD i = if pos.toNat ≤ i ∧ i ≤ pos.toNat + len.toNat then x.getLsbD (i - pos.toNat) else (s.g d).getLsbD i))

/-- ScalarBitCounts, ScalarProducts and ScalarDivision, together. -/
def Obligations.ScalarCountsAndProducts : Prop := ScalarBitCounts ∧ ScalarProducts ∧ ScalarDivision

/-! ## Scalar floating point (09 R169 to R182) -/

/-- Operand bits that a floating-point type takes from a g register: 64, 32 or 16 low bits (R169). -/
def fWidth : FTy → Nat
  | .f64 => 64 | .f32 => 32 | .f16 => 16 | .bf16 => 16

/-- R169 to R182: each scalar floating-point op writes its result, zero-extended, and its flags, at the latency of R182. The arithmetic is that of the format t on the low bits of the operands; conversions into formats 0 to 10 are not emulated. -/
def Obligations.ScalarFloatResults : Prop :=
  ∀ (t : FTy) (rm : Rm) (cc : BitVec 3) (c : BitVec 4) (d a b : Reg) (s : State),
    let f := ftyFmt t
    let x := (s.g a).toNat % 2 ^ fWidth t
    let y := (s.g b).toNat % 2 ^ fWidth t
    let z := (s.g d).toNat % 2 ^ fWidth t
    let slow := match t with | .f64 => 24 | .f32 => 14 | _ => 10
    let deep := match t with | .f64 => 40 | .f32 => 22 | _ => 16
    let q (lat : Nat) (i : Instr) (r : Nat × Fl) : Prop := exec i s = .next (s.wrG d (BitVec.ofNat 64 r.1) lat r.2)
    q 4 (.fadd t rm d a b) (f.add rm x y) ∧ q 4 (.fsub t rm d a b) (f.sub rm x y) ∧
    q 4 (.fmul t rm d a b) (f.mul rm x y) ∧ q slow (.fdiv t rm d a b) (f.div rm x y) ∧
    q 4 (.ffma t rm d a b) (f.fma rm x y z) ∧
    q 4 (.fmin t d a b) (f.minmax false x y) ∧ q 4 (.fmax t d a b) (f.minmax true x y) ∧
    q 4 (.fcmp t cc d a b) ((f.cmp cc.toNat x y).1.toNat, (f.cmp cc.toNat x y).2) ∧
    q slow (.fsqrt t rm d a) (f.sqrt rm x) ∧
    q deep (.fexp2 t rm d a) (f.trans .exp2 rm x) ∧ q deep (.flog2 t rm d a) (f.trans .log2 rm x) ∧
    q deep (.fexp t rm d a) (f.trans .exp rm x) ∧ q deep (.flog t rm d a) (f.trans .log rm x) ∧
    q deep (.fsin t rm d a) (f.trans .sin rm x) ∧ q deep (.fcos t rm d a) (f.trans .cos rm x) ∧
    q deep (.ftanh t rm d a) (f.trans .tanh rm x) ∧ q deep (.ferf t rm d a) (f.trans .erf rm x) ∧
    q 4 (.frcpa t rm d a) (f.rcpa x) ∧ q 4 (.frsqa t rm d a) (f.rsqa x) ∧
    q 4 (.fclass t d a) (f.cls x, 0) ∧ q 4 (.frnd t rm d a) (f.rnd rm x) ∧
    (c.toNat ≤ 6 ∨ c.toNat = 10 → q 4 (.fcvt t rm c d a) (encodeFmt c.toNat rm false (f.decode x))) ∧
    (c.toNat = 7 ∨ c.toNat = 8 ∨ c.toNat = 9 →
      let r := encodeFmt c.toNat rm false (f.decode x)
      exec (.fcvt t rm c d a) s = .next (s.wrG d (BitVec.ofInt 64 (sextN (widthOf c.toNat) r.1)) 4 r.2)) ∧
    (7 ≤ c.toNat ∧ c.toNat ≤ 10 →
      q 4 (.fcvtFromInt t rm c d a) (f.ofVal rm false (ofIntFmt (widthOf c.toNat) (decide (c.toNat < 10)) (s.g a).toNat)))

/-- R114, R170, R175, R178: the special results and flags of the scalar ops, in formats with infinities and NaNs. -/
def FloatSpecialResults : Prop :=
  ∀ (t : FTy) (rm : Rm) (x y : Nat),
    let f := ftyFmt t
    let u := f.decode x
    let v := f.decode y
    let sn : Fl := if u = .nan true ∨ v = .nan true then flNV else 0
    (u.isNaN = true ∨ v.isNaN = true →
      f.add rm x y = (f.nan, sn) ∧ f.sub rm x y = (f.nan, sn) ∧ f.mul rm x y = (f.nan, sn) ∧ f.div rm x y = (f.nan, sn)) ∧
    (∀ n : Bool, u = .inf n → v = .inf (!n) → f.add rm x y = (f.nan, flNV)) ∧
    (∀ n : Bool, u = .inf n → v = .inf n → f.sub rm x y = (f.nan, flNV) ∧ f.div rm x y = (f.nan, flNV)) ∧
    (∀ n m : Bool, ∀ e : Int, u = .fin n 0 e → v = .inf m → f.mul rm x y = (f.nan, flNV)) ∧
    (∀ n m : Bool, ∀ e g : Int, u = .fin n 0 e → v = .fin m 0 g → f.div rm x y = (f.nan, flNV)) ∧
    (∀ n m : Bool, ∀ k : Nat, ∀ e g : Int, k ≠ 0 → u = .fin n k e → v = .fin m 0 g →
      f.div rm x y = (f.inf (n != m), flDZ)) ∧
    (∀ n m : Bool, ∀ k : Nat, ∀ e : Int, u = .fin n k e → v = .inf m → f.div rm x y = (f.zero (n != m), 0)) ∧
    (∀ k : Nat, ∀ e : Int, k ≠ 0 → u = .fin true k e → f.sqrt rm x = (f.nan, flNV)) ∧
    (∀ e : Int, u = .fin true 0 e → f.sqrt rm x = (f.zero true, 0)) ∧
    (u = .inf true → f.sqrt rm x = (f.nan, flNV)) ∧ (u = .inf false → f.sqrt rm x = (f.inf false, 0))

/-- The magnitude of a finite value. -/
def magOf (m : Nat) (e : Int) : ℚ := (m : ℚ) * (2 : ℚ) ^ e

/-- R111, R112: ROUND toward zero without overflow gives the multiple of the quantum next below the exact magnitude, with the value's sign, in the formats 0 to 5, 11 and 12. -/
def RoundTowardZero : Prop :=
  ∀ (c : Nat) (neg : Bool) (num den : Nat) (e : Int), c < 6 ∨ c = 11 ∨ c = 12 → num ≠ 0 → den ≠ 0 →
    let f := fmtOf c
    let r := f.round .tz false neg num den e
    let v : ℚ := (num : ℚ) / den * (2 : ℚ) ^ e
    r.2 &&& flOF = 0 →
    ∃ m k, f.decode r.1 = .fin neg m k ∧ magOf m k ≤ v ∧ v < magOf (m + 1) k ∧ (2 ^ f.mb ≤ m ∨ k = f.emin - f.mb)

/-- R111, R117: nearest even without overflow gives a result within half a quantum of it, a tie going to even, with NX just where it is not exact. -/
def RoundNearestEven : Prop :=
  ∀ (c : Nat) (neg : Bool) (num den : Nat) (e : Int), c < 6 ∨ c = 11 ∨ c = 12 → num ≠ 0 → den ≠ 0 →
    let f := fmtOf c
    let r := f.round .ne false neg num den e
    let v : ℚ := (num : ℚ) / den * (2 : ℚ) ^ e
    r.2 &&& flOF = 0 →
    ∃ m k, f.decode r.1 = .fin neg m k ∧ 2 * |v - magOf m k| ≤ (2 : ℚ) ^ k ∧
      (2 * |v - magOf m k| = (2 : ℚ) ^ k → m % 2 = 0) ∧ (r.2 &&& flNX = 0 ↔ magOf m k = v)

/-- R111, R112, R99: without overflow up and down give a value on their side of the exact one and less than a quantum from it, nearest away one within half a quantum whose ties go away from zero, to odd one less than a quantum away that is exact or odd. A magnitude up to the largest finite one does not overflow; an overflow sets OF and NX and gives what R112 says. UF is set only where inexact, never from the smallest normal magnitude on, and below it by a quantum wherever inexact. -/
def RoundOtherModes : Prop :=
  ∀ (c : Nat) (rm : Rm) (neg : Bool) (num den : Nat) (e : Int), c < 6 ∨ c = 11 ∨ c = 12 → num ≠ 0 → den ≠ 0 →
    let f := fmtOf c
    let r := f.round rm false neg num den e
    let v : ℚ := (num : ℚ) / den * (2 : ℚ) ^ e
    let away : Prop := (rm = .up ∧ neg = false) ∨ (rm = .dn ∧ neg = true)
    let toward : Prop := (rm = .up ∧ neg = true) ∨ (rm = .dn ∧ neg = false)
    (r.2 &&& flOF = 0 → ∃ m k, f.decode r.1 = .fin neg m k ∧ (r.2 &&& flNX = 0 ↔ magOf m k = v) ∧ |v - magOf m k| < (2 : ℚ) ^ k ∧
      (away → v ≤ magOf m k) ∧ (toward → magOf m k ≤ v) ∧
      (rm = .na → 2 * |v - magOf m k| ≤ (2 : ℚ) ^ k ∧ (2 * |v - magOf m k| = (2 : ℚ) ^ k → v ≤ magOf m k)) ∧
      (rm = .odd → magOf m k = v ∨ m % 2 = 1)) ∧
    (∀ m k, f.decode f.maxFin = .fin false m k → v ≤ magOf m k → r.2 &&& flOF = 0) ∧
    (r.2 &&& flOF ≠ 0 → r.2 = flOF ||| flNX ∧
      r.1 = if rm = .tz ∨ rm = .odd ∨ toward ∨ c = 11 ∨ c = 12 then f.zero neg + f.maxFin else if c = 4 then 0x7F else f.inf neg) ∧
    (r.2 &&& flUF ≠ 0 → r.2 &&& flNX ≠ 0) ∧
    ((2 : ℚ) ^ f.emin ≤ v → r.2 &&& flUF = 0) ∧
    (v ≤ (2 : ℚ) ^ f.emin - (2 : ℚ) ^ (f.emin - f.mb) → r.2 &&& flNX ≠ 0 → r.2 &&& flUF ≠ 0)

/-- A finite value, as a rational number. -/
def ratOf : FVal → ℚ
  | .fin n m e => (if n then -1 else 1) * magOf m e
  | _ => 0
def isFin (v : FVal) : Prop := ∃ n m e, v = .fin n m e

/-- r is ROUND of the exact value v, not zero. -/
def Rounded (f : FFmt) (rm : Rm) (sat : Bool) (v : ℚ) (r : Nat × Fl) : Prop :=
  ∃ (neg : Bool) (num den : Nat) (e : Int), num ≠ 0 ∧ den ≠ 0 ∧ v = (if neg then -1 else 1) * ((num : ℚ) / den * (2 : ℚ) ^ e) ∧
    r = f.round rm sat neg num den e

/-- r is ROUND of the exact value v, a zero of the sign given and no flag where v is zero. -/
def Exact (f : FFmt) (rm : Rm) (sat : Bool) (v : ℚ) (sign : Bool) (r : Nat × Fl) : Prop :=
  (v ≠ 0 → Rounded f rm sat v r) ∧ (v = 0 → r = (f.zero sign, 0))

/-- A value is below another: −0 is below +0 only where zeros says so. -/
def Below (zeros : Bool) (u v : FVal) : Prop :=
  u.isNaN = false ∧ v.isNaN = false ∧
    ((isFin u ∧ isFin v ∧ (ratOf u < ratOf v ∨ zeros = true ∧ ratOf u = 0 ∧ ratOf v = 0 ∧ u.neg = true ∧ v.neg = false)) ∨
      (u = .inf true ∧ v ≠ .inf true) ∨ (v = .inf false ∧ u ≠ .inf false))

/-- i is v rounded to an integer under a mode (R111). -/
def IntRounded (rm : Rm) (v : ℚ) (i : Int) : Prop :=
  match rm with
  | .ne => 2 * |v - i| ≤ 1 ∧ (2 * |v - i| = 1 → i % 2 = 0)
  | .na => 2 * |v - i| ≤ 1 ∧ (2 * |v - i| = 1 → |v| < |(i : ℚ)|)
  | .tz => |(i : ℚ)| ≤ |v| ∧ |v - i| < 1
  | .up => v ≤ i ∧ (i : ℚ) < v + 1
  | .dn => v - 1 < i ∧ (i : ℚ) ≤ v
  | .odd => |v - i| < 1 ∧ ((i : ℚ) = v ∨ i % 2 ≠ 0)

/-- R114 to R116, R170 to R173, R175, R178, R179: on finite operands sums, differences, products, quotients and fused forms are ROUND of the exact rational result, with the zeros of R116; a square root is ROUND of a number of 80 bits or more, exact, or odd and between neighbours whose squares enclose the operand; minimum and maximum are the lesser and greater operand, −0 below +0, the other beside a NaN; comparison and class are those of the value; rounding to an integer keeps the sign. -/
def FloatExactResults : Prop :=
  ∀ (t : FTy) (rm : Rm) (x y z : Nat),
    let f := ftyFmt t
    let u := f.decode x
    let v := f.decode y
    let w := f.decode z
    let down := decide (rm = .dn)
    let sn : Fl := if u = .nan true ∨ v = .nan true then flNV else 0
    let nan := u.isNaN || v.isNaN
    (isFin u → isFin v →
      Exact f rm false (ratOf u + ratOf v) (if ratOf u = 0 ∧ u.neg = v.neg then u.neg else down) (f.add rm x y) ∧
      Exact f rm false (ratOf u - ratOf v) (if ratOf u = 0 ∧ u.neg ≠ v.neg then u.neg else down) (f.sub rm x y) ∧
      Exact f rm false (ratOf u * ratOf v) (u.neg != v.neg) (f.mul rm x y) ∧
      (ratOf v ≠ 0 → Exact f rm false (ratOf u / ratOf v) (u.neg != v.neg) (f.div rm x y)) ∧
      (isFin w →
        Exact f rm false (ratOf u * ratOf v + ratOf w) (if ratOf u * ratOf v = 0 ∧ (u.neg != v.neg) = w.neg then w.neg else down) (f.fma rm x y z) ∧
        Exact f rm false (ratOf w - ratOf u * ratOf v) (if ratOf u * ratOf v = 0 ∧ (u.neg == v.neg) = w.neg then w.neg else down) (f.fmaV rm u.flip v w))) ∧
    (isFin u → 0 < ratOf u → ∃ k g, f.sqrt rm x = f.round rm false false k 1 g ∧ 2 ^ 80 ≤ k ∧ (k % 2 = 0 → magOf k g ^ 2 = ratOf u) ∧
      (k % 2 = 1 → magOf (k - 1) g ^ 2 < ratOf u ∧ ratOf u < magOf (k + 1) g ^ 2)) ∧
    (Below true u v → f.minmax false x y = (x, 0) ∧ f.minmax false y x = (x, 0) ∧ f.minmax true x y = (y, 0) ∧ f.minmax true y x = (y, 0)) ∧
    (∀ mx, u.isNaN = true → f.minmax mx x y = (if v.isNaN then f.nan else y, sn) ∧ f.minmax mx y x = (if v.isNaN then f.nan else y, sn)) ∧
    (∀ cc, cc < 8 → ((f.cmp cc x y).2 = if nan = true ∧ (cc = 1 ∨ cc = 2 ∨ cc = 5 ∨ cc = 6) then flNV else sn) ∧
      ((f.cmp cc x y).1 = true ↔ match cc with
        | 0 => nan = false ∧ ¬ Below false u v ∧ ¬ Below false v u
        | 1 => Below false u v
        | 2 => nan = false ∧ ¬ Below false v u
        | 3 => nan = true
        | 4 => nan = true ∨ Below false u v ∨ Below false v u
        | 5 => Below false v u
        | 6 => nan = false ∧ ¬ Below false u v
        | _ => nan = false)) ∧
    (f.cls x = match u with
      | .nan s => if s then 2 ^ 8 else 2 ^ 9
      | .inf n => if n then 2 ^ 0 else 2 ^ 7
      | .fin n m e => if m = 0 then (if n then 2 ^ 3 else 2 ^ 4) else if magOf m e < (2 : ℚ) ^ f.emin then (if n then 2 ^ 2 else 2 ^ 5) else (if n then 2 ^ 1 else 2 ^ 6)) ∧
    (isFin u → ∃ (i : Int) (m : Nat) (e : Int), IntRounded rm (ratOf u) i ∧ f.decode (f.rnd rm x).1 = .fin u.neg m e ∧
      ratOf (.fin u.neg m e) = i ∧ (f.rnd rm x).2 = if (i : ℚ) = ratOf u then 0 else flNX) ∧
    (∀ n, u = .inf n → f.rnd rm x = (f.inf n, 0)) ∧ (∀ q, u = .nan q → f.rnd rm x = (f.nan, if q then flNV else 0))

/-- R102, R103, R111 to R113: encoding a finite value in a floating-point format is ROUND of it, zeros keep their sign, infinities and NaNs are those of R113's table; in an integer format it is the rounded integer, or the nearer end; in W2P8 a canonical byte of a value that the mode allows, as near as any other, with the fewest terms among those. -/
def FloatEncodings : Prop :=
  ∀ (c : Nat) (rm : Rm) (sat : Bool) (v : FVal), c < 13 →
    let r := encodeFmt c rm sat v
    (c < 6 ∨ c = 11 ∨ c = 12 →
      let f := fmtOf c
      (isFin v → Exact f rm sat (ratOf v) v.neg r) ∧
      (∀ n, v = .inf n → r = if c = 11 ∨ c = 12 then (f.zero n + f.maxFin, flNV) else if sat then (f.zero n + f.maxFin, flSAT)
        else if c = 4 then (0x7F, flNV) else (f.inf n, 0)) ∧
      (∀ q, v = .nan q → r = if c = 11 ∨ c = 12 then (0, flNV) else (f.nan, if q then flNV else 0))) ∧
    (7 ≤ c → c ≤ 10 →
      let w := if c = 9 then 32 else if c = 8 then 16 else 8
      let lo : Int := if c = 10 then 0 else - 2 ^ (w - 1)
      let hi : Int := if c = 10 then 255 else 2 ^ (w - 1) - 1
      let bits (i : Int) : Nat := (BitVec.ofInt w i).toNat
      let past : Fl := if sat then flSAT else flNV
      (isFin v → ∃ i, IntRounded rm (ratOf v) i ∧
        r = if i < lo then (bits lo, past) else if hi < i then (bits hi, past) else (bits i, if (i : ℚ) = ratOf v then 0 else flNX)) ∧
      (∀ n, v = .inf n → r = (bits (if n then lo else hi), flNV)) ∧ (∀ q, v = .nan q → r = (0, flNV))) ∧
    (c = 6 →
      let val (b : Nat) : ℚ := (w2Val b : ℚ) / 64
      let ok (b : Nat) : Prop := b < 256 ∧ b / 16 ≠ 15 ∧ b % 16 ≠ 15 ∧ match rm with
        | .tz => |val b| ≤ |ratOf v| ∧ 0 ≤ val b * ratOf v
        | .odd => |val b| ≤ |ratOf v| ∧ 0 ≤ val b * ratOf v
        | .up => ratOf v ≤ val b
        | .dn => val b ≤ ratOf v
        | _ => True
      (isFin v → |ratOf v| ≤ 2 → ok r.1 ∧ (r.2 = if val r.1 = ratOf v then 0 else flNX) ∧ ∀ b, ok b →
        |val r.1 - ratOf v| ≤ |val b - ratOf v| ∧ (|val r.1 - ratOf v| = |val b - ratOf v| → w2Terms r.1 ≤ w2Terms b)) ∧
      (isFin v → 2 < |ratOf v| → r = (if v.neg then 0x88 else 0x00, flSAT ||| flNX)) ∧
      (∀ n, v = .inf n → r = (if n then 0x88 else 0x00, flNV)) ∧ (∀ q, v = .nan q → r = (0x77, flNV)))

/-- No byte of a row carries an uncorrectable ECC error (R261). -/
def RowOk (s : State) (r : Reg) : Prop := ∀ i, i < 256 → tget false s.here.arenaBad (s.rowAt r.toNat + i) = false

/-- R110, R180, R270: an op that encodes or decodes elements of format 11 or 12 traps with a format-emulation trap, its bundle's record holding the write and flags computed from the values at the trap; with that record it completes, writing them at its latency. -/
def EmulatedConversions : Prop :=
  ∀ (t : FTy) (rm : Rm) (sat : Bool) (c tf ff : BitVec 4) (d a : Reg) (s : State), RowOk s a →
    let got (ws : List PWrite) (fl : Fl) : Prop := ∃ r, s.me.emu = some r ∧ r.pc = s.cur.pc ∧ look r.effects s.cur.slot = some (ws, fl)
    let traps (i : Instr) (ws : List PWrite) (fl : Fl) : Prop := ∃ u x y, exec i s = .next u ∧ u.trapped = some x ∧ x.code = codeEmul ∧ u.me.emu = some y ∧
      y.pc = s.cur.pc ∧ look y.effects s.cur.slot = some (ws, fl)
    (c.toNat = 11 ∨ c.toNat = 12 →
      let r := encodeFmt c.toNat rm false ((ftyFmt t).decode ((s.g a).toNat % 2 ^ fWidth t))
      (∀ ws fl, got ws fl → exec (.fcvt t rm c d a) s = .next (s.pend 4 ws fl)) ∧
      ((¬ ∃ ws fl, got ws fl) → traps (.fcvt t rm c d a) [.g d.toNat (BitVec.ofNat 64 r.1)] r.2)) ∧
    (tf.toNat < 13 → ff.toNat < 13 → (10 < tf.toNat ∨ 10 < ff.toNat) →
      (∀ ws fl, got ws fl → exec (.vcvt tf ff rm sat d a) s = .next (s.pend 4 ws fl)) ∧
      ((¬ ∃ ws fl, got ws fl) → ∃ (r : Nat) (fl : Fl), traps (.vcvt tf ff rm sat d a) [s.arenaW (rowCells (s.rowAt d.toNat) r)] fl ∧
        ∀ e, e < 2048 / widthOf tf.toNat → elem (widthOf tf.toNat) r e =
          if e < 2048 / max (widthOf ff.toNat) (widthOf tf.toNat)
          then (convertElem tf.toNat ff.toNat rm sat (elem (widthOf ff.toNat) (s.rowVal a.toNat) e)).1 % 2 ^ widthOf tf.toNat else 0))

/-! ## Vector instructions (15) -/

/-- R264, R265, R281: the floating-point ops on rows that are readable complete: each active element of row D takes the format's result on the elements of the source rows, with the flags of the active elements, at the latency of R281; vfms rounds d − a × b once. -/
def Obligations.VectorFloatResults : Prop :=
  ∀ (f64 : Bool) (rm : Rm) (m : BitVec 3) (d a b : Reg) (s : State), RowOk s a →
    let f := if f64 then fmt64 else fmt32
    let w := if f64 then 64 else 32
    let x (e : Nat) : Nat := elem w (s.rowVal a.toNat) e
    let y (e : Nat) : Nat := elem w (s.rowVal b.toNat) e
    let z (e : Nat) : Nat := elem w (s.rowVal d.toNat) e
    let fast := if f64 then 6 else 4
    let slow := if f64 then 30 else 16
    let deep := if f64 then 44 else 24
    let q (lat : Nat) (i : Instr) (r : Nat → Nat × Fl) : Prop := exec i s = .next (s.vecW w m d lat r)
    (RowOk s b → RowOk s d →
      q fast (.vadd f64 rm m d a b) (fun e => f.add rm (x e) (y e)) ∧
      q fast (.vsub f64 rm m d a b) (fun e => f.sub rm (x e) (y e)) ∧
      q fast (.vmul f64 rm m d a b) (fun e => f.mul rm (x e) (y e)) ∧
      q fast (.vfma f64 rm m d a b) (fun e => f.fma rm (x e) (y e) (z e)) ∧
      q fast (.vfms f64 rm m d a b) (fun e => f.fmaV rm (f.decode (x e)).flip (f.decode (y e)) (f.decode (z e))) ∧
      q slow (.vdiv f64 rm m d a b) (fun e => f.div rm (x e) (y e))) ∧
    q slow (.vsqrt f64 rm m d a) (fun e => f.sqrt rm (x e)) ∧
    q fast (.vrcpa f64 rm m d a) (fun e => f.rcpa (x e)) ∧ q fast (.vrsqa f64 rm m d a) (fun e => f.rsqa (x e)) ∧
    q deep (.vexp2 f64 rm m d a) (fun e => f.trans .exp2 rm (x e)) ∧ q deep (.vlog2 f64 rm m d a) (fun e => f.trans .log2 rm (x e)) ∧
    q deep (.vexp f64 rm m d a) (fun e => f.trans .exp rm (x e)) ∧ q deep (.vlog f64 rm m d a) (fun e => f.trans .log rm (x e)) ∧
    q deep (.vsin f64 rm m d a) (fun e => f.trans .sin rm (x e)) ∧ q deep (.vcos f64 rm m d a) (fun e => f.trans .cos rm (x e)) ∧
    q deep (.vtanh f64 rm m d a) (fun e => f.trans .tanh rm (x e)) ∧ q deep (.verf f64 rm m d a) (fun e => f.trans .erf rm (x e)) ∧
    (∃ r, q 2 (.vabs f64 m d a) r ∧ ∀ e, r e =
      if (f.decode (x e)).isNaN then (f.nan, if f.decode (x e) = .nan true then flNV else 0) else (x e % 2 ^ (w - 1), 0)) ∧
    (∃ r, q 2 (.vneg f64 m d a) r ∧ ∀ e, r e =
      if (f.decode (x e)).isNaN then (f.nan, if f.decode (x e) = .nan true then flNV else 0)
      else (Nat.xor (x e) (2 ^ (w - 1)), 0)) ∧
    q 2 (.vclass f64 m d a) (fun e => (f.cls (x e), 0))

/-- R266, R281: the integer and logical lane ops complete on readable rows: 32-bit words modulo 2^32, at latency 1, and 3 for products. vmadi adds to d the four products of signed bytes. -/
def Obligations.VectorIntegerResults : Prop :=
  ∀ (m : BitVec 3) (d a b : Reg) (s : State), RowOk s a → RowOk s b → RowOk s d →
    let x (e : Nat) : BitVec 32 := BitVec.ofNat 32 (elem 32 (s.rowVal a.toNat) e)
    let y (e : Nat) : BitVec 32 := BitVec.ofNat 32 (elem 32 (s.rowVal b.toNat) e)
    let z (e : Nat) : BitVec 32 := BitVec.ofNat 32 (elem 32 (s.rowVal d.toNat) e)
    let q (lat : Nat) (i : Instr) (r : Nat → BitVec 32) : Prop := exec i s = .next (s.vecW 32 m d lat (fun e => ((r e).toNat, 0)))
    let byte (v : BitVec 32) (i : Nat) : BitVec 32 := (v.extractLsb' (8 * i) 8).signExtend 32
    q 1 (.vaddI32 m d a b) (fun e => x e + y e) ∧ q 1 (.vsubI32 m d a b) (fun e => x e - y e) ∧
    q 3 (.vmulI32 m d a b) (fun e => x e * y e) ∧
    q 3 (.vmadi m d a b) (fun e => z e + byte (x e) 0 * byte (y e) 0 + byte (x e) 1 * byte (y e) 1 +
      byte (x e) 2 * byte (y e) 2 + byte (x e) 3 * byte (y e) 3) ∧
    q 1 (.vand m d a b) (fun e => x e &&& y e) ∧ q 1 (.vor m d a b) (fun e => x e ||| y e) ∧
    q 1 (.vxor m d a b) (fun e => x e ^^^ y e) ∧ q 1 (.vnot m d a) (fun e => ~~~ x e) ∧
    q 1 (.vshl m d a b) (fun e => x e <<< ((y e).toNat % 32)) ∧ q 1 (.vshr m d a b) (fun e => x e >>> ((y e).toNat % 32)) ∧
    q 1 (.vsar m d a b) (fun e => (x e).sshiftRight ((y e).toNat % 32)) ∧
    q 1 (.vabsI32 m d a) (fun e => if (x e).msb then - x e else x e) ∧ q 1 (.vnegI32 m d a) (fun e => - x e)

/-- The order of R267 on integer elements, in two's complement or without sign. -/
def intLess (ty : VTy) (x y : Nat) : Bool :=
  match ty with | .i32 => (BitVec.ofNat 32 x).slt (BitVec.ofNat 32 y) | _ => decide (x < y)

/-- R267 to R269, R277, R281: minimum, maximum, comparison into a mask and selection complete on readable rows; comparison sets the mask bits of the active elements for which the condition holds and clears the others; the mask ops work on 64 bits. -/
def VectorCompareResults : Prop :=
  ∀ (ty : VTy) (cond c m p q : BitVec 3) (d a b : Reg) (s : State), RowOk s a → RowOk s b →
    let w := match ty with | .f64 => 64 | _ => 32
    let x (e : Nat) : Nat := elem w (s.rowVal a.toNat) e
    let y (e : Nat) : Nat := elem w (s.rowVal b.toNat) e
    let mm (mx : Bool) (e : Nat) : Nat × Fl := match ty with
      | .f32 => fmt32.minmax mx (x e) (y e)
      | .f64 => fmt64.minmax mx (x e) (y e)
      | _ => (if intLess ty (x e) (y e) = mx then y e else x e, 0)
    exec (.vmin ty m d a b) s = .next (s.vecW w m d 2 (mm false)) ∧
    exec (.vmax ty m d a b) s = .next (s.vecW w m d 2 (mm true)) ∧
    (∃ (k : Word) (fl : Fl), exec (.vcmp ty cond c m a b) s = .next (s.pend 2 [.m c.toNat k] fl) ∧
      ∀ e, e < 64 → k.getLsbD e = (decide (e < 2048 / w) && (s.mask m).getLsbD e && (vCond ty cond.toNat (x e) (y e)).1)) ∧
    (∃ r : Nat, exec (.vsel ty m d a b) s = .next (s.rowW d 2 r) ∧
      ∀ e, e < 2048 / w → elem w r e = if (s.m m.toNat).getLsbD e then x e else y e) ∧
    exec (.vmand p q m) s = .next (s.pend 1 [.m p.toNat (s.m q.toNat &&& s.m m.toNat)]) ∧
    exec (.vmor p q m) s = .next (s.pend 1 [.m p.toNat (s.m q.toNat ||| s.m m.toNat)]) ∧
    exec (.vmnot p q) s = .next (s.pend 1 [.m p.toNat (~~~ s.m q.toNat)]) ∧
    exec (.vmpopc d q) s = .next (s.wrG d (BitVec.ofNat 64 ((List.range 64).filter (fun i => (s.m q.toNat).getLsbD i)).length) 2)

/-- R270, R271, R281: conversion of leading elements between formats that are not emulated, and the data movements, complete on readable rows: each states the elements of the row written, the rest zero. Element widths of 8 to 64 bits; pack and unpack take 8 to 32. -/
def Obligations.VectorMoveResults : Prop :=
  ∀ (tf ff : BitVec 4) (rm : Rm) (sat hi sx : Bool) (w : BitVec 2) (d a b : Reg) (s : State),
    RowOk s a → RowOk s b → RowOk s d →
    let k := 8 * 2 ^ w.toNat
    let n := 2048 / k
    let x (i e : Nat) : Nat := elem i (s.rowVal a.toNat) e
    let y (i e : Nat) : Nat := elem i (s.rowVal b.toNat) e
    let q (lat : Nat) (i : Instr) (j : Nat) (f : Nat → Nat) : Prop :=
      ∃ r : Nat, exec i s = .next (s.rowW d lat r) ∧ ∀ e, e < 2048 / j → elem j r e = f e
    (tf.toNat < 11 → ff.toNat < 11 →
      ∃ (r : Nat) (fl : Fl), exec (.vcvt tf ff rm sat d a) s = .next (s.rowW d 4 r fl) ∧
        ∀ e, e < 2048 / widthOf tf.toNat → elem (widthOf tf.toNat) r e =
          if e < 2048 / max (widthOf ff.toNat) (widthOf tf.toNat)
          then (convertElem tf.toNat ff.toNat rm sat (x (widthOf ff.toNat) e)).1 % 2 ^ widthOf tf.toNat else 0) ∧
    (w.toNat < 3 → q 2 (.vpack w d a b) k (fun e =>
      if e < n / 2 then x (2 * k) e % 2 ^ k else y (2 * k) (e - n / 2) % 2 ^ k)) ∧
    (w.toNat < 3 → q 2 (.vunpack w hi sx d a) (2 * k) (fun e =>
      let v := x k ((if hi then n / 2 else 0) + e)
      if sx ∧ 2 ^ (k - 1) ≤ v then v + 2 ^ (2 * k) - 2 ^ k else v)) ∧
    q 2 (.vbcast w d a) k (fun _ => (s.g a).toNat % 2 ^ k) ∧
    q 3 (.vperm w d a b) k (fun e => x k (y k e % n)) ∧
    q 3 (.vshuf w d a b) k (fun e =>
      let i := elem k (s.rowVal d.toNat) e % (2 * n)
      if i < n then x k i else y k (i - n)) ∧
    q 2 (.vslide w d a b) k (fun e =>
      let i : Int := (e : Int) - (s.g b).toInt
      if 0 ≤ i ∧ i < n then x k i.toNat else 0)

/-- The combination of two elements of R273 and R274. -/
def combine (op : RedOp) (ty : VTy) (rm : Rm) (x y : Nat) : Nat × Fl :=
  match op, ty with
  | .add, .f32 => fmt32.add rm x y
  | .add, .f64 => fmt64.add rm x y
  | .add, _ => ((x + y) % 2 ^ 32, 0)
  | .min, .f32 => fmt32.minmax false x y
  | .min, .f64 => fmt64.minmax false x y
  | .min, _ => (if intLess ty y x then y else x, 0)
  | .max, .f32 => fmt32.minmax true x y
  | .max, .f64 => fmt64.minmax true x y
  | .max, _ => (if intLess ty y x then x else y, 0)
  | .and, _ => (x &&& y, 0)
  | .or, _ => (x ||| y, 0)
  | .xor, _ => (x ^^^ y, 0)

/-- R123, R272 to R274, R276, R279 to R281: reductions, scans, random rows and block scales complete on readable rows. A reduction's tree is that of R123 (redTree over the present elements, six levels); it writes its value into element 0 and zeros above, or the value for no element where none is active; a scan begins with element 0 as it is, or the value for no element, and each active element is combined with the result before it (R124); the random words are vrngValue at g[B] plus the lane. -/
def VectorReduceResults : Prop :=
  ∀ (op : RedOp) (ty : VTy) (rm : Rm) (m : BitVec 3) (fmt : BitVec 6) (d a b : Reg) (s : State),
    RowOk s a → RowOk s b → RowOk s d →
    let fl := decide (op = .add) && decide (ty = .f32 ∨ ty = .f64)
    let wide := decide (ty = .f64)
    let w := if wide then 64 else 32
    let lr := if fl then (if wide then 12 else 14) else (if wide then 7 else 8)
    let ls := if fl then (if wide then 18 else 20) else (if wide then 9 else 10)
    let x (e : Nat) : Nat := elem w (s.rowVal a.toNat) e
    let on (e : Nat) : Bool := (s.mask m).getLsbD e
    (∃ r g, exec (.vred op ty rm m d a) s = .next (s.rowW d lr r g) ∧
      (match redTree (combine op ty rm) 6 ((List.range (2048 / w)).map (fun e => (if on e then some (x e) else none, 0))) with
       | (some v, h) :: _ => r = v ∧ g = h
       | _ => r = redAbsent op ty ∧ g = 0)) ∧
    (∃ r g, exec (.vscan op ty rm m d a) s = .next (s.rowW d ls r g) ∧
      elem w r 0 = (if on 0 = true then x 0 else redAbsent op ty) ∧
      (∀ e, e + 1 < 2048 / w → on (e + 1) = true →
        elem w r (e + 1) = (combine op ty rm (elem w r e) (x (e + 1))).1 % 2 ^ w) ∧
      (∀ e, e + 1 < 2048 / w → on (e + 1) = false → elem w r (e + 1) = elem w r e)) ∧
    (∃ r, exec (.vrng d a b) s = .next (s.rowW d 6 r) ∧
      ∀ l, l < 64 → elem 32 r l = (vrngValue (s.g (a + 1) ++ s.g a) (s.g b + BitVec.ofNat 64 l)).toNat % 2 ^ 32) ∧
    (∃ r g, exec (.vscale fmt rm m d a) s = .next (s.rowW d 6 r g) ∧
      (let lane (h l : Nat) : Bool := decide (32 * h ≤ l ∧ l < 32 * h + 32) && on l
       let vs (h : Nat) : List FVal := ((List.range 64).filter (lane h)).map (fun l => fmt32.decode (elem 32 (s.rowVal a.toNat) l))
       r = blockScale fmt.toNat rm (vs 0) + 256 * blockScale fmt.toNat rm (vs 1))) ∧
    (∃ cs g, exec (.vw2enc rm m d a b) s = .next (s.pend 6 [s.arenaW cs] g) ∧
      (∀ l, l < 64 → on l = true → (s.rowAt d.toNat + l, BitVec.ofNat 8
        (w2Encode rm (descale (elem 8 (s.rowVal b.toNat) (l / 32)) (fmt32.decode (elem 32 (s.rowVal a.toNat) l)))).1) ∈ cs) ∧
      (∀ c ∈ cs, (c.1 < s.rowAt d.toNat + 64 ∧ on (c.1 - s.rowAt d.toNat) = true) ∨ (s.rowAt d.toNat + 64 ≤ c.1 ∧ c.2 = 0)))

/-- R259, R260: an elementwise op writes just the active elements of its row: once its bytes are in the arena, element e of the row is the op's value where e is listed and as before elsewhere, and no byte outside the row changes. -/
def ElementWriteLands : Prop :=
  ∀ (t : Tbl Byte) (base w : Nat) (l : List (Nat × Nat)), w = 8 ∨ w = 16 ∨ w = 32 ∨ w = 64 →
    (l.map (·.1)).Nodup → (∀ p ∈ l, p.1 < 2048 / w) →
    let u := writeCells t (elemCells base w l)
    (∀ p ∈ l, elem w (natOf (readB u base 256)) p.1 = p.2 % 2 ^ w) ∧
    (∀ e, e < 2048 / w → e ∉ l.map (·.1) → elem w (natOf (readB u base 256)) e = elem w (natOf (readB t base 256)) e) ∧
    (∀ i, i < base ∨ base + 256 ≤ i → tget 0 u i = tget 0 t i)

/-- FloatSpecialResults, RoundTowardZero, RoundNearestEven, RoundOtherModes, FloatExactResults, FloatEncodings and EmulatedConversions, together. -/
def Obligations.FloatRounding : Prop := FloatSpecialResults ∧ RoundTowardZero ∧ RoundNearestEven ∧ RoundOtherModes ∧ FloatExactResults ∧ FloatEncodings ∧ EmulatedConversions

/-- VectorCompareResults and VectorReduceResults, together. -/
def Obligations.VectorCompareAndReduce : Prop := VectorCompareResults ∧ VectorReduceResults

/-! ## Control (09 R133 to R157) -/

/-- A taken branch to t that pops n entries passes EXIT_CHECK (R139). -/
def ExitOk (s : State) (t : BitVec 52) (n : Nat) : Prop :=
  n ≤ s.me.loops.length ∧ (∀ l ∈ s.me.loops.take n, ¬ (l.first.toNat ≤ t.toNat ∧ t.toNat ≤ l.last.toNat)) ∧
  (n = 0 → ∀ l, s.me.loops.head? = some l → l.first.toNat ≤ t.toNat ∧ t.toNat ≤ l.last.toNat)

/-- The state after a redirect to t that pops n entries and lets its target issue cost cycles later, folded cycles apart (R136, R140). -/
def jumped (s : State) (t : BitVec 52) (n cost : Nat) : State :=
  s.modMe (fun q => { q with pc := t, loops := q.loops.drop n, newGroup := true, taken := true,
                             nextIssue := s.cycle + cost + s.cur.fold, cntLost := q.cntLost + BitVec.ofNat 64 (cost - 1) })

/-- The conditions of R136 on a register. -/
def condHolds (cond : BitVec 3) (x : Word) : Prop :=
  match cond.toNat with
  | 0 => True
  | 1 => x = 0
  | 2 => x ≠ 0
  | 3 => x.msb = true
  | 4 => x.msb = false
  | 5 => x.msb = false ∧ x ≠ 0
  | 6 => x.msb = true ∨ x = 0
  | _ => False

/-- R136 to R140: a branch whose condition holds and whose exit is legal redirects fetch, pops its entries and, for brl, writes the link; a branch whose condition does not hold changes nothing; an illegal exit traps before any change. The cost is 1 for a target register written by a pbr or pbri 4 cycles or more before, 3 for others, 4 for ret. -/
def BranchResults : Prop :=
  ∀ (t : BitVec 2) (cond pop : BitVec 3) (a d : Reg) (s : State),
    let tgt := s.b t.toNat
    let w := tget 0 s.me.bWritten t.toNat
    let cost := if 0 < w ∧ w + 3 ≤ s.cycle then 1 else 3
    let back : BitVec 52 := (s.g a).truncate 52
    (¬ condHolds cond (s.g a) → exec (.br t cond pop a) s = .next s) ∧
    (condHolds cond (s.g a) → ExitOk s tgt pop.toNat → exec (.br t cond pop a) s = .next (jumped s tgt pop.toNat cost)) ∧
    (ExitOk s tgt pop.toNat →
      exec (.brl t pop d) s = .next (jumped (s.wrG d (s.cur.next.zeroExtend 64) 1) tgt pop.toNat cost)) ∧
    (back.toNat % 4 = 0 → ExitOk s back pop.toNat → exec (.ret a pop) s = .next (jumped s back pop.toNat 4)) ∧
    (¬ ExitOk s tgt pop.toNat →
      (condHolds cond (s.g a) → exec (.br t cond pop a) s = .next (s.raise (trapR codeIllegal 24 s.cur.pc.toNat))) ∧
      exec (.brl t pop d) s = .next (s.raise (trapR codeIllegal 24 s.cur.pc.toNat))) ∧
    (back.toNat % 4 = 0 → ¬ ExitOk s back pop.toNat → exec (.ret a pop) s = .next (s.raise (trapR codeIllegal 24 s.cur.pc.toNat))) ∧
    (back.toNat % 4 ≠ 0 → exec (.ret a pop) s = .next (s.raise (trapR codeIllegal (s.cur.slot * 256 + 22) s.cur.pc.toNat)))

/-- R142 to R144: loop and loopi push an entry from NEXT to PC + 4 × IMM with their count, where the end is not before NEXT, the stack has room and the end is within the body of the top entry; a register count is held within 0 and 2^32 − 1. With a count of 0 nothing is pushed. -/
def LoopResults : Prop :=
  ∀ (a : Reg) (cnt imm : Imm) (im : BitVec 13) (s : State),
    let x := (s.g a).toInt
    let c := (min (max x 0) (2 ^ 32 - 1)).toNat
    let ok (last : Nat) : Prop := s.cur.next.toNat ≤ last ∧ last < 2 ^ 52 ∧ s.me.loops.length < 6 ∧
      ∀ l, s.me.loops.head? = some l → last ≤ l.last.toNat
    let pushed (last n : Nat) : State := s.modMe (fun q => { q with loops :=
      { first := s.cur.next, last := BitVec.ofNat 52 last, count := BitVec.ofNat 32 n, index := 0 } :: q.loops })
    let l1 := s.cur.pc.toNat + 4 * imm.toNat
    let l2 := s.cur.pc.toNat + 4 * im.toNat
    (ok l1 → c ≠ 0 → exec (.loop a imm) s = .next (pushed l1 c)) ∧
    (ok l2 → cnt.toNat ≠ 0 → exec (.loopi cnt im) s = .next (pushed l2 cnt.toNat)) ∧
    (ok l1 → c = 0 → ∃ t, exec (.loop a imm) s = .next t ∧ t.me.loops = s.me.loops) ∧
    (ok l2 → cnt.toNat = 0 → ∃ t, exec (.loopi cnt im) s = .next t ∧ t.me.loops = s.me.loops) ∧
    (l2 < s.cur.next.toNat → exec (.loopi cnt im) s = .next (s.raise (trapR codeIllegal (s.cur.slot * 256 + 22) s.cur.pc.toNat)))

/-- A fixed-latency result of the op at the site of s, landing after lat cycles (03 R48). -/
def resultAt (s : State) (lat : Nat) (ws : List PWrite) : Pend where
  id := s.fresh
  land := s.cycle + lat
  issued := s.cycle
  sec := s.cur.sec
  slot := s.cur.slot
  pc := s.cur.pc
  writes := ws
  flags := 0

/-- R70, R134, R135, R148, R150, R152, R154, R155: nop changes nothing; pbr and pbri prepare a target register at latency 1; stage adds to a copy-stage counter at latency 1; a fence joins those of its sequencer, of which those whose earlier operations are all performed at their scope are done with; rdtime and rdctr write gang time and counters at latency 2; gwcond sends an update for the condition word of the graph that launched the task, and none where no graph did. -/
def Obligations.ControlResults : Prop :=
  ∀ (t : BitVec 2) (imm : Imm) (e : BitVec 1) (n d a b : Reg) (sel : BitVec 6) (sc : Scope) (s : State),
    exec .nop s = .next s ∧
    exec (.pbr t a) s = .next (s.prepare t ((s.g a).truncate 52 &&& ~~~ 3)) ∧
    exec (.pbri t imm) s = .next (s.prepare t (s.cur.pc + 4 * imm.truncate 52)) ∧
    (∀ v, (s.prepare t v).here.pending = s.here.pending ++ [resultAt s 1 [.b t.toNat v]]) ∧
    exec (.stage e n) s = .next (s.pend 1 [.stage e.toNat n.toNat]) ∧
    (s.me.bounds = [] → ∃ n t, exec (.fence sc) s = .next t ∧ s.fresh ≤ n ∧
      t.me.fences = (s.me.fences ++ [(n, sc)]).filter (fun f => !t.fencePassed s.cur.cl s.cur.core s.cur.sec f.1 f.2)) ∧
    exec (.rdtime d) s = .next (s.wrG d (BitVec.ofNat 64 s.now) 2) ∧
    exec (.rdctr d sel) s = .next (s.wrG d (match sel.toNat with
      | 0 => s.e.cntRun
      | 1 => s.me.cntIssued
      | 2 => (s.e.sq (!s.cur.sec)).cntIssued
      | 3 => s.e.cntTiming
      | 4 => s.me.cntStalled
      | 5 => s.e.cntYield
      | _ => s.me.cntLost) 2) ∧
    (s.taskGraph = none → exec (.gwcondSet a) s = .next s ∧ exec (.gwcondClr a) s = .next s ∧ exec (.gwcondIns a b) s = .next s) ∧
    (∀ c g, s.taskGraph = some (c, g) →
      let sent (op : CondOp) (v m : Word) : State := { s with condQueue := s.condQueue ++
        [{ ctx := s.hereCtxId, cl := c, slot := g, src := .gwcond, op := op, value := v, mask := m }] }
      exec (.gwcondSet a) s = .next (sent .set (s.g a) 0) ∧ exec (.gwcondClr a) s = .next (sent .clr (s.g a) 0) ∧
      exec (.gwcondIns a b) s = .next (sent .ins (s.g a) (s.g b)))

/-- R156, R157: xchk of equal registers and xchk.v of equal rows, readable, change nothing; operands that differ raise a duplicate mismatch with the kind, 0 for registers and 1 for rows, at bit 8 and the lowest byte that differs below, which goes to a handler: in task mode the core is then in service mode at the context's handler. -/
def Obligations.DuplicateChecks : Prop :=
  ∀ (a b : Reg) (s : State) (i : Nat),
    let x := s.e.vBase.toNat + 256 * a.toNat
    let y := s.e.svBase.toNat + 256 * b.toNat
    let readable : Prop := ∀ j, j < 256 → tget false s.here.arenaBad (x + j) = false ∧ tget false s.here.arenaBad (y + j) = false
    let byte (z j : Nat) : Byte := tget 0 s.here.arena (z + j)
    let gbyte (r : Reg) (j : Nat) : Byte := (s.g r).extractLsb' (8 * j) 8
    (s.g a = s.g b → exec (.xchk a b) s = .next s) ∧
    (readable → (∀ j, j < 256 → byte x j = byte y j) → exec (.xchkV a b) s = .next s) ∧
    (i < 8 → gbyte a i ≠ gbyte b i → (∀ j, j < i → gbyte a j = gbyte b j) → exec (.xchk a b) s = .next (s.raise (trapR codeDup i s.cur.pc.toNat))) ∧
    (readable → i < 256 → byte x i ≠ byte y i → (∀ j, j < i → byte x j = byte y j) →
      exec (.xchkV a b) s = .next (s.raise (trapR codeDup (256 + i) s.cur.pc.toNat))) ∧
    (∀ c n, s.hereCtx = some c → c.handler ≠ 0 → s.e.mode = false →
      let t := s.raise (trapR codeDup n s.cur.pc.toNat)
      t.e.mode = true ∧ t.me.running = true ∧ t.me.pc = c.handler ∧ t.e.trapInfo = BitVec.ofNat 64 n ∧ t.e.trapCause.extractLsb' 0 8 = (14 : BitVec 8))

/-- R145, R35: tend stops its sequencer and discards its loop stack; the last running sequencer of its core also unbinds every stream, where no drain queue holds an entry, and raises a queue fault of reason 35 on the lowest that does. -/
def TendResults : Prop :=
  ∀ s : State,
    let other := s.e.sq (!s.cur.sec)
    let stop (t : State) : State := t.modMe (fun q => { q with running := false, preempted := false, loops := [] })
    let last : Prop := other.running = false ∧ other.preempted = false
    (¬ last → exec .tend s = .next (stop s)) ∧
    (last → (∀ q, q < 4 → tget [] s.e.dq q = []) →
      exec .tend s = .next (stop (s.modHereE (fun e => { e with q := [], qBound := [] })))) ∧
    (∀ q, last → q < 4 → tget [] s.e.dq q ≠ [] → (∀ p, p < q → tget [] s.e.dq p = []) →
      exec .tend s = .next (s.raise (trapR codeQueue (q * 256 + 35) s.cur.pc.toNat)))

/-- R146, R56, R57: yield waits at issue and makes the next bundle a restart point; under a pending pre-emption it stops its sequencer, whose emulation record is discarded (07 R110), else a yield of the primary while the secondary runs gives the next cycle to the secondary and clears the count of withheld cycles. -/
def YieldResults : Prop :=
  ∀ s : State,
    let s1 := s.modMe (fun q => { q with restartNext := true })
    waitsAtIssue .yieldOp = true ∧ encodeOp .yieldOp = 2 ∧
    (s.preemptPending s.cur.cl = true → exec .yieldOp s = .next (s1.modMe (fun q => { q with running := false, preempted := true, emu := none }))) ∧
    (s.preemptPending s.cur.cl = false → s.cur.sec = false → s.e.second.running = true →
      exec .yieldOp s = .next (s1.modHere (fun y => { y with yieldNow := true, secWait := 0 }))) ∧
    (s.preemptPending s.cur.cl = false → s.cur.sec = true ∨ s.e.second.running = false → exec .yieldOp s = .next s1)

/-- R147, R436: trap and svc take their trap with the checkpoint at the bundle at which fetch continues: TRAP.INFO is the code, TRAP.ADDR the bundle's address, TRAP.PC that bundle's; the core is in service mode at the context's handler, or the partition's service handler. -/
def Obligations.TrapAndServiceCalls : Prop :=
  ∀ (code : BitVec 24) (s : State) (x : Context) (p : Partition),
    s.e.mode = false → s.hereCtx = some x → x.handler ≠ 0 → look s.parts x.part = some p →
    ∃ t u, exec (.trap code) s = .next t ∧ exec (.svc code) s = .next u ∧
      t.e.mode = true ∧ u.e.mode = true ∧
      t.me.pc = x.handler ∧ u.me.pc = p.service ∧ t.me.running = true ∧ u.me.running = true ∧
      t.e.trapInfo = code.zeroExtend 64 ∧ u.e.trapInfo = code.zeroExtend 64 ∧
      t.e.trapAddr = s.cur.pc.zeroExtend 64 ∧ u.e.trapAddr = s.cur.pc.zeroExtend 64 ∧
      t.e.trapPc = s.me.pc.zeroExtend 64 ∧ u.e.trapPc = s.me.pc.zeroExtend 64 ∧
      t.e.trapCause.extractLsb' 0 8 = (20 : BitVec 8) ∧ u.e.trapCause.extractLsb' 0 8 = (21 : BitVec 8)

/-- R151, 11 R188 to R190, R203, R207: a phase boundary of a sequencer that has no boundary pending, no put with lines left and no pool write on its way to the write buffer, while no lease over this package's memory is granted, completes at once at every scope but gang: its phase is of its instant of this cycle, its writes in the cluster cache are released, and at layer scope or wider they have left it for their homes. A probe at package scope has promoted its range: no cluster cache of the package still holds a released write to it. -/
def Obligations.PhaseResults : Prop :=
  ∀ (sc : Scope) (a b : Reg) (s : State) (i : Instr), i = .phase sc ∨ i = .phaseProbe sc a b → sc ≠ .gang →
    s.me.bounds = [] → (∀ n, s.openPuts s.cur.cl s.cur.core s.cur.sec n = false) →
    (∀ n, s.pstComing s.cur.cl s.cur.core s.cur.sec n = false) → s.mem.granted = [] →
    ∃ t, exec i s = .next t ∧ t.me.bounds = [] ∧ t.me.phase = s.boundInst s.cur.cl s.cur.core s.cur.sec ∧
      (∀ h ∈ t.hereCl.held, h.core = s.cur.core → h.sec = s.cur.sec → sc = .seq ∨ (sc = .cluster ∧ h.released.isSome = true)) ∧
      (i = .phaseProbe sc a b → sc = .package → s.g b ≠ 0 → ∀ c, ∀ h ∈ (t.cl c).held,
        h.pa / 64 ∈ s.probeLines s.hereCtxId (s.g a).toNat (s.g b).toNat → h.released = none)

/-- BranchResults and LoopResults, together. -/
def Obligations.BranchesAndLoops : Prop := BranchResults ∧ LoopResults

/-- TendResults and YieldResults, together. -/
def Obligations.TendAndYield : Prop := TendResults ∧ YieldResults

/-! ## Scratch memory (13 R233 to R241) -/

/-- A scratch access of n bytes at x is in range and aligned (R233). -/
def ScratchOk (x n align : Nat) : Prop := x + n ≤ 0x400000 ∧ x % align = 0

/-- No line that n bytes at x touch is marked (R239). -/
def SealsOk (s : State) (x n : Nat) : Prop := ∀ l, x / 64 ≤ l → 64 * l < x + n → tget none s.hereCl.marks l = none

/-- No line that n bytes at x touch has an uncorrectable ECC error (R215). -/
def EccOk (s : State) (x n : Nat) : Prop := ∀ l, x / 64 ≤ l → 64 * l < x + n → ∀ m, tget none s.hereCl.marks l = some m → m.kind ≠ 1

/-- What .clear without .wait needs: every granule touched is full (R216). -/
def ClearOk (s : State) (wait clear : Bool) (x n : Nat) : Prop :=
  clear = false ∨ wait = true ∨ ∀ g, x / 16 ≤ g → 16 * g < x + n → tget false s.hereCl.fe g = true

/-- R235, R236, R216: scalar and row loads that are in range, aligned, of good seal and, under .clear without .wait, of full granules complete: the lines are read and, under .clear, their granules emptied; ld extends the little-endian scalar by the sign of its type at latency 5, vld writes its row at latency 6. A scalar load that fails its range or alignment raises a page fault of reason 4 or 5. -/
def ScratchLoads : Prop :=
  ∀ (ty : BitVec 3) (wait clear : Bool) (d a : Reg) (imm : Imm) (s : State),
    let w := 2 ^ (ty.toNat / 2)
    let x := (s.g a).toNat + w * imm.toNat
    let y := (s.g a).toNat + 16 * imm.toNat
    let byte (i : Nat) : Byte := tget 0 s.hereCl.scratch i
    (ScratchOk x w w → SealsOk s x w → ClearOk s wait clear x w →
      ∃ v : Word, exec (.ld ty wait clear d a imm) s = .next ((s.readLines clear [(x, w)]).wrG d v 5) ∧
        ∀ i, i < 64 → v.getLsbD i =
          if i < 8 * w then (byte (x + i / 8)).getLsbD (i % 8) else decide (ty.toNat % 2 = 0) && (byte (x + w - 1)).msb) ∧
    (ScratchOk y 256 16 → SealsOk s y 256 → ClearOk s wait clear y 256 →
      exec (.vld wait clear d a imm) s = .next ((s.readLines clear [(y, 256)]).pend 6
        [s.arenaW ((List.range 256).map (fun i => (s.rowAt d.toNat + i, byte (y + i))))])) ∧
    (0x400000 < x + w → exec (.ld ty wait clear d a imm) s = .next (s.raise (trapR codePage 4 x))) ∧
    (x + w ≤ 0x400000 → x % w ≠ 0 → exec (.ld ty wait clear d a imm) s = .next (s.raise (trapR codePage 5 x)))

/-- R235, R236, R240, R257: scalar and row stores in range and aligned land at issue + 3, and feset and feclr of whole granules at issue + 2 + ⌈n / 1024⌉: what lands is the low bytes of g[D], least significant first, the bytes of row D, or the change of the granules' full-empty bits. -/
def ScratchStores : Prop :=
  ∀ (ty : BitVec 3) (d a b : Reg) (imm : Imm) (s : State),
    let w := 2 ^ (ty.toNat / 2)
    let x := (s.g a).toNat + w * imm.toNat
    let y := (s.g a).toNat + 16 * imm.toNat
    let z := (s.g a).toNat
    let n := (s.g b).toNat
    let gs := (List.range (n / 16)).map (fun i => z / 16 + i)
    (ScratchOk x w w → exec (.st ty d a imm) s = .next (s.landAt 3
      ((List.range w).map (fun i => (x + i, (s.g d).extractLsb' (8 * i) 8))))) ∧
    (ScratchOk y 256 16 → RowOk s d → exec (.vst d a imm) s = .next (s.landAt 3
      ((List.range 256).map (fun i => (y + i, tget 0 s.here.arena (s.rowAt d.toNat + i)))))) ∧
    (ScratchOk z n 16 → n % 16 = 0 → 16 ≤ n → n ≤ 0x10000 →
      exec (.feset a b) s = .next (s.landAt (2 + (n + 1023) / 1024) [] none gs []) ∧
      exec (.feclr a b) s = .next (s.landAt (2 + (n + 1023) / 1024) [] none [] gs))

/-- R237, R238: the strided and tile moves complete: word l, j of vldm and vstm is at offset base + 64 × pitch × l + 4 j of scratch and in lane l of row D + j; row i of a tile is at its view's row and at the operand address plus 64 × the entry's pitch × i. Reads come at issue + 8 + beats, with the scratch bytes from which the lines of later beats are read in their own cycles (R213), writes land at issue + 4 + write beats. Hypotheses: rows within the view of 64, addresses in range and aligned, good seals and granules, rows readable, a well-formed entry and a view within its limits. -/
def Obligations.StridedAndTileMoves : Prop :=
  ∀ (wait clear : Bool) (d a cnt : Reg) (tv : BitVec 4) (imm : Imm) (s : State),
    let n := cnt.toNat + 1
    let at_ (l j : Nat) : Nat := bitsOf (s.g a) 21 0 + 64 * bitsOf (s.g a) 63 48 * l + 4 * j
    let es := (List.range 64).flatMap (fun l => (List.range n).map (fun j => (l, j)))
    let as := es.map (fun e => (at_ e.1 e.2, 4))
    let v := s.e.view (2 + tv.toNat)
    let t := tidOf (s.tid v.tid.toNat)
    let rb := (v.cols.toNat * widthOf t.format + 7) / 8
    let rows := (List.range v.rows.toNat).map (fun i =>
      (v.base.toNat + 64 * v.pitch.toNat * i, (s.g a).toNat + 64 * imm.toNat + 64 * t.pitch * i))
    let ts := rows.map (fun p => (p.2, rb))
    let good (l : List (Nat × Nat)) : Prop := ∀ p ∈ l, SealsOk s p.1 p.2 ∧ ClearOk s wait clear p.1 p.2
    (d.toNat + n ≤ 64 → (∀ p ∈ as, ScratchOk p.1 4 4) →
      (good as → exec (.vldm wait clear d a cnt) s = .next ((s.readLines clear as).pend (8 + s.cur.beats)
        [s.arenaW (es.flatMap (fun e => cells (s.rowAt (d.toNat + e.2) + 4 * e.1) (s.scr (at_ e.1 e.2) 4)))] 0
        (es.map (fun e => .arena (at_ e.1 e.2) (s.rowAt (d.toNat + e.2) + 4 * e.1) 4)))) ∧
      ((∀ r : Reg, d.toNat ≤ r.toNat → r.toNat < d.toNat + n → RowOk s r) →
        exec (.vstm d a cnt) s = .next (s.landAt (4 + s.cur.wbeats)
          (es.flatMap (fun e => cells (at_ e.1 e.2) (readB s.here.arena (s.rowAt (d.toNat + e.2) + 4 * e.1) 4)))))) ∧
    (t.bad = 0 → v.fits t = true → (∀ p ∈ rows, ScratchOk p.2 rb 64) →
      (good ts → exec (.tld wait clear tv a imm) s = .next ((s.readLines clear ts).pend (8 + s.cur.beats)
        [s.arenaW (rows.flatMap (fun p => cells p.1 (s.scr p.2 rb)))] 0 (rows.map (fun p => .arena p.2 p.1 rb)))) ∧
      ((∀ p ∈ rows, ∀ i, i < rb → tget false s.here.arenaBad (p.1 + i) = false) →
        exec (.tst tv a imm) s = .next (s.landAt (4 + s.cur.wbeats)
          (rows.flatMap (fun p => cells p.2 (readB s.here.arena p.1 rb))))))

/-- The value that a scratch or pool atomic writes over m of n bytes, none where it writes nothing (R241). -/
def atomicWrites (op n m b c : Nat) : Option Nat :=
  let lt := (BitVec.ofNat (8 * n) m).slt (BitVec.ofNat (8 * n) b)
  match op with
  | 0 => some ((m + b) % 2 ^ (8 * n))
  | 1 => some (m &&& b)
  | 2 => some (m ||| b)
  | 3 => some (m ^^^ b)
  | 4 => some b
  | 5 => if m = b then some c else none
  | 6 => some (if lt then m else b)
  | 7 => some (if lt then b else m)
  | 8 => some (if m ≤ b then m else b)
  | _ => some (if m ≤ b then b else m)

/-- R241, R242: a scratch atomic in range and aligned, whose stream has room, reserves its slot and lands at issue + 4; where it lands its granule's bytes take the value of the operation on the bytes that stand there. -/
def Obligations.ScratchAtomics : Prop :=
  ∀ (i32 : Bool) (op : BitVec 4) (q : BitVec 3) (a b : Reg) (s : State),
    let n := if i32 then 4 else 8
    let x := (s.g a).toNat
    ScratchOk x n n → (s.e.bound q.toNat = true → (s.e.stream q.toNat).length < 32) →
    ∃ l : BankAtomic,
      exec (.atom i32 op q a b) s = .next ((s.reserve q.toNat).2.landAt 4 [] none [] [] (some l)) ∧
      l.slot = (if s.e.bound q.toNat then some s.fresh else none) ∧ l.q = q.toNat ∧ l.core = s.cur.core ∧
      ∀ (y : Cluster) (d : Landing), d.atomic = some l →
        d.cellsIn y = (match atomicWrites op.toNat n (natOf (readB y.scratch x n)) ((s.g b).toNat % 2 ^ (8 * n)) ((s.g (b + 1)).toNat % 2 ^ (8 * n)) with
          | none => []
          | some v => cells x (bytesOf n v))

/-- R195, R211, R218, R239, R240: a landing that finds room in its banks' write buffers, and merges into no marked line, puts its bytes into scratch, and no other byte changes; granules that it writes lose their tags but for the one that it tags, and every other granule keeps its tag; full-empty bits change just as it says; a line that it writes whole loses its mark (01 R28), and no other line does; its lines enter the write buffers of their banks; nothing else of the cluster changes. -/
def Obligations.LandingWrites : Prop :=
  ∀ (x y : Cluster) (l : Landing), l.atomic = none → x.tryLand l = .ok y →
    (∀ a, a ∉ l.bytes.map (·.1) → tget 0 y.scratch a = tget 0 x.scratch a) ∧
    ((l.bytes.map (·.1)).Nodup → ∀ c ∈ l.bytes, tget 0 y.scratch c.1 = c.2) ∧
    (∀ c ∈ l.bytes, l.tagSet ≠ some (c.1 / 16) → tget false y.capTag (c.1 / 16) = false) ∧
    (∀ g, l.tagSet = some g → tget false y.capTag g = true) ∧
    (∀ g, l.tagSet ≠ some g → (∀ c ∈ l.bytes, c.1 / 16 ≠ g) → tget false y.capTag g = tget false x.capTag g) ∧
    (∀ g, tget false y.fe g = if g ∈ l.setFull then true else if g ∈ l.setEmpty then false else tget false x.fe g) ∧
    (∀ n, (∀ i, i < 64 → 64 * n + i ∈ l.bytes.map (·.1)) → tget none y.marks n = none) ∧
    (∀ n i, i < 64 → 64 * n + i ∉ l.bytes.map (·.1) → tget none y.marks n = tget none x.marks n) ∧
    (∀ b n, n ∈ tget [] y.buf b ↔ n ∈ tget [] x.buf b ∨ (n % 32 = b ∧ ∃ c ∈ l.bytes, c.1 / 64 = n)) ∧
    y = { x with scratch := y.scratch, fe := y.fe, capTag := y.capTag, marks := y.marks, buf := y.buf }

/-! ## Return streams, transfers, capabilities (13 R242 to R255) -/

/-- R243, R244: binding makes an empty stream of qD and unbinding discards its slots; the status ops write their words at latency 2; a value is taken from the head of a stream whose head has landed and whose consumed slots are fewer than 16. -/
def Obligations.ReturnStreams : Prop :=
  ∀ (q : BitVec 3) (e : BitVec 1) (d a : Reg) (s : State),
    let l := s.e.stream q.toNat
    let c := s.hereCl.e.ce e.toNat
    (bitsOf (s.g a) 63 62 = 0 → ∃ t, exec (.sbind q a) s = .next t ∧ t.e.bound q.toNat = true ∧ t.e.stream q.toNat = [] ∧
      ∀ p, p ≠ q.toNat → t.e.stream p = s.e.stream p ∧ t.e.bound p = s.e.bound p) ∧
    (∃ t, exec (.sunbind q) s = .next t ∧ t.e.bound q.toNat = false ∧ t.e.stream q.toNat = [] ∧
      ∀ p, p ≠ q.toNat → t.e.stream p = s.e.stream p ∧ t.e.bound p = s.e.bound p) ∧
    (∀ i v, (headSlot l).bind (fun x => x.val.map (fun v => (x.id, v))) = some (i, v) → s.e.bound q.toNat = true →
      (l.filter (fun x => x.usedBy.isSome)).length < 16 →
      exec (.sstatVal d q) s = .next ((s.modHereE (fun e => e.setStream q.toNat ((e.stream q.toNat).map (fun x =>
        if x.id = i then { x with usedBy := some (s.cur.sec, s.here.order + 1) } else x)))).wrG d v 2)) ∧
    exec (.sstatQ d q) s = .next (s.wrG d ((if s.e.bound q.toNat then (1 : Word) <<< 63 else 0) +
      BitVec.ofNat 64 (256 * (l.filter (fun x => x.usedBy.isSome)).length +
        (l.filter (fun x => x.val.isSome && x.usedBy.isNone)).length)) 2) ∧
    exec (.sstatCe d e) s = .next (s.wrG d (c.entry ++ c.done ++ c.bytes) 2) ∧
    exec (.sstatCf d e) s = .next (s.wrG d (c.faultAddr ++ c.faultKind ++ c.faultReason) 2) ∧
    exec (.sstatPut d) s = .next (s.wrG d s.me.puts 2)

/-- R245: gget and gput of n bytes, a multiple of 16 up to 1 MiB, at an aligned scratch range and an aligned address that translates, start a transfer of their kind that holds the translation; its lines carry, piece by piece, each byte of the range just once. A length of 0 does nothing. -/
def GlobalTransfers : Prop :=
  ∀ (d a b : Reg) (s : State) (lf : Leaf),
    let n := (s.g b).toNat
    let start (k : XKind) (scr va : Nat) (put : Bool) (t : State) : Prop :=
      let s1 := s.tlbFill (some s.cur.cl) s.hereCtxId va
      ∃ ls, t = s1.addXfer (s1.xferOf k ls n) ∧
        ls.map (fun l => (l.dst, l.segs)) = (cuts scr va n).map (fun p =>
          let x : End := .scratch s.cur.cl (scr + p.1)
          let y : End := .glob (va + p.1)
          if put then (y, [Seg.src x p.2]) else (x, [Seg.src y p.2]))
    (n = 0 → exec (.gget d a b) s = .next s ∧ exec (.gput d a b) s = .next s) ∧
    (n ≠ 0 → n % 16 = 0 → n ≤ 0x100000 → ScratchOk (s.g d).toNat n 16 → (s.g a).toNat % 16 = 0 →
      s.xlate (some s.cur.cl) s.hereCtxId (s.g a).toNat .read = .ok lf →
      ∃ t, exec (.gget d a b) s = .next t ∧ start .gget (s.g d).toNat (s.g a).toNat false t) ∧
    (n ≠ 0 → n % 16 = 0 → n ≤ 0x100000 → ScratchOk (s.g a).toNat n 16 → (s.g d).toNat % 16 = 0 →
      s.xlate (some s.cur.cl) s.hereCtxId (s.g d).toNat .write = .ok lf →
      ∃ t, exec (.gput d a b) s = .next t ∧ start .gput (s.g a).toNat (s.g d).toNat true t)

/-- R227, R245: the pieces into which a transfer of n bytes is cut follow one another without gap or overlap from 0 to n, and none crosses a 64-byte line at either end. -/
def TransferPieces : Prop :=
  ∀ (a b n : Nat),
    (∀ i, i < n → ∃ p ∈ cuts a b n, p.1 ≤ i ∧ i < p.1 + p.2) ∧
    (∀ p ∈ cuts a b n, 0 < p.2 ∧ p.1 + p.2 ≤ n ∧ (a + p.1) / 64 = (a + p.1 + p.2 - 1) / 64 ∧ (b + p.1) / 64 = (b + p.1 + p.2 - 1) / 64) ∧
    (cuts a b n).Pairwise (fun p q => p.1 + p.2 ≤ q.1)

/-- A capability that passes CAPCHECK for n bytes at an offset under a right, its kind apart (R234). -/
def CapOk (c : Cap) (off n right : Nat) : Prop :=
  c.tag = true ∧ c.bits.getLsbD (80 + right) = true ∧ off + n ≤ 256 * (c.bits.extractLsb' 0 32).toNat

/-- R251 to R253, 23 R373: capld of a tagged granule loads it at latency 5, capst stores a tagged capability and its tag at issue + 3, capder derives from a tagged capability with right 5 a capability of the same object, with the rights that both have, at the base plus an offset of 256-byte units within it, and capchk of rights that the capability has over the range changes nothing. -/
def Obligations.CapabilityResults : Prop :=
  ∀ (k kb : BitVec 4) (a b : Reg) (s : State),
    let x := (s.g a).toNat
    let c := s.k k.toNat
    let p := s.k kb.toNat
    let len := (s.g b).truncate 32
    let n := ((s.g b).truncate 48).toNat
    (ScratchOk x 16 16 → tget false s.hereCl.capTag (x / 16) = true → SealsOk s x 16 →
      exec (.capld k a) s = .next ((s.readLines false [(x, 16)]).pend 5
        [.k k.toNat { bits := BitVec.ofNat 128 (natOf (readB s.hereCl.scratch x 16)), tag := true }])) ∧
    (ScratchOk x 16 16 → c.tag = true →
      exec (.capst k a) s = .next (s.landAt 3 ((List.range 16).map (fun i => (x + i, c.bits.extractLsb' (8 * i) 8))) (some (x / 16)))) ∧
    (p.tag = true → p.bits.getLsbD 85 = true → x % 256 = 0 → len ≠ (0 : BitVec 32) →
      x + 256 * (len : BitVec 32).toNat ≤ 256 * (p.bits.extractLsb' 0 32).toNat →
      ∃ r : Cap, exec (.capder k kb a b) s = .next (s.pend 2 [.k k.toNat r]) ∧ r.tag = true ∧
        r.bits.extractLsb' 88 40 = p.bits.extractLsb' 88 40 ∧
        r.bits.extractLsb' 80 8 = (p.bits.extractLsb' 80 8 &&& (s.g b).extractLsb' 32 8) ∧
        r.bits.extractLsb' 32 48 = p.bits.extractLsb' 32 48 + BitVec.ofNat 48 x ∧ r.bits.extractLsb' 0 32 = len) ∧
    ((∀ r, r < 8 → (s.g b).getLsbD (56 + r) = true → CapOk c x n r) → exec (.capchk k a b) s = .next s) ∧
    (∀ r, r < 8 → c.tag = true → (s.g b).getLsbD (56 + r) = true → (∀ j, j < r → (s.g b).getLsbD (56 + j) = false) →
      c.bits.getLsbD (80 + r) = false →
      exec (.capchk k a b) s = .next (s.raise (trapR codeCap (k.toNat * 256 + 2) x)))

/-- R255, R256: publish of a valid entry asks for the exchange of its buffer; the residency ops act on the range of a valid handle: a first pin of the context is added, which cancels a pending eviction, a second one has no effect, and a pin is removed, the entry's priority is set, the range is evicted, demoted or promoted. -/
def Obligations.PublicationAndResidency : Prop :=
  ∀ (sc : Scope) (a b : Reg) (s : State) (x : Context), s.hereCtx = some x →
    let i := (s.g a).toNat
    let h := handleOf (tget {} x.handles i)
    let r := s.rangeOf (s.partOfCtx s.hereCtxId) h
    (i < 64 → bitOf (tget ({} : Quads) x.pubs i).q0 63 = true →
      ∃ p : PubReq, exec (.publish sc a) s = .next ({ s with pubReqs := s.pubReqs ++ [p] } : State).tick1 ∧
        p.ctx = s.hereCtxId ∧ p.idx = i ∧ p.scope = sc ∧ p.asked = s.fresh ∧ p.tp = none) ∧
    (i < 4096 → h.valid = true →
      exec (.reshPin a) s = .next (r.2.modRange r.1 (fun y =>
        if y.pins.contains s.hereCtxId then y else { y with pins := y.pins ++ [s.hereCtxId], pendingEvict := none })) ∧
      exec (.reshUnpin a) s = .next ((r.2.modRange r.1 (fun y => { y with pins := y.pins.filter (· ≠ s.hereCtxId) })).evictPending r.1) ∧
      (∃ t y, exec (.reshPrio a b) s = .next t ∧ t.hereCtx = some y ∧
        (handleOf (tget {} y.handles i)).prio = bitsOf (s.g b) 3 0) ∧
      exec (.evict a) s = .next (r.2.evict r.1 false) ∧
      exec (.evictDemote a) s = .next (r.2.evict r.1 true) ∧
      exec (.pref a) s = .next (r.2.promoteRange r.1).pumpResidency)

/-- ScratchLoads and ScratchStores, together. -/
def Obligations.ScratchLoadsAndStores : Prop := ScratchLoads ∧ ScratchStores

/-- GlobalTransfers and TransferPieces, together. -/
def Obligations.GlobalCopies : Prop := GlobalTransfers ∧ TransferPieces

/-! ## The pool (13 R246 to R250, 23) -/

/-- A pool access passes its checks: the package is not fenced, the capability names a pool object with the right over the bytes, and the offset is aligned (R234, R247, R385). -/
def PoolOk (s : State) (c : Cap) (off n right align : Nat) : Prop :=
  s.pool.fenced = false ∧ CapOk c off n right ∧ c.kind = 0 ∧ off % align = 0

/-- R247 to R249, R242, R367, R371: pool accesses that pass their checks complete: a pld reserves its slot and asks for its line, or its two lines; a pst enters its bytes into the write buffer at issue + 3, those of each line apart; a patom takes the next sequence value and sends a tagged atomic; a pget of whole lines starts a transfer, whose gets ask for each line of the pool that it reads, once (one get of 64 bytes for each: log entry 50); one of no bytes does nothing. In fenced state each raises a fence fault, ahead of the capability checks (log entry 24). -/
def PoolOps : Prop :=
  ∀ (ty q op : BitVec 3) (k : BitVec 4) (a b l : Reg) (s : State),
    let w := 2 ^ (ty.toNat / 2)
    let off := (s.g a).toNat
    let n := (s.g l).toNat
    let c := s.k k.toNat
    let x := (c.base + off) % 2 ^ 48
    let next := (x / 64 + 1) * 64 % 2 ^ 48
    let room : Prop := s.e.bound q.toNat = true → (s.e.stream q.toNat).length < 32
    let slot := if s.e.bound q.toNat then some s.fresh else none
    let r := (s.reserve q.toNat).2
    let bytes := (List.range w).map (fun i => (s.g b).extractLsb' (8 * i) 8)
    (PoolOk s c off w 0 w → room →
      let dest : PoolDest := match slot with | none => .none | some i => .slot q.toNat i x ty
      exec (.pld ty q k a) s = .next (
        if x % 64 + w ≤ 64 then (r.askLine c.object x w dest).pumpPool
        else ((r.askLine c.object x (64 - x % 64) dest).askLine c.object next (w - (64 - x % 64)) dest).pumpPool)) ∧
    (PoolOk s c off w 1 w → exec (.pst ty k a b) s = .next (s.pend 3 (
      if x % 64 + w ≤ 64 then [.pool c.object x bytes s.pool.fence]
      else [.pool c.object x (bytes.take (64 - x % 64)) s.pool.fence, .pool c.object next (bytes.drop (64 - x % 64)) s.pool.fence]))) ∧
    (PoolOk s c off 8 2 8 → room → ∃ p : PoolReq, exec (.patom op q k a b) s = .next
        (({ r with pool := { r.pool with seq := s.pool.seq + 1 } } : State).addReq p).pumpPool ∧
      p.kind = 2 ∧ p.seq = s.pool.seq ∧ p.op.toNat = op.toNat ∧ p.object = c.object ∧ p.addr = x ∧ p.arg0 = s.g b ∧
      (op = 5 → p.arg1 = s.g (b + 1)) ∧ p.dest = .atomSlot q.toNat slot ∧ p.fence = s.pool.fence) ∧
    (n = 0 → exec (.pget k a b l) s = .next s) ∧
    (n ≠ 0 → n % 64 = 0 → n ≤ 0x100000 → ScratchOk (s.g b).toNat n 64 →
      (PoolOk s c off n 3 64 →
        ∃ (ls : List Line) (gs : List Nat),
          exec (.pget k a b l) s = .next
            ((s.addXfer (s.xferOf .pget ls n)).askLines c.object s.fresh ((ls.map Line.poolPieces).flatten) gs).pumpPool ∧
          ls.map (fun y => (y.idx, y.dst)) = (List.range (n / 64)).map (fun i => (i, End.scratch s.cur.cl ((s.g b).toNat + 64 * i))) ∧
          (∀ y ∈ ls, y.segs = if x % 64 = 0 then [.src (.pool c (off + 64 * y.idx)) 64]
            else [.src (.pool c (off + 64 * y.idx)) (64 - x % 64), .src (.pool c (off + 64 * y.idx + (64 - x % 64))) (x % 64)]) ∧
          gs.Nodup ∧ ∀ g, g ∈ gs ↔ ∃ y ∈ ls, ∃ p ∈ y.poolPieces, g = (c.base + p.2.1) % 2 ^ 48 / 64) ∧
      (s.pool.fenced = true → exec (.pget k a b l) s = .next (s.raise (trapR codeFence (3 * 256 + 6) x)))) ∧
    (s.pool.fenced = true →
      exec (.pld ty q k a) s = .next (s.raise (trapR codeFence 6 x)) ∧
      exec (.pst ty k a b) s = .next (s.raise (trapR codeFence (1 * 256 + 6) x)) ∧
      exec (.patom op q k a b) s = .next (s.raise (trapR codeFence (2 * 256 + 6) x)))

/-- R371, R383, 11 R205: a read that no earlier operation holds back and that finds all its bytes in the package, in the cluster's write buffer or in the HBM cache under a lease, is served there: it is no request any longer, and nothing is sent. -/
def PoolReadServedHere : Prop :=
  ∀ (r : PoolReq) (s : State), s.pool.fenced = false → r.sends = 0 → r.kind = 0 → r.right ≠ 15 → s.ordered r = true →
    (s.localBytes r (s.grants r.object r.need.1 r.need.2) r.need.1 r.need.2).1.all Option.isSome = true →
    (s.trySend r).outbox = s.outbox ∧ ∀ x ∈ (s.trySend r).pool.reqs, x.id ≠ r.id

/-- PoolOps and PoolReadServedHere, together. -/
def Obligations.PoolAccesses : Prop := PoolOps ∧ PoolReadServedHere

/-- R250, R379, R380: a lease over a range that the capability covers, with the clock not lost and room in the tables, is entered as requested, or renewed in place, and its request is sent; lrel of a lease that the context holds or has requested (DEDUCED, log entry 82) ends it, leaving the others, so that no request still open grants it, and sends the release with its address, and has no effect where none is held. -/
def Obligations.LeaseResults : Prop :=
  ∀ (k : BitVec 4) (a b : Reg) (s : State) (y : Context), s.hereCtx = some y → s.pool.fenced = false →
    let c := s.k k.toNat
    let off := (s.g a).toNat
    let x := (c.base + off) % 2 ^ 48
    let gb := s.g b
    let count := bitsOf gb 63 48
    let width := bitsOf gb 23 16
    let known := y.leases.any (fun l => l.same c.object off gb)
    (count ≠ 0 → width ≠ 0 → CapOk c off (bitsOf gb 47 24 * (count - 1) + width) 4 → c.kind = 0 → s.clock.state ≠ 2 →
      known = true ∨ (y.leases.length < 64 ∧ ((s.ctxs.map (fun p => p.2.leases)).flatten).length < 4096) →
      ∃ (p : PoolReq) (f : List Lease → List Lease),
        exec (.lease k a b) s = .next ((s.modCtx s.hereCtxId (fun z => { z with leases := f z.leases })).addReq p).pumpPool ∧
        p.kind = 4 ∧ p.object = c.object ∧ p.addr = x ∧ p.arg0 = gb ∧
        (∃ l ∈ f y.leases, l.same c.object off gb = true ∧ 0 < l.asked) ∧
        (f y.leases).length = y.leases.length + (if known then 0 else 1)) ∧
    let others (ls : List Lease) : List Lease := ls.filter (fun l => !l.same c.object off gb)
    (known = true → ∃ (p : PoolReq) (f : List Lease → List Lease),
      exec (.lrel k a b) s = .next (((s.modCtx s.hereCtxId (fun z => { z with leases := f z.leases })).unwant s.hereCtxId c.object off gb).addReq p).pumpPool ∧
      p.kind = 5 ∧ p.object = c.object ∧ p.arg0 = gb ∧
      (∃ l ∈ y.leases, l.same c.object off gb = true ∧ p.addr = l.addr) ∧ f y.leases = others y.leases) ∧
    (known = false → exec (.lrel k a b) s = .next s)

/-- R242, R369, R370, R379, R225: values and answers that come: a due value lands in its slot; a response that answers a request sent retires it and is carried out; one that answers none is counted in its port's error counter; a request not answered for 20 µs is sent again, and after its eighth send counts as answered with status 1; a lease ends 1 µs before its expiry, and stays as a request where one is open; a promotion whose lines are all here makes its range resident, where a valid handle still names it. -/
def PoolEvents : Prop :=
  ∀ (rsp : PoolRsp) (n i j : Nat) (s : State), s.pool.fenced = false →
    (∀ r, s.matching rsp = some r → rsp.status.toNat ≤ 4 →
      exec (.poolResponse rsp) s = .next (s.answer r rsp 0) ∧
      (rsp.kind = 4 → rsp.status = 0 → exec (.leaseGrant rsp) s = .next (s.answer r rsp 0))) ∧
    (s.matching rsp = none →
      exec (.poolResponse rsp) s = .next { s with pool := { s.pool with
        errors := tset 0 s.pool.errors rsp.port (tget 0 s.pool.errors rsp.port + 1) } }) ∧
    (∀ r, s.pool.reqs.find? (fun r => r.id == n) = some r → r.sends ≠ 0 → r.lastSend + 20000 ≤ s.now →
      (r.sends < 8 → ∃ p, exec (.poolRetransmit n) s = .next p ∧
        p.outbox = s.outbox ++ [.pool { r with sends := r.sends + 1, lastSend := s.now }] ∧ p.pool.seq = s.pool.seq) ∧
      (8 ≤ r.sends → ∃ p : PoolRsp, p.status = 1 ∧ exec (.poolRetransmit n) s = .next (s.answer r p 5))) ∧
    (∀ x l, look s.ctxs i = some x → x.leases[j]? = some l → l.granted.isSome = true → l.expiry ≤ s.now + 1000 →
      ∃ t y, exec (.leaseExpiry i j) s = .next t ∧ look t.ctxs i = some y ∧
        (l.asked = 0 → y.leases = x.leases.eraseIdx j) ∧
        (l.asked ≠ 0 → y.leases[j]? = some { l with granted := none, expiry := 0 })) ∧
    (∀ r, s.pool.ranges[n]? = some r → r.promoting = true → r.waiting = false → r.left = 0 → r.pendingEvict = none →
      (s.handlesOf r).isEmpty = false →
      ∃ t, exec (.promotionComplete n) s = .next t ∧
        t.pool.ranges[n]? = some { r with promoting := false, resident := true, demoted := false, promotedAt := s.fresh }) ∧
    (∀ a, s.arrivals.find? (fun a => a.id == n) = some a → a.due ≤ s.cycle →
      ∃ t, exec (.streamSlotLand n) s = .next t ∧ (∀ x ∈ t.arrivals, x.id ≠ n) ∧
        (t.core a.cl a.core).e.stream a.q = ((s.core a.cl a.core).e.stream a.q).map (fun x =>
          if x.id = a.slot then { x with val := some a.value } else x))

/-- Nothing of the pool is left in a package in fenced state: no request, sent or not, no cached line, no lease, no write in a write buffer. -/
def PoolEmptied (t : State) : Prop :=
  t.pool.fenced = true ∧ t.pool.reqs = [] ∧ t.pool.lines = [] ∧ (∀ p ∈ t.ctxs, p.2.leases = []) ∧ (∀ p ∈ t.clusters, p.2.pwb = [])

/-- R378, R385: a response of status 1 puts the package into fenced state: no request, buffered pool write, cached line or lease is left, and of a pget only lines go on that the pool has served; entering is reported once. That requests not yet sent are discarded too is DEDUCED (log entry 52). -/
def FencedState : Prop :=
  ∀ s : State,
    (s.pool.fenced = true → s.enterFenced = s) ∧
    (s.pool.fenced = false →
      let t := s.enterFenced
      PoolEmptied t ∧ (∀ x : Xfer, x ∈ t.xfers → x.kind = .pget → x.lines ≠ [] ∧ ∀ l ∈ x.lines, l.isPool = false) ∧
      (∀ r : RangeRec, r ∈ t.pool.ranges → r.resident = false ∧ r.promoting = false) ∧
      t.outbox = s.outbox ++ [.report "fenced" s.pool.fence] ∧ t.mem = s.mem) ∧
    (∀ (r : PoolReq) (rsp : PoolRsp) (j : Nat), s.pool.fenced = false → rsp.status = 1 →
      (∃ u : State, u.pool.fenced = false ∧ s.answer r rsp j = u.enterFenced.pumpResidency) ∧ PoolEmptied (s.answer r rsp j)) ∧
    (∀ (r : PoolReq) (rsp : PoolRsp), s.pool.fenced = false → s.matching rsp = some r → rsp.status = 1 →
      ∃ t, exec (.poolResponse rsp) s = .next t ∧ PoolEmptied t)

/-- PoolEvents and FencedState, together. -/
def Obligations.PoolAnswers : Prop := PoolEvents ∧ FencedState

/-! ## Reversible instructions (17) -/

/-- A push of n bytes, whose result comes lat cycles later, passes its checks (R285, R290, R292, R295). -/
def PushOk (s : State) (n lat : Nat) : Prop :=
  s.cur.sec = false ∧ s.me.popped = false ∧ n ≤ s.e.rsTop ∧ s.me.pushed + n ≤ 0x20000 ∧
  s.e.rsBase - min (s.e.rsTop - n) s.e.prim.ckpt.rsTop ≤ 0x40000 ∧
  ∀ c ∈ s.here.portBusy, c < s.cycle + lat ∨ s.cycle + lat + (n + 511) / 512 ≤ c

/-- A pop finds the record that it expects on top, held whole in the hot region, with a free port and no pending write or error (R289, R290, R292, R293). -/
def PopOk (s : State) (h : Hdr) : Prop :=
  s.cur.sec = false ∧ s.e.rsTop < s.e.rsLimit - s.e.rsSpill ∧ s.topHdr = h ∧ s.e.rsTop + 16 + h.len ≤ s.e.rsBase ∧
  (∀ c ∈ s.here.portBusy, c < s.cycle ∨ s.cycle + (16 + h.len + 511) / 512 ≤ c) ∧
  (∀ r ∈ s.here.recBusy, r.1 ≠ s.e.rsTop ∨ r.2 < s.cycle) ∧
  ∀ l, s.e.rsTop / 64 ≤ l → 64 * l < s.e.rsTop + 16 + h.len → tget none s.here.hotMarks (l % 4096) = none

/-- The tag of an op word's record (R287). -/
def tagOfWord (s : State) (i : Instr) : BitVec 32 := s.e.mark ^^^ (encodeOp i &&& 0x7FFFFFFF)

/-- The results in flight once a stack op has written an eager register: what it wrote follows a csrw of RS.TOP, RS.SPILL or RS.LIMIT that is in flight, in slot order (05 R73, 27 R440); the others stay. -/
def afterStackCsrw (l : List Pend) (w : PWrite) : List Pend :=
  l.map (fun p => if p.writes.any (fun x => match x with | .csr n _ => n == 0x020 || n == 0x022 || n == 0x023 | _ => false)
    then { p with writes := p.writes ++ [w] } else p)

/-- The effect of a push: RS.TOP moves at issue, and one result writes the row and the record, header first, at the stack's new top in the hot ring (R283, R286). -/
def Pushed (s t : State) (lat : Nat) (ws : List PWrite) (h : Hdr) (pay : List Byte) : Prop :=
  h.len = pay.length ∧ t.e.rsTop = s.e.rsTop - (16 + pay.length) ∧
  ∃ q, t.here.pending = afterStackCsrw s.here.pending (.csr 0x020 (BitVec.ofNat 64 t.e.rsTop)) ++ [q] ∧ q.land = s.cycle + lat ∧
    q.writes = ws ++ [.hot (t.e.rsTop % 0x40000) (h.bytes ++ pay)]

/-- The effect of a pop: RS.TOP passes the record, and the row is written after lat cycles (R286, R289). -/
def Popped (s t : State) (h : Hdr) (lat : Nat) (w : PWrite) : Prop :=
  t.e.rsTop = s.e.rsTop + 16 + h.len ∧ ∃ q,
    t.here.pending = afterStackCsrw s.here.pending (.csr 0x020 (BitVec.ofNat 64 t.e.rsTop)) ++ [q] ∧ q.land = s.cycle + lat ∧ q.writes = [w]

/-- R298, R299, R301, R302, R305, R310: the arithmetic forward ops whose push passes its checks complete on readable rows: row D takes the rounded results, and a record of 288 bytes takes the slots and the escape mask, with the op's kind, format and tag. rvcvt narrows between formats that R302 allows. -/
def ReversibleForward : Prop :=
  ∀ (t : RTy) (tf ff : BitVec 4) (bf : Bool) (rm : Rm) (d a b : Reg) (s : State), RowOk s a → RowOk s b →
    let go (i : Instr) (op : RvOp) (kind fc rc lat : Nat) (b : Reg) : Prop := PushOk s 288 lat →
      let w := widthOf fc
      let el (e : Nat) : RvEl := rvElem op (fmtOf fc) (fmtOf rc) rm w (elem w (s.rowVal a.toNat) e) (elem w (s.rowVal b.toNat) e)
        (elem w (s.rowVal d.toNat) e)
      let es := (List.range (2048 / w)).map el
      ∃ u, exec i s = .next u ∧
        Pushed s u lat [s.rowOf (widthOf rc) d (es.map (fun x => x.r))]
          { len := 272, tag := tagOfWord s i, kind := kind, fmt := fc, count := (es.filter (fun x => x.esc)).length, rb := 0 }
          (bytesOf 256 (packRow w (es.map (fun x => x.slot))) ++ bytesOf 16 (packRow 1 (es.map (fun x => x.esc.toNat))))
    let c := match t with | .f32 => 1 | .f64 => 0 | .bf16 => 3 | .f16 => 2
    let lat := match t with | .f64 => 6 | _ => 4
    let k := if bf then 3 else 1
    go (.rvmul t rm d a b) .mul 1 c c lat b ∧ go (.rvfma t rm d a b) .fma 2 c c lat b ∧ go (.rvadd t rm d a b) .add 3 c c lat b ∧
    (narrows tf.toNat ff.toNat = true → go (.rvcvt tf ff rm d a) .cvt 4 ff.toNat tf.toNat 4 a) ∧
    go (.rvscale bf rm d a b) .scale 6 k k 4 b

/-- R289, R300 to R302, R305, R310: the undo ops that find their record complete on readable rows: the restored row takes, element by element, the slot's bits where the mask says that it escaped, else the operand that the undo of R300 gives; the other rows stay. -/
def ReversibleUndo : Prop :=
  ∀ (t : RTy) (tf ff : BitVec 4) (bf : Bool) (rm : Rm) (n : Nat) (d a b : Reg) (s : State), RowOk s d → RowOk s a → RowOk s b →
    let go (i fwd : Instr) (op : RvOp) (kind fc rc lat : Nat) (x b : Reg) : Prop :=
      let h : Hdr := { len := 272, tag := tagOfWord s fwd, kind := kind, fmt := fc, count := n, rb := s.topHdr.rb }
      PopOk s h →
      let w := widthOf fc
      let pay := (List.range 272).map (fun j => tget 0 s.here.hot ((s.e.rsTop + 16 + j) % 0x40000))
      let row := natOf (pay.take 256)
      let esc := natOf (pay.drop 256)
      let xs := (List.range (2048 / w)).map (fun e =>
        if esc.testBit e then elem w row e
        else undoElem op (fmtOf fc) (fmtOf rc) w (elem (widthOf rc) (s.rowVal d.toNat) e) (elem w (s.rowVal a.toNat) e)
          (elem w (s.rowVal b.toNat) e) (elem w row e))
      ∃ u, exec i s = .next u ∧ Popped s u h lat (s.rowOf w x xs)
    let c := match t with | .f32 => 1 | .f64 => 0 | .bf16 => 3 | .f16 => 2
    let l1 := match t with | .f32 => 10 | .f64 => 14 | _ => 8
    let l2 := match t with | .f64 => 8 | _ => 6
    let k := if bf then 3 else 1
    go (.urmul t rm d a b) (.rvmul t rm d a b) .mul 1 c c l1 a b ∧ go (.urfma t rm d a b) (.rvfma t rm d a b) .fma 2 c c l2 d b ∧
    go (.uradd t rm d a b) (.rvadd t rm d a b) .add 3 c c l2 a b ∧
    (narrows tf.toNat ff.toNat = true → go (.urcvt tf ff rm d a) (.rvcvt tf ff rm d a) .cvt 4 ff.toNat tf.toNat 6 a a) ∧
    go (.urscale bf rm d a b) (.rvscale bf rm d a b) .scale 6 k k 6 a b

/-- R300: an undo gives back the forward op's operand, bit for bit: for every element that did not escape, undoing the slot and the result with the operands that the op read gives the restored operand; one that escaped has the operand's own bits in its slot. The formats are those of R301, R302 and R305. -/
def Obligations.UndoRestoresOperand : Prop :=
  ∀ (op : RvOp) (rm : Rm) (fc rc a b d : Nat), fc < 4 →
    (if op = .cvt then narrows rc fc = true else rc = fc) →
    let w := widthOf fc
    a < 2 ^ w → b < 2 ^ w → d < 2 ^ w →
    let x := if op = .fma then d else a
    let el := rvElem op (fmtOf fc) (fmtOf rc) rm w a b d
    (el.esc = true → el.slot = x) ∧
    (el.esc = false → undoElem op (fmtOf fc) (fmtOf rc) w el.r a b el.slot = x)

/-- The elements of a row at a width. -/
def rowElems (s : State) (w : Nat) (r : Reg) : List Nat := (List.range (2048 / w)).map (fun e => elem w (s.rowVal r.toNat) e)

/-- R304, R306, R308, R309: rvrelu, rvdrop and pusht push what they drop or hold, urrelu, urdrop and popt put it back, rsmark writes RS.TOP to g[D] and sets the mark word, and rsck of the stack's own position and mark changes nothing. Pushes and pops that pass their checks; rows readable; for the tensor ops a well-formed entry and a view within its limits, of no more than 64 KiB. -/
def Obligations.StackResults : Prop :=
  ∀ (bf : Bool) (m : BitVec 3) (v : BitVec 4) (n : Nat) (d a b : Reg) (s : State), s.cur.sec = false →
    let w := if bf then 16 else 32
    let fc := if bf then 3 else 1
    let xs := rowElems s w a
    let neg (x : Nat) : Bool := decide (2 ^ (w - 1) ≤ x)
    let keep (e : Nat) : Bool := (s.m m.toNat).getLsbD (if bf then e / 2 else e)
    let negs := xs.filter neg
    let gone := ((List.range (2048 / w)).filter (fun e => !keep e)).map (fun e => elem w (s.rowVal a.toNat) e)
    let pad (k : Nat) : Nat := 16 * ((k * w + 127) / 128)
    let vw := s.e.view (2 + v.toNat)
    let t := tidOf (s.tid vw.tid.toNat)
    let rb := (vw.cols.toNat * widthOf t.format + 7) / 8
    let r16 := 16 * ((rb + 15) / 16)
    let rows := (List.range vw.rows.toNat).map (fun i => vw.base.toNat + 64 * vw.pitch.toNat * i)
    let th : Hdr := { len := vw.rows.toNat * r16, tag := (s.g b).truncate 32, kind := 8, fmt := t.format, count := vw.rows.toNat, rb := r16 }
    let pay (h : Hdr) : List Byte := (List.range h.len).map (fun j => tget 0 s.here.hot ((s.e.rsTop + 16 + j) % 0x40000))
    let dh : Hdr := { len := pad gone.length, tag := tagOfWord s (.rvdrop bf d a m), kind := 7, fmt := fc, count := gone.length, rb := s.topHdr.rb }
    let nh : Hdr := { len := 16 + pad n, tag := tagOfWord s (.rvrelu bf d a), kind := 5, fmt := fc, count := n, rb := s.topHdr.rb }
    (RowOk s a → PushOk s (32 + pad negs.length) 2 → ∃ u, exec (.rvrelu bf d a) s = .next u ∧
      Pushed s u 2 [s.rowOf w d (xs.map (fun x => if neg x then 0 else x))]
        { len := 16 + pad negs.length, tag := tagOfWord s (.rvrelu bf d a), kind := 5, fmt := fc, count := negs.length, rb := 0 }
        (bytesOf 16 (packRow 1 (xs.map (fun x => (neg x).toNat))) ++ bytesOf (pad negs.length) (packRow w negs))) ∧
    (m ≠ 0 → RowOk s a → PushOk s (16 + pad gone.length) 2 → ∃ u, exec (.rvdrop bf d a m) s = .next u ∧
      Pushed s u 2 [s.rowOf w d ((List.range (2048 / w)).map (fun e => if keep e then elem w (s.rowVal a.toNat) e else 0))]
        { len := pad gone.length, tag := tagOfWord s (.rvdrop bf d a m), kind := 7, fmt := fc, count := gone.length, rb := 0 }
        (bytesOf (pad gone.length) (packRow w gone))) ∧
    (RowOk s d → PopOk s nh → ∃ u, exec (.urrelu bf d a) s = .next u ∧ Popped s u nh 4 (s.rowOf w a
      (let mk := natOf ((pay nh).take 16)
       let vs := natOf ((pay nh).drop 16)
       (List.range (2048 / w)).map (fun e =>
        let j := ((List.range e).filter (fun i => mk.testBit i)).length
        if mk.testBit e then (if j < n then elem w vs j else 0) else elem w (s.rowVal d.toNat) e)))) ∧
    (m ≠ 0 → RowOk s d → PopOk s dh → ∃ u, exec (.urdrop bf d a m) s = .next u ∧ Popped s u dh 4 (s.rowOf w a
      (let vs := natOf (pay dh)
       (List.range (2048 / w)).map (fun e => if keep e then elem w (s.rowVal d.toNat) e
        else elem w vs ((List.range e).filter (fun i => !keep i)).length)))) ∧
    (t.bad = 0 → vw.fits t = true → th.len ≤ 0x10000 →
      ((∀ x ∈ rows, ∀ i, i < rb → tget false s.here.arenaBad (x + i) = false) → PushOk s (16 + th.len) 2 →
        ∃ u, exec (.pusht v b) s = .next u ∧ Pushed s u 2 [] th
          (rows.flatMap (fun x => readB s.here.arena x rb ++ List.replicate (r16 - rb) 0))) ∧
      (PopOk s { th with rb := r16 % 0x10000 } → ∃ u, exec (.popt v b) s = .next u ∧ Popped s u th (3 + (16 + th.len + 511) / 512)
        (s.arenaW ((List.range vw.rows.toNat).flatMap (fun i =>
          cells (vw.base.toNat + 64 * vw.pitch.toNat * i) (((pay th).drop (r16 * i)).take rb)))))) ∧
    (∃ u, exec (.rsmark d a) s = .next u ∧ u.e.mark = (s.g a).truncate 32 ∧ u.e.rsTop = s.e.rsTop ∧ u.e.g = s.e.g ∧
      u.here.pending = afterStackCsrw (s.wrG d (BitVec.ofNat 64 s.e.rsTop) 2).here.pending (.mark ((s.g a).truncate 32))) ∧
    (s.e.rsTop = (s.g a).toNat → s.e.mark = (s.g b).truncate 32 → exec (.rsck a b) s = .next s)

/-- R291, R293: the spill engine, where its turn has come, it has moved no line in this cycle (its engine cycle is the core's: log entry 4), its unit is the running context's and its class has budget, moves one line: a spill writes the 64 bytes below RS.BASE to LPDDR6 and lowers RS.BASE, a refill of an unmarked line reads 64 bytes back and raises it. Both go by the partition's spill key: what is read under that key is what was spilled (homeByte at spillLoc; log entry 31). -/
def Obligations.SpillEngine : Prop :=
  ∀ (c k ctx : Nat) (s : State) (t : State), (s.cl c).ctx = some ctx → s.spillTurn c k = true →
    s.charge (s.partOfCtx ctx) clsSpill 1 = some t → (s.cl c).spillAt ≠ s.cycle + 1 →
    let e := (s.core c k).e
    (s.spillNeed c k = 1 → s.ownsHot c k (e.rsBase - 64) = true → 64 ≤ e.rsBase →
      ∃ u, exec (.spillLine c k) s = .next u ∧ (u.core c k).e.rsBase = e.rsBase - 64 ∧
        ∀ i, i < 64 → u.homeByte (s.spillLoc c (e.rsSpill + (e.rsBase - 64) + i)) = tget 0 (s.core c k).hot ((e.rsBase - 64 + i) % 0x40000)) ∧
    (s.spillNeed c k = 2 → s.ownsHot c k e.rsBase = true → tget none s.mem.marks ((e.rsSpill + e.rsBase) / 64) = none →
      e.rsBase % 64 = 0 →
      ∃ u, exec (.refillLine c k) s = .next u ∧ (u.core c k).e.rsBase = e.rsBase + 64 ∧
        ∀ i, i < 64 → tget 0 (u.core c k).hot ((e.rsBase + i) % 0x40000) = s.homeByte (s.spillLoc c (e.rsSpill + e.rsBase + i)))

/-- ReversibleForward and ReversibleUndo, together. -/
def Obligations.ReversibleOps : Prop := ReversibleForward ∧ ReversibleUndo

/-! ## The matrix unit (19) -/

/-- A call passes the checks of R319 where unit, arguments, entries, formats, shapes, target and queue are as that rule asks. -/
def CallOk (s : State) (c : Call) : Prop :=
  let a := c.arg 0
  let b := c.arg 1
  let k := c.arg 2
  let w := c.word
  let ta := tidOf c.aTid
  let tb := tidOf c.bTid
  let tc := tidOf c.cTid
  let tt := tidOf c.tTid
  (s.here.wait = none ∨ (s.here.run = none ∧ s.here.call = none)) ∧ s.here.mloadUntil ≤ s.cycle ∧
  (a.kind = 0 ∨ a.kind = 2) ∧ b.kind = 0 ∧ k.kind = 1 ∧ a.bad = false ∧ b.bad = false ∧ k.bad = false ∧ w.reserved = false ∧
  ta.bad = 0 ∧ tb.bad = 0 ∧ tc.bad = 0 ∧ (w.drain = true → tt.bad = 0) ∧
  (∃ p kb, pairOf ta.format tb.format = some (p, tc.format, kb)) ∧
  k.col < c.cView.cols.toNat ∧ b.col + min 64 (c.cView.cols.toNat - k.col) ≤ c.bView.cols.toNat ∧
  (a.kind = 0 → c.aView.fits ta = true) ∧ c.bView.fits tb = true ∧ c.cView.fits tc = true ∧ w.rm < 6 ∧
  (w.drain = true → c.tView.fits tt = true ∧ c.cView.rows.toNat ≤ c.tView.rows.toNat ∧ c.cView.cols.toNat ≤ c.tView.cols.toNat ∧
    (tc.format = 0 ∧ tt.format ≤ 1 ∨ tc.format = 1 ∧ 1 ≤ tt.format ∧ tt.format ≤ 5 ∨ tc.format = 9 ∧ tt.format = 9) ∧
    (tget [] s.e.dq w.queue).length < 4)

/-- R318, R319, R322: an mcall whose call has started before (STARTED less its number is below 2^31) counts it and does nothing else; one that passes its checks, of native formats and with no emulation record of its bundle, counts and starts the call with the p registers, views and entries as at issue, in the running slot if the unit is empty and else in the waiting slot, and reserves an entry of its queue where it drains. -/
def Obligations.MatrixCalls : Prop :=
  ∀ (ent : BitVec 14) (s : State),
    let n := s.me.cn + 1
    let c := s.callOf ent
    let f (q : Quads) : Nat := (tidOf q).format
    let reserved : DqEntry := { desc := none, sec := s.cur.sec, cn := n, at_ := 0 }
    (s.me.started - n < 0x80000000 → exec (.mcall ent) s = .next (s.modMe (fun q => { q with cn := n }))) ∧
    (¬ s.me.started - n < 0x80000000 → s.emuCall = none → CallOk s c → (∀ x ∈ [f c.aTid, f c.bTid], x ≠ 11 ∧ x ≠ 12) →
      ∃ t, exec (.mcall ent) s = .next t ∧ t.me.cn = n ∧ t.me.started = n ∧ t.here.run = s.here.run ∧
        (c.sec = s.cur.sec ∧ c.cn = n ∧ c.pc = s.cur.pc ∧ c.ent = ent ∧ c.issued = s.cycle ∧ c.p = s.e.p) ∧
        (s.here.run = none ∧ s.here.call = none → t.here.call = some c ∧ t.here.wait = s.here.wait) ∧
        (s.here.run ≠ none ∨ s.here.call ≠ none → t.here.call = s.here.call ∧ t.here.wait = some c) ∧
        (∀ q, tget [] t.e.dq q = if c.word.drain = true ∧ q = c.word.queue then tget [] s.e.dq q ++ [reserved] else tget [] s.e.dq q) ∧
        t.e.g = s.e.g ∧ t.here.pending = s.here.pending ∧ t.mem = s.mem)

/-- R320, R325: a call that issued before this cycle starts on an idle unit, at its entry with x0 to x3 zero, K at kbase, and the accumulator view read with its side storage, for an emulated call as they were at its trap (07 R110). -/
def RoutineStarts : Prop :=
  ∀ (cl k : Nat) (c : Call) (s : State), (s.core cl k).run = none → (s.core cl k).call = some c → c.issued < s.cycle →
    ∃ t r, exec (.routineStart cl k) s = .next t ∧ (t.core cl k).run = some r ∧ (t.core cl k).call = none ∧
      r.call = c ∧ r.upc = c.ent.toNat ∧ (∀ n, tget 0 r.x n = 0) ∧ r.kctr = (tget 0 c.p 7).extractLsb' 0 32 ∧ r.loops = [] ∧
      ∀ i j, i < c.cView.rows.toNat → j < c.cView.cols.toNat →
        let n := widthOf (tidOf c.cTid).format / 8
        let a := c.cView.row i + n * j
        let y := c.coreOf (s.core cl k)
        tget {} r.acc (i * 65536 + j) =
          { enc := wordOf (readB y.arena a n), guard := (tget 0 y.side (a / 4)).extractLsb' 1 3, sticky := (tget 0 y.side (a / 4)).getLsbD 0 }

/-- R324, R322, R434: a routine that has run 2^22 cycles stops: the unit passes to the waiting call of the other sequencer or is idle, the call counts as never started, the accumulator and FLAGS keep their values, and its sequencer takes a format fault of reason 29 with the micro PC at its next issue. -/
def RoutineTimesOut : Prop :=
  ∀ (cl k : Nat) (r : Routine) (s : State), (s.core cl k).run = some r → 2 ^ 22 ≤ r.cycles → (s.cl cl).ctx.isSome = true →
    ∃ t, exec (.routineTimeout cl k) s = .next t ∧ (t.core cl k).run = none ∧
      (t.core cl k).arena = (s.core cl k).arena ∧ (t.core cl k).e.flags = (s.core cl k).e.flags ∧
      (t.sq cl k r.call.sec).started = r.call.cn - 1 ∧
      (t.sq cl k r.call.sec).pend = (s.sq cl k r.call.sec).pend ++
        [{ trapR codeFormat (r.upc * 256 + 29) r.call.pc.toNat with async := true }] ∧
      (t.core cl k).call = (match (s.core cl k).wait with | some w => if w.sec = r.call.sec then none else some w | none => none)

/-- The next micro-op in store order, where no loop ends at this one (R326). -/
def Inside (r : Routine) : Prop := r.upc < 0x3FFF ∧ ∀ l, r.loops.head? = some l → l.last ≠ r.upc

/-- The site's routine replaced by r. -/
def withRun (s : State) (r : Routine) : State := s.modHere (fun y => { y with run := some r })

/-- The site's routine at its next micro-op (R326). -/
def stepped (s : State) (r : Routine) : State := withRun s { r with upc := r.upc + 1, sub := 0 }

/-- The routine with index register n set. -/
def withX (r : Routine) (n : BitVec 2) (v : BitVec 16) : Routine := { r with x := tset 0 r.x n.toNat v }

/-- R325, R326: the micro-ops of one cycle on index registers and K, away from a loop's end, have the effect of the table and go on at the next address; UWAIT n holds for n cycles. -/
def MicroOpResults : Prop :=
  ∀ (x y h : BitVec 2) (p : BitVec 3) (imm : BitVec 16) (n : BitVec 12) (s : State) (r : Routine),
    s.here.run = some r → Inside r →
    let v (i : BitVec 2) : BitVec 16 := tget 0 r.x i.toNat
    exec .unop s = .next (stepped s r) ∧
    exec (.uxset x imm) s = .next (stepped s (withX r x imm)) ∧
    exec (.uxadd x imm) s = .next (stepped s (withX r x (v x + imm))) ∧
    exec (.uxldp x p h) s = .next (stepped s (withX r x ((tget 0 r.call.p p.toNat >>> (16 * h.toNat)).truncate 16))) ∧
    exec (.ukadd false x imm) s = .next (stepped s { r with kctr := r.kctr + imm.zeroExtend 32 }) ∧
    exec (.ukadd true x imm) s = .next (stepped s { r with kctr := r.kctr + (v x).zeroExtend 32 }) ∧
    exec (.uxmov x y) s = .next (stepped s (withX r x (v y))) ∧
    (r.sub < n.toNat → exec (.uwait n) s = .next (withRun s { r with sub := r.sub + 1 })) ∧
    (r.sub = n.toNat → exec (.uwait n) s = .next (stepped s r))

/-- R324, R326: ULOOP pushes a body from the next micro-op to its last with its count, passes it by where the count is 0, and stops with reason 28 as a third loop; the micro-op that ends the top body goes back to its first with the count lowered, and on once the count is used up; UBNZ branches on a nonzero register within the innermost body and stops with reason 28 outside it. -/
def MicroLoops : Prop :=
  ∀ (last tgt : BitVec 14) (count : BitVec 12) (x : BitVec 2) (s : State) (r : Routine), s.here.run = some r →
    let n := count.toNat
    let push (k : Nat) : State := withRun s { r with upc := r.upc + 1, sub := 0, loops := { first := r.upc + 1, last := last.toNat, count := k } :: r.loops }
    let past := withRun s { r with upc := last.toNat + 1, sub := 0 }
    let stop := s.stopRoutine s.cur.cl s.cur.core r 28
    (n ≠ 0 → r.loops.length < 2 → r.upc < 0x3FFF → exec (.uloop last false count) s = .next (push n)) ∧
    (n = 0 → last.toNat < 0x3FFF → exec (.uloop last false count) s = .next past) ∧
    (n ≠ 0 → 2 ≤ r.loops.length → exec (.uloop last false count) s = .next stop) ∧
    (n < 4 → r.loops.length < 2 → r.upc < 0x3FFF → tget 0 r.x n ≠ 0 →
      exec (.uloop last true count) s = .next (push (tget 0 r.x n).toNat)) ∧
    (∀ l rest, r.loops = l :: rest → l.last = r.upc → l.first ≤ 0x3FFF →
      (1 < l.count → exec .unop s = .next (withRun s { r with upc := l.first, sub := 0, loops := { l with count := l.count - 1 } :: rest })) ∧
      (l.count ≤ 1 → r.upc < 0x3FFF → exec .unop s = .next (withRun s { r with upc := r.upc + 1, sub := 0, loops := rest }))) ∧
    (tget 0 r.x x.toNat = 0 → Inside r → exec (.ubnz x tgt) s = .next (stepped s r)) ∧
    (tget 0 r.x x.toNat ≠ 0 → (∀ l, r.loops.head? = some l → l.first ≤ tgt.toNat ∧ tgt.toNat ≤ l.last) →
      exec (.ubnz x tgt) s = .next (withRun s { r with upc := tgt.toNat, sub := 0 })) ∧
    (∀ l, r.loops.head? = some l → tget 0 r.x x.toNat ≠ 0 → tgt.toNat < l.first ∨ l.last < tgt.toNat →
      exec (.ubnz x tgt) s = .next stop)

/-- A cycle of a micro-op that takes n cycles: it stays at its micro-op, counting the cycle, until its last, past which the next micro-op follows (R324, R325). -/
def Holds (r u : Routine) (n : Nat) : Prop :=
  (r.sub + 1 < n → u.upc = r.upc ∧ u.sub = r.sub + 1) ∧ (n ≤ r.sub + 1 → u.upc = r.upc + 1 ∧ u.sub = 0)

/-- R327, R325: UWLD within its argument loads, in its first cycle, kn rows of N weights from the B view, with zero beyond them, and keeps them for its other cycles, one for each 2,048 bytes of them; UMAC within its arguments adds to each element of its row kn terms in ascending k under the path of the call, leaving other elements; on the integer path an element gains the exact sum of products mod 2^32; with ADV its last cycle adds kn to the index register of k and to K, and no other index register changes; UZERO clears its rows in the columns of the call and no others, in one cycle for each 8 rows. Each past its last cycle goes on at the next micro-op. -/
def Obligations.MatrixArithmetic : Prop :=
  ∀ (xa xk xc : BitVec 2) (n : Reg) (kn : BitVec 8) (adv : Bool) (s : State) (r : Routine), s.here.run = some r → Inside r →
    let c := r.call
    let k := if kn = 0 then c.kb else kn.toNat
    let v (i : BitVec 2) : Nat := (tget 0 r.x i.toNat).toNat
    let rb := (c.arg 1).row + v xa
    let ra := (c.arg 0).row + v xa + r.sub
    let ca := (c.arg 0).col + v xk
    let rc := (c.arg 2).row + v xc + r.sub
    let c0 := (c.arg 2).col
    let inA : Prop := if c.aLatch = true then ra ≤ 63 ∧ (ca + k) * widthOf (tidOf c.aTid).format ≤ 2048
      else ra < c.aView.rows.toNat ∧ ca + k ≤ c.aView.cols.toNat
    let w (j i : Nat) : Nat × Nat := ((tget 0 r.w (64 * j + i)).toNat, (tget 127 r.wScale (64 * j + i)).toNat)
    let el (t : Tbl AccElem) (i j : Nat) : AccElem := tget {} t (i * 65536 + j)
    let wld := max 1 ((k * c.cols * widthOf (tidOf c.bTid).format + 16383) / 16384)
    (k ≤ c.kb → rb + k ≤ c.bView.rows.toNat → r.sub = 0 → ∃ t u, exec (.uwld xa kn) s = .next t ∧ t.here.run = some u ∧ u.loaded = k ∧
      u.acc = r.acc ∧ u.x = r.x ∧ u.kctr = r.kctr ∧ Holds r u wld ∧ (∀ j i, i < 64 → let b := s.bElem c (rb + j) ((c.arg 1).col + i)
        (tget 0 u.w (64 * j + i) = if j < k ∧ i < c.cols then BitVec.ofNat 64 b.1 else 0) ∧
        (tget 127 u.wScale (64 * j + i) = if j < k ∧ i < c.cols then BitVec.ofNat 8 b.2 else 127))) ∧
    (0 < r.sub → ∃ t u, exec (.uwld xa kn) s = .next t ∧ t.here.run = some u ∧ Holds r u wld ∧ u.loaded = r.loaded ∧
      u.w = r.w ∧ u.wScale = r.wScale ∧ u.acc = r.acc ∧ u.x = r.x ∧ u.kctr = r.kctr) ∧
    (k ≤ c.kb → k ≤ r.loaded → inA → rc < c.cView.rows.toNat → ∃ t u, exec (.umac xa xk xc n kn adv) s = .next t ∧ t.here.run = some u ∧
      (∀ i, i < c.cols → ∃ f f', (el u.acc rc (c0 + i), f') =
        addTerms c r.kctr.toNat (fun j => w j i) ((List.range k).map (fun j => (j, s.aElem c ra (ca + j)))) (el r.acc rc (c0 + i)) f) ∧
      (c.path = .int → ∀ i, i < c.cols →
        let val (q : Quads) (b : Nat) : Int := if (tidOf q).format = 7 then (BitVec.ofNat 8 b).toInt else b
        let old : Int := (el r.acc rc (c0 + i)).enc.toNat
        let sum : Int := old + ((List.range k).map (fun j => val c.aTid (s.aElem c ra (ca + j)).1 * val c.bTid (w j i).1)).sum
        ((el u.acc rc (c0 + i)).enc.toNat : Int) = if k = 0 then old else sum % (2 ^ 32 : Int)) ∧
      (∀ i j, i < 65536 → j < 65536 → i ≠ rc ∨ j < c0 ∨ c0 + c.cols ≤ j → el u.acc i j = el r.acc i j) ∧
      Holds r u (n.toNat + 1) ∧ u.loaded = r.loaded ∧ u.w = r.w ∧ u.wScale = r.wScale ∧
      (u.kctr = if adv = true ∧ n.toNat ≤ r.sub then r.kctr + BitVec.ofNat 32 k else r.kctr) ∧
      ∀ i, tget 0 u.x i = if adv = true ∧ n.toNat ≤ r.sub ∧ i = xk.toNat then tget 0 r.x xk.toNat + BitVec.ofNat 16 k else tget 0 r.x i) ∧
    (k ≤ c.kb → k ≤ r.loaded → rc < c.cView.rows.toNat → ¬ inA →
      exec (.umac xa xk xc n kn adv) s = .next (s.stopRoutine s.cur.cl s.cur.core r 26)) ∧
    (let r0 := (c.arg 2).row + v xc
     r0 + n.toNat + 1 ≤ c.cView.rows.toNat → ∃ t u, exec (.uzero xc n) s = .next t ∧ t.here.run = some u ∧
      Holds r u ((n.toNat + 8) / 8) ∧ u.x = r.x ∧ u.kctr = r.kctr ∧ u.loaded = r.loaded ∧ u.w = r.w ∧ u.wScale = r.wScale ∧
      ∀ i j, i < 65536 → j < 65536 →
        el u.acc i j = if r0 ≤ i ∧ i ≤ r0 + n.toNat ∧ c0 ≤ j ∧ j < c0 + c.cols then {} else el r.acc i j)

/-- R320, R323: UEND frees the unit for the waiting call and writes the finalised accumulator back; a routine that drains leaves one drain that lands at E + 4 + ⌈bytes / 2,048⌉ with its queue and call, any other ORs its flags into FLAGS. A drain that is due puts its bytes into the arena and its descriptor, with its flags, in place of the call's reservation. -/
def Obligations.RoutineEnds : Prop :=
  ∀ (cl k : Nat) (s : State) (r : Routine), s.here.run = some r →
    let c := r.call
    let els := finalAcc r
    let fl := els.foldl (fun f p => f ||| p.2.2.2) r.flags
    (∃ t, exec .uend s = .next t ∧ t.here.run = none ∧ t.here.call = s.here.wait ∧ t.here.wait = none ∧
      t.here.arena = (s.here.writeBack c els).arena ∧ t.here.side = (s.here.writeBack c els).side ∧
      (c.word.drain = false → t.here.drains = s.here.drains ∧ t.e.raised = s.e.raised ||| fl) ∧
      (c.word.drain = true → t.e.raised = s.e.raised ∧ ∃ d, t.here.drains = s.here.drains ++ [d] ∧
        d.land = s.cycle + 4 + (d.bytes.length + 2047) / 2048 ∧ d.queue = c.word.queue ∧ d.sec = c.sec ∧ d.cn = c.cn ∧
        d.bytes = (drainCells c els).1 ∧ d.flags = fl ||| (drainCells c els).2)) ∧
    (∀ d, (s.core cl k).drains = [d] → d.land ≤ s.cycle → ∃ t, exec (.drainPush cl k) s = .next t ∧ (t.core cl k).drains = [] ∧
      (t.core cl k).e.raised = (s.core cl k).e.raised ||| d.flags ∧
      (∀ a, a ∉ d.bytes.map (·.1) → tget 0 (t.core cl k).arena a = tget 0 (s.core cl k).arena a) ∧
      ((d.bytes.map (·.1)).Nodup → ∀ p ∈ d.bytes, tget 0 (t.core cl k).arena p.1 = p.2) ∧
      ∀ q, tget [] (t.core cl k).e.dq q = if q ≠ d.queue then tget [] (s.core cl k).e.dq q else
        (tget [] (s.core cl k).e.dq q).map (fun x =>
          if x.desc = none ∧ x.sec = d.sec ∧ x.cn = d.cn then { x with desc := some d.desc, at_ := s.cycle } else x))

/-- R329 to R331: the feeds of the matrix unit complete. mparm writes g[A] into p[D] at latency 1. On the primary, mfoff.set writes the low 32 bits of g[A] into o[D] at latency 1, and mfoff of 256 bytes in range and of good seal writes them into its latch row at latency 4 and steps the offset by the signed step, mod 2^22, at latency 1; on the secondary both raise reason 22. mgath of rows in range, aligned and of good seal, by a readable index row, reads row 0 at issue, for latch row 0 at issue + 4, and leaves row l to be read at issue + l. -/
def Obligations.MatrixFeeds : Prop :=
  ∀ (p o : BitVec 3) (n a b l : Reg) (s : State),
    let v := tget 0 s.e.o o.toNat
    let x := ((s.g a).toNat + v.toNat % 2 ^ 22) % 2 ^ 22
    let row (i : Nat) : Nat := bitsOf (s.g b) 21 0 + 64 * bitsOf (s.g b) 63 48 *
      natOf (readB s.here.arena (s.e.vBase.toNat + 256 * a.toNat + 4 * i) 4)
    let step : BitVec 32 := v.extractLsb' 22 10 ++ (v.extractLsb' 0 22 + (v.extractLsb' 22 10).signExtend 22)
    let bad := s.raise (trapR codeIllegal (s.cur.slot * 256 + 22) s.cur.pc.toNat)
    exec (.mparm p a) s = .next (s.pend 1 [.p p.toNat (s.g a)]) ∧
    (s.cur.sec = false → exec (.mfoffSet o a) s = .next (s.pend 1 [.o o.toNat ((s.g a).extractLsb' 0 32)])) ∧
    (s.cur.sec = false → ScratchOk x 256 1 → SealsOk s x 256 → exec (.mfoff o a l) s = .next
      (((s.readLines false [(x, 256)]).pend 4 [.latch l.toNat (s.scr x 256)]).pend 1 [.o o.toNat step])) ∧
    (s.cur.sec = true → exec (.mfoffSet o a) s = .next bad ∧ exec (.mfoff o a l) s = .next bad) ∧
    (RowOk s a → (∀ i, i ≤ n.toNat → ScratchOk (row i) 256 64 ∧ SealsOk s (row i) 256) →
      ∃ t, exec (.mgath n a b) s = .next t ∧
        (∃ z, t.here.pending = s.here.pending ++ [z] ∧ z.land = s.cycle + 4 ∧ z.writes = [.latch 0 (s.scr (row 0) 256)]) ∧
        (n = 0 → t.here.gathers = s.here.gathers) ∧
        (n ≠ 0 → ∃ g, t.here.gathers = s.here.gathers ++ [g] ∧
          g.rows = ((List.range (n.toNat + 1)).drop 1).map (fun i => (s.cycle + i, i, row i))))

/-- R333 to R335: a pop whose head was pushed in an earlier cycle completes, where no earlier op of the bundle under test takes the head: dqpop removes it and gives its descriptor at latency 2, and dqst of rows in range and aligned to 16 bytes, of a target view whose bytes are readable, removes it and lands the target's rows at issue + 4 + B. A pop of a queue whose head is reserved, or pushed in this cycle, stalls; one of an empty queue raises a queue fault of reason 32. -/
def Obligations.QueuePops : Prop :=
  ∀ (q : BitVec 2) (d b : Reg) (s : State), q.toNat ∉ s.cur.pops →
    let gone := s.modHereE (fun e => { e with dq := tset [] e.dq q.toNat (tget [] e.dq q.toNat).tail })
    (∀ e rest w, tget [] s.e.dq q.toNat = e :: rest → e.desc = some w → e.at_ < s.cycle →
      exec (.dqpop d q) s = .next (gone.wrG d w 2) ∧
      (let tv := s.e.view (2 + bitsOf w 55 52)
       let rb := (bitsOf w 47 32 * widthOf (bitsOf w 51 48) + 7) / 8
       let rows := (List.range (bitsOf w 31 16)).map (fun i =>
         (bitsOf (s.g b) 21 0 + 64 * bitsOf (s.g b) 63 48 * i, tv.base.toNat + 64 * tv.pitch.toNat * i))
       (∀ y ∈ rows, ScratchOk y.1 rb 16 ∧ ∀ i, i < rb → tget false s.here.arenaBad (y.2 + i) = false) →
       exec (.dqst q b) s = .next (gone.landAt (4 + s.cur.wbeats) (rows.flatMap (fun y => cells y.1 (readB s.here.arena y.2 rb)))))) ∧
    (∀ e rest, tget [] s.e.dq q.toNat = e :: rest → e.desc = none ∨ s.cycle ≤ e.at_ →
      s.opStalls (.dqpop d q) = true ∧ s.opStalls (.dqst q b) = true) ∧
    (tget [] s.e.dq q.toNat = [] → ∀ i, i = .dqpop d q ∨ i = .dqst q b →
      exec i s = .next (s.raise (trapR codeQueue (q.toNat * 256 + 32) s.cur.pc.toNat)))

/-- R337 to R339: macst and macld of a well-formed view within its limits move its rows and, in a side area after them, two nibbles of guard and sticky bits to a byte, macld noting the scratch bytes from which the lines of later beats are read in their own cycles (13 R213); mload in service mode, with the unit idle, of words without an uncorrectable error that decode and whose loops do not end before they begin, writes them to the store at issue + 4 + beats, until when mcall finds the unit busy. -/
def Obligations.SpillsAndStores : Prop :=
  ∀ (v : BitVec 2) (d a b : Reg) (s : State),
    let w := s.e.view (18 + v.toNat)
    let t := tidOf (s.tid w.tid.toNat)
    let rb := (w.cols.toNat * widthOf t.format + 7) / 8
    let base := bitsOf (s.g b) 21 0
    let p := bitsOf (s.g b) 63 48
    let rows := (List.range w.rows.toNat).map (fun i => (base + 64 * p * i, w.base.toNat + 64 * w.pitch.toNat * i))
    let n := w.rows.toNat * w.cols.toNat
    let sn := 64 * (((n + 1) / 2 + 63) / 64)
    let sa := base + 64 * p * w.rows.toNat
    let word (e : Nat) : Nat := (w.base.toNat + 64 * w.pitch.toNat * (e / w.cols.toNat) + e % w.cols.toNat * widthOf t.format / 8) / 4
    let nib (e : Nat) : Nat := if e < n then (tget 0 s.here.side (word e)).toNat else 0
    let side := (List.range sn).map (fun i => BitVec.ofNat 8 (nib (2 * i) + 16 * nib (2 * i + 1)))
    let x := (s.g a).toNat
    let k := (s.g b).toNat
    let ws := s.scrWords x k
    (t.bad = 0 → w.fits t = true → (∀ y ∈ rows, ScratchOk y.1 rb 64) → ScratchOk sa sn 64 →
      ((∀ y ∈ rows, ∀ i, i < rb → tget false s.here.arenaBad (y.2 + i) = false) → exec (.macst v b) s = .next
        (s.landAt (4 + s.cur.wbeats) (rows.flatMap (fun y => cells y.1 (readB s.here.arena y.2 rb)) ++ cells sa side))) ∧
      ((∀ y ∈ rows, SealsOk s y.1 rb) → SealsOk s sa sn → exec (.macld v b) s = .next
        ((s.readLines false (rows.map (fun y => (y.1, rb)) ++ [(sa, sn)])).pend (8 + s.cur.beats)
          [s.arenaW (rows.flatMap (fun y => cells y.2 (s.scr y.1 rb))),
           .side ((List.range n).map (fun e => (word e,
             ((tget 0 s.hereCl.scratch (sa + e / 2)) >>> (4 * (e % 2))).extractLsb' 0 4)))] 0
          (rows.map (fun y => .arena y.1 y.2 rb) ++ [.nibs sa ((List.range n).map word)])))) ∧
    (s.e.mode = true → s.here.run = none → s.here.call = none → s.here.wait = none →
      k ≠ 0 → k ≤ 16384 → (s.g d).toNat + k ≤ 16384 → ScratchOk x (4 * k) 4 → EccOk s x (4 * k) →
      (∀ i u, ws[i]? = some u → ∃ j, decodeMicro u = some j ∧ ∀ l f c, j = .uloop l f c → (s.g d).toNat + i < l.toNat) →
      ∃ u, exec (.mload d a b) s = .next u ∧ u.here.mloadUntil = s.cycle + 4 + s.cur.beats ∧
        ∃ q, u.here.pending = s.here.pending ++ [q] ∧ q.land = s.cycle + 4 + s.cur.beats ∧ q.writes = [.store (s.g d).toNat ws]) ∧
    (s.e.mode = false → exec (.mload d a b) s = .next (s.raise (trapR codeIllegal (s.cur.slot * 256 + 23) s.cur.pc.toNat)))

/-- RoutineStarts and RoutineTimesOut, together. -/
def Obligations.RoutineStartsAndTimeouts : Prop := RoutineStarts ∧ RoutineTimesOut

/-- MicroOpResults and MicroLoops, together. -/
def Obligations.MicroOps : Prop := MicroOpResults ∧ MicroLoops

/-! ## Control registers and system ops (05 R78, 27 R438 to R451) -/

/-- The readings of the control registers (R78). -/
def csrTable (s : State) : List (Nat × Word) :=
  let e := s.e
  [(0x001, e.flags), (0x002, e.fpen), (0x010, e.trapCause), (0x011, e.trapPc), (0x012, e.trapInfo), (0x013, e.trapAddr),
   (0x020, BitVec.ofNat 64 e.rsTop), (0x021, BitVec.ofNat 64 e.rsBase), (0x022, BitVec.ofNat 64 e.rsSpill),
   (0x023, BitVec.ofNat 64 e.rsLimit), (0x030, BitVec.ofNat 64 s.now), (0x031, s.clock.state.zeroExtend 64),
   (0x040, BitVec.ofNat 64 s.hereCtxId), (0x041, s.place), (0x050, s.pool.fence),
   (0x060, s.hereCl.e.stage1 ++ s.hereCl.e.stage0), (0x070, if e.mode then 1 else 0),
   (0x080, match s.hereCtx with | none => 0 | some x => x.tidBase.zeroExtend 64)] ++
  (List.range 6).map (fun i => (8 + i, match s.me.loops[i]? with | none => 0 | some l => l.index.zeroExtend 64))

/-- Numbers that task mode may not read, and those that service mode may not write (R78). -/
def csrHidden : List Nat := [0x011, 0x022, 0x023, 0x070, 0x080]
def csrConst : List Nat := [0x030, 0x050, 0x041, 0x040, 0x008, 0x009, 0x00A, 0x00B, 0x00C, 0x00D]

/-- R78, R440, R45, R458: csrr of a register that the mode may read gives its value at issue at latency 2; of a number not in the table it raises reason 22, and in task mode of a register of no access reason 23. PLACE holds partition, logical cluster, sequencer and core. -/
def ControlRegisterReads : Prop :=
  ∀ (d : Reg) (n : BitVec 12) (s : State),
    let bad (r : Nat) : State := s.raise (trapR codeIllegal (s.cur.slot * 256 + r) s.cur.pc.toNat)
    (∀ v, (n.toNat, v) ∈ csrTable s → s.e.mode = true ∨ n.toNat ∉ csrHidden → exec (.csrr d n) s = .next (s.wrG d v 2)) ∧
    ((∀ p ∈ csrTable s, p.1 ≠ n.toNat) → exec (.csrr d n) s = .next (bad 22)) ∧
    (n.toNat ∈ csrHidden → s.e.mode = false → exec (.csrr d n) s = .next (bad 23)) ∧
    (s.cur.core < 8 → ∀ x, s.hereCtx = some x → x.part < 8 → s.place =
      (0 : BitVec 29) ++ BitVec.ofNat 3 x.part ++ BitVec.ofNat 16 (s.cur.cl % 256) ++ (0 : BitVec 12) ++ BitVec.ofBool s.cur.sec ++
        BitVec.ofNat 3 s.cur.core)

/-- R78, R440, 17 R283, R284: csrw of a register that the mode may write, with a value that keeps R283 for RS registers, writes it for ops from the next cycle on; a fixed register raises reason 22 in service mode, and in task mode every register but FLAGS and FPEN raises 23. csrwFlags, csrwMode, csrwStage and csrwRsSpill are csrw of their numbers. -/
def ControlRegisterWrites : Prop :=
  ∀ (d : Reg) (n : BitVec 12) (l : Bool) (s : State),
    let v := s.g d
    let e := s.e
    let bad (r : Nat) : State := s.raise (trapR codeIllegal (s.cur.slot * 256 + r) s.cur.pc.toNat)
    let region (sp li : Nat) : Prop := sp = 0 ∧ li = 0 ∨ sp % 0x10000 = 0 ∧ li % 0x10000 = 0 ∧ sp + 0x10000 ≤ li ∧ li - sp ≤ 2 ^ 34 ∧
      0x8000000000 ≤ sp ∧ li ≤ 0xFFFFFFFFFF
    let stack (top base : Nat) : Prop := top % 16 = 0 ∧ base % 16 = 0 ∧ top ≤ base ∧ base ≤ e.rsLimit - e.rsSpill
    let keeps (k : Nat) : Prop := (k = 0x020 → stack v.toNat e.rsBase) ∧ (k = 0x021 → stack e.rsTop v.toNat) ∧
      (k = 0x022 → region v.toNat e.rsLimit) ∧ (k = 0x023 → region e.rsSpill v.toNat)
    let wr (i : Instr) (k : Nat) : Prop :=
      (k ∈ (csrTable s).map (·.1) → k ∉ csrConst → (s.e.mode = true ∨ k = 0x001 ∨ k = 0x002) → keeps k →
        exec i s = .next (s.pend 1 [.csr k v])) ∧
      (k ∈ csrConst → s.e.mode = true → exec i s = .next (bad 22)) ∧
      (k ∈ (csrTable s).map (·.1) → k ≠ 0x001 → k ≠ 0x002 → s.e.mode = false → exec i s = .next (bad 23)) ∧
      (k ∉ (csrTable s).map (·.1) → exec i s = .next (bad 22)) ∧
      (k ∈ (csrTable s).map (·.1) → k ∉ csrConst → s.e.mode = true → ¬ keeps k → exec i s = .next (bad 22))
    wr (.csrw d n) n.toNat ∧ wr (.csrwFlags d) 0x001 ∧ wr (.csrwMode d) 0x070 ∧ wr (.csrwStage d) 0x060 ∧
    wr (.csrwRsSpill l d) (if l then 0x023 else 0x022)

/-- R440, R78, 17 R284, log entries 1, 17 and 34: what a landing write of a control register leaves: the named register takes the value, reserved bits of FLAGS, FPEN and TRAP.CAUSE 0; MODE sets TRAP.CAUSE bit 10 alone; STAGE sets both counters; RS.SPILL and RS.LIMIT empty the stack and clear the mark; TID.BASE takes the low 52 bits of the value, aligned or not (log entry 34), and GANG.STATE the states that it reads; no other register, and no memory, changes. -/
def ControlRegisterLandings : Prop :=
  ∀ (c k : Nat) (v : Word) (s : State),
    let e := (s.core c k).e
    let sets (n : Nat) (e' : CoreE) : Prop := s.csrLand c k n v = s.modE c k (fun _ => e')
    sets 0x001 { e with flags := v &&& 0x3F } ∧ sets 0x002 { e with fpen := v &&& 0x1F } ∧
    sets 0x010 { e with trapCause := v &&& 0x7FF } ∧ sets 0x011 { e with trapPc := v } ∧ sets 0x012 { e with trapInfo := v } ∧
    sets 0x013 { e with trapAddr := v } ∧ sets 0x020 { e with rsTop := v.toNat } ∧ sets 0x021 { e with rsBase := v.toNat } ∧
    sets 0x022 { e with rsSpill := v.toNat, rsTop := e.rsLimit - v.toNat, rsBase := e.rsLimit - v.toNat, mark := 0 } ∧
    sets 0x023 { e with rsLimit := v.toNat, rsTop := v.toNat - e.rsSpill, rsBase := v.toNat - e.rsSpill, mark := 0 } ∧
    (∃ t : Word, sets 0x070 { e with trapCause := t } ∧ t.getLsbD 10 = v.getLsbD 0 ∧
      ∀ i, i ≠ 10 → t.getLsbD i = e.trapCause.getLsbD i) ∧
    (let t := s.csrLand c k 0x060 v
     (t.cl c).e.stage0 = v.extractLsb' 0 32 ∧ (t.cl c).e.stage1 = v.extractLsb' 32 32 ∧ t.core c k = s.core c k ∧ t.mem = s.mem) ∧
    (∀ x i, (s.cl c).ctx = some i → look s.ctxs i = some x →
      let t := s.csrLand c k 0x080 v
      look t.ctxs i = some { x with tidBase := v.extractLsb' 0 52 } ∧ (∀ j, j ≠ i → look t.ctxs j = look s.ctxs j) ∧ t = { s with ctxs := t.ctxs }) ∧
    (v.toNat < 3 → let t := s.csrLand c k 0x031 v
      t.clock.state.toNat = v.toNat ∧ t = { s with clock := { s.clock with state := t.clock.state } }) ∧
    (3 ≤ v.toNat → s.csrLand c k 0x031 v = s)

/-- R438, R55, R56, R81: eret in service mode with an aligned TRAP.PC sets MODE from TRAP.CAUSE bit 10 and brings both sequencers to their saved checkpoints, the trapping one at TRAP.PC, each running if it ran before, or, DEDUCED (log entry 57), if pre-emption had stopped it and no request stands; TRAP registers stay. -/
def TrapReturn : Prop :=
  ∀ s : State, s.e.mode = true → s.e.trapPc.toNat % 4 = 0 →
    ∃ t, exec .eret s = .next t ∧ t.e.mode = s.e.trapCause.getLsbD 10 ∧
      (∀ z, (t.e.sq z).running = ((s.e.sq z).savedRunning || ((s.e.sq z).savedPaused && !s.preemptPending s.cur.cl)) ∧
        ((s.e.sq z).savedRunning = true → (t.e.sq z).loops = (s.e.sq z).saved.loops ∧ (t.e.sq z).cn = (s.e.sq z).saved.cn ∧
          (t.e.sq z).pc = if z = s.e.trapSec then s.e.trapPc.extractLsb' 0 52 else (s.e.sq z).saved.pc)) ∧
      (s.e.prim.savedRunning = true → t.e.rsTop = s.e.prim.saved.rsTop ∧ t.e.mark = s.e.prim.saved.mark ∧ t.e.o = s.e.prim.saved.o) ∧
      t.e.trapCause = s.e.trapCause ∧ t.e.trapPc = s.e.trapPc ∧ t.e.trapInfo = s.e.trapInfo ∧ t.e.trapAddr = s.e.trapAddr ∧
      t.e.g = s.e.g ∧ t.mem = s.mem

/-- R439: a privileged op issued in task mode raises an illegal-instruction trap with reason 23. -/
def PrivilegedInTaskMode : Prop :=
  ∀ (d a b : Reg) (x y : Space) (i : Instr) (s : State), s.e.mode = false →
    i = .eret ∨ i = .halt ∨ i = .tlbinv d a b ∨ i = .copyx x y d a b ∨ i = .mload d a b ∨ i = .fgrp d a →
    exec i s = .next (s.raise (trapR codeIllegal (s.cur.slot * 256 + 23) s.cur.pc.toNat))

/-- R441 to R443, R258: halt in service mode stops both sequencers with their checkpoints kept; vwset of operands that keep their zero fields writes the view at latency 1 where it differs, an accumulator view also clearing the side storage of its old and new ranges; tidset reads three quads and writes them as an entry, quad 3 zero, at latency 2. -/
def HaltsViewsIdentifiers : Prop :=
  ∀ (w a b : Reg) (s : State),
    let n := w.toNat
    let x := (s.g b).toNat
    let geo : View := { base := (s.g a).extractLsb' 0 18, rows := (s.g b).extractLsb' 48 16, cols := (s.g b).extractLsb' 32 16,
                        pitch := (s.g b).extractLsb' 16 16, tid := (s.g b).extractLsb' 0 8 }
    let v : View := if n < 2 then { base := geo.base, rows := 64, cols := 64, pitch := 4, tid := 0 } else geo
    (s.e.mode = true → ∃ t, exec .halt s = .next t ∧ t.here.halted = true ∧
      (∀ z, (t.e.sq z).running = false ∧ (t.e.sq z).ckpt = (s.e.sq z).ckpt ∧ (t.e.sq z).pc = (s.e.sq z).pc) ∧ t.e.g = s.e.g ∧ t.mem = s.mem) ∧
    (n < 22 → (s.g a).toNat < 2 ^ 18 → (s.g b).extractLsb' 8 8 = (0 : BitVec 8) →
      (n < 2 → s.g b = 0 ∧ (s.g a).toNat % 256 = 0 ∧ (s.g a).toNat ≤ 0x3C000) →
      (s.e.view n = v → exec (.vwset w a b) s = .next s) ∧
      (s.e.view n ≠ v → n < 18 → exec (.vwset w a b) s = .next (s.pend 1 [.view n v])) ∧
      (s.e.view n ≠ v → 18 ≤ n → ∃ ws, exec (.vwset w a b) s = .next (s.pend 1 [.view n v, .side ws]) ∧ (∀ p ∈ ws, p.2 = 0) ∧
        ∀ u, u = s.e.view n ∨ u = v → ∀ i j, i < u.rows.toNat → 
          j < (u.cols.toNat * widthOf (tidOf (s.tid u.tid.toNat)).format + 7) / 8 → u.row i + j < 0x40000 →
          (u.row i + j) / 4 ∈ ws.map (·.1))) ∧
    (22 ≤ n → exec (.vwset w a b) s = .next (s.raise (trapR codeIllegal (s.cur.slot * 256 + 22) s.cur.pc.toNat))) ∧
    (ScratchOk x 24 32 → (s.g a).toNat < 256 → EccOk s x 24 →
      exec (.tidset a b) s = .next ((s.readLines false [(x, 24)]).pend 2 [.tid (s.g a).toNat
        { q0 := BitVec.ofNat 64 (natOf (s.scr x 8)), q1 := BitVec.ofNat 64 (natOf (s.scr (x + 8) 8)),
          q2 := BitVec.ofNat 64 (natOf (s.scr (x + 16) 8)), q3 := 0 }])) ∧
    (256 ≤ (s.g a).toNat →
      exec (.tidset a b) s = .next (s.raise (trapR codeFormat 25 s.cur.pc.toNat)))

/-- R451: tlbinv in service mode, of a control word with its reserved field zero and an aligned address, gives Ti, the least whole µs at 10 µs from now or later, and asks for the shootdown; at Ti the translations that it names, and no others, are dropped. -/
def Shootdowns : Prop :=
  ∀ (d a b : Reg) (s : State),
    let w := s.g b
    let ti := (s.now + 10000 + 999) / 1000 * 1000
    let x : Shootdown := { part := s.partOfCtx s.hereCtxId, ti := ti, ctx := bitsOf w 63 52, all := w.getLsbD 51, whole := w.getLsbD 50,
                           va := (s.g a).toNat, n := bitsOf w 31 0 }
    let names (d : Shootdown) (e : TlbEntry) : Prop := e.part = d.part ∧ (d.all = true ∨ e.ctx = d.ctx) ∧
      (d.whole = true ∨ ∃ i, i < d.n ∧ e.page < d.va + 4096 * (i + 1) ∧ d.va + 4096 * i < e.page + e.size)
    (s.e.mode = true → bitsOf w 49 32 = 0 → w.getLsbD 50 = true ∨ (s.g a).toNat % 4096 = 0 →
      exec (.tlbinv d a b) s = .next { (s.wrG d (BitVec.ofNat 64 ti) 2) with shootdowns := s.shootdowns ++ [x] }) ∧
    ((∀ e ∈ s.mem.tlb, 0 < e.size) →
      ∃ t, exec .shootdownInstant s = .next t ∧ t.shootdowns = s.shootdowns.filter (fun d => decide (s.now < d.ti)) ∧
        ∀ e, e ∈ t.mem.tlb ↔ e ∈ s.mem.tlb ∧ ∀ d ∈ s.shootdowns, d.ti ≤ s.now → ¬ names d e)

/-- One 64-byte end of copyx at an address of a space (R444). -/
def spaceAt (sp : Space) (own remote core a : Nat) : End :=
  match sp with
  | .global => .glob a
  | .own => .scratch own a
  | .remote => .scratch remote a
  | .acc => .arena own core a
  | .host => .host a

/-- R444: copyx in service mode, of a control word with its reserved bits zero and, for space 2, a cluster of the partition, a length in multiples of 64, aligned addresses, and ranges within scratch and arena with their side area, starts a transfer whose lines move the bytes 64 at a time in ascending order, an arena side first waiting for its core; without notify no stream slot is reserved. -/
def CopiesBetweenSpaces : Prop :=
  ∀ (dst src : Space) (d a b : Reg) (s : State),
    let w := s.g b
    let n := bitsOf w 31 0
    let lc := bitsOf w 47 32
    let k := bitsOf w 50 48
    let q := bitsOf w 54 52
    let x := (s.g d).toNat
    let y := (s.g a).toNat
    let part := s.partOfCtx s.hereCtxId
    let area := if dst = .acc ↔ src = .acc then 0 else 64 * ((n / 8 + 63) / 64)
    let fit (sp : Space) (p : Nat) : Prop := match sp with
      | .own => p + n + area ≤ 0x400000
      | .remote => p + n + area ≤ 0x400000
      | .acc => p + n ≤ 0x40000
      | _ => True
    let at_ (sp : Space) (p : Nat) : End := spaceAt sp s.cur.cl (256 * part + lc) k p
    s.e.mode = true → bitsOf w 63 55 = 0 → (dst = .remote ∨ src = .remote → lc < s.clustersOf part) →
    n % 64 = 0 → 64 ≤ n → n ≤ 0x1000000 → x % 64 = 0 → y % 64 = 0 → fit dst x → fit src y →
    (w.getLsbD 51 = true → s.e.bound q = true → (s.e.stream q).length < 32) →
    ∃ (z : Xfer) (u : State), exec (.copyx dst src d a b) s = .next u ∧ u.xfers = s.xfers ++ [z] ∧
      z.kind = .copyx ∧ z.total = n ∧ z.lines.length = (n + area) / 64 ∧
      (z.lines.take (n / 64)).map (fun l => (l.dst, l.segs)) =
        (List.range (n / 64)).map (fun i => (at_ dst (x + 64 * i), [Seg.src (at_ src (y + 64 * i)) 64])) ∧
      z.waitCore = (if dst = .acc ∨ src = .acc then some (s.cur.cl, k) else none) ∧
      (w.getLsbD 51 = false → z.notify = none ∧ u.clusters = s.clusters) ∧
      (w.getLsbD 51 = true → s.e.bound q = true → z.notify = some (q, s.fresh, BitVec.ofNat 64 n)) ∧ u.mem = s.mem

/-- ControlRegisterReads, ControlRegisterWrites and ControlRegisterLandings, together. -/
def Obligations.ControlRegisters : Prop := ControlRegisterReads ∧ ControlRegisterWrites ∧ ControlRegisterLandings

/-- TrapReturn, PrivilegedInTaskMode and HaltsViewsIdentifiers, together. -/
def Obligations.PrivilegedOps : Prop := TrapReturn ∧ PrivilegedInTaskMode ∧ HaltsViewsIdentifiers

/-- Shootdowns and CopiesBetweenSpaces, together. -/
def Obligations.ShootdownsAndCopies : Prop := Shootdowns ∧ CopiesBetweenSpaces

/-! ## The peer fabric (25) -/

/-- What a fabric op leaves in egress (R405, R412): one op of its kind, and a packet for each piece, none sent. -/
def Entered (s t : State) (f : FabOp) (ps : List Packet) : Prop :=
  t.fabric.ops = s.fabric.ops ++ [f] ∧ f.ctx = s.hereCtxId ∧ f.cl = s.cur.cl ∧ f.core = s.cur.core ∧ f.sec = s.cur.sec ∧ f.left = ps.length ∧
  ∃ os, t.fabric.out = s.fabric.out ++ os ∧ os.map (fun o => o.pkt) = ps ∧ (∀ o ∈ os, o.op = f.id ∧ o.sends = 0 ∧ o.waiting = false) ∧
    t.mem = s.mem ∧ t.outbox = s.outbox

/-- The source of fwr and fmc passes R407: within scratch, aligned, of 16 to 4096 bytes in multiples of 16, with no marked line. -/
def SourceOk (s : State) (w : Word) : Prop :=
  let src := bitsOf w 21 0
  let n := bitsOf w 63 48
  ScratchOk src n 16 ∧ n % 16 = 0 ∧ 16 ≤ n ∧ n ≤ 4096 ∧ SealsOk s src n

/-- R402, R405, R407 to R410: fwr, fatom, freq and fmc that pass their checks enter egress: fwr in pieces of at most 256 bytes at rising offsets of the export, fatom with its operation and operands, freq with its 64-byte record, fmc with every piece for every member of its group; fatom and freq reserve a slot of their stream. -/
def FabricOps : Prop :=
  ∀ (ntf : Bool) (op : BitVec 3) (q : BitVec 2) (k : BitVec 4) (a b : Reg) (s : State),
    let c := s.k k.toNat
    let off := (s.g a).toNat
    let w := s.g b
    let src := bitsOf w 21 0
    let n := bitsOf w 63 48
    let peer := (c.object.extractLsb' 26 10).toNat
    let exp := c.object.extractLsb' 0 16
    let piece (kind : BitVec 4) (m : Nat) (e : BitVec 16) (i : Nat) : Packet :=
      s.mkPkt kind m s.hereCtxId e (c.base + off + 256 * i) 0 (s.scr (src + 256 * i) (min 256 (n - 256 * i)))
    let count := (n + 255) / 256
    let room : Prop := s.e.bound q.toNat = true → (s.e.stream q.toNat).length < 32
    let slot := if s.e.bound q.toNat then some (q.toNat, s.fresh) else none
    (SourceOk s w → CapOk c off n 7 → c.kind = 1 → off % 16 = 0 → ∃ t f, exec (.fwr ntf k a b) s = .next t ∧
      f.kind = 0 ∧ f.off = off ∧ f.ntf = ntf ∧ f.slot = none ∧ Entered s t f ((List.range count).map (piece 0 peer exp))) ∧
    (CapOk c off 8 7 → c.kind = 1 → off % 8 = 0 → room → ∃ t f, exec (.fatom op q k a b) s = .next t ∧ f.kind = 1 ∧ f.slot = slot ∧
      Entered s t f [s.mkPkt 1 peer s.hereCtxId exp (c.base + off) (op.zeroExtend 64)
        (bytesOf 8 w.toNat ++ bytesOf 8 (if op = 5 then (s.g (b + 1)).toNat else 0))]) ∧
    (ScratchOk src 64 64 → SealsOk s src 64 → CapOk c 0 64 7 → c.kind = 1 → room → ∃ t f, exec (.freq q k b) s = .next t ∧
      f.kind = 2 ∧ f.slot = slot ∧ Entered s t f [s.mkPkt 2 peer s.hereCtxId exp c.base 0 (s.scr src 64)]) ∧
    (∀ e, s.groupEntry (c.object.extractLsb' 0 12).toNat = some e → e.q0.getLsbD 63 = true → bitsOf e.q0 55 44 = s.hereCtxId →
      SourceOk s w → CapOk c off n 6 → c.kind = 2 → off % 16 = 0 → ScratchOk (bitsOf (s.g (b + 1)) 21 0) 64 64 →
      ∃ t f, exec (.fmc ntf k a b) s = .next t ∧ f.kind = 3 ∧ f.statusAt = bitsOf (s.g (b + 1)) 21 0 ∧ f.members = e.members ∧
        Entered s t f ((List.range count).flatMap (fun i => e.members.map (fun m =>
          { piece 3 m (e.q0.extractLsb' 0 16) i with group := c.object.extractLsb' 0 12 }))))

/-- R412, R393, R394, R413: the fstat forms give, at latency 2, the packets of this sequencer sent and not acknowledged, its ops completed, its last status, and what is known of a peer; fgrp in service mode enters a group of its partition from 160 bytes of scratch, for the context of its first quad, with the members of its bit map. -/
def FabricStatusAndGroups : Prop :=
  ∀ (d a b : Reg) (s : State),
    let mine (o : OutPkt) : Bool := match s.fabOp o.op with
      | none => false
      | some f => f.ctx == s.hereCtxId && f.cl == s.cur.cl && f.core == s.cur.core && f.sec == s.cur.sec
    let p := bitsOf (s.g a) 9 0
    let src := (s.g b).toNat
    let q0 : Word := BitVec.ofNat 64 (natOf (s.scr src 8))
    exec (.fstatDone d) s = .next (s.wrG d s.me.fabDone 2) ∧ exec (.fstatErr d) s = .next (s.wrG d s.me.fabErr 2) ∧
    exec (.fstatOut d) s = .next (s.wrG d (BitVec.ofNat 64 (s.fabric.out.filter (fun o => decide (0 < o.sends) && mine o)).length) 2) ∧
    (p < 993 → ∃ v : Word, exec (.fstatPeer d a) s = .next (s.wrG d v 2) ∧ v.getLsbD 0 = adjacent s.fabric.self p ∧
      bitsOf v 63 8 = (if s.fabric.self = p then 0 else if adjacent s.fabric.self p then 1 else 2)) ∧
    (993 ≤ p → exec (.fstatPeer d a) s = .next (s.raise (trapR codeIllegal (s.cur.slot * 256 + 22) s.cur.pc.toNat))) ∧
    (∀ x, look s.parts (s.partOfCtx s.hereCtxId) = some x → s.e.mode = true → (s.g a).toNat < 4096 → ScratchOk src 160 64 → SealsOk s src 160 →
      bitsOf q0 61 56 = 0 → bitsOf q0 43 16 = 0 → (∀ i, 8 ≤ i → i < 32 → tget 0 s.hereCl.scratch (src + i) = 0) →
      natOf (s.scr (src + 32) 128) < 2 ^ 993 →
      ∃ t y e, exec (.fgrp a b) s = .next t ∧ look t.parts (s.partOfCtx s.hereCtxId) = some y ∧ look y.groups (s.g a).toNat = some e ∧
        e.q0 = q0 ∧ (∀ m, m < 993 → (m ∈ e.members ↔ (natOf (s.scr (src + 32) 128)).testBit m = true)) ∧ e.members.Pairwise (· < ·))

/-- R396, R399, R400, R426: a sequenced packet that reaches its package: one of a bad header or with a reserved field set is counted at its port and discarded; in the window of the context that owns its export entry, one committed before is acknowledged again as it was; one more than 4,096 ahead is dropped; an early one is held without an acknowledgement; the next one, with none held and none of the stream for another owner, is committed, and its window goes on. That a number of the stream that went to another owner is passed is the model's reading (log entry 27): the clauses are about windows where the expected number is none such. -/
def FabricArrivals : Prop :=
  ∀ (p : Packet) (i : Instr) (s : State),
    i = .fabricWriteArrival p ∧ p.kind = 0 ∨ i = .fabricAtomicArrival p ∧ p.kind = 1 ∨ i = .fabricRequestArrival p ∧ p.kind = 2 →
    let owner := (s.exportE p.export_).owner
    let w := s.fabWindow owner p.src.toNat p.ctx.toNat
    let d := (p.seq - w.next).toNat
    let early := s.setWindow { w with heldPkts := w.heldPkts ++ [p] }
    (p.good = false ∨ p.reserved = true → ∃ t, exec i s = .next t ∧ t = { s with fabric := { s.fabric with errors := t.fabric.errors } } ∧
      ∀ n, tget 0 t.fabric.errors n = if n = p.port then tget 0 s.fabric.errors n + 1 else tget 0 s.fabric.errors n) ∧
    (p.good = true → p.reserved = false → p.dst.toNat = s.fabric.self →
      (2 ^ 31 ≤ d → ∃ st v, exec i s = .next (s.giveAck p st v) ∧ ∀ a, w.acks.find? (fun a => a.1 == p.seq) = some a → st = a.2.1 ∧ v = a.2.2) ∧
      (4096 < d → d < 2 ^ 31 → exec i s = .next s) ∧
      (0 < d → d ≤ 4096 → s.parkFull p = false → (∀ x ∈ w.heldPkts, x.seq ≠ p.seq ∧ x.seq ≠ w.next) → s.elsewhere w w.next = false →
        exec i s = .next early) ∧
      (d ≤ 4096 → s.parkFull p = true → exec i s = .next (s.giveAck p 5 [])) ∧
      (d = 0 → s.parkFull p = false → w.heldPkts = [] → s.sisters w = [] →
        let x := early.waitOf (early.fabWindow owner p.src.toNat p.ctx.toNat) p
        ∀ st v u, early.commit ((x.map (fun y => y.1)).getD s.fresh) p = .done st v u →
          ∃ t, exec i s = .next t ∧ t.mem = u.mem ∧ t.clusters = u.clusters ∧
            (t.fabWindow owner p.src.toNat p.ctx.toNat).next = w.next + 1 ∧ (t.fabWindow owner p.src.toNat p.ctx.toNat).heldPkts = []))

/-- R403, R404, R216, 11 R197: what committing a packet, whose write has number i in flight, does under the entry that it names: status 2 where the entry is not valid, of a reserved or wrong kind, or does not grant the access, status 3 beyond the entry's length, nothing while the owner does not run; a write of good seals puts its bytes at their homes, an atomic there writes its result and answers with the old bytes. Under an entry of kind 1 both act on scratch of the owner's cluster, where its groups are the owner's, its banks have room and no marked line is met: a write fills its granules, and beyond scratch status 2 is given. A request is appended at its ring's tail, its quad 0 naming its source, and a full ring gives status 4. On a registered buffer an atomic acts on the shadow backing (log entry 88). -/
def FabricCommits : Prop :=
  ∀ (p : Packet) (i : Nat) (s : State) (ps : List (Loc × Byte)), p.kind.toNat < 3 ∨ p.kind = 3 →
    let e := s.exportE p.export_
    let grant := if p.kind = 1 then e.ga else if p.kind = 2 then e.gr else e.gw
    let n := if p.kind = 1 then 8 else p.payload.length
    let a := e.base + p.offset.toNat
    let c := s.exportCl e
    let ok : Prop := e.valid = true ∧ grant = true ∧ (if p.kind = 2 then e.kind = 2 else e.kind < 2)
    let byte (t : State) (x : Nat) : Byte := tget 0 (t.cl c).scratch x
    let writes (old : List Byte) : Option Nat := atomicWrites (p.info.toNat % 8) 8 (natOf old) (natOf (p.payload.take 8)) (natOf ((p.payload.drop 8).take 8))
    (¬ ok → s.commit i p = .done 2 [] s) ∧
    (ok → e.length < p.offset.toNat + n → s.commit i p = .done 3 [] s) ∧
    (ok → p.offset.toNat + n ≤ e.length →
      (s.ownerRuns e = false → s.commit i p = .wait s) ∧
      (s.ownerRuns e = true → p.sealsGood = false → s.commit i p = .done 7 [] s) ∧
      (s.ownerRuns e = true → p.sealsGood = true → e.kind = 0 →
        (p.kind ≠ 1 → s.vaLocs e.owner a p.payload = .ok ps → s.pubWait e.owner a p.payload.length i (some p.src.toNat) = false → s.mergeBad a ps = none →
          s.commit i p = .done 0 [] (s.putHomes ps)) ∧
        (p.kind = 1 → ∀ l1 l2, s.xlate none e.owner a .atomic = .ok l1 → s.xlate none e.owner (a + 7) .atomic = .ok l2 →
          s.vaLocs e.owner a (List.replicate 8 0) = .ok ps → s.pubWait e.owner a 8 i (some p.src.toNat) = false → s.mergeBad a ps = none →
          let old := ps.map (fun x => s.homeByte x.1)
          s.commit i p = .done 0 old (match writes old with
            | none => s
            | some v => s.putHomes ((ps.map (·.1)).zip (bytesOf 8 v))))) ∧
      (s.ownerRuns e = true → p.sealsGood = true → e.kind = 1 →
        (0x400000 < a + n → s.commit i p = .done 2 [] s) ∧
        (a + n ≤ 0x400000 → s.needGroups c e.owner a n = none → s.scrRoom c a n = true →
          (p.kind ≠ 1 → (s.cl c).chkMerge (cells a p.payload) = none → ∃ t, s.commit i p = .done 0 [] t ∧
            (∀ j b, p.payload[j]? = some b → byte t (a + j) = b) ∧ (∀ x, x < a ∨ a + n ≤ x → byte t x = byte s x) ∧
            (∀ g, a / 16 ≤ g → 16 * g < a + n → tget false (t.cl c).fe g = true) ∧ t.mem = s.mem) ∧
          (p.kind = 1 → (∀ l, a / 64 ≤ l → 64 * l < a + 8 → tget none (s.cl c).marks l = none) →
            let old := (List.range 8).map (fun j => byte s (a + j))
            ∃ t, s.commit i p = .done 0 old t ∧ (∀ x, x < a ∨ a + 8 ≤ x → byte t x = byte s x) ∧ (t.cl c).fe = (s.cl c).fe ∧ t.mem = s.mem ∧
              ∀ j, j < 8 → some (byte t (a + j)) = (match writes old with | none => old[j]? | some v => (bytesOf 8 v)[j]?)))) ∧
      (s.ownerRuns e = true → p.sealsGood = true → p.kind = 2 → ∀ q, s.readVa e.owner e.base 16 = .ok q →
        let head : Word := BitVec.ofNat 64 (natOf (q.take 8))
        let tail : Word := BitVec.ofNat 64 (natOf (q.drop 8))
        let slots := (e.length - 64) / 64
        let x := e.base + 64 + 64 * (tail.toNat % slots)
        (slots ≤ (tail - head).toNat → s.commit i p = .done 4 [] s) ∧
        (∀ ws, (tail - head).toNat < slots → s.pubWait e.owner x 64 i (some p.src.toNat) = false →
          s.vaLocs e.owner x (bytesOf 8 (p.src.toNat * 2 ^ 54 + p.ctx.toNat * 2 ^ 42) ++ (p.payload.take 64).drop 8) = .ok ps →
          s.vaLocs e.owner (e.base + 8) (bytesOf 8 (tail + 1).toNat) = .ok ws → s.mergeBad e.base (ps ++ ws) = none →
          s.commit i p = .done 0 [] (s.putHomes (ps ++ ws)))))

/-- The packets of egress that are of the stream of o: those of its context towards its target that carry a number (R399). -/
def streamOf (s : State) (o : OutPkt) : List OutPkt :=
  s.fabric.out.filter (fun x => x.pkt.ctx == o.pkt.ctx && x.pkt.dst == o.pkt.dst && decide (x.pkt.kind.toNat < 4))

/-- R395, R398, R400, R405, R411, R412: an acknowledgement with a final status ends its packet; the last packet of an op other than fmc ends the op, which counts for fstat .done, and its slot takes the old value, or the status of a request; a packet not acknowledged for 20 µs is sent again by the route that it was injected on, with one hop counted by the port it leaves by, and after its eighth send every packet of its stream ends with status 6, which counts the op of the last one as completed and is its fstat .err and, for a request, its slot's value; the stream is then unreachable, a packet injected on it ends with status 6 at once, and management resets it. -/
def FabricAnswers : Prop :=
  ∀ (p : Packet) (o : OutPkt) (f : FabOp) (n ctx peer : Nat) (s : State),
    let st := p.info.toNat % 256
    (p.good = true → p.reserved = false → p.kind = 4 → p.dst.toNat = s.fabric.self → p.answers = [] → st < 8 → st ≠ 1 → st ≠ 5 →
      s.fabric.out.find? (fun o => decide (0 < o.sends) && o.pkt.ctx.toNat == p.ctx.toNat && o.pkt.dst.toNat == p.src.toNat && o.pkt.seq == p.seq) = some o →
      s.fabOp o.op = some f → f.left = 1 → f.kind ≠ 3 → f.ntf = false → (s.cl f.cl).ctx = some f.ctx →
      ∃ t, exec (.fabricAck p) s = .next t ∧ t.fabric.out = s.fabric.out.filter (fun x => x.id != o.id) ∧ (∀ x ∈ t.fabric.ops, x.id ≠ f.id) ∧
        (t.sq f.cl f.core f.sec).fabDone = (s.sq f.cl f.core f.sec).fabDone + 1 ∧
        (f.slot = none → t.arrivals = s.arrivals) ∧
        (∀ q i, f.slot = some (q, i) → ∃ x, t.arrivals = s.arrivals ++ [x] ∧ x.q = q ∧ x.slot = i ∧ x.cl = f.cl ∧ x.core = f.core ∧
          x.value = (if f.kind = 2 then BitVec.ofNat 64 st else if st = 0 then BitVec.ofNat 64 (natOf (p.payload.take 8)) else 0))) ∧
    (s.fabric.out.find? (fun o => o.id == n) = some o → o.sends ≠ 0 → o.lastSend + 20000 ≤ s.now →
      (o.sends < 8 → o.pkt.kind ≠ 3 → ∀ port, o.route = .lit port → s.portLit port = true →
        ∃ t, exec (.fabricRetransmit n) s = .next t ∧ t.outbox = s.outbox ++ [.packet port false { o.pkt with hops := o.pkt.hops + 1 }] ∧
          (o.refused = false → ∀ x ∈ t.fabric.out, x.id = n → ∃ y ∈ s.fabric.out, y.id = n ∧ x.sends = o.sends + 1 ∧ x.lastSend = s.now ∧ x.pkt = y.pkt)) ∧
      (8 ≤ o.sends → o.refused = false → exec (.fabricRetransmit n) s = .next (s.giveUp o) ∧
        streamOf (s.giveUp o) o = [] ∧
        ((look s.ctxs o.pkt.ctx.toNat).isSome = true → ((s.giveUp o).fabStream o.pkt.ctx.toNat o.pkt.dst.toNat).unreachable = true) ∧
        (streamOf s o = [o] → s.fabOp o.op = some f → f.left = 1 → f.kind ≠ 3 → (s.cl f.cl).ctx = some f.ctx →
          let u := s.giveUp o
          (∀ x ∈ u.fabric.ops, x.id ≠ f.id) ∧
          (u.sq f.cl f.core f.sec).fabErr = BitVec.ofNat 64 (o.pkt.dst.toNat * 2 ^ 54 + f.kind * 256 + 6) ∧
          (u.sq f.cl f.core f.sec).fabDone = (s.sq f.cl f.core f.sec).fabDone + 1 ∧
          (∀ q i, f.slot = some (q, i) → ∃ x, u.arrivals = s.arrivals ++ [x] ∧ x.q = q ∧ x.slot = i ∧ x.value = if f.kind = 2 then 6 else 0)))) ∧
    (∀ acc, (s.fabStream o.pkt.ctx.toNat o.pkt.dst.toNat).unreachable = true → s.number o acc = (acc, s.endPkt o 6 [])) ∧
    (look s.ctxs ctx ≠ none → s.boot = .up → s.role = none → peer ≤ 992 → ∃ t, exec (.fabricStreamReset ctx peer) s = .next t ∧
      t.outbox = s.outbox ++ [.status 0] ∧
      (t.fabStream ctx peer).unreachable = false ∧ (t.fabStream ctx peer).next = (s.fabStream ctx peer).next)

/-- R397, R398, R414, R418: a multicast copy for this package alone is taken with its member's number, and one for another member goes on by a minimal route within two hops (copyRoute, whose choice among such ports is log entry 26); a resume marker changes nothing; a packet passed on leaves by a minimal route to its intermediate, or past that to its destination, which it carries as via and counts in hops (log entry 61), or is answered with status 1 where it would pass more than four hops or has no such route; a packet that leaves by a lit port counts one hop more. The router table is that of the first partition, for a packet of no local context (log entry 22). -/
def RoutersPass : Prop :=
  ∀ (p : Packet) (m : Nat) (q : BitVec 32) (r : Route) (s : State), p.good = true → p.reserved = false →
    let far (a b : Nat) : Nat := if a = b then 0 else if adjacent a b = true then 1 else 2
    let self := s.fabric.self
    (p.kind = 3 → p.dst.toNat = self →
      (p.waves = [(self, q)] → exec (.multicastArrival p) s = .next (s.arriveSeq { p with seq := q, waves := [] })) ∧
      (p.waves = [(m, q)] → m ≠ self → s.copyRoute s.firstPart m p.hops.toNat false = some r →
        ∀ t, t = s.modFab (fun f => { f with aggs := f.aggs ++
          [{ id := s.fresh, origin := p.src.toNat, ctx := p.ctx.toNat, members := [(m, q)], got := [] }] }) →
        exec (.multicastArrival p) s = .next (t.tick1.emit r { p with dst := BitVec.ofNat 10 m, waves := [(m, q)] }))) ∧
    (∀ part h src, s.copyRoute part m h src = some r → ∃ port, (r = .lit port ∨ r = .dark port) ∧ port ∈ s.minimal part m ∧
      h + 1 + far ((neighbours self).getD port m) m ≤ 2) ∧
    (p.kind = 9 → exec (.resumeMarker p) s = .next s) ∧
    (p.kind.toNat < 10 → p.dst.toNat ≠ self → s.fabric.aggs = [] →
      let q : Packet := if p.via = some (BitVec.ofNat 10 self) ∧ self < 1024 then { p with via := none } else p
      let goal := match q.via with | none => p.dst.toNat | some v => v.toNat
      let left := far self goal + far goal p.dst.toNat
      let lost := s.sendCtl s.firstPart { s.mkPkt 4 p.src.toNat p.ctx.toNat p.export_ 0 1 [] with seq := p.seq }
      let way := if p.kind = 3 then s.copyRoute s.firstPart goal p.hops.toNat false else s.towards s.firstPart goal
      (p.hops.toNat + left ≤ 4 → way = some r → exec (.packetForward p) s = .next (s.emit r q)) ∧
      (4 < p.hops.toNat + left → exec (.packetForward p) s = .next lost) ∧
      (way = none → exec (.packetForward p) s = .next lost)) ∧
    (∀ port, s.portLit port = true → ∃ t, s.emit (.lit port) p = t ∧ t.outbox = s.outbox ++ [.packet port false { p with hops := p.hops + 1 }] ∧
      t.fabric = s.fabric)

/-- R420: a completion notice that reaches its package waits while a packet that it lists is not committed, or while its owner does not run; with all committed and its owner running it adds 1 to the 64-bit notice word of its export entry, at that word's home, and is gone; where the entry is not valid, or names no notice word, it is gone at once. -/
def NoticesArrive : Prop :=
  ∀ (p : Packet) (s : State) (l1 l2 : Leaf) (ps : List (Loc × Byte)), p.good = true → p.reserved = false → p.kind = 5 →
    p.dst.toNat = s.fabric.self →
    let e := s.exportE p.export_
    let kept : State := { s with fabric := { s.fabric with notices := s.fabric.notices ++ [p] } }
    let all : Prop := ∀ x ∈ p.waves, s.committed e.owner p.src.toNat p.ctx.toNat x.2 = true
    ((∃ x ∈ p.waves, s.committed e.owner p.src.toNat p.ctx.toNat x.2 = false) → exec (.completionNotice p) s = .next kept) ∧
    (all → e.valid = true → e.notice ≠ 0 → s.ctxRuns e.owner none = false → exec (.completionNotice p) s = .next kept) ∧
    (all → e.valid = false ∨ e.notice = 0 → p ∉ s.fabric.notices → exec (.completionNotice p) s = .next s) ∧
    (all → e.valid = true → e.notice ≠ 0 → s.ctxRuns e.owner none = true → p ∉ s.fabric.notices →
      kept.xlate none e.owner e.notice .atomic = .ok l1 → kept.xlate none e.owner (e.notice + 7) .atomic = .ok l2 →
      kept.vaLocs e.owner e.notice (List.replicate 8 0) = .ok ps → kept.pubWait e.owner e.notice 8 kept.fresh (some p.src.toNat) = false →
      kept.mergeBad e.notice ps = none →
      let old := natOf (ps.map (fun x => kept.homeByte x.1))
      let done := kept.putHomes ((ps.map (·.1)).zip (bytesOf 8 ((old + 1) % 2 ^ 64)))
      ∃ t, exec (.completionNotice p) s = .next t ∧ t.mem = done.mem ∧ t.clusters = done.clusters ∧ p ∉ t.fabric.notices)

/-- R395, R397, R403, R417, R418, 27 R457: router and export tables take what management writes, which is answered with status 0; ports fail, darken and come back, and a port lit again sends each destination that it diverted a resume marker, which has the source and context of the stream (log entry 62); packets held for a pending destination are injected in queue order once it is no longer pending, those without a sequence number being sent. Commands are taken while no change of role map is under way (log entry 70). -/
def Obligations.FabricConfiguration : Prop :=
  ∀ (part peer port n : Nat) (ports : List Nat) (e : RouterEntry) (q : Quads) (x : Partition) (s : State),
    (s.boot = .up → s.role = none → peer ≤ 992 → look s.parts part = some x → exec (.routerTableWrite part peer e) s =
      .next { s with parts := place s.parts part { x with router := place x.router peer e }, outbox := s.outbox ++ [.status 0] }) ∧
    (s.boot = .up → s.role = none → n < 65536 → ∃ t, exec (.exportTableWrite n q.q0 q.q1 q.q2 q.q3) s = .next t ∧ tget {} t.fabric.exports n = q ∧
      t.outbox = s.outbox ++ [.status 0] ∧ ∀ m, m ≠ n → tget {} t.fabric.exports m = tget {} s.fabric.exports m) ∧
    (∃ t, exec (.peerPortFailure port) s = .next t ∧ ∀ i, i ∈ t.fabric.failedPorts ↔ i = port ∨ i ∈ s.fabric.failedPorts) ∧
    (∃ t, exec (.circuitChange ports) s = .next t ∧ ∀ i, i ∈ t.fabric.circuitDark ↔ i ∈ ports ∨ i ∈ s.fabric.circuitDark) ∧
    (∃ t, exec (.portRelight port) s = .next t ∧ (∀ i, i ∈ t.fabric.circuitDark ↔ i ≠ port ∧ i ∈ s.fabric.circuitDark) ∧
      (port ∉ s.fabric.darkPorts → (∀ d ∈ t.fabric.diverted, d.port ≠ port) ∧
        ∃ ps : List Packet, t.outbox = s.outbox ++ ps.map (fun p => .packet port false p) ∧
          ps.map (fun p => (p.kind, p.src, p.ctx, p.dst, p.seq)) =
            (s.fabric.diverted.filter (fun d => d.port == port)).map (fun d =>
              ((9 : BitVec 4), BitVec.ofNat 10 d.src, BitVec.ofNat 12 d.ctx, BitVec.ofNat 10 d.dst, d.seq)))) ∧
    ((s.route part peer 0).1 ≠ .pending → exec (.virtualEgressSend part peer) s = .next
      ((s.fabric.out.filter (fun o => o.waiting && o.part == part && o.pkt.dst.toNat == peer)).foldl
        (fun t o => if o.pkt.kind.toNat < 4 then (t.modOut o.id (fun x => { x with waiting := false })).inject o
          else ({ t with fabric := { t.fabric with out := t.fabric.out.filter (fun x => x.id != o.id) } } : State).sendCtl part o.pkt) s)) ∧
    ((s.route part peer 0).1 = .pending → exec (.virtualEgressSend part peer) s = .next s)

/-- FabricOps and FabricStatusAndGroups, together. -/
def Obligations.FabricIssue : Prop := FabricOps ∧ FabricStatusAndGroups

/-- FabricArrivals and FabricCommits, together. -/
def Obligations.FabricReceive : Prop := FabricArrivals ∧ FabricCommits

/-- FabricAnswers, RoutersPass and NoticesArrive, together. -/
def Obligations.FabricAcksAndRoutes : Prop := FabricAnswers ∧ RoutersPass ∧ NoticesArrive

/-! ## Engines and lazy units (03 R42, R60, 11 R192, 13 R211, R216, R227 to R232, 01 R24) -/

/-- R42, R211, R24, R192, R245: after 256 withheld cycles of a secondary the next cycle is a yield cycle; a bank's first buffered line drains; at a new window of 8 µs the lines charged start from zero and new budgets hold; an evicted line that holds no unreleased write leaves the cluster cache, while no lease over this package's memory is granted (R207); a put with no line left counts for sstat.put. -/
def EngineEvents : Prop :=
  ∀ (c k bank n : Nat) (s : State),
    (256 ≤ (s.core c k).secWait → exec (.yieldCycle c k) s = .next (s.modCore c k (fun y => { y with secWait := 0, yieldNow := true }))) ∧
    ((s.core c k).secWait < 256 → exec (.yieldCycle c k) s = .next s) ∧
    (∃ t, exec (.scratchBufferDrain c bank) s = .next t ∧ tget [] (t.cl c).buf bank = (tget [] (s.cl c).buf bank).tail ∧
      (∀ b, b ≠ bank → tget [] (t.cl c).buf b = tget [] (s.cl c).buf b) ∧ (t.cl c).scratch = (s.cl c).scratch) ∧
    (s.window < s.now / 8000 → exec .budgetWindow s = .next (State.pumpResidency { s with
      window := s.now / 8000
      parts := s.parts.map (fun p => (p.1, { p.2 with
        charged := [], budgets := p.2.newBudgets.foldl (fun b x => place b x.1 x.2) p.2.budgets, newBudgets := [] })) })) ∧
    (s.now / 8000 ≤ s.window → exec .budgetWindow s = .next s) ∧
    (s.mem.granted = [] → (∀ h ∈ (s.cl c).held, h.pa / 64 = n → h.released.isSome = true) → ∃ t, exec (.clusterCacheEviction c n) s = .next t ∧
      (t.cl c).held = (s.cl c).held.filter (fun h => h.pa / 64 != n)) ∧
    (∀ t, s.xfer n = some t → t.kind = .gput → t.lines = [] → (s.cl t.cl).ctx = some t.ctx → ∃ u, exec (.gputComplete n) s = .next u ∧
      (∀ x ∈ u.xfers, x.id ≠ n) ∧ (u.sq t.cl t.core t.sec).puts = (s.sq t.cl t.core t.sec).puts + 1)

/-- R216, R211, R218, R231: a line that may land, does not wait for a unit, a port or a buffer, and finds budget is read and written, charged to its class; a line of readable bytes bound for scratch, with the ports of its banks free and room in its bank's buffer, puts its bytes there, fills its granules and leaves every other byte. -/
def LineLandings : Prop :=
  ∀ (n i c off : Nat) (t : Xfer) (l : Line) (s s1 s2 : State) (bs : List Byte) (m : Option LineMark),
    (s.xfer n = some t → t.lines.find? (fun x => x.idx == i) = some l → s.lineReady t l = true → l.isPool = false → t.cls = some clsCopy →
      (∀ x ∈ (s.landLine t l).xfers, x.id = n → x.stopped = true ∨ ∀ y ∈ x.lines, y.idx ≠ i) →
      s.charge t.part clsCopy 1 = some s1 → exec (.lineLanding n i) s = .next (s1.landLine t l)) ∧
    (bs ≠ [] → s.lineForeign t l = none → l.isPool = false → (s.portsOf t l).all s.portFree = true → s.readSegs t true l.segs = .ok (bs, m, s2) → l.dst = .scratch c off →
      s2.engRoom c off bs.length = true → (s2.cl c).chkMerge (cells off bs) = none →
      let u := s.landLine t l
      (∀ j b, bs[j]? = some b → tget 0 (u.cl c).scratch (off + j) = b) ∧
      (∀ a, a < off ∨ off + bs.length ≤ a → tget 0 (u.cl c).scratch a = tget 0 (s2.cl c).scratch a) ∧
      (∀ g, off / 16 ≤ g → 16 * g < off + bs.length → tget false (u.cl c).fe g = true) ∧
      (∀ g, off / 16 ≤ g → 16 * g < off + bs.length → tget false (u.cl c).capTag g = false))

/-- R227, R229, R232, R221: an engine that a task armed, with every line of the entry before issued, reads the entry, a page pinned in layer store being filled by the read; with the stage released it starts its next entry, well-formed and within the other side's range, as a transfer of that entry's lines; an entry not in use ends the schedule; an entry whose lines have all landed is counted with its bytes. -/
def CopyEntries : Prop :=
  ∀ (c e ctx : Nat) (q : Quads) (s : State),
    let ce := (s.cl c).e.ce e
    let i := if ce.xfer.isSome then ce.entry.toNat + 1 else ce.entry.toNat
    let x := copyOf q
    let t := tidOf ((s.cl c).tid x.tid)
    let f := s.fillVa ctx (ce.sched.toNat + 32 * i) 32
    let ls := x.lines t (tget {} (f.core c (f.engineCore c e)).e.k x.cap) c
    let stage := if e = 0 then (s.cl c).e.stage0 else (s.cl c).e.stage1
    (e < 2 → (s.cl c).ctx = some ctx → ce.task.isSome = true → i < ce.count → ce.stopped = false →
      (∀ y ∈ s.copies c e, ∀ l ∈ y.lines, l.sent = true) → f.engQuads c ctx (ce.sched.toNat + 32 * i) = .ok q →
      (x.valid = false → ∃ u, exec (.copyEntryStart c e) s = .next u ∧ ((u.cl c).e.ce e).count = i ∧ u.xfers = s.xfers) ∧
      (x.valid = true → 0x80000000 ≤ stage - x.stage → exec (.copyEntryStart c e) s = .next f) ∧
      (x.valid = true → stage - x.stage < 0x80000000 → x.bad t = none → pastScratch ls = none →
        ∃ u y, exec (.copyEntryStart c e) s = .next u ∧ u.xfers = s.xfers ++ [y] ∧ y.kind = .copy ∧ y.ctx = ctx ∧ y.cl = c ∧ y.engine = e ∧
          y.lines.map (fun l => (l.dst, l.segs)) = ls ∧ ((u.cl c).e.ce e).entry = BitVec.ofNat 16 i ∧ ((u.cl c).e.ce e).xfer = some y.id)) ∧
    (∀ y rest, e < 2 → s.copies c e = y :: rest → y.lines = [] → ∃ u, exec (.copyEntryComplete c e) s = .next u ∧
      u.xfers = s.xfers.filter (fun z => z.id != y.id) ∧ ((u.cl c).e.ce e).done = ce.done + 1 ∧
      ((u.cl c).e.ce e).bytes = BitVec.ofNat 32 y.total)

/-- What a lazy unit holds at a key: a byte, the nibble of a word, a granule's full-empty bit and tag, a line's mark, each in the tables of its kind (R59). -/
def unitByte (s : State) (c k : Nat) (kind : UnitKind) (n : Nat) : Byte :=
  match kind with | .bank => tget 0 (s.core c k).arena n | .hot => tget 0 (s.core c k).hot n | .group => tget 0 (s.cl c).scratch n
def unitSide (s : State) (c k : Nat) (kind : UnitKind) (n : Nat) : BitVec 4 := match kind with | .bank => tget 0 (s.core c k).side n | _ => 0
def unitFull (s : State) (c : Nat) (kind : UnitKind) (n : Nat) : Bool := match kind with | .group => tget false (s.cl c).fe n | _ => false
def unitCap (s : State) (c : Nat) (kind : UnitKind) (n : Nat) : Bool := match kind with | .group => tget false (s.cl c).capTag n | _ => false
def unitMark (s : State) (c k : Nat) (kind : UnitKind) (n : Nat) : Option LineMark :=
  match kind with | .bank => none | .hot => tget none (s.core c k).hotMarks n | .group => tget none (s.cl c).marks n

/-- Whether a key of things of u bytes lies in a unit: 16 KiB of arena or hot region, or a parity group of scratch (R59). -/
def unitHas (kind : UnitKind) (i u n : Nat) : Prop := match kind with | .group => n * u / 512 % 4 = i | _ => n * u / 0x4000 = i

/-- The owner tag of a unit, 0 for none, else the context's number plus 1. -/
def unitOwner (s : State) (c k : Nat) (kind : UnitKind) (i : Nat) : Nat :=
  match kind with | .bank => tget 0 (s.core c k).bankTag i | .hot => tget 0 (s.core c k).hotTag i | .group => tget 0 (s.cl c).groupTag i

/-- A banked copy holds a unit's own keys only, each once. -/
def CopyFits (b : Banked) : Prop :=
  twf 0 b.bytes = true ∧ twf 0 b.side = true ∧ twf false b.fe = true ∧ twf false b.capTag = true ∧ twf none b.marks = true ∧
  (∀ p ∈ b.bytes, unitHas b.kind b.idx 1 p.1) ∧ (∀ p ∈ b.side, unitHas b.kind b.idx 4 p.1) ∧ (∀ p ∈ b.fe, unitHas b.kind b.idx 16 p.1) ∧
  (∀ p ∈ b.capTag, unitHas b.kind b.idx 16 p.1) ∧ (∀ p ∈ b.marks, unitHas b.kind b.idx 64 p.1)

/-- R59, R60: a unit, a bank of arena, a unit of hot region or a parity group of scratch, touched under another owner's tag goes to the bank area under that owner, with its side storage, full-empty bits, tags and marks, and holds the running context's copy from there, or zeros with every granule empty where it has none, under its tag; nothing outside the unit changes; a unit that already bears the tag is only taken off the list. -/
def LazyUnitMoves : Prop :=
  ∀ (kind : UnitKind) (c k i ctx at_ : Nat) (s : State), (s.cl c).ctx = some ctx → (k, kind, i, at_) ∈ (s.cl c).touched →
    let old := unitOwner s c k kind i
    let mine := s.banked.find? (fun b => b.ctx == ctx && b.cl == c && b.core == k && b.kind == kind && b.idx == i)
    ∃ t, exec (.lazyUnitMove c k kind i) s = .next t ∧ (∀ z ∈ (t.cl c).touched, ¬ (z.1 = k ∧ z.2.1 = kind ∧ z.2.2.1 = i)) ∧
      unitOwner t c k kind i = ctx + 1 ∧
      (old = ctx + 1 → ∀ n, unitByte t c k kind n = unitByte s c k kind n) ∧
      (old ≠ ctx + 1 → (∀ b, mine = some b → CopyFits b) → ∀ n,
        (unitHas kind i 1 n → unitByte t c k kind n = match mine with | none => 0 | some b => tget 0 b.bytes n) ∧
        (¬ unitHas kind i 1 n → unitByte t c k kind n = unitByte s c k kind n) ∧
        (kind = .bank → unitHas kind i 4 n → unitSide t c k kind n = match mine with | none => 0 | some b => tget 0 b.side n) ∧
        (¬ unitHas kind i 4 n → unitSide t c k kind n = unitSide s c k kind n) ∧
        (kind = .group → unitHas kind i 16 n → unitFull t c kind n = (match mine with | none => false | some b => tget false b.fe n) ∧
          unitCap t c kind n = match mine with | none => false | some b => tget false b.capTag n) ∧
        (¬ unitHas kind i 16 n → unitFull t c kind n = unitFull s c kind n ∧ unitCap t c kind n = unitCap s c kind n) ∧
        (kind ≠ .bank → unitHas kind i 64 n → unitMark t c k kind n = match mine with | none => none | some b => tget none b.marks n) ∧
        (¬ unitHas kind i 64 n → unitMark t c k kind n = unitMark s c k kind n)) ∧
      (old ≠ ctx + 1 → old ≠ 0 → ∃ b ∈ t.banked, b.ctx = old - 1 ∧ b.cl = c ∧ b.core = k ∧ b.kind = kind ∧ b.idx = i ∧ ∀ n,
        (unitHas kind i 1 n → tget 0 b.bytes n = unitByte s c k kind n) ∧ (unitHas kind i 4 n → tget 0 b.side n = unitSide s c k kind n) ∧
        (unitHas kind i 16 n → tget false b.fe n = unitFull s c kind n ∧ tget false b.capTag n = unitCap s c kind n) ∧
        (unitHas kind i 64 n → tget none b.marks n = unitMark s c k kind n))

/-! ## Tasks and graphs (03 R33 to R39, R56 to R58, 21 R357 to R362) -/

/-- R33, R34, R348, R357 to R359, 13 R221: a launch packet reads its record, layer store being filled by the read; one that reads well starts its task where R33 lets it, counts and completes: each core of the mask leaves halt with its task's number, its primary, and its secondary if the record says so, at their first bundles, with empty loop stacks, general registers zero where there are no items, and MODE task; where R33 does not let it the stream waits, and starts it once it may; one whose cluster has gone with a change of role map stops the stream with 8 (01 R19); a record that reads ill stops the stream with its code. -/
def TaskLaunches : Prop :=
  ∀ (pre : Bool) (addr : Word) (l : LaunchWait) (part str : Nat) (s : State),
    let f := s.fillRecord s.cpCtx addr.toNat (fun h => (launchOf h).items)
    let r := f.readLaunch f.cpCtx addr.toNat none pre f.cpOrigin
    let c := l.key s
    let h := launchOf l.header
    (∀ e, r = .error e → exec (.launchTask pre addr) s = .next (f.cpFail e)) ∧
    (r = .ok l → f.layerOf (l.key f) = none → exec (.launchTask pre addr) s = .next (f.tick1.cpFail 8)) ∧
    (r = .ok l → (f.layerOf (l.key f)).isSome = true → f.tick1.canStart l = false → ∃ t, exec (.launchTask pre addr) s = .next t ∧
      (f.cpS.isSome = true → t.cpS.map (fun x => x.wait) = some (.launch l))) ∧
    (r = .ok l → f.tick1.canStart l = true → exec (.launchTask pre addr) s = .next ((f.tick1.startTask l).cpCount).cpDone) ∧
    (∀ t, s.stream part str = some t → t.wait = .launch l → s.canStart l = true →
      exec (.launchStart part str) s = .next (((s.atStream part str).startTask l).cpCount).cpDone) ∧
    ((look s.ctxs l.ctx).isSome = true → ∀ k, k < 8 → l.mask.getLsbD k = true →
      let y := (s.startTask l).core c k
      y.halted = false ∧ y.task.isSome = true ∧ y.e.mode = false ∧ y.e.prim.running = true ∧ y.e.prim.pc = h.primary ∧
        y.e.prim.loops = [] ∧ y.e.second.running = h.sec ∧ y.e.second.pc = h.secondary ∧ y.e.second.loops = [] ∧
        (l.items = [] → ∀ n, y.e.rG n = 0))

/-- R33, R58, R357, R359, 01 R17, R19, 27 R456: what a launch waits for. It does not start while a task of its own context runs on a core of its mask, or a task of another context on its cluster, cores that a halt or trap has stopped apart; while something of a task before is in flight there, or an engine that it arms replays; while the cluster does not exist, or a change of role map drains it, or a die is above 95 °C. It starts where the cluster is free or its own context's, or was left by a context of which nothing runs and nothing is in flight there, with none of this, and no launch asked for earlier waits for the cluster. -/
def TaskWaits : Prop :=
  ∀ (l : LaunchWait) (s : State),
    let c := l.key s
    let x := s.cl c
    let h := launchOf l.header
    let on (k : Nat) : Prop := k < 8 ∧ l.mask.getLsbD k = true
    let arms (n : Nat) : Prop := n = 0 ∧ 0 < h.count0 ∨ n = 1 ∧ 0 < h.count1
    let quiet (k : Nat) : Prop := s.coreQuiet c k = true ∧ s.awaits l.ctx c (fun j => j == k) = false
    (∀ k, on k → x.ctx = some l.ctx → (s.core c k).task.isSome = true → (s.core c k).e.wasHalted = false → s.canStart l = false) ∧
    (∀ k, on k → x.ctx = some l.ctx → ¬ quiet k → s.canStart l = false) ∧
    (∀ o, x.ctx = some o → o ≠ l.ctx → (∃ p ∈ x.cores, p.2.task.isSome = true ∧ p.2.e.wasHalted = false) ∨ s.clusterQuiet o c = false → s.canStart l = false) ∧
    (∀ n, arms n → x.ctx = some l.ctx → s.engineBusy c n = true → s.canStart l = false) ∧
    (s.layerOf c = none ∨ s.draining c = true ∨ s.hotDies ≠ [] → s.canStart l = false) ∧
    (x.ctx = none ∨ x.ctx = some l.ctx ∨ (∃ o, x.ctx = some o ∧ (∀ p ∈ x.cores, p.2.task = none) ∧ s.clusterQuiet o c = true) →
      s.shadowOf l.ctx c = none → (s.layerOf c).isSome = true → s.role = none → s.hotDies = [] →
      (∀ w ∈ s.waiting, l.asked ≤ w.asked ∨ w.key s ≠ c) → (∀ k, on k → (s.core c k).task = none ∧ quiet k) →
      (∀ n, arms n → s.engineBusy c n = false) → s.canStart l = true)

/-- R35, R56 to R59: a task whose sequencers have stopped, with nothing of it in flight, ends: its cores are free and halted and its launcher counts it; 2 ms after a request for pre-emption the sequencers of the context that still run are stopped at their checkpoints; once nothing of a pre-empted context is in flight on a cluster, its eager state goes to the shadow area and the cluster is free. -/
def TaskEnds : Prop :=
  ∀ (c n ctx : Nat) (t : Task) (s : State),
    let s0 := s.flushCores c (fun k => t.mask.getLsbD k)
    let s8 := s.flushCores c (fun _ => true)
    ((s.cl c).tasks.find? (fun x => x.id == n) = some t →
      (∀ k, k < 8 → t.mask.getLsbD k = true → ((s.core c k).e.prim.over && (s.core c k).e.second.over) = true) →
      s0.taskOver c t = true → s0.condQueue = [] → ∃ u, exec (.taskComplete c n) s = .next u ∧
        (∀ k, k < 8 → t.mask.getLsbD k = true → (u.core c k).task = none ∧ (u.core c k).halted = true) ∧
        (∀ p i a x, t.origin = .stream p i a → s0.stream p i = some x → ∃ y, u.stream p i = some y ∧ y.completed = x.completed + 1)) ∧
    (∀ x at_, look s.ctxs ctx = some x → (c, at_) ∈ x.preempt → at_ + 2000000 * 357 ≤ s.tick → (s.cl c).ctx = some ctx →
      ∃ u, exec (.preemptWatchdog ctx c) s = .next u ∧ ∀ k z, k < 8 → (u.sq c k z).running = false ∧
        ((s.sq c k z).running = true → (u.sq c k z).preempted = true ∧ (u.sq c k z).pc = (s.sq c k z).ckpt.pc)) ∧
    (∀ x, look s.ctxs ctx = some x → (∃ p ∈ x.preempt, p.1 = c) → (s.cl c).ctx = some ctx →
      (∀ k z, k < 8 → (s.sq c k z).running = false) → (∀ k, k < 8 → s8.coreQuiet c k = true) →
      s8.awaits ctx c (fun _ => true) = false → s8.engineAwaits ctx c = false → (∀ a ∈ s8.arrivals, a.cl ≠ c) →
      ∃ u h, exec (.contextHalt ctx c) s = .next u ∧ (u.cl c).ctx = none ∧ (u.cl c).tasks = [] ∧ h ∈ u.shadow ∧ h.ctx = ctx ∧ h.cl = c ∧
        h.tasks = (s.cl c).tasks ∧ (∀ k, k < 8 → ∃ p ∈ h.cores, p.1 = k ∧ p.2.1.g = (s.core c k).e.g ∧ p.2.1.k = (s.core c k).e.k) ∧
        ∃ y, look u.ctxs ctx = some y ∧ ∀ p ∈ y.preempt, p.1 ≠ c)

/-- R36, R348, R360 to R362, 13 R221: a graph launch reads its record, layer store being filled by the read; with the graphs that its context left with a halt back in the walker, one that reads well loads its slot and starts it where the slot's graph does not run, and with pre no other context runs on the cluster, with the condition word at its initial value; it waits otherwise, and stops the stream with 9 where the walker would hold more than 1,024 nodes; a resident launch starts the loaded graph of its context again; an ill record, a cluster beyond the partition or gone with a change of role map (8; 01 R19) and a slot not loaded (9) stop the stream. That pre asks for the cluster of the walker is DEDUCED (log entry 55). -/
def GraphLaunches : Prop :=
  ∀ (pre : Bool) (addr : Word) (cl : BitVec 16) (g : BitVec 3) (s : State),
    let here := (s.cur.part, s.cur.stream)
    let c := 256 * s.cur.part + cl.toNat
    let f := s.fillRecord s.cpCtx addr.toNat (fun h => (graphOf h).nodes)
    (∀ e, f.readGraph f.cpCtx addr.toNat = .error e → exec (.launchGraph pre addr) s = .next (f.cpFail e)) ∧
    (∀ a b ns h, f.readGraph f.cpCtx addr.toNat = .ok (a, b, ns, h) →
      (f.layerOf a = none → exec (.launchGraph pre addr) s = .next (f.cpFail 8)) ∧
      ((f.layerOf a).isSome = true → f.draining a = true ∨ f.withGraphs f.cpCtx a = none → ∃ u, exec (.launchGraph pre addr) s = .next u ∧
        (f.cpS.isSome = true → u.cpS.map (fun x => x.wait) = some (.graph a b (some (ns, h)) pre)))) ∧
    (∀ a b ns h t, f.readGraph f.cpCtx addr.toNat = .ok (a, b, ns, h) → (f.layerOf a).isSome = true → f.draining a = false →
      f.withGraphs f.cpCtx a = some t →
      let busy : Prop := (tget ({} : GraphSlot) (t.cl a).graphs b).running = true ∨ pre = true ∧ t.otherRuns a f.cpCtx = true
      let others := (((t.cl a).graphs.filter (fun g => g.2.loaded && g.1 != b)).map (fun g => g.2.nodes.length)).foldl (· + ·) 0
      let y : GraphSlot := { loaded := true, ctx := f.cpCtx, nodes := ns, cond0 := (graphOf h).cond, status := (graphOf h).status }
      (¬ busy → others + ns.length ≤ 1024 → exec (.launchGraph pre addr) s =
        .next ((t.setSlot a b (y.start (f.cur.part, f.cur.stream) pre)).cpCount).cpDone) ∧
      (¬ busy → 1024 < others + ns.length → exec (.launchGraph pre addr) s = .next (f.cpFail 9)) ∧
      (busy → ∃ u, exec (.launchGraph pre addr) s = .next u ∧
        (f.cpS.isSome = true → u.cpS.map (fun x => x.wait) = some (.graph a b (some (ns, h)) pre)))) ∧
    (s.clustersOf s.cur.part ≤ cl.toNat → exec (.launchGraphResident pre cl g) s = .next (s.cpFail 8)) ∧
    (cl.toNat < s.clustersOf s.cur.part → (s.layerOf c).isSome = true → s.draining c = false → ∀ t, s.withGraphs s.cpCtx c = some t →
      let x := tget ({} : GraphSlot) (t.cl c).graphs g.toNat
      x.running = false → (pre = true → t.otherRuns c s.cpCtx = false) →
      (x.loaded = false ∨ x.ctx ≠ s.cpCtx → exec (.launchGraphResident pre cl g) s = .next (s.cpFail 9)) ∧
      (x.loaded = true → x.ctx = s.cpCtx →
        exec (.launchGraphResident pre cl g) s = .next ((t.setSlot c g.toNat (x.start here pre)).cpCount).cpDone)) ∧
    (∀ (u : State) (ctx n : Nat), u.shadowOf ctx n = none → u.withGraphs ctx n = some u) ∧
    (∀ y : GraphSlot, (y.start here pre).running = true ∧ (y.start here pre).cond = y.cond0 ∧ (y.start here pre).statusBits = 0 ∧
      ∀ i, (y.start here pre).at_ i = .notStarted ∨ (y.start here pre).at_ i = .skipped)

/-- R37 to R39, R59, R361, R362: at its turn a ready task node of a well-formed record is launched where R33 lets it; a ready conditional node completes with the side that the masked condition word takes; a while node runs its body again while the test holds and its limit is not reached, else completes, with bit 0 of the status at its limit; a graph with nothing left writes its status word and counts; an update reaches the condition word of its context's graph, in the walker or saved with the context. That an update, and a node's start, name the graph by its context is the model's (log entry 28). -/
def GraphNodes : Prop :=
  ∀ (c g i : Nat) (l : LaunchWait) (u : CondUpdate) (s : State),
    let x := tget ({} : GraphSlot) (s.cl c).graphs g
    let n := nodeAt x.nodes i
    let holds : Bool := decide (x.cond &&& n.m = n.v)
    let more := tget 0 x.iter i < n.limit ∨ n.limit = 0
    let f := s.fillRecord x.ctx n.record (fun h => (launchOf h).items)
    (s.nodeTurn c g i 0 = true → f.nodeLaunch c g i = .ok l → f.canStart l = true →
      exec (.graphNodeLaunch c g i) s = .next ((f.startTask l).modGraph x.ctx c g (fun y =>
        { y.put i .running with waits := y.waits.filter (fun w => w.1 != i) }))) ∧
    (∀ (t : State) (h : GraphSlot → GraphSlot), let y := tget ({} : GraphSlot) (t.cl c).graphs g
      y.loaded = true → t.modGraph y.ctx c g h = t.setSlot c g (h y)) ∧
    (∀ y : GraphSlot, (y.put i .running).at_ i = .running ∧ ∀ j, j ≠ i → (y.put i .running).at_ j = y.at_ j) ∧
    (s.nodeTurn c g i 0 = true → ∀ e, f.nodeLaunch c g i = .error e → ∃ t, exec (.graphNodeLaunch c g i) s = .next t ∧
      let y := tget ({} : GraphSlot) (f.cl c).graphs g
      (tget ({} : GraphSlot) (t.cl c).graphs g).faulted = true ∧ (tget ({} : GraphSlot) (t.cl c).graphs g).statusBits = y.statusBits ||| 2) ∧
    (s.nodeTurn c g i 1 = true → ∃ t, exec (.conditionalNodeEval c g i) s = .next t ∧
      tget false (tget ({} : GraphSlot) (t.cl c).graphs g).truth i = holds ∧ (tget ({} : GraphSlot) (t.cl c).graphs g).at_ i = .completed) ∧
    (s.nodeTurn c g i 2 = true → i < n.first → ∃ t, exec (.whileNodeEval c g i) s = .next t ∧
      let y := tget ({} : GraphSlot) (t.cl c).graphs g
      (holds = true → more → y.at_ i = .running ∧ tget 0 y.iter i = tget 0 x.iter i + 1) ∧
      (holds = true → ¬ more → y.at_ i = .completed ∧ y.statusBits = x.statusBits ||| 1) ∧
      (holds = false → y.at_ i = .completed ∧ y.statusBits = x.statusBits)) ∧
    (x.isOver = true → x.status = 0 → x.counted = false → ∀ p, s.stream x.origin.1 x.origin.2 = some p → ∃ t y,
      exec (.graphComplete c g) s = .next t ∧ (tget ({} : GraphSlot) (t.cl c).graphs g).running = false ∧
      t.stream x.origin.1 x.origin.2 = some y ∧ y.completed = p.completed + 1) ∧
    (∀ m, x.isOver = true → x.status ≠ 0 → s.pubWait x.ctx x.status.toNat 8 (x.statusNo.getD s.fresh) = false → x.counted = true →
      s.writeVa x.ctx x.status.toNat (bytesOf 8 (2 ^ 63 + x.statusBits.toNat)) = .ok m →
      exec (.graphComplete c g) s = .next (m.setSlot c g { x with running := false, statusNo := none })) ∧
    (let y := tget ({} : GraphSlot) (s.cl u.cl).graphs u.slot
     let new (w : Word) : Word := match u.op with
       | .set => w ||| u.value
       | .clr => w &&& ~~~ u.value
       | .ins => (w &&& ~~~ u.mask) ||| (u.value &&& u.mask)
       | .replace => u.value
     (y.loaded = true → y.ctx = u.ctx → exec (.condWordUpdate u) s = .next (s.setSlot u.cl u.slot { y with cond := new y.cond })) ∧
     (y.loaded = false ∨ y.ctx ≠ u.ctx → ∃ t, exec (.condWordUpdate u) s = .next t ∧ t.clusters = s.clusters ∧
      ∀ h ∈ s.shadow, h.ctx = u.ctx → h.cl = u.cl → { h with graphs := h.graphs.map (fun p =>
        if p.1 = u.slot then (p.1, { p.2 with cond := new p.2.cond }) else p) } ∈ t.shadow))

/-- EngineEvents, LineLandings, CopyEntries and LazyUnitMoves, together. -/
def Obligations.EngineAndUnitEvents : Prop := EngineEvents ∧ LineLandings ∧ CopyEntries ∧ LazyUnitMoves

/-- TaskLaunches, TaskWaits and TaskEnds, together. -/
def Obligations.TaskExecution : Prop := TaskLaunches ∧ TaskWaits ∧ TaskEnds

/-- GraphLaunches and GraphNodes, together. -/
def Obligations.GraphExecution : Prop := GraphLaunches ∧ GraphNodes

/-! ## The command processor (21) -/

/-- The stream at the site of s is t. -/
def atCp (s : State) (t : Stream) : Prop := s.stream s.cur.part s.cur.stream = some t

/-- R344, R345, R342: a packet of the ring outside loop and indirect buffer that completes moves HEAD past it, to the ring's start at its end; the last packet of a loop's span goes back to its first with the count lowered, and discards the window, and after the last pass goes on at the word after the span; the end of an indirect buffer returns to the word after the packet that called it. -/
def PacketAdvance : Prop :=
  ∀ (t : Stream) (l o : Level) (sp : SpanLoop) (r : List Level),
    let nxt := l.pos + t.plen
    (t.levels = [l] → l.loop = none → ∃ z, t.finish.levels = [z] ∧ z.pos = (if l.len ≤ nxt then 0 else nxt) ∧
      t.finish.head = BitVec.ofNat 32 z.pos ∧ t.finish.wait = .none ∧ t.finish.tail = t.tail ∧ t.finish.completed = t.completed) ∧
    (t.levels = l :: r → l.loop = some sp → l.pos < sp.last → sp.last ≤ nxt → sp.first < l.len →
      (1 < sp.left → t.finish.levels = { l with pos := sp.first, loop := some { sp with left := sp.left - 1 } } :: r ∧ t.finish.window = []) ∧
      (sp.left ≤ 1 → sp.last < l.len → t.finish.levels = { l with pos := sp.last, loop := none } :: r)) ∧
    (t.levels = l :: o :: r → l.loop = none → l.len ≤ nxt → o.loop = none → o.pos + 16 < o.len →
      t.finish.levels = { o with pos := o.pos + 16 } :: r ∧ t.finish.window = [])

/-- R347, R350 to R354, R342: a nop's payload is skipped; indirect makes a new level, at most two below the ring; pred executes or skips its span by a masked test, its read meeting its lines (meetVa: layer store is filled, a marked line faults the context); loop repeats its span, skips it at count 0 and does not nest in its level; write memory performs its words in ascending address; write condition word updates the graph of a cluster of the partition; fetch fence discards the window; a doorbell sets TAIL. -/
def StreamPackets : Prop :=
  ∀ (addr mask value : Word) (len rep : BitVec 32) (n : BitVec 12) (sense : Bool) (data : List (BitVec 32)) (cl : BitVec 16) (g : BitVec 3)
    (part str : Nat) (s : State) (t : Stream) (w : Word), atCp s t → t.levels ≠ [] →
    let go (f : Stream → Stream) : State := s.modStream s.cur.part s.cur.stream f
    let done := go Stream.finish
    let last := t.top.pos + t.plen + 4 * n.toNat
    exec .nopPacket s = .next done ∧
    exec .ffence s = .next (s.modStream s.cur.part s.cur.stream (fun t => { t.finish with window := [] })) ∧
    (t.levels.length < 3 → addr.toNat % 4 = 0 → len.toNat % 4 = 0 → 4 ≤ len.toNat → len.toNat ≤ 0x100000 → exec (.indirect addr len) s =
      .next (go (fun t => { t with levels := { base := addr.toNat, len := len.toNat, pos := 0, loop := none } :: t.levels, window := [], plen := 0, began := none }))) ∧
    (3 ≤ t.levels.length → exec (.indirect addr len) s = .next (s.cpFail 4)) ∧
    (let f := s.meetVa t.ctx addr.toNat 8
     f.cpWord addr = .ok w → last ≤ t.top.len →
      (decide (w &&& mask = value) = sense → exec (.pred sense n addr mask value) s =
        .next (f.modStream f.cur.part f.cur.stream (fun t => t.goTo (t.top.pos + t.plen + 4 * n.toNat) true))) ∧
      (decide (w &&& mask = value) ≠ sense → exec (.pred sense n addr mask value) s = .next f.cpDone)) ∧
    (t.top.len < last → exec (.pred sense n addr mask value) s = .next (s.cpFail 5)) ∧
    (t.top.loop = none → last ≤ t.top.len → (rep = 0 → exec (.loopPacket n rep) s =
        .next (go (fun t => t.goTo (t.top.pos + t.plen + 4 * n.toNat) true))) ∧
      (rep ≠ 0 → ∃ u y l, exec (.loopPacket n rep) s = .next u ∧ atCp u y ∧ y.levels = l :: t.levels.tail ∧ l.pos = t.top.pos + t.plen ∧
        l.loop = some { first := t.top.pos + t.plen, last := last, left := rep.toNat } ∧ l.base = t.top.base ∧ l.len = t.top.len)) ∧
    (t.top.loop.isSome = true → exec (.loopPacket n rep) s = .next (s.cpFail 4)) ∧
    (addr.toNat % 4 = 0 → s.cpHeld addr.toNat (4 * data.length) = false → ∀ m, s.cpWords s.cpCtx addr.toNat data = (none, m) →
      exec (.writeMemory addr data) s = .next m.cpDone) ∧
    (cl.toNat < s.clustersOf s.cur.part → exec (.writeCondWord cl g value) s = .next (State.cpDone { s with condQueue := s.condQueue ++
      [{ ctx := t.ctx, cl := 256 * s.cur.part + cl.toNat, slot := g.toNat, src := .packet, op := .replace, value := value, mask := 0 }] })) ∧
    (∀ x, s.stream part str = some x → ∃ u, exec (.doorbell part str len) s = .next u ∧ u.stream part str = some { x with tail := len })

/-- R353, R355, R363 to R365: a wait goes on once the masked word meets its condition and else polls it; wait idle goes on once COMPLETED is LAUNCHED; an event without waits writes its value and sends its message, if the host has enabled its vector; one with after waits until COMPLETED is what LAUNCHED is now, and is otherwise as without; one with pre asks for the pre-emption of its context on every cluster of the partition that runs it, and then waits for its halt, or is as without where it is halted; a budget holds from the next window; a sched with tables in range that loads takes them, reading the eviction entries, and sets step and look-ahead, and one that does not load keeps the tables; where the step rises by one to that of the single eviction entry, the range that it names is evicted if the entry says so, and an entry with a reserved field or without a range is skipped with its status bit; at its deadline a range not resident sets the condition bit of its entry, where the partition has the cluster that it names. -/
def Obligations.WaitsAndEvents : Prop :=
  ∀ (cond : BitVec 2) (addr mask value w : Word) (vec : BitVec 11) (ctx : BitVec 12) (cls : BitVec 3) (bud : BitVec 24) (lk : BitVec 4)
    (step sa ea : Word) (sn en : BitVec 32) (part str i : Nat) (s : State) (t : Stream), atCp s t →
    let done := s.modStream s.cur.part s.cur.stream Stream.finish
    let x := (w &&& mask).toNat
    let holds : Prop := match cond.toNat with
      | 0 => x = value.toNat
      | 1 => x ≠ value.toNat
      | 2 => value.toNat ≤ x
      | _ => x < value.toNat
    let wait (v : CpWait) : State := s.modStream s.cur.part s.cur.stream (fun t => { t with wait := v })
    (let f := s.meetVa s.cpCtx addr.toNat 8
     f.cpWord addr = .ok w → (holds → exec (.waitPacket cond addr mask value) s = .next f.cpDone) ∧
      (¬ holds → exec (.waitPacket cond addr mask value) s = .next (f.cpWait (.poll cond addr mask value)))) ∧
    (∀ y, s.stream part str = some y → y.wait = .poll cond addr mask value →
      let u : State := ({ s with cur := { s.cur with part := part, stream := str } } : State).meetVa y.ctx addr.toNat 8
      u.cpWord addr = .ok w → (holds → exec (.waitPoll part str) s = .next u.cpDone) ∧
        (¬ holds → exec (.waitPoll part str) s = .next u)) ∧
    (t.completed = t.launched → exec .waitIdle s = .next done) ∧
    (t.completed ≠ t.launched → exec .waitIdle s = .next (wait (.idle t.launched))) ∧
    let on : Prop := (s.cur.part, vec.toNat) ∈ s.msix
    (addr = 0 → (on → exec (.event false false vec addr value ctx) s = .next { done with outbox := done.outbox ++ [.msix s.cur.part vec.toNat] }) ∧
      (¬ on → exec (.event false false vec addr value ctx) s = .next done)) ∧
    (∀ m : State, addr ≠ 0 → addr.toNat % 8 = 0 → s.cpHeld addr.toNat 8 = false →
      s.writeVa s.cpCtx addr.toNat (bytesOf 8 value.toNat) = .ok m →
      exec (.event false false vec addr value ctx) s = .next (if (m.cur.part, vec.toNat) ∈ m.msix
        then { m.cpDone with outbox := m.outbox ++ [.msix m.cur.part vec.toNat] } else m.cpDone)) ∧
    (addr.toNat % 8 = 0 → ∀ p : Bool,
      (t.completed = t.launched → exec (.event p true vec addr value ctx) s = exec (.event p false vec addr value ctx) s) ∧
      (t.completed ≠ t.launched → exec (.event p true vec addr value ctx) s = .next (wait (.eventIdle t.launched p vec.toNat addr value ctx.toNat)))) ∧
    (addr.toNat % 8 = 0 → (look s.ctxs ctx.toNat).isSome = true →
      let u := s.preemptOn ctx.toNat (fun c => c / 256 == s.cur.part)
      (∀ c, c / 256 = s.cur.part → (s.cl c).ctx = some ctx.toNat → (s.cl c).tasks ≠ [] → u.preemptPending c = true) ∧
      ((∀ p ∈ s.clusters, p.1 / 256 = s.cur.part → p.2.ctx = some ctx.toNat → p.2.tasks = []) →
        exec (.event true false vec addr value ctx) s = exec (.event false false vec addr value ctx) u) ∧
      ((∃ p ∈ s.clusters, p.1 / 256 = s.cur.part ∧ p.2.ctx = some ctx.toNat ∧ p.2.tasks ≠ []) →
        exec (.event true false vec addr value ctx) s =
          .next (u.modStream u.cur.part u.cur.stream (fun t => { t with wait := .eventHalt vec.toNat addr value ctx.toNat })))) ∧
    (cls.toNat ≤ 5 → exec (.budget cls bud) s = .next (done.modPart s.cur.part (fun p => { p with newBudgets := place p.newBudgets cls.toNat bud }))) ∧
    (5 < cls.toNat → exec (.budget cls bud) s = .next (s.cpFail 3)) ∧
    (4096 < sn.toNat ∨ 4096 < en.toNat ∨ sa.toNat % 32 ≠ 0 ∨ ea.toNat % 16 ≠ 0 →
      exec (.sched true lk step sa sn ea en) s = .next (s.cpFail 10)) ∧
    (sn.toNat ≤ 4096 → en.toNat ≤ 4096 → sa.toNat % 32 = 0 → ea.toNat % 16 = 0 → ∃ u y, exec (.sched true lk step sa sn ea en) s = .next u ∧ atCp u y ∧
      y.pf.step = step ∧ y.pf.saddr = sa.toNat ∧ y.pf.scount = sn.toNat ∧ y.pf.eaddr = ea.toNat ∧ y.pf.ecount = en.toNat ∧ y.pf.next = 0 ∧
      y.pf.evicts = (s.meetVa t.ctx ea.toNat (16 * en.toNat)).readEvicts t.ctx ea.toNat en.toNat ∧ y.pf.look = if lk = 0 then t.pf.look else lk.toNat) ∧
    (∃ u y, exec (.sched false lk step sa sn ea en) s = .next u ∧ atCp u y ∧ y.pf.step = step ∧ y.pf.saddr = t.pf.saddr ∧ y.pf.scount = t.pf.scount ∧
      y.pf.eaddr = t.pf.eaddr ∧ y.pf.ecount = t.pf.ecount ∧ y.pf.next = t.pf.next ∧ y.pf.held = t.pf.held ∧ y.pf.evicts = t.pf.evicts ∧
      (y.pf.look = if lk = 0 then t.pf.look else lk.toNat) ∧
      ∀ e : Word × Word, t.pf.evicts = [some e] → e.1.getLsbD 63 = true → step.toNat = t.pf.step.toNat + 1 → bitsOf e.1 31 0 = step.toNat % 2 ^ 32 →
        let h := bitsOf e.1 43 32
        let sound : Prop := bitsOf e.1 61 44 = 0 ∧ e.2 = 0
        (∀ j v, sound → s.rangeIn t.ctx h = some (j, v) → y.pf.status = t.pf.status ∧
          u.pool = if e.1.getLsbD 62 = true then (v.evict j false).pool else v.pool) ∧
        (¬ sound ∨ s.rangeIn t.ctx h = none → u.pool = s.pool ∧ y.pf.status = t.pf.status ||| 0x8000)) ∧
    (∀ y v d, s.stream part str = some y → y.pf.watches[i]? = some v → v.due = some d → d ≤ s.now →
      let there := (match s.range v.range with | none => false | some r => r.resident)
      let walker : Prop := bitsOf v.entry.q0 51 36 < s.clustersOf part
      ∃ u, exec (.deadlineMiss part str i) s = .next u ∧
        (there = true ∨ v.entry.q0.getLsbD 61 = false ∨ ¬ walker → u.condQueue = s.condQueue) ∧
        (there = false → v.entry.q0.getLsbD 61 = true → walker → u.condQueue = s.condQueue ++
          [{ ctx := y.ctx, cl := 256 * part + bitsOf v.entry.q0 51 36, slot := bitsOf v.entry.q0 60 58, src := .deadline, op := .set,
             value := BitVec.ofNat 64 (2 ^ bitsOf v.entry.q0 57 52), mask := 0 }]))

/-! ## Gangs (25 R421 to R429, 11 R199 to R201) -/

/-- R421 to R423: an invalid Sync is ignored; a one-step Sync, or a two-step one with its follow-up, gives the offset from the grandmaster, less the mean path delay of its port, and is answered by a delay request, whose response gives that delay; a valid one is kept as the last, and the eighth in a row below 50 ns ends holdover; a locked clock without a Sync for 250 ms enters holdover, and 2 s later is lost, which ends the leases held and granted and owes each partition a clock-lost trap; after 1 s of locked conditions it locks, the first time by a jump forward to the grandmaster's time. What a valid Sync is and which conditions are locked is the model's reading (log entries 29 and 84), as are a delay request at every Sync (log entry 92) and the end of the leases granted (log entry 38). -/
def GangClockEvents : Prop :=
  ∀ (m : SyncMsg) (port seq : Nat) (t1 : Int) (s : State),
    let c := s.clock
    let ms := 357000000
    let kept : Prop := ∃ t, c.lastSync = some t ∧ s.tick < t + 250 * ms
    let heard (off : Int) (i : Instr) : Prop := ∃ t, exec i s = .next t ∧ t.clock.lastSync = some s.tick ∧ t.gang = s.gang ∧ t.clock.corr = -off * 3570000 ∧
      (off.natAbs < 50 → t.clock.goodRun = c.goodRun + 1) ∧ (50 ≤ off.natAbs → t.clock.goodRun = 0) ∧
      t.clock.state = (if c.state = 1 ∧ off.natAbs < 50 ∧ 7 ≤ c.goodRun then 0 else c.state) ∧ t.clock.delays = c.delays ∧
      ∃ rest, t.outbox = s.outbox ++ .delayReq port seq :: rest
    (exec (.syncMessage false m) s = .next s) ∧
    (1 < port → exec (.syncMessage true (.oneStep port seq t1)) s = .next s ∧ exec (.syncMessage true (.twoStep port seq)) s = .next s) ∧
    (port ≤ 1 → heard ((s.now : Int) - t1 - tget 0 c.delays port) (.syncMessage true (.oneStep port seq t1)) ∧
      exec (.syncMessage true (.twoStep port seq)) s = .next { s with clock := { c with
        syncs := c.syncs.filter (fun x => x.port != port) ++ [{ port := port, seq := seq, t2 := s.now, t1 := none, t3 := none }] } }) ∧
    (∀ r, c.syncs.find? (fun r => r.port == port && r.seq == seq) = some r →
      (r.t1 = none → heard (r.t2 - t1 - tget 0 c.delays port) (.syncMessage true (.followUp port seq t1))) ∧
      (∀ a b t4, r.t1 = some a → r.t3 = some b → exec (.syncMessage true (.delayResp port seq t4)) s =
        .next { s with clock := { c with delays := tset 0 c.delays port ((r.t2 - a + (t4 - b)) / 2) } })) ∧
    (c.state = 0 → ¬ kept → ∃ t, exec .holdoverEntry s = .next t ∧ t.clock.state = 1 ∧ t.clock.holdAt = s.tick) ∧
    (c.state = 0 → kept → exec .holdoverEntry s = .next s) ∧
    (c.state = 1 → c.holdAt + 2000 * ms ≤ s.tick → ∃ t, exec .clockLostEntry s = .next t ∧ t.clock.state = 2 ∧
      (∀ p ∈ t.parts, p.2.clockTrap = true) ∧ t.mem.granted = [] ∧ ∀ p ∈ t.ctxs, ∀ l ∈ p.2.leases, l.granted = none) ∧
    (∀ a, c.state = 2 → c.goodSince = some a → a + 1000 * ms ≤ s.tick → kept → ∃ t, exec .clockLock s = .next t ∧ t.clock.state = 0 ∧
      t.clock.everLocked = true ∧ t.gang = (if c.everLocked then s.gang else s.gang + c.corr.toNat))

/-- R424, R425, R427, R429, 21 R349: a timed packet whose records read well waits for its instant, or is not made where a straggler notice of its gang has come; at T − 2 µs its outgoing contexts stop injecting; a ready member launches at T, not after T + tol; one whose cluster has gone is refused with code 8; reports, tokens and notices are kept once; a member that lacks a report at T + tol, or in clock-lost state a token at the end of tol from its own, notifies the others. -/
def TimedLaunches : Prop :=
  ∀ (pre : Bool) (tm addr rec0 tok : Word) (g : GangRec) (l : LaunchWait) (part str src : Nat) (x : Stream) (r : TimedRec) (gang : BitVec 32) (s : State),
    let r0 : TimedRec := { t := tm.toNat, pre := pre, gang := g.gang, members := g.members, tol := g.tol, rank := g.rank, halted := none, ready := none, tokenAt := none, checked := false, launched := false, ended := false, task := none, launch := some l, graph := none }
    let f := s.fillRecord s.cpCtx rec0.toNat (fun h => (2 * bitsOf (h.getD 0 0) 31 21 + 31) / 32)
    let h := f.fillRecord f.cpCtx addr.toNat (fun h => (launchOf h).items)
    (f.readGang f.cpCtx rec0.toNat = .ok g → h.readLaunch h.cpCtx addr.toNat none pre h.cpOrigin = .ok l →
      ((∀ y ∈ h.fabric.gangIn, y.1 ≠ 7 ∨ y.2.1 ≠ g.gang) → ∀ c, atCp h c → ∃ t y, exec (.timed pre false tm addr rec0) s = .next t ∧ atCp t y ∧
        y.wait = .timed r0 ∧ y.launched = c.launched)) ∧
    (∀ e, f.readGang f.cpCtx rec0.toNat = .error e → exec (.timed pre false tm addr rec0) s = .next (f.cpFail e)) ∧
    (s.stream part str = some x → x.wait = .timed r →
      (r.halted = none → r.t ≤ s.now + 2000 → r.pre = false → ∃ t, exec (.gangInjectHalt part str) s = .next t ∧
        (t.stream part str).map (fun y => y.wait) = some (.timed { r with halted := some (s.outgoing x.ctx (s.timedClusters x.ctx r)) }) ∧
        ∀ i ∈ s.outgoing x.ctx (s.timedClusters x.ctx r), ∀ y, look t.ctxs i = some y → y.noInject = true) ∧
      (s.now + 2000 < r.t → exec (.gangInjectHalt part str) s = .next s) ∧
      ((r.launch.any (fun l => s.noCluster (l.key s)) || r.graph.any (fun g => s.noCluster g.1)) = true →
        exec (.timedLaunchInstant part str) s = .next (((s.liftInject r).gangDrop 8 r.gang).failStream part str 8)) ∧
      (∀ a, s.clock.state ≠ 2 → r.tokenAt = none → r.ready = some a →
        (r.launch.any (fun l => s.noCluster (l.key s)) || r.graph.any (fun g => s.noCluster g.1)) = false →
        let u := (s.setTimed part str r).atStream part str
        (r.t + r.tol < a → exec (.timedLaunchInstant part str) s = .next (u.noLaunch part str r)) ∧
        (a ≤ r.t + r.tol → s.now < r.t → exec (.timedLaunchInstant part str) s = .next u) ∧
        (a ≤ r.t + r.tol → r.t ≤ s.now → ∀ v, u.makeTimed part str x.ctx r = some v → exec (.timedLaunchInstant part str) s = .next v)) ∧
      (x.gangs = [] → r.checked = false → r.ended = false → r.launched = false → r.tokenAt = none → r.t + r.tol ≤ s.now →
        ∀ k, s.gangMissing 6 r.gang r.members 0 = some k → exec (.stragglerCheck part str) s = .next
          (((s.gangDrop 6 r.gang).tellGang part 7 r.gang r.members k).noLaunch part str r)) ∧
      (∀ a, x.gangs = [] → r.checked = false → r.ended = false → r.launched = false → r.tokenAt = some a → a + r.tol ≤ s.now →
        ∀ k, s.gangMissing 8 r.gang r.members (BitVec.ofNat 64 r.t) = some k → exec (.stragglerCheck part str) s = .next
          ((s.tellGang part 7 r.gang r.members k).noLaunch part str r))) ∧
    (∃ t, exec (.readyReport gang src) s = .next t ∧ (6, gang, src, 0) ∈ t.fabric.gangIn ∧ ∀ y ∈ s.fabric.gangIn, y ∈ t.fabric.gangIn) ∧
    (∃ t, exec (.barrierToken gang tok src) s = .next t ∧ (8, gang, src, tok) ∈ t.fabric.gangIn ∧ ∀ y ∈ s.fabric.gangIn, y ∈ t.fabric.gangIn) ∧
    ((∀ y ∈ s.allStreams, (∀ z ∈ y.2.2.gangs, z.gang ≠ gang) ∧ ∀ z, y.2.2.wait = .timed z → z.gang ≠ gang) →
      ∃ t, exec (.stragglerNotice gang { rank := src, pub := none }) s = .next t ∧ (7, gang, src, 0) ∈ t.fabric.gangIn)

/-- R199 to R201, R255: a publication whose writes are performed exchanges live and shadow at once at every scope but gang, and waits till then; at gang scope it first asks the other members, and once they have answered chooses the first boundary of 8 µs at 16 µs or later, sends its notices, and exchanges at that instant; a member's notice that comes in time asks for the exchange; a late one is a straggler, as is what a straggler notice that names the publication says: the gang context takes straggler faults, and the exchange is not made, or undone where it has been. The notice that names the publication, and the questions to members and their answers, are the model's (log entry 29). -/
def PublicationExchanges : Prop :=
  ∀ (ctx idx src : Nat) (tp : Word) (r : PubReq) (x : Context) (s : State), look s.ctxs ctx = some x →
    let lost := s.pubReqs.filter (fun q => q.scope == .gang && q.tp.isSome && q.ctx == ctx && q.idx == idx)
    let struck (t : State) : Prop := t.pubReqs = s.pubReqs.filter (fun q => !lost.contains q) ∧
      (∀ c k z, (s.cl c).ctx = some ctx → (s.sq c k z).running = true → ∃ f, (t.sq c k z).pend = (s.sq c k z).pend ++ [f] ∧ f.code = codeStraggler) ∧
      (lost.all (fun q => !q.done) = true → t.ctxs = s.ctxs) ∧
      ∀ q, lost = [q] → q.done = true → ∃ y, look t.ctxs ctx = some y ∧ (tget {} y.pubs idx).q0 = (tget {} x.pubs idx).q0 ^^^ (1 <<< 62) ∧
        (tget {} y.pubs idx).q3 = q.before
    let peers := x.gangMembers.filter (fun p => p ≠ s.fabric.self)
    let left := (s.pubReqs.erase r).filter (fun y => !(y.done && y.ctx == r.ctx && y.idx == r.idx))
    (s.pubReqs.find? (fun y => !y.done && y.ctx == ctx && y.idx == idx) = some r →
      (r.tp = none → r.scope ≠ .gang → r.waits = none →
        (s.pubBusy r x.pubs = true → exec (.publishExchange ctx idx) s = .next s) ∧
        (s.pubBusy r x.pubs = false → ∃ t y, exec (.publishExchange ctx idx) s = .next t ∧ look t.ctxs ctx = some y ∧ t.pubReqs = left ∧
          (tget {} y.pubs idx).q0 = (tget {} x.pubs idx).q0 ^^^ (1 <<< 62) ∧ (tget {} y.pubs idx).q3 = BitVec.ofNat 64 s.now)) ∧
      (r.tp = none → r.scope = .gang →
        (r.waits = none → peers ≠ [] → ∃ t, exec (.publishExchange ctx idx) s = .next t ∧ t.ctxs = s.ctxs ∧
          t.pubReqs = s.pubReqs.map (fun y => if y = r then { r with waits := some peers } else y) ∧
          t.outbox = s.outbox ++ peers.map (fun p => .pubAsk p ctx idx)) ∧
        (∀ w ws, r.waits = some (w :: ws) → exec (.publishExchange ctx idx) s = .next s) ∧
        (r.waits = some [] ∨ r.waits = none ∧ peers = [] → s.pubBusy r x.pubs = false → s.clock.state ≠ 2 →
          exec (.publishExchange ctx idx) s =
            .next ((s.setPub r { r with tp := some ((s.now + 16000 + 7999) / 8000 * 8000) }).pubNotices r x.gangMembers
              ((s.now + 16000 + 7999) / 8000 * 8000)))) ∧
      (∀ n, r.tp = some n → n ≠ 0 → (s.now < n → exec (.publishExchange ctx idx) s = .next s) ∧
        (n ≤ s.now → exec (.publishExchange ctx idx) s = .next (s.pubSwap r)))) ∧
    (s.now ≤ tp.toNat → ∃ t y, exec (.publishNotice ctx idx tp) s = .next t ∧ t.pubReqs = s.pubReqs ++ [y] ∧ y.ctx = ctx ∧ y.idx = idx ∧
      y.scope = .gang ∧ y.tp = some tp.toNat) ∧
    (tp ≠ 0 → tp.toNat < s.now → ∃ t, exec (.publishNotice ctx idx tp) s = .next t ∧ struck t) ∧
    (∃ t, exec (.stragglerNotice x.gang { rank := src, pub := some (ctx, idx) }) s = .next t ∧ struck t)

/-- PacketAdvance and StreamPackets, together. -/
def Obligations.PacketStreamResults : Prop := PacketAdvance ∧ StreamPackets

/-- GangClockEvents, TimedLaunches and PublicationExchanges, together. -/
def Obligations.GangTime : Prop := GangClockEvents ∧ TimedLaunches ∧ PublicationExchanges

/-! ## Management and the host (01 R14 to R22, 27 R443, R448 to R457, 23 R376, R384 to R387) -/

/-- A mailbox command is done, or answered with a status and no other effect (R457). -/
def Done (i : Instr) (s : State) (f : State) : Prop := exec i s = .next { f with outbox := f.outbox ++ [.status 0] }
def Answered (i : Instr) (s : State) (n : Nat) : Prop := exec i s = .next { s with outbox := s.outbox ++ [.status n] }

/-- R452, R455, R19, 21 R342: with the control core up, a partition of free layers, one computing, is created with clusters numbered from 0 and the routines of set-up; a context of a free id with an aligned root in an existing partition, while fewer than 64 exist, is created resident; destroying one frees its id and what it held; a stream is bound to a context of its partition with an empty ring; clearing ERROR lets it go on. Which refused command is answered with status 1 and which with 2 is the model's choice (log entry 70). -/
def Obligations.PartitionsAndContexts : Prop :=
  ∀ (p : PartitionRec) (c : ContextRec) (n part str size : Nat) (base : BitVec 52) (y : Partition) (s : State), s.boot = .up → s.role = none →
    (p.num < 6 → p.roles.length = 6 → p.layers ≠ [] → (∀ l ∈ p.layers, l < 6 ∧ s.partOf.getD l 6 = 6) → p.layers.Nodup → p.service.toNat % 4 = 0 →
      look s.parts p.num = none → p.vf ≤ 5 → (∀ q ∈ s.parts, q.2.vf ≠ p.vf) → p.bar2Size ≤ 2 ^ 36 → (∃ l ∈ p.layers, p.roles.getD l false = true) →
      (∀ x ∈ [p.overflow, p.egress, p.parked], x.1 + x.2 ≤ 0x6000000000) → ∃ t z, exec (.partitionCreate p) s = .next t ∧ look t.parts p.num = some z ∧ z.service = p.service ∧
        (∀ l, l ∈ z.layers ↔ l ∈ p.layers) ∧ (∀ l, l ∈ p.layers → t.partOf.getD l 6 = p.num ∧ t.roles.getD l true = p.roles.getD l true) ∧
        z.overflow = p.overflow ∧ z.egress = p.egress ∧ z.parked = p.parked ∧ z.vf = p.vf ∧ z.bar2 = p.bar2 ∧ z.bar2Size = p.bar2Size ∧ (∀ i, i < 24 * (z.layers.filter (fun l => t.roles.getD l true)).length → t.cl (256 * p.num + i) = newCluster) ∧ t.mem = s.mem) ∧
    (c.id < 0xFFF → c.root % 256 = 0 → physOk c.root = true → (∀ x ∈ c.spill, spillOk x.2.2.1 x.2.2.2 = true) → look s.ctxs c.id = none →
      look s.parts c.part = some y → s.ctxs.length < 64 → ∃ t x, exec (.contextCreate c) s = .next t ∧ look t.ctxs c.id = some x ∧
        x.part = c.part ∧ x.root = c.root ∧ x.handler = c.handler ∧ x.state = .resident ∧ x.caps = [] ∧ x.leases = [] ∧ x.parkedMax = c.parked ∧
        (∀ i, i ≠ c.id → look t.ctxs i = look s.ctxs i) ∧ t.clusters = s.clusters) ∧
    (look s.ctxs c.id ≠ none → Answered (.contextCreate c) s (if 0xFFE < c.id ∨ c.root % 256 ≠ 0 ∨ physOk c.root = false ∨
      (∃ x ∈ c.spill, spillOk x.2.2.1 x.2.2.2 = false) then 2 else 1)) ∧
    ((look s.ctxs n).isSome = true → ∃ t, exec (.contextDestroy n) s = .next t ∧ look t.ctxs n = none ∧
      (∀ x ∈ t.clusters, x.2.ctx ≠ some n) ∧ (∀ h ∈ t.shadow, h.ctx ≠ n) ∧ (∀ q ∈ t.pool.reqs, q.ctx = n → n = 0xFFF) ∧ (∀ b ∈ t.banked, b.ctx ≠ n) ∧ ∀ e ∈ t.mem.tlb, e.ctx ≠ n) ∧
    ((look s.ctxs n).isNone = true → Answered (.contextDestroy n) s 1) ∧
    (∀ x, look s.parts part = some y → look s.ctxs n = some x → x.part = part → str < 8 → 12 ≤ size → size ≤ 24 → base.toNat % 2 ^ size = 0 →
      ∃ t z, exec (.streamBind part str n base size) s = .next t ∧ t.stream part str = some z ∧ z.ctx = n ∧ z.head = 0 ∧ z.tail = 0 ∧
        z.launched = 0 ∧ z.completed = 0 ∧ z.error = 0 ∧ z.levels = [{ base := base.toNat, len := 2 ^ size, pos := 0, loop := none }]) ∧
    (∀ z, s.stream part str = some z → ∃ t, exec (.errorClear part str) s = .next t ∧ t.stream part str = some { z with error := 0 })

/-- R376, R224, R384, R386, R387, R448, R456, R443, 03 R56: management writes a capability slot and a handle, gives a fence number, ends fenced state with no resident pool data, lease or buffered write, loads a key, sets the power cap within 1.2 to 3.0 kW, asks for pre-emption, and starts a halted core whose sequencers ran, at their checkpoints, after a context saved there takes the cluster; outside their ranges, or where it may not, they are refused, with status 1 or 2 as log entry 70 chooses. -/
def ManagementCommands : Prop :=
  ∀ (n slot i c k w : Nat) (v : BitVec 128) (tag : Bool) (q0 q1 q2 fence : Word) (pkg : BitVec 16) (key : BitVec 512) (x : Context) (s : State), s.boot = .up → s.role = none →
    (look s.ctxs n = some x → slot < 65536 → ∃ t y, exec (.capSlotWrite n slot v tag) s = .next t ∧ look t.ctxs n = some y ∧
      (tag = true → look y.caps slot = some v) ∧ (tag = false → look y.caps slot = none) ∧ y.handles = x.handles) ∧
    (look s.ctxs n = some x → i < 4096 → ∃ t y, exec (.handleWrite n i q0 q1 q2) s = .next t ∧ look t.ctxs n = some y ∧
      tget {} y.handles i = { q0 := q0, q1 := q1, q2 := q2, q3 := 0 } ∧ ∀ j, j ≠ i → tget {} y.handles j = tget {} x.handles j) ∧
    (fence ≠ 0 → s.pool.fenced = false → Done (.fenceAssign pkg fence) s { s with pool := { s.pool with pkg := pkg, fence := fence, seq := 0 } }) ∧
    (fence ≠ 0 → s.pool.fenced = true → ∃ t, exec (.fencedStateExit pkg fence) s = .next t ∧ t.pool.fenced = false ∧ t.pool.pkg = pkg ∧
      t.pool.fence = fence ∧ t.pool.seq = 0 ∧ t.pool.reqs = [] ∧ t.pool.lines = [] ∧ (∀ p ∈ t.clusters, p.2.pwb = []) ∧ ∀ p ∈ t.ctxs, p.2.leases = []) ∧
    (s.pool.fenced = false → fence ≠ 0 → Answered (.fencedStateExit pkg fence) s 1) ∧
    (0 < i → i < 64 → ∃ t, exec (.keyLoad i key) s = .next t ∧ tget 0 t.keys i = key ∧ (∀ j, j ≠ i → tget 0 t.keys j = tget 0 s.keys j) ∧ t.mem = s.mem) ∧
    (1200 ≤ w → w ≤ 3000 → Done (.powerCapSet w) s { s with powerCap := w }) ∧
    (w < 1200 ∨ 3000 < w → Answered (.powerCapSet w) s 1) ∧
    (look s.ctxs n = some x → Done (.mgmtPreempt n) s (s.preemptAll n)) ∧
    (7 < k ∨ s.clustersOf (c / 256) ≤ c % 256 → Answered (.mgmtStart c k) s 2) ∧
    (k < 8 → c % 256 < s.clustersOf (c / 256) → ∀ y, s.comesBack c k = some y → (s.mayTake y c = false → Answered (.mgmtStart c k) s 1) ∧
      (s.mayTake y c = true → (look s.ctxs y).isSome = true → ∃ t, exec (.mgmtStart c k) s = .next t ∧ (t.cl c).ctx = some y)) ∧
    (k < 8 → c % 256 < s.clustersOf (c / 256) → (s.core c k).halted = true → (s.core c k).e.wasHalted = true →
      (s.sq c k false).wasRunning = true → ∃ t, exec (.mgmtStart c k) s = .next t ∧ (t.core c k).halted = false ∧
        (t.sq c k false).running = true ∧ (t.sq c k false).wasRunning = false ∧ (t.sq c k false).pc = (s.sq c k false).ckpt.pc ∧
        (t.sq c k true).running = ((s.sq c k true).running || (s.sq c k true).wasRunning))

/-- R17 to R22: a new role map that leaves the package and every partition a computing layer begins a change that holds the affected partitions and asks for the pre-emption of the drained tasks; step by step, as their conditions hold, drained clusters are flushed, with no line left to write back the ports of the changed layers go dark, clusters are renumbered, ports are lit, the partitions run again, and the command is answered: till then another waits (R457). -/
def RoleMapChanges : Prop :=
  ∀ (n : Nat) (roles : List Bool) (r : RoleChange) (s : State),
    let changed := (List.range 6).filter (fun l => s.roles.getD l true != roles.getD l true)
    (s.boot = .up → roles.length = 6 → s.role = none → roles.any id = true →
      (∀ p ∈ s.parts, ∃ l ∈ p.2.layers, roles.getD l true = true) → changed ≠ [] →
      ∃ t z, exec (.roleMapSet roles) s = .next t ∧ t.role = some z ∧ z.step = .drain ∧ z.old = s.roles ∧ z.new = roles ∧ z.changed = changed ∧
        t.roles = s.roles ∧ (∀ m, .status m ∈ t.outbox → .status m ∈ s.outbox) ∧ ∀ p ∈ t.parts, p.2.layers.any changed.contains = true → p.2.held = true) ∧
    (s.boot = .up → roles.length = 6 → s.role = none → roles.any id = false → ∃ t, exec (.roleMapSet roles) s = .next t ∧ t.role = none ∧
      t.outbox = s.outbox ++ [.report "illegal role map" 0, .status 1]) ∧
    (s.boot = .up → s.role = some r → exec (.mgmtPreempt n) s = .next { s with mailQueue := s.mailQueue ++ [.preempt n] }) ∧
    (s.role = some r →
      (r.step = .drain → (∀ c ∈ s.keysOn r.old r.drained, (s.cl c).tasks = [] ∧ (∀ k, k < 8 → s.coreQuiet c k = true) ∧
        (s.cl c).landings = [] ∧ (s.cl c).pwb = []) → ∃ t, exec .roleFlush s = .next t ∧ t.role = some { r with step := .flush } ∧
          ∀ c ∈ s.keysOn r.old r.drained, (t.cl c).ctx = none ∧ ∀ e ∈ t.mem.tlb, e.cl ≠ some c) ∧
      (r.step = .flush → s.cacheLeft r = [] → s.storeLeft r = [] → ∃ t, exec .roleDark s = .next t ∧ t.role = some { r with step := .dark } ∧ t.darkPoolLayers = r.changed ∧
        ∀ l ∈ r.changed, ∀ p ∈ peerPortsOf l, p ∈ t.fabric.darkPorts) ∧
      (r.step = .dark → (∀ q ∈ s.pool.reqs, q.sends = 0 ∨ r.changed.contains (q.port / 16) = false) →
        ∃ t, exec .roleReenumerate s = .next t ∧ t.role = some { r with step := .renumber } ∧ t.roles = r.new) ∧
      (r.step = .renumber → ∃ t, exec .roleRelight s = .next t ∧ t.role = none ∧ t.darkPoolLayers = [] ∧ t.fabric.darkPorts = [] ∧
        (∃ pre, t.outbox = pre ++ [.status 0]) ∧ t.mailQueue = [] ∧ ∀ i ∈ s.mailQueue, .mail i ∈ t.agenda))

/-- R422, R423, R450, R453, R455, R456, R342: an image that passes its checks brings the control cores up with its measurement, the clocks from 0 in clock-lost state and the fused counter no lower, any other leaves recovery, that of L0 alone running; attestation reports what was measured, signed twice; reset gives the state of reset but for what is fused or outside; a die at 110 °C stops issue until it has cooled, and the contexts it stopped resume once no die is hot; a host read through BAR2 of unmarked memory returns its bytes, a partial write of an unmarked line of no SEAL 1 page puts them home, one without CRC on such a page poisons the line, a stream register reads as it stands, management reads error counters and sets the peer number, the host sets its message vectors, and an access to no memory stops. The model's choices: the fused counter (log entry 96), the memory that reset empties (76), the stop (77), the vectors (71), the key under which the host sees memory (31) and the page that a host write meets (95). -/
def BootPowerHost : Prop :=
  ∀ (img : BootImage) (bs : List Byte) (nonce : BitVec 256) (l part off n str reg : Nat) (crc : List (BitVec 32)) (p : Partition) (z : Stream) (s : State),
    (s.boot = .off → img.bytes = some bs → img.ed25519 = true → img.mldsa = true → s.fused ≤ img.version →
      exec (.powerOn img) s = .next { s with gang := 0, window := 0, clock := {}, boot := .up, measure := sha3_384 bs, fused := max s.fused img.fuse, controls := List.replicate 6 true }) ∧
    (s.boot = .off → img.bytes = none ∨ img.ed25519 = false ∨ img.mldsa = false ∨ img.version < s.fused →
      exec (.powerOn img) s = .next { s with gang := 0, window := 0, clock := {}, boot := .recovery, controls := [true, false, false, false, false, false] }) ∧
    (s.boot ≠ .off → s.role = none → exec (.attestationReport nonce) s =
      .next { s with outbox := s.outbox ++ [.attest s.measure nonce (Config.attestEd25519 s.measure nonce) (Config.attestMldsa s.measure nonce)] }) ∧
    (∃ t, exec .packageReset s = .next t ∧ t.boot = .off ∧ t.parts = [] ∧ t.ctxs = [] ∧ t.clusters = [] ∧ t.gang = 0 ∧ t.clock.state = 2 ∧
      t.mem.phys = [] ∧ t.mem.host = s.mem.host ∧ t.fused = s.fused) ∧
    (s.boot = .recovery → ∃ t, exec .recoveryExit s = .next t ∧ t.boot = .up ∧ t.gang = 0 ∧ t.clock.state = 2) ∧
    (l ∉ s.hotDies → ∃ t, exec (.thermalTrip l) s = .next t ∧ t.hotDies = s.hotDies ++ [l] ∧ t.outbox = s.outbox ++ [.report "110 C" (BitVec.ofNat 64 l)] ∧
      ∀ q ∈ s.clusters, ∀ x, q.2.ctx = some x → q.2.tasks ≠ [] → (x, q.1) ∈ t.tripped) ∧
    (l ∈ s.hotDies → exec (.thermalTrip l) s = .next s) ∧
    ((∃ d ∈ s.hotDies, d ≠ l) → exec (.thermalResume l) s = .next { s with hotDies := s.hotDies.filter (fun x => x ≠ l) }) ∧
    ((∀ d ∈ s.hotDies, d = l) → ∃ t, exec (.thermalResume l) s = .next t ∧ t.hotDies = [] ∧ t.tripped = [] ∧ ∀ x ∈ s.tripped, x ∈ t.resumes) ∧
    (look s.parts part = some p →
      let pa := p.bar2 + off
      let plain (k : Nat) : Prop := ∀ i, i < k → physOk (pa + i) = true ∧ tget none s.mem.marks ((pa + i) / 64) = none ∧ tget none s.mem.cipher ((pa + i) / 64) = none
      (off + n ≤ p.bar2Size → plain n → (∀ h ∈ s.mem.hist, h.pa < pa ∨ pa + n ≤ h.pa) →
        exec (.hostAccess (.read part off n)) s = .next { s with outbox := s.outbox ++ [.hostRead ((List.range n).map (fun i => tget 0 s.mem.phys (pa + i)))] }) ∧
      (off + bs.length ≤ p.bar2Size → plain bs.length → pa % 64 + bs.length < 64 → bs ≠ [] → s.mem.granted = [] →
        (s.sealedAt part pa = none → ∃ t, exec (.hostAccess (.write part off bs crc)) s = .next t ∧ (∀ i b, bs[i]? = some b → tget 0 t.mem.phys (pa + i) = b) ∧
          ∀ a, a < pa ∨ pa + bs.length ≤ a → tget 0 t.mem.phys a = tget 0 s.mem.phys a) ∧
        ((s.sealedAt part pa).isSome = true → crc = [] → ∃ t m, exec (.hostAccess (.write part off bs crc)) s = .next t ∧ tget none t.mem.marks (pa / 64) = some m ∧ m.kind = 2)) ∧
      (p.bar2Size < off + n → exec (.hostAccess (.read part off n)) s = .next s) ∧
      (∀ i, i < n → off + n ≤ p.bar2Size → physOk (pa + i) = false → ∃ a, exec (.hostAccess (.read part off n)) s = .fault (.noMemory a) ∧
        pa ≤ a ∧ a < pa + n ∧ physOk a = false)) ∧
    (s.stream part str = some z → ∃ v, exec (.hostAccess (.streamReg part str reg)) s = .next { s with outbox := s.outbox ++ [.reply v] } ∧
      (reg = 2 → v = z.head.zeroExtend 64) ∧ (reg = 3 → v = z.tail.zeroExtend 64) ∧ (reg = 4 → v = z.launched) ∧ (reg = 5 → v = z.completed) ∧
      (reg = 6 → v = z.error)) ∧
    (s.boot = .up → s.role = none → exec (.hostAccess (.portErrors n)) s = .next { s with outbox := s.outbox ++ [.reply (BitVec.ofNat 64 (tget 0 s.pool.errors n))] } ∧
      exec (.hostAccess (.peerErrors n)) s = .next { s with outbox := s.outbox ++ [.reply (BitVec.ofNat 64 (tget 0 s.fabric.errors n))] } ∧
      (n ≤ 992 → Done (.hostAccess (.peerNumber n)) s { s with fabric := { s.fabric with self := n } })) ∧
    (part ≤ 6 → n ≤ 2047 → ∀ b, ∃ t, exec (.hostAccess (.vectorEnable part n b)) s = .next t ∧ ((part, n) ∈ t.msix ↔ b = true) ∧
      ∀ p, p ≠ (part, n) → (p ∈ t.msix ↔ p ∈ s.msix))

/-- ManagementCommands, RoleMapChanges and BootPowerHost, together. -/
def Obligations.ManagementAndRoles : Prop := ManagementCommands ∧ RoleMapChanges ∧ BootPowerHost

/-! ## Results, traps and the whole machine -/

/-- R48, R118: an op of fixed latency leaves one result in flight with its cycle, site, writes and flags, and changes nothing else: no register or flag, no other core or cluster, no byte of memory. -/
def ResultsInFlight : Prop :=
  ∀ (lat : Nat) (ws : List PWrite) (fl : BitVec 6) (s : State),
    let t := s.pend lat ws fl
    let r : Pend := { id := s.fresh, land := s.cycle + lat, issued := s.cycle, sec := s.cur.sec, slot := s.cur.slot, pc := s.cur.pc, writes := ws, flags := fl }
    t.here = { s.here with pending := s.here.pending ++ [r] } ∧
    (∀ c k, (c, k) ≠ (s.cur.cl, s.cur.core) → t.core c k = s.core c k) ∧
    (∀ c, (t.cl c).scratch = (s.cl c).scratch ∧ (t.cl c).fe = (s.cl c).fe ∧ (t.cl c).capTag = (s.cl c).capTag ∧ (t.cl c).landings = (s.cl c).landings ∧
      (t.cl c).e = (s.cl c).e) ∧
    t.mem = s.mem ∧ t.ctxs = s.ctxs ∧ t.parts = s.parts ∧ t.pool = s.pool ∧ t.fabric = s.fabric ∧ t.xfers = s.xfers ∧ t.outbox = s.outbox

/-- R48, R77, R118, R119: a result that lands without an enabled flag sets its flags and writes just what it says; g0 and g32 take nothing; one with an enabled flag writes nothing, sets its flags, and is an arithmetic trap with its slot and those flags. Every other register of its file, and every other byte of the arena, stays. -/
def ResultsLand : Prop :=
  ∀ (c k : Nat) (p : Pend) (n m : Nat) (v : Word) (bv : BitVec 52) (ov : BitVec 32) (kv : Cap) (vw : View) (bs : List (Nat × Byte)) (cl : List Nat) (s : State),
    let on := p.flags.toNat % 32 &&& (s.core c k).e.fpen.toNat % 32
    let set := s.modE c k (fun e => { e with raised := e.raised ||| p.flags })
    let e := (s.core c k).e
    let land (w : PWrite) : Core := (s.landWrite c k p w).core c k
    (on = 0 → s.landPend c k p = (none, p.writes.foldl (fun t w => t.landWrite c k p w) set)) ∧
    (on ≠ 0 → (s.landPend c k p).2 = set ∧ ∃ x, (s.landPend c k p).1 = some x ∧ x.trap = trapR codeArith (p.slot * 256 + on) p.pc.toNat ∧ x.core = k ∧ x.sec = p.sec) ∧
    ((land (.g n v)).e.rG m = if m % 32 = 0 then 0 else if m = n then v else e.rG m) ∧
    (tget 0 (land (.m n v)).e.m m = if m = n then v else tget 0 e.m m) ∧
    (tget 0 (land (.b n bv)).e.b m = if m = n then bv else tget 0 e.b m) ∧
    (tget 0 (land (.o n ov)).e.o m = if m = n then ov else tget 0 e.o m) ∧
    (tget 0 (land (.p n v)).e.p m = if m = n then v else tget 0 e.p m) ∧
    (tget {} (land (.k n kv)).e.k m = if m = n then kv else tget {} e.k m) ∧
    (2 ≤ n → n < 22 → m < 22 → (land (.view n vw)).e.view m = if m = n then vw else e.view m) ∧
    (∀ a, a ∉ bs.map (·.1) → tget 0 (land (.arena bs cl)).arena a = tget 0 (s.core c k).arena a) ∧
    ((bs.map (·.1)).Nodup → ∀ b ∈ bs, tget 0 (land (.arena bs cl)).arena b.1 = b.2) ∧
    (∀ w ∈ [PWrite.g n v, .m n v, .b n bv, .o n ov, .p n v, .k n kv, .view n vw, .arena bs cl],
      (s.landWrite c k p w).mem = s.mem ∧ (land w).e.flags = e.flags ∧ (land w).e.mode = e.mode ∧ (land w).e.trapPc = e.trapPc ∧ (land w).e.q = e.q ∧
      ((∀ i u, w ≠ .g i u) → (land w).e.g = e.g) ∧ ((∀ l i, w ≠ .arena l i) → (land w).arena = (s.core c k).arena))

/-- R55, R433, R436, R437: a trap, other than a timing trap or one of emulation, of a sequencer in task mode whose context has a handler writes TRAP.CAUSE, INFO, ADDR and PC, sets service mode, saves both checkpoints with whether each sequencer ran or waited to resume (log entry 57), and lets the trapping sequencer alone run, at the handler with an empty loop stack; g registers and memory stay. In service mode it halts the core and is reported, one of emulation too (R437); with no handler it halts the cores of the context. -/
def TrapEntry : Prop :=
  ∀ (c k : Nat) (sec : Bool) (r : TrapRec) (x : Context) (s : State),
    let e := (s.core c k).e
    let t := s.deliver c k sec r
    let f := (t.core c k).e
    (r.code ≠ codeTiming → e.mode = true → (t.core c k).halted = true ∧ (∀ z, (f.sq z).running = false ∧ (f.sq z).ckpt = (e.sq z).ckpt) ∧
      .report "double trap" ((0 : BitVec 53) ++ (1 : BitVec 1) ++ BitVec.ofBool r.async ++ BitVec.ofBool sec ++ r.code) ∈ t.outbox) ∧
    (r.code ≠ codeTiming → r.code ≠ codeEmul → r.code ≠ codeSvc → r.code ≠ codeClockLost → s.ctxOf c = some x →
    (e.mode = false → x.handler ≠ 0 →
      f.mode = true ∧ f.trapInfo = r.info ∧ f.trapAddr = r.addr ∧ f.trapPc = (e.sq sec).ckpt.pc.zeroExtend 64 ∧
      f.trapCause = (0 : BitVec 53) ++ (0 : BitVec 1) ++ BitVec.ofBool r.async ++ BitVec.ofBool sec ++ r.code ∧ f.trapSec = sec ∧
      (f.sq sec).running = true ∧ (f.sq sec).pc = x.handler ∧ (f.sq sec).loops = [] ∧ (f.sq (!sec)).running = false ∧
      (∀ z, (f.sq z).saved = (e.sq z).ckpt ∧ (f.sq z).savedRunning = (e.sq z).running) ∧
      (∀ z, (f.sq z).savedPaused = (e.sq z).preempted) ∧ (e.prim.running = true → f.rsTop = e.prim.ckpt.rsTop ∧ f.mark = e.prim.ckpt.mark ∧ f.o = e.prim.ckpt.o) ∧
      f.g = e.g ∧ f.m = e.m ∧ f.k = e.k ∧ t.mem = s.mem ∧ (r.code ≠ codeData → t.outbox = s.outbox)) ∧
    (e.mode = false → x.handler = 0 → ∀ y ∈ t.clusters, y.2.ctx = (s.cl c).ctx → ∀ z ∈ y.2.cores, z.2.halted = true))

/-- R54, R55: a timing trap below the sixteenth in a row at a checkpoint enters no handler: both running sequencers go back to their checkpoints, and the core counts it. -/
def TimingReruns : Prop :=
  ∀ (c k : Nat) (sec : Bool) (r : TrapRec) (s : State), r.code = codeTiming → (s.sq c k sec).timingRow < 15 →
    let t := s.deliver c k sec r
    (t.core c k).e.mode = (s.core c k).e.mode ∧ (t.core c k).e.cntTiming = (s.core c k).e.cntTiming + 1 ∧
    (∀ z, (s.sq c k z).running = true → (t.sq c k z).running = true ∧ (t.sq c k z).pc = (s.sq c k z).ckpt.pc ∧ (t.sq c k z).loops = (s.sq c k z).ckpt.loops) ∧
    (t.sq c k sec).timingRow = (s.sq c k sec).timingRow + 1 ∧ (t.core c k).e.g = (s.core c k).e.g ∧ t.mem = s.mem

/-- R1, R23, R60, R421, R423, R452, R455 (log entries 1, 2): right after reset the clock is lost and GANG.NOW 0, the first budget window runs, nothing is launched and no partition, stream, context or task exists, the cores hold no task and are halted, no lazy unit carries a tag, and the memories are in canonical form with nothing listed. The register and memory values are the model's choice. -/
def Obligations.ResetState : Prop :=
  let s := State.reset
  s.clock.state = 2 ∧ s.clock.everLocked = false ∧ s.now = 0 ∧ s.window = 0 ∧ s.boot = .off ∧ s.parts = [] ∧ s.ctxs = [] ∧ s.xfers = [] ∧ s.agenda = [] ∧
  (∀ c k, (s.core c k).halted = true ∧ (s.core c k).task = none ∧ (s.core c k).e = {} ∧ (∀ i, tget 0 (s.core c k).bankTag i = 0 ∧ tget 0 (s.core c k).hotTag i = 0)) ∧
  (∀ c i, tget 0 (s.cl c).groupTag i = 0 ∧ tget 0 (s.cl c).scratch i = 0) ∧ Memory.wf s.mem = true ∧ ∀ a, tget 0 s.mem.phys a = 0

/-- R5, R448 (log entry 2): every step keeps the canonical form of the package's memories. -/
def Obligations.MemoryCanonicalKept : Prop :=
  ∀ s t : State, Memory.wf s.mem = true → step s = .next t → Memory.wf t.mem = true

/-- R62 to R85, R325, R346: decoding gives back every well-formed instruction from its encoding: an op of a bundle in the slot of its major with the lent bits of its immediate, a micro-op, and a packet from its header and payload. -/
def Obligations.EncodeDecodeAgree : Prop :=
  ∀ i : Instr, i.wf = true →
    (i.form = .op → decodeOp (homeSlot (majorOf (encodeOp i))) (encodeOp i) (lentOf i) = .ok i) ∧
    (i.form = .micro → decodeMicro (encodeMicro i) = some i) ∧
    (i.form = .packet → ∃ h ps, encodePacket i = h :: ps ∧ decodePacket h ps = .ok i)

/-- R62 to R70, R80, R325, R346: words whose fields the spec writes out decode to their instructions, in the slots that may hold them. -/
def Obligations.SpecWordsDecode : Prop :=
  (∀ t ∈ ([(slotC, 0x80000001, 0, .tend), (slotC, 0x9C283456, 9, .movi 5 0x123456), (slotC, 0x9430A040, 0, .addi 6 5 64), (slotC, 0x9238C300, 0, .mul false 7 6 6),
      (slotC, 0x04A55800, 0, .br 1 2 2 43), (slotV, 0x954D2001, 0, .addi 41 41 1), (slotC, 0x8F000000, 0, .phase .gang), (slotC, 0x8F100000, 0, .fence .gang),
      (slotC, 0xFC280080, 0, .csrr 5 1), (slotC, 0xFC000002, 0, .eret), (slotC, 0xFC000007, 0, .halt), (slotC, 0xFC0841C4, 0, .copyx .global .host 1 2 3),
      (slotC, 0xFC0841CC, 0, .copyx .own .host 1 2 3), (slotM, 0xAA403801, 0, .st 6 8 1 1), (slotM, 0xB0405000, 0, .tst 2 2 0), (slotM, 0xAE0080F0, 0, .vldm false false 0 4 15),
      (slotM, 0xBE000084, 0, .stage 0 1), (slotM, 0xBC000000, 0, .sbind 0 0), (slotM, 0xB8403200, 0, .lease 2 0 25), (slotM, 0xB8403240, 0, .lrel 2 0 25),
      (slotM, 0xB6400006, 0, .pld 6 0 2 0), (slotM, 0xB6402C15, 0, .patom 5 0 2 0 22), (slotV, 0x40182100, 0, .vadd false .ne 0 3 1 2), (slotV, 0xD2103820, 0, .vcvt 12 1 .ne false 2 1),
      (slotV, 0xDA402301, 0, .vscale 6 .ne 0 8 1), (slotV, 0xDA482400, 0, .vw2enc .ne 0 9 1 8), (slotV, 0xCC81E100, 0, .vrsqa false .ne 0 16 15), (slotV, 0xD8F51500, 0, .vrng 30 40 42),
      (slotV, 0xE0182100, 0, .rvmul .f32 .ne 3 1 2), (slotV, 0xE0182108, 0, .urmul .f32 .ne 3 1 2), (slotV, 0xEAA2A020, 0, .rsmark 20 21), (slotV, 0xE830A08D, 0, .urdrop true 6 5 1),
      (slotX, 0xF1E00000, 0, .mcall 0x3C00), (slotX, 0xF2394000, 0, .mparm 7 10), (slotX, 0xF4280000, 0, .dqpop 5 0), (slotX, 0xF23A8302, 0, .mgath 7 20 6),
      (slotX, 0xF6000400, 0, .macst 0 8), (slotX, 0xF6282302, 0, .mload 5 1 6), (slotX, 0xF8194600, 0, .fwr false 3 10 12), (slotX, 0xF8914601, 0, .fatom 0 1 2 10 12),
      (slotX, 0xF8214603, 0, .fmc false 4 10 12), (slotX, 0xF8B4B321, 0, .fatom 2 1 6 37 38)] : List (Nat × BitVec 32 × BitVec 14 × Instr)),
    decodeOp t.1 t.2.1 t.2.2.1 = .ok t.2.2.2) ∧
  bundleOf [0x7F010009, 0x9C283456] = .ok { len := 8, fold := 0, restart := true, ops := [(slotC, 0x9C283456, 9)], stop := true } ∧
  bundleOf [0x7F800000, 0x04A55800, 0x954D2001] = .ok { len := 12, fold := 0, restart := false, ops := [(slotC, 0x04A55800, 0), (slotV, 0x954D2001, 0)], stop := true }

/-- R41, R62, R435 (19 R325, 21 R343): a step runs the instruction that the bytes decode to. An event of the agenda is exec of it; a micro-op at the micro PC is exec of it on the routine, whose cycle is counted; the packet at a stream's position is exec of it with its length noted and begun, read as layer store is filled by the read, where the partition does not hold it for a change of role map; the ops of a bundle that a ready sequencer has fetched and decoded are exec of each in slot order, after the checkpoint is taken, the fetch of layer store filling the line too, followed by the beats of the reads and the bundle's accounts, then its requested trap, then its order. -/
def Obligations.StepRunsDecoded : Prop :=
  ∀ (s : State) (rest : List Act) (c k : Nat) (sec : Bool) (i : Instr),
    let s0 : State := { s with agenda := rest }
    let u := s0.visit c k sec
    (s.agenda = .event i :: rest → step s = exec i { s0 with trapped := none }) ∧
    (∀ r, s.agenda = .micro c k :: rest → (s0.visit c k false).here.run = some r → r.cycles < 2 ^ 22 →
      decodeMicro (tget 0 (s0.visit c k false).here.store r.upc) = some i →
      step s = exec i ((s0.visit c k false).setRun { r with cycles := r.cycles + 1 })) ∧
    (∀ t x n, s.agenda = .cp c k :: rest →
      let v : State := { s0 with trapped := none, cur := { part := c, stream := k } }
      let z := v.prefetchAhead c k
      v.cpS = some t → t.error = 0 → t.wait = .none → ∀ y, z.cpS = some y →
      let w := z.fillPacket y
      w.cpS = some x → w.nextPacket x = some (n, .ok i) →
      (∀ p, look w.parts c = some p → p.held = false ∨ heldPacket i = false) → step s = exec i ((w.modCp (fun t => { t with plen := n })).cpBegin)) ∧
    (∀ p b wb t v', s.agenda = .issue c k sec :: rest → u.me.running = true → u.here.halted = false → u.hereCtx.isSome = true →
      u.me.nextIssue ≤ u.cycle → u.here.trapAt ≠ u.cycle + 1 → u.withheldHere = false → u.clockTrapHere = false → u.me.pend = [] →
      let f := u.fillPc
      f.prep = .ok p →
      let v : State := { f with trapped := none, cur := { u.cur with pc := u.me.pc, next := u.me.pc + BitVec.ofNat 52 p.bundle.len, fold := p.bundle.fold, slot := 0 } }
      v.stalls p = false → disjoint (slotsOf p.ops) v.here.usedSlots = true → disjoint (v.banksOf p.ops) v.here.usedBanks = true →
      v.bankCheck p.ops = (b, wb, none) → (∀ o ∈ p.ops, o.2 ≠ .eret) →
      let w : State := { v with cur := { v.cur with beats := b, wbeats := wb } }
      let a := (w.takeCkpt p.restart).modMe (fun q => { q with restartNext := false, newGroup := false, taken := false })
      runOps (p.ops.filter (fun o => !requested o.2)) a = .next t → t.trapped = none →
      runOps (p.ops.filter (fun o => requested o.2)) ((t.giveBeats v.fresh b (v.readLinesOf p.ops)).account p (slotsOf p.ops) (v.banksOf p.ops)) = .next v' →
      f.fetchBundle c u.hereCtxId u.me.pc.toNat = .ok p.bundle ∧ decodeOps u.e.mode u.me.pc.toNat p.bundle.ops = .ok p.ops ∧
      step s = .next ((v'.countBundle.visit c k sec).noteKept false)) ∧
    (∀ slot r t, runOps [] s = .next s ∧
      (exec i (s.atSlot slot) = .next t → runOps ((slot, i) :: r) s = if t.trapped.isSome then .next t else runOps r t))

/-- ResultsInFlight, ResultsLand and ElementWriteLands, together. -/
def Obligations.ResultsInFlightAndLanding : Prop := ResultsInFlight ∧ ResultsLand ∧ ElementWriteLands

/-- TrapEntry and TimingReruns, together. -/
def Obligations.TrapEntryAndReruns : Prop := TrapEntry ∧ TimingReruns

end
end

