-- ==== Sys2Proof/Laws/Tables.lean ====
section
/-! SUPPORT. Laws of the sparse tables: reading after writing, and the canonical form. -/

namespace Sys2Proof.Machine

open Sys2Proof

/-! ## Reading after writing -/

@[simp] theorem tget_nil {V : Type} (d : V) (n : Nat) : tget d [] n = d := rfl

theorem tget_tins {V : Type} (d : V) (t : Tbl V) (a b : Nat) (v : V) :
    tget d (tins t a v) b = if b = a then v else tget d t b := by
  induction t with
  | nil => rfl
  | cons p r ih =>
    obtain ⟨k, w⟩ := p
    simp only [tins]
    split
    · simp [tget]
    · split
      · subst_vars; simp only [tget]; split <;> simp_all
      · simp only [tget, ih]
        split
        · rw [if_neg (by omega)]
        · rfl

theorem tget_tdel {V : Type} (d : V) (t : Tbl V) (a b : Nat) :
    tget d (tdel t a) b = if b = a then d else tget d t b := by
  induction t with
  | nil => simp [tdel]
  | cons p r ih =>
    obtain ⟨k, w⟩ := p
    simp only [tdel]
    split
    · rw [ih]; simp only [tget]; split <;> simp_all
    · simp only [tget, ih]
      split
      · rw [if_neg (by omega)]
      · rfl

theorem tget_tset {V : Type} [DecidableEq V] (d : V) (t : Tbl V) (a b : Nat) (v : V) :
    tget d (tset d t a v) b = if b = a then v else tget d t b := by
  simp only [tset]
  split
  · subst_vars; exact tget_tdel _ _ _ _
  · exact tget_tins _ _ _ _ _

@[simp] theorem tget_tset_same {V : Type} [DecidableEq V] (d : V) (t : Tbl V) (a : Nat) (v : V) :
    tget d (tset d t a v) a = v := by simp [tget_tset]

theorem tget_tset_other {V : Type} [DecidableEq V] (d : V) (t : Tbl V) {a b : Nat} (v : V) (h : b ≠ a) :
    tget d (tset d t a v) b = tget d t b := by simp [tget_tset, h]

theorem tget_tclear {V : Type} (d : V) (t : Tbl V) (lo hi n : Nat) :
    tget d (tclear t lo hi) n = if lo ≤ n ∧ n < hi then d else tget d t n := by
  induction t with
  | nil => simp [tclear]
  | cons p r ih =>
    obtain ⟨k, w⟩ := p
    simp only [tclear, List.filter_cons] at ih ⊢
    split
    · simp only [tget, ih]
      split <;> rename_i h1 h2
      · subst h2; simp at h1; rw [if_neg]; omega
      · rfl
    · rename_i h1
      rw [ih]; simp only [tget]
      simp only [Bool.or_eq_true, decide_eq_true_eq, not_or, Nat.not_lt, Nat.not_le] at h1
      split
      · rfl
      · rw [if_neg (by omega)]

/-! ## Bytes -/

theorem tget_writeB_outside (t : Tbl Byte) (a b : Nat) (bs : List Byte) (h : b < a ∨ a + bs.length ≤ b) :
    tget 0 (writeB t a bs) b = tget 0 t b := by
  induction bs generalizing t a with
  | nil => rfl
  | cons x r ih =>
    simp only [List.length_cons] at h
    rw [writeB, ih _ _ (by omega), tget_tset_other]
    omega

theorem tget_writeB (t : Tbl Byte) (a i : Nat) (bs : List Byte) (x : Byte) (h : bs[i]? = some x) :
    tget 0 (writeB t a bs) (a + i) = x := by
  induction bs generalizing t a i with
  | nil => simp at h
  | cons y r ih =>
    cases i with
    | zero =>
      simp at h
      rw [writeB, tget_writeB_outside _ _ _ _ (by omega)]
      simp [h]
    | succ i =>
      simp at h
      rw [writeB, show a + (i + 1) = (a + 1) + i by omega]
      exact ih _ _ _ h

theorem tget_writeCells_outside (t : Tbl Byte) (cs : List (Nat × Byte)) (b : Nat) (h : b ∉ cs.map (·.1)) :
    tget 0 (writeCells t cs) b = tget 0 t b := by
  induction cs generalizing t with
  | nil => rfl
  | cons c r ih =>
    obtain ⟨k, v⟩ := c
    simp only [List.map_cons, List.mem_cons, not_or] at h
    rw [writeCells, ih _ h.2, tget_tset_other _ _ _ h.1]

theorem readB_length (t : Tbl Byte) (a n : Nat) : (readB t a n).length = n := by
  induction n generalizing a with
  | zero => rfl
  | succ n ih => simp [readB, ih]

theorem readB_get (t : Tbl Byte) (a n i : Nat) (h : i < n) : (readB t a n)[i]? = some (tget 0 t (a + i)) := by
  induction n generalizing a i with
  | zero => omega
  | succ n ih =>
    cases i with
    | zero => simp [readB]
    | succ i => simp only [readB, List.getElem?_cons_succ]; rw [ih _ _ (by omega)]; congr 2; omega

/-! ## Canonical form -/

/-- Every key is at least n. -/
def keysFrom {V : Type} (n : Nat) (t : Tbl V) : Prop := ∀ p ∈ t, n ≤ p.1

theorem twf_cons {V : Type} [DecidableEq V] (d : V) (k : Nat) (v : V) (r : Tbl V) :
    twf d ((k, v) :: r) = true ↔ v ≠ d ∧ keysFrom (k + 1) r ∧ twf d r = true := by
  induction r generalizing k v with
  | nil => simp [twf, keysFrom]
  | cons p r ih =>
    obtain ⟨k', v'⟩ := p
    have h := ih k' v'
    simp only [twf, Bool.and_eq_true, decide_eq_true_eq, Bool.not_eq_true', decide_eq_false_iff_not, h, keysFrom,
      List.mem_cons, forall_eq_or_imp]
    constructor
    · rintro ⟨⟨h1, h2⟩, h3, h4, h5⟩
      exact ⟨h1, ⟨h2, fun p hp => by have := h4 p hp; omega⟩, h3, h4, h5⟩
    · rintro ⟨h1, ⟨h2, -⟩, h3⟩
      exact ⟨⟨h1, h2⟩, h3⟩

theorem keysFrom_cons {V : Type} {n k : Nat} {v : V} {r : Tbl V} : keysFrom n ((k, v) :: r) ↔ n ≤ k ∧ keysFrom n r := by
  simp only [keysFrom, List.mem_cons, forall_eq_or_imp]

theorem keysFrom_tins {V : Type} {n : Nat} {t : Tbl V} {a : Nat} {v : V} (h : keysFrom n t) (ha : n ≤ a) :
    keysFrom n (tins t a v) := by
  induction t with
  | nil => exact keysFrom_cons.2 ⟨ha, h⟩
  | cons p r ih =>
    obtain ⟨k, w⟩ := p
    have h' := keysFrom_cons.1 h
    simp only [tins]
    split
    · exact keysFrom_cons.2 ⟨ha, h⟩
    · split
      · exact keysFrom_cons.2 ⟨ha, h'.2⟩
      · exact keysFrom_cons.2 ⟨h'.1, ih h'.2⟩

theorem keysFrom_tdel {V : Type} {n : Nat} {t : Tbl V} {a : Nat} (h : keysFrom n t) : keysFrom n (tdel t a) := by
  induction t with
  | nil => exact h
  | cons p r ih =>
    obtain ⟨k, w⟩ := p
    have h' := keysFrom_cons.1 h
    simp only [tdel]
    split
    · exact ih h'.2
    · exact keysFrom_cons.2 ⟨h'.1, ih h'.2⟩

theorem twf_tins {V : Type} [DecidableEq V] {d : V} {t : Tbl V} {a : Nat} {v : V} (h : twf d t = true) (hv : v ≠ d) :
    twf d (tins t a v) = true := by
  induction t with
  | nil => simp [tins, twf, hv]
  | cons p r ih =>
    obtain ⟨k, w⟩ := p
    have h' := (twf_cons d k w r).1 h
    simp only [tins]
    split
    · refine (twf_cons _ _ _ _).2 ⟨hv, ?_, h⟩
      intro p hp
      rcases List.mem_cons.1 hp with rfl | hp
      · omega
      · have := h'.2.1 p hp; omega
    · split
      · subst_vars; exact (twf_cons _ _ _ _).2 ⟨hv, h'.2⟩
      · exact (twf_cons _ _ _ _).2 ⟨h'.1, keysFrom_tins h'.2.1 (by omega), ih h'.2.2⟩

theorem twf_tdel {V : Type} [DecidableEq V] {d : V} {t : Tbl V} {a : Nat} (h : twf d t = true) : twf d (tdel t a) = true := by
  induction t with
  | nil => exact h
  | cons p r ih =>
    obtain ⟨k, w⟩ := p
    have h' := (twf_cons d k w r).1 h
    simp only [tdel]
    split
    · exact ih h'.2.2
    · exact (twf_cons _ _ _ _).2 ⟨h'.1, keysFrom_tdel h'.2.1, ih h'.2.2⟩

theorem twf_tset {V : Type} [DecidableEq V] {d : V} {t : Tbl V} {a : Nat} {v : V} (h : twf d t = true) :
    twf d (tset d t a v) = true := by
  simp only [tset]
  split
  · exact twf_tdel h
  · exact twf_tins h ‹_›

theorem twf_filter {V : Type} [DecidableEq V] {d : V} {t : Tbl V} {f : Nat × V → Bool} (h : twf d t = true) :
    twf d (List.filter f t) = true := by
  induction t with
  | nil => exact h
  | cons p r ih =>
    obtain ⟨k, w⟩ := p
    have h' := (twf_cons d k w r).1 h
    simp only [List.filter_cons]
    split
    · exact (twf_cons _ _ _ _).2 ⟨h'.1, fun p hp => h'.2.1 p (List.mem_of_mem_filter hp), ih h'.2.2⟩
    · exact ih h'.2.2

theorem twf_tclear {V : Type} [DecidableEq V] {d : V} {t : Tbl V} {lo hi : Nat} (h : twf d t = true) :
    twf d (tclear t lo hi) = true := twf_filter h

theorem twf_writeB {t : Tbl Byte} {a : Nat} {bs : List Byte} (h : twf 0 t = true) : twf 0 (writeB t a bs) = true := by
  induction bs generalizing t a with
  | nil => exact h
  | cons b r ih => exact ih (twf_tset h)

theorem twf_writeCells {t : Tbl Byte} {cs : List (Nat × Byte)} (h : twf 0 t = true) : twf 0 (writeCells t cs) = true := by
  induction cs generalizing t with
  | nil => exact h
  | cons c r ih => obtain ⟨a, b⟩ := c; exact ih (twf_tset h)

theorem tget_of_keysFrom {V : Type} {d : V} {t : Tbl V} {n a : Nat} (h : keysFrom n t) (ha : a < n) : tget d t a = d := by
  induction t with
  | nil => rfl
  | cons p r ih =>
    obtain ⟨k, w⟩ := p
    have h' := keysFrom_cons.1 h
    simp only [tget]
    rw [if_neg (by omega), ih h'.2]

/-- Two tables in canonical form that read alike are the same table. -/
theorem twf_ext {V : Type} [DecidableEq V] {d : V} {t u : Tbl V} (ht : twf d t = true) (hu : twf d u = true)
    (h : ∀ i, tget d t i = tget d u i) : t = u := by
  induction t generalizing u with
  | nil =>
    cases u with
    | nil => rfl
    | cons q r =>
      obtain ⟨k, w⟩ := q
      have := h k
      simp only [tget, if_true] at this
      exact absurd this.symm ((twf_cons _ _ _ _).1 hu).1
  | cons p r ih =>
    obtain ⟨k, v⟩ := p
    have ht' := (twf_cons d k v r).1 ht
    cases u with
    | nil =>
      have := h k
      simp only [tget, if_true] at this
      exact absurd this ht'.1
    | cons q r' =>
      obtain ⟨k', v'⟩ := q
      have hu' := (twf_cons d k' v' r').1 hu
      have hk : k = k' := by
        rcases Nat.lt_trichotomy k k' with hlt | heq | hlt
        · have := h k
          simp only [tget, if_true, if_neg (show k ≠ k' by omega)] at this
          rw [tget_of_keysFrom hu'.2.1 (by omega)] at this
          exact absurd this ht'.1
        · exact heq
        · have := h k'
          simp only [tget, if_true, if_neg (show k' ≠ k by omega)] at this
          rw [tget_of_keysFrom ht'.2.1 (by omega)] at this
          exact absurd this.symm hu'.1
      subst hk
      have hv : v = v' := by have := h k; simpa [tget] using this
      subst hv
      congr 1
      refine ih ht'.2.2 hu'.2.2 fun i => ?_
      by_cases hi : i = k
      · subst hi
        rw [tget_of_keysFrom ht'.2.1 (by omega), tget_of_keysFrom hu'.2.1 (by omega)]
      · have := h i
        simpa [tget, hi] using this

/-! ## Lists by key -/

theorem look_place {V : Type} (l : List (Nat × V)) (a b : Nat) (v : V) :
    look (place l a v) b = if b = a then some v else look l b := by
  induction l with
  | nil => simp [place, look]
  | cons p r ih =>
    obtain ⟨k, w⟩ := p
    simp only [place]
    split
    · simp [look]
    · split
      · subst_vars; simp only [look]; split <;> simp_all
      · simp only [look, ih]
        split
        · rw [if_neg (by omega)]
        · rfl

@[simp] theorem look_place_same {V : Type} (l : List (Nat × V)) (a : Nat) (v : V) : look (place l a v) a = some v := by
  simp [look_place]

/-! ## Byte order (00 R5) -/

theorem bytesOf_length (n x : Nat) : (bytesOf n x).length = n := by
  induction n generalizing x with
  | zero => rfl
  | succ n ih => simp [bytesOf, ih]

theorem natOf_bytesOf (n x : Nat) : natOf (bytesOf n x) = x % 256 ^ n := by
  induction n generalizing x with
  | zero => simp [bytesOf, natOf, Nat.mod_one]
  | succ n ih =>
    simp only [bytesOf, natOf, ih, BitVec.toNat_ofNat]
    rw [show 256 ^ (n + 1) = 256 * 256 ^ n by rw [Nat.pow_succ, Nat.mul_comm], Nat.mod_mul]

end Sys2Proof.Machine
end

