-- ==== Sys2Proof/Laws/State.lean ====
section
/-! SUPPORT. The fields of the state after each named update, by rfl, and the parts of the state that an update reaches. -/

namespace Sys2Proof.Machine

open Sys2Proof

/-! ## setCl -/

@[simp] theorem setCl_cycle (s : State) (c : Nat) (x : Cluster) : (s.setCl c x).cycle = s.cycle := rfl
@[simp] theorem setCl_tick (s : State) (c : Nat) (x : Cluster) : (s.setCl c x).tick = s.tick := rfl
@[simp] theorem setCl_agenda (s : State) (c : Nat) (x : Cluster) : (s.setCl c x).agenda = s.agenda := rfl
@[simp] theorem setCl_schedule (s : State) (c : Nat) (x : Cluster) : (s.setCl c x).schedule = s.schedule := rfl
@[simp] theorem setCl_cur (s : State) (c : Nat) (x : Cluster) : (s.setCl c x).cur = s.cur := rfl
@[simp] theorem setCl_free (s : State) (c : Nat) (x : Cluster) : (s.setCl c x).free = s.free := rfl
@[simp] theorem setCl_trapped (s : State) (c : Nat) (x : Cluster) : (s.setCl c x).trapped = s.trapped := rfl
@[simp] theorem setCl_fresh (s : State) (c : Nat) (x : Cluster) : (s.setCl c x).fresh = s.fresh := rfl
@[simp] theorem setCl_stamp (s : State) (c : Nat) (x : Cluster) : (s.setCl c x).stamp = s.stamp := rfl
@[simp] theorem setCl_roles (s : State) (c : Nat) (x : Cluster) : (s.setCl c x).roles = s.roles := rfl
@[simp] theorem setCl_partOf (s : State) (c : Nat) (x : Cluster) : (s.setCl c x).partOf = s.partOf := rfl
@[simp] theorem setCl_spare (s : State) (c : Nat) (x : Cluster) : (s.setCl c x).spare = s.spare := rfl
@[simp] theorem setCl_mem (s : State) (c : Nat) (x : Cluster) : (s.setCl c x).mem = s.mem := rfl
@[simp] theorem setCl_parts (s : State) (c : Nat) (x : Cluster) : (s.setCl c x).parts = s.parts := rfl
@[simp] theorem setCl_ctxs (s : State) (c : Nat) (x : Cluster) : (s.setCl c x).ctxs = s.ctxs := rfl
@[simp] theorem setCl_shadow (s : State) (c : Nat) (x : Cluster) : (s.setCl c x).shadow = s.shadow := rfl
@[simp] theorem setCl_banked (s : State) (c : Nat) (x : Cluster) : (s.setCl c x).banked = s.banked := rfl
@[simp] theorem setCl_xfers (s : State) (c : Nat) (x : Cluster) : (s.setCl c x).xfers = s.xfers := rfl
@[simp] theorem setCl_arrivals (s : State) (c : Nat) (x : Cluster) : (s.setCl c x).arrivals = s.arrivals := rfl
@[simp] theorem setCl_condQueue (s : State) (c : Nat) (x : Cluster) : (s.setCl c x).condQueue = s.condQueue := rfl
@[simp] theorem setCl_pubReqs (s : State) (c : Nat) (x : Cluster) : (s.setCl c x).pubReqs = s.pubReqs := rfl
@[simp] theorem setCl_pubAsks (s : State) (c : Nat) (x : Cluster) : (s.setCl c x).pubAsks = s.pubAsks := rfl
@[simp] theorem setCl_shootdowns (s : State) (c : Nat) (x : Cluster) : (s.setCl c x).shootdowns = s.shootdowns := rfl
@[simp] theorem setCl_pool (s : State) (c : Nat) (x : Cluster) : (s.setCl c x).pool = s.pool := rfl
@[simp] theorem setCl_fabric (s : State) (c : Nat) (x : Cluster) : (s.setCl c x).fabric = s.fabric := rfl
@[simp] theorem setCl_gang (s : State) (c : Nat) (x : Cluster) : (s.setCl c x).gang = s.gang := rfl
@[simp] theorem setCl_clock (s : State) (c : Nat) (x : Cluster) : (s.setCl c x).clock = s.clock := rfl
@[simp] theorem setCl_window (s : State) (c : Nat) (x : Cluster) : (s.setCl c x).window = s.window := rfl
@[simp] theorem setCl_role (s : State) (c : Nat) (x : Cluster) : (s.setCl c x).role = s.role := rfl
@[simp] theorem setCl_darkPoolLayers (s : State) (c : Nat) (x : Cluster) : (s.setCl c x).darkPoolLayers = s.darkPoolLayers := rfl
@[simp] theorem setCl_keys (s : State) (c : Nat) (x : Cluster) : (s.setCl c x).keys = s.keys := rfl
@[simp] theorem setCl_mailQueue (s : State) (c : Nat) (x : Cluster) : (s.setCl c x).mailQueue = s.mailQueue := rfl
@[simp] theorem setCl_resumes (s : State) (c : Nat) (x : Cluster) : (s.setCl c x).resumes = s.resumes := rfl
@[simp] theorem setCl_tripped (s : State) (c : Nat) (x : Cluster) : (s.setCl c x).tripped = s.tripped := rfl
@[simp] theorem setCl_powerCap (s : State) (c : Nat) (x : Cluster) : (s.setCl c x).powerCap = s.powerCap := rfl
@[simp] theorem setCl_hotDies (s : State) (c : Nat) (x : Cluster) : (s.setCl c x).hotDies = s.hotDies := rfl
@[simp] theorem setCl_boot (s : State) (c : Nat) (x : Cluster) : (s.setCl c x).boot = s.boot := rfl
@[simp] theorem setCl_measure (s : State) (c : Nat) (x : Cluster) : (s.setCl c x).measure = s.measure := rfl
@[simp] theorem setCl_fused (s : State) (c : Nat) (x : Cluster) : (s.setCl c x).fused = s.fused := rfl
@[simp] theorem setCl_poisonCount (s : State) (c : Nat) (x : Cluster) : (s.setCl c x).poisonCount = s.poisonCount := rfl
@[simp] theorem setCl_poisonLast (s : State) (c : Nat) (x : Cluster) : (s.setCl c x).poisonLast = s.poisonLast := rfl
@[simp] theorem setCl_controls (s : State) (c : Nat) (x : Cluster) : (s.setCl c x).controls = s.controls := rfl
@[simp] theorem setCl_msix (s : State) (c : Nat) (x : Cluster) : (s.setCl c x).msix = s.msix := rfl
@[simp] theorem setCl_outbox (s : State) (c : Nat) (x : Cluster) : (s.setCl c x).outbox = s.outbox := rfl

/-! ## setCore -/

@[simp] theorem setCore_cycle (s : State) (c k : Nat) (y : Core) : (s.setCore c k y).cycle = s.cycle := rfl
@[simp] theorem setCore_tick (s : State) (c k : Nat) (y : Core) : (s.setCore c k y).tick = s.tick := rfl
@[simp] theorem setCore_agenda (s : State) (c k : Nat) (y : Core) : (s.setCore c k y).agenda = s.agenda := rfl
@[simp] theorem setCore_schedule (s : State) (c k : Nat) (y : Core) : (s.setCore c k y).schedule = s.schedule := rfl
@[simp] theorem setCore_cur (s : State) (c k : Nat) (y : Core) : (s.setCore c k y).cur = s.cur := rfl
@[simp] theorem setCore_free (s : State) (c k : Nat) (y : Core) : (s.setCore c k y).free = s.free := rfl
@[simp] theorem setCore_trapped (s : State) (c k : Nat) (y : Core) : (s.setCore c k y).trapped = s.trapped := rfl
@[simp] theorem setCore_fresh (s : State) (c k : Nat) (y : Core) : (s.setCore c k y).fresh = s.fresh := rfl
@[simp] theorem setCore_stamp (s : State) (c k : Nat) (y : Core) : (s.setCore c k y).stamp = s.stamp := rfl
@[simp] theorem setCore_roles (s : State) (c k : Nat) (y : Core) : (s.setCore c k y).roles = s.roles := rfl
@[simp] theorem setCore_partOf (s : State) (c k : Nat) (y : Core) : (s.setCore c k y).partOf = s.partOf := rfl
@[simp] theorem setCore_spare (s : State) (c k : Nat) (y : Core) : (s.setCore c k y).spare = s.spare := rfl
@[simp] theorem setCore_mem (s : State) (c k : Nat) (y : Core) : (s.setCore c k y).mem = s.mem := rfl
@[simp] theorem setCore_parts (s : State) (c k : Nat) (y : Core) : (s.setCore c k y).parts = s.parts := rfl
@[simp] theorem setCore_ctxs (s : State) (c k : Nat) (y : Core) : (s.setCore c k y).ctxs = s.ctxs := rfl
@[simp] theorem setCore_shadow (s : State) (c k : Nat) (y : Core) : (s.setCore c k y).shadow = s.shadow := rfl
@[simp] theorem setCore_banked (s : State) (c k : Nat) (y : Core) : (s.setCore c k y).banked = s.banked := rfl
@[simp] theorem setCore_xfers (s : State) (c k : Nat) (y : Core) : (s.setCore c k y).xfers = s.xfers := rfl
@[simp] theorem setCore_arrivals (s : State) (c k : Nat) (y : Core) : (s.setCore c k y).arrivals = s.arrivals := rfl
@[simp] theorem setCore_condQueue (s : State) (c k : Nat) (y : Core) : (s.setCore c k y).condQueue = s.condQueue := rfl
@[simp] theorem setCore_pubReqs (s : State) (c k : Nat) (y : Core) : (s.setCore c k y).pubReqs = s.pubReqs := rfl
@[simp] theorem setCore_pubAsks (s : State) (c k : Nat) (y : Core) : (s.setCore c k y).pubAsks = s.pubAsks := rfl
@[simp] theorem setCore_shootdowns (s : State) (c k : Nat) (y : Core) : (s.setCore c k y).shootdowns = s.shootdowns := rfl
@[simp] theorem setCore_pool (s : State) (c k : Nat) (y : Core) : (s.setCore c k y).pool = s.pool := rfl
@[simp] theorem setCore_fabric (s : State) (c k : Nat) (y : Core) : (s.setCore c k y).fabric = s.fabric := rfl
@[simp] theorem setCore_gang (s : State) (c k : Nat) (y : Core) : (s.setCore c k y).gang = s.gang := rfl
@[simp] theorem setCore_clock (s : State) (c k : Nat) (y : Core) : (s.setCore c k y).clock = s.clock := rfl
@[simp] theorem setCore_window (s : State) (c k : Nat) (y : Core) : (s.setCore c k y).window = s.window := rfl
@[simp] theorem setCore_role (s : State) (c k : Nat) (y : Core) : (s.setCore c k y).role = s.role := rfl
@[simp] theorem setCore_darkPoolLayers (s : State) (c k : Nat) (y : Core) : (s.setCore c k y).darkPoolLayers = s.darkPoolLayers := rfl
@[simp] theorem setCore_keys (s : State) (c k : Nat) (y : Core) : (s.setCore c k y).keys = s.keys := rfl
@[simp] theorem setCore_mailQueue (s : State) (c k : Nat) (y : Core) : (s.setCore c k y).mailQueue = s.mailQueue := rfl
@[simp] theorem setCore_resumes (s : State) (c k : Nat) (y : Core) : (s.setCore c k y).resumes = s.resumes := rfl
@[simp] theorem setCore_tripped (s : State) (c k : Nat) (y : Core) : (s.setCore c k y).tripped = s.tripped := rfl
@[simp] theorem setCore_powerCap (s : State) (c k : Nat) (y : Core) : (s.setCore c k y).powerCap = s.powerCap := rfl
@[simp] theorem setCore_hotDies (s : State) (c k : Nat) (y : Core) : (s.setCore c k y).hotDies = s.hotDies := rfl
@[simp] theorem setCore_boot (s : State) (c k : Nat) (y : Core) : (s.setCore c k y).boot = s.boot := rfl
@[simp] theorem setCore_measure (s : State) (c k : Nat) (y : Core) : (s.setCore c k y).measure = s.measure := rfl
@[simp] theorem setCore_fused (s : State) (c k : Nat) (y : Core) : (s.setCore c k y).fused = s.fused := rfl
@[simp] theorem setCore_poisonCount (s : State) (c k : Nat) (y : Core) : (s.setCore c k y).poisonCount = s.poisonCount := rfl
@[simp] theorem setCore_poisonLast (s : State) (c k : Nat) (y : Core) : (s.setCore c k y).poisonLast = s.poisonLast := rfl
@[simp] theorem setCore_controls (s : State) (c k : Nat) (y : Core) : (s.setCore c k y).controls = s.controls := rfl
@[simp] theorem setCore_msix (s : State) (c k : Nat) (y : Core) : (s.setCore c k y).msix = s.msix := rfl
@[simp] theorem setCore_outbox (s : State) (c k : Nat) (y : Core) : (s.setCore c k y).outbox = s.outbox := rfl

/-! ## modCore -/

@[simp] theorem modCore_cycle (s : State) (c k : Nat) (f : Core → Core) : (s.modCore c k f).cycle = s.cycle := rfl
@[simp] theorem modCore_tick (s : State) (c k : Nat) (f : Core → Core) : (s.modCore c k f).tick = s.tick := rfl
@[simp] theorem modCore_agenda (s : State) (c k : Nat) (f : Core → Core) : (s.modCore c k f).agenda = s.agenda := rfl
@[simp] theorem modCore_schedule (s : State) (c k : Nat) (f : Core → Core) : (s.modCore c k f).schedule = s.schedule := rfl
@[simp] theorem modCore_cur (s : State) (c k : Nat) (f : Core → Core) : (s.modCore c k f).cur = s.cur := rfl
@[simp] theorem modCore_free (s : State) (c k : Nat) (f : Core → Core) : (s.modCore c k f).free = s.free := rfl
@[simp] theorem modCore_trapped (s : State) (c k : Nat) (f : Core → Core) : (s.modCore c k f).trapped = s.trapped := rfl
@[simp] theorem modCore_fresh (s : State) (c k : Nat) (f : Core → Core) : (s.modCore c k f).fresh = s.fresh := rfl
@[simp] theorem modCore_stamp (s : State) (c k : Nat) (f : Core → Core) : (s.modCore c k f).stamp = s.stamp := rfl
@[simp] theorem modCore_roles (s : State) (c k : Nat) (f : Core → Core) : (s.modCore c k f).roles = s.roles := rfl
@[simp] theorem modCore_partOf (s : State) (c k : Nat) (f : Core → Core) : (s.modCore c k f).partOf = s.partOf := rfl
@[simp] theorem modCore_spare (s : State) (c k : Nat) (f : Core → Core) : (s.modCore c k f).spare = s.spare := rfl
@[simp] theorem modCore_mem (s : State) (c k : Nat) (f : Core → Core) : (s.modCore c k f).mem = s.mem := rfl
@[simp] theorem modCore_parts (s : State) (c k : Nat) (f : Core → Core) : (s.modCore c k f).parts = s.parts := rfl
@[simp] theorem modCore_ctxs (s : State) (c k : Nat) (f : Core → Core) : (s.modCore c k f).ctxs = s.ctxs := rfl
@[simp] theorem modCore_shadow (s : State) (c k : Nat) (f : Core → Core) : (s.modCore c k f).shadow = s.shadow := rfl
@[simp] theorem modCore_banked (s : State) (c k : Nat) (f : Core → Core) : (s.modCore c k f).banked = s.banked := rfl
@[simp] theorem modCore_xfers (s : State) (c k : Nat) (f : Core → Core) : (s.modCore c k f).xfers = s.xfers := rfl
@[simp] theorem modCore_arrivals (s : State) (c k : Nat) (f : Core → Core) : (s.modCore c k f).arrivals = s.arrivals := rfl
@[simp] theorem modCore_condQueue (s : State) (c k : Nat) (f : Core → Core) : (s.modCore c k f).condQueue = s.condQueue := rfl
@[simp] theorem modCore_pubReqs (s : State) (c k : Nat) (f : Core → Core) : (s.modCore c k f).pubReqs = s.pubReqs := rfl
@[simp] theorem modCore_pubAsks (s : State) (c k : Nat) (f : Core → Core) : (s.modCore c k f).pubAsks = s.pubAsks := rfl
@[simp] theorem modCore_shootdowns (s : State) (c k : Nat) (f : Core → Core) : (s.modCore c k f).shootdowns = s.shootdowns := rfl
@[simp] theorem modCore_pool (s : State) (c k : Nat) (f : Core → Core) : (s.modCore c k f).pool = s.pool := rfl
@[simp] theorem modCore_fabric (s : State) (c k : Nat) (f : Core → Core) : (s.modCore c k f).fabric = s.fabric := rfl
@[simp] theorem modCore_gang (s : State) (c k : Nat) (f : Core → Core) : (s.modCore c k f).gang = s.gang := rfl
@[simp] theorem modCore_clock (s : State) (c k : Nat) (f : Core → Core) : (s.modCore c k f).clock = s.clock := rfl
@[simp] theorem modCore_window (s : State) (c k : Nat) (f : Core → Core) : (s.modCore c k f).window = s.window := rfl
@[simp] theorem modCore_role (s : State) (c k : Nat) (f : Core → Core) : (s.modCore c k f).role = s.role := rfl
@[simp] theorem modCore_darkPoolLayers (s : State) (c k : Nat) (f : Core → Core) : (s.modCore c k f).darkPoolLayers = s.darkPoolLayers := rfl
@[simp] theorem modCore_keys (s : State) (c k : Nat) (f : Core → Core) : (s.modCore c k f).keys = s.keys := rfl
@[simp] theorem modCore_mailQueue (s : State) (c k : Nat) (f : Core → Core) : (s.modCore c k f).mailQueue = s.mailQueue := rfl
@[simp] theorem modCore_resumes (s : State) (c k : Nat) (f : Core → Core) : (s.modCore c k f).resumes = s.resumes := rfl
@[simp] theorem modCore_tripped (s : State) (c k : Nat) (f : Core → Core) : (s.modCore c k f).tripped = s.tripped := rfl
@[simp] theorem modCore_powerCap (s : State) (c k : Nat) (f : Core → Core) : (s.modCore c k f).powerCap = s.powerCap := rfl
@[simp] theorem modCore_hotDies (s : State) (c k : Nat) (f : Core → Core) : (s.modCore c k f).hotDies = s.hotDies := rfl
@[simp] theorem modCore_boot (s : State) (c k : Nat) (f : Core → Core) : (s.modCore c k f).boot = s.boot := rfl
@[simp] theorem modCore_measure (s : State) (c k : Nat) (f : Core → Core) : (s.modCore c k f).measure = s.measure := rfl
@[simp] theorem modCore_fused (s : State) (c k : Nat) (f : Core → Core) : (s.modCore c k f).fused = s.fused := rfl
@[simp] theorem modCore_poisonCount (s : State) (c k : Nat) (f : Core → Core) : (s.modCore c k f).poisonCount = s.poisonCount := rfl
@[simp] theorem modCore_poisonLast (s : State) (c k : Nat) (f : Core → Core) : (s.modCore c k f).poisonLast = s.poisonLast := rfl
@[simp] theorem modCore_controls (s : State) (c k : Nat) (f : Core → Core) : (s.modCore c k f).controls = s.controls := rfl
@[simp] theorem modCore_msix (s : State) (c k : Nat) (f : Core → Core) : (s.modCore c k f).msix = s.msix := rfl
@[simp] theorem modCore_outbox (s : State) (c k : Nat) (f : Core → Core) : (s.modCore c k f).outbox = s.outbox := rfl

/-! ## modE -/

@[simp] theorem modE_cycle (s : State) (c k : Nat) (f : CoreE → CoreE) : (s.modE c k f).cycle = s.cycle := rfl
@[simp] theorem modE_tick (s : State) (c k : Nat) (f : CoreE → CoreE) : (s.modE c k f).tick = s.tick := rfl
@[simp] theorem modE_agenda (s : State) (c k : Nat) (f : CoreE → CoreE) : (s.modE c k f).agenda = s.agenda := rfl
@[simp] theorem modE_schedule (s : State) (c k : Nat) (f : CoreE → CoreE) : (s.modE c k f).schedule = s.schedule := rfl
@[simp] theorem modE_cur (s : State) (c k : Nat) (f : CoreE → CoreE) : (s.modE c k f).cur = s.cur := rfl
@[simp] theorem modE_free (s : State) (c k : Nat) (f : CoreE → CoreE) : (s.modE c k f).free = s.free := rfl
@[simp] theorem modE_trapped (s : State) (c k : Nat) (f : CoreE → CoreE) : (s.modE c k f).trapped = s.trapped := rfl
@[simp] theorem modE_fresh (s : State) (c k : Nat) (f : CoreE → CoreE) : (s.modE c k f).fresh = s.fresh := rfl
@[simp] theorem modE_stamp (s : State) (c k : Nat) (f : CoreE → CoreE) : (s.modE c k f).stamp = s.stamp := rfl
@[simp] theorem modE_roles (s : State) (c k : Nat) (f : CoreE → CoreE) : (s.modE c k f).roles = s.roles := rfl
@[simp] theorem modE_partOf (s : State) (c k : Nat) (f : CoreE → CoreE) : (s.modE c k f).partOf = s.partOf := rfl
@[simp] theorem modE_spare (s : State) (c k : Nat) (f : CoreE → CoreE) : (s.modE c k f).spare = s.spare := rfl
@[simp] theorem modE_mem (s : State) (c k : Nat) (f : CoreE → CoreE) : (s.modE c k f).mem = s.mem := rfl
@[simp] theorem modE_parts (s : State) (c k : Nat) (f : CoreE → CoreE) : (s.modE c k f).parts = s.parts := rfl
@[simp] theorem modE_ctxs (s : State) (c k : Nat) (f : CoreE → CoreE) : (s.modE c k f).ctxs = s.ctxs := rfl
@[simp] theorem modE_shadow (s : State) (c k : Nat) (f : CoreE → CoreE) : (s.modE c k f).shadow = s.shadow := rfl
@[simp] theorem modE_banked (s : State) (c k : Nat) (f : CoreE → CoreE) : (s.modE c k f).banked = s.banked := rfl
@[simp] theorem modE_xfers (s : State) (c k : Nat) (f : CoreE → CoreE) : (s.modE c k f).xfers = s.xfers := rfl
@[simp] theorem modE_arrivals (s : State) (c k : Nat) (f : CoreE → CoreE) : (s.modE c k f).arrivals = s.arrivals := rfl
@[simp] theorem modE_condQueue (s : State) (c k : Nat) (f : CoreE → CoreE) : (s.modE c k f).condQueue = s.condQueue := rfl
@[simp] theorem modE_pubReqs (s : State) (c k : Nat) (f : CoreE → CoreE) : (s.modE c k f).pubReqs = s.pubReqs := rfl
@[simp] theorem modE_pubAsks (s : State) (c k : Nat) (f : CoreE → CoreE) : (s.modE c k f).pubAsks = s.pubAsks := rfl
@[simp] theorem modE_shootdowns (s : State) (c k : Nat) (f : CoreE → CoreE) : (s.modE c k f).shootdowns = s.shootdowns := rfl
@[simp] theorem modE_pool (s : State) (c k : Nat) (f : CoreE → CoreE) : (s.modE c k f).pool = s.pool := rfl
@[simp] theorem modE_fabric (s : State) (c k : Nat) (f : CoreE → CoreE) : (s.modE c k f).fabric = s.fabric := rfl
@[simp] theorem modE_gang (s : State) (c k : Nat) (f : CoreE → CoreE) : (s.modE c k f).gang = s.gang := rfl
@[simp] theorem modE_clock (s : State) (c k : Nat) (f : CoreE → CoreE) : (s.modE c k f).clock = s.clock := rfl
@[simp] theorem modE_window (s : State) (c k : Nat) (f : CoreE → CoreE) : (s.modE c k f).window = s.window := rfl
@[simp] theorem modE_role (s : State) (c k : Nat) (f : CoreE → CoreE) : (s.modE c k f).role = s.role := rfl
@[simp] theorem modE_darkPoolLayers (s : State) (c k : Nat) (f : CoreE → CoreE) : (s.modE c k f).darkPoolLayers = s.darkPoolLayers := rfl
@[simp] theorem modE_keys (s : State) (c k : Nat) (f : CoreE → CoreE) : (s.modE c k f).keys = s.keys := rfl
@[simp] theorem modE_mailQueue (s : State) (c k : Nat) (f : CoreE → CoreE) : (s.modE c k f).mailQueue = s.mailQueue := rfl
@[simp] theorem modE_resumes (s : State) (c k : Nat) (f : CoreE → CoreE) : (s.modE c k f).resumes = s.resumes := rfl
@[simp] theorem modE_tripped (s : State) (c k : Nat) (f : CoreE → CoreE) : (s.modE c k f).tripped = s.tripped := rfl
@[simp] theorem modE_powerCap (s : State) (c k : Nat) (f : CoreE → CoreE) : (s.modE c k f).powerCap = s.powerCap := rfl
@[simp] theorem modE_hotDies (s : State) (c k : Nat) (f : CoreE → CoreE) : (s.modE c k f).hotDies = s.hotDies := rfl
@[simp] theorem modE_boot (s : State) (c k : Nat) (f : CoreE → CoreE) : (s.modE c k f).boot = s.boot := rfl
@[simp] theorem modE_measure (s : State) (c k : Nat) (f : CoreE → CoreE) : (s.modE c k f).measure = s.measure := rfl
@[simp] theorem modE_fused (s : State) (c k : Nat) (f : CoreE → CoreE) : (s.modE c k f).fused = s.fused := rfl
@[simp] theorem modE_poisonCount (s : State) (c k : Nat) (f : CoreE → CoreE) : (s.modE c k f).poisonCount = s.poisonCount := rfl
@[simp] theorem modE_poisonLast (s : State) (c k : Nat) (f : CoreE → CoreE) : (s.modE c k f).poisonLast = s.poisonLast := rfl
@[simp] theorem modE_controls (s : State) (c k : Nat) (f : CoreE → CoreE) : (s.modE c k f).controls = s.controls := rfl
@[simp] theorem modE_msix (s : State) (c k : Nat) (f : CoreE → CoreE) : (s.modE c k f).msix = s.msix := rfl
@[simp] theorem modE_outbox (s : State) (c k : Nat) (f : CoreE → CoreE) : (s.modE c k f).outbox = s.outbox := rfl

/-! ## modSq -/

@[simp] theorem modSq_cycle (s : State) (c k : Nat) (z : Bool) (f : Seq → Seq) : (s.modSq c k z f).cycle = s.cycle := rfl
@[simp] theorem modSq_tick (s : State) (c k : Nat) (z : Bool) (f : Seq → Seq) : (s.modSq c k z f).tick = s.tick := rfl
@[simp] theorem modSq_agenda (s : State) (c k : Nat) (z : Bool) (f : Seq → Seq) : (s.modSq c k z f).agenda = s.agenda := rfl
@[simp] theorem modSq_schedule (s : State) (c k : Nat) (z : Bool) (f : Seq → Seq) : (s.modSq c k z f).schedule = s.schedule := rfl
@[simp] theorem modSq_cur (s : State) (c k : Nat) (z : Bool) (f : Seq → Seq) : (s.modSq c k z f).cur = s.cur := rfl
@[simp] theorem modSq_free (s : State) (c k : Nat) (z : Bool) (f : Seq → Seq) : (s.modSq c k z f).free = s.free := rfl
@[simp] theorem modSq_trapped (s : State) (c k : Nat) (z : Bool) (f : Seq → Seq) : (s.modSq c k z f).trapped = s.trapped := rfl
@[simp] theorem modSq_fresh (s : State) (c k : Nat) (z : Bool) (f : Seq → Seq) : (s.modSq c k z f).fresh = s.fresh := rfl
@[simp] theorem modSq_stamp (s : State) (c k : Nat) (z : Bool) (f : Seq → Seq) : (s.modSq c k z f).stamp = s.stamp := rfl
@[simp] theorem modSq_roles (s : State) (c k : Nat) (z : Bool) (f : Seq → Seq) : (s.modSq c k z f).roles = s.roles := rfl
@[simp] theorem modSq_partOf (s : State) (c k : Nat) (z : Bool) (f : Seq → Seq) : (s.modSq c k z f).partOf = s.partOf := rfl
@[simp] theorem modSq_spare (s : State) (c k : Nat) (z : Bool) (f : Seq → Seq) : (s.modSq c k z f).spare = s.spare := rfl
@[simp] theorem modSq_mem (s : State) (c k : Nat) (z : Bool) (f : Seq → Seq) : (s.modSq c k z f).mem = s.mem := rfl
@[simp] theorem modSq_parts (s : State) (c k : Nat) (z : Bool) (f : Seq → Seq) : (s.modSq c k z f).parts = s.parts := rfl
@[simp] theorem modSq_ctxs (s : State) (c k : Nat) (z : Bool) (f : Seq → Seq) : (s.modSq c k z f).ctxs = s.ctxs := rfl
@[simp] theorem modSq_shadow (s : State) (c k : Nat) (z : Bool) (f : Seq → Seq) : (s.modSq c k z f).shadow = s.shadow := rfl
@[simp] theorem modSq_banked (s : State) (c k : Nat) (z : Bool) (f : Seq → Seq) : (s.modSq c k z f).banked = s.banked := rfl
@[simp] theorem modSq_xfers (s : State) (c k : Nat) (z : Bool) (f : Seq → Seq) : (s.modSq c k z f).xfers = s.xfers := rfl
@[simp] theorem modSq_arrivals (s : State) (c k : Nat) (z : Bool) (f : Seq → Seq) : (s.modSq c k z f).arrivals = s.arrivals := rfl
@[simp] theorem modSq_condQueue (s : State) (c k : Nat) (z : Bool) (f : Seq → Seq) : (s.modSq c k z f).condQueue = s.condQueue := rfl
@[simp] theorem modSq_pubReqs (s : State) (c k : Nat) (z : Bool) (f : Seq → Seq) : (s.modSq c k z f).pubReqs = s.pubReqs := rfl
@[simp] theorem modSq_pubAsks (s : State) (c k : Nat) (z : Bool) (f : Seq → Seq) : (s.modSq c k z f).pubAsks = s.pubAsks := rfl
@[simp] theorem modSq_shootdowns (s : State) (c k : Nat) (z : Bool) (f : Seq → Seq) : (s.modSq c k z f).shootdowns = s.shootdowns := rfl
@[simp] theorem modSq_pool (s : State) (c k : Nat) (z : Bool) (f : Seq → Seq) : (s.modSq c k z f).pool = s.pool := rfl
@[simp] theorem modSq_fabric (s : State) (c k : Nat) (z : Bool) (f : Seq → Seq) : (s.modSq c k z f).fabric = s.fabric := rfl
@[simp] theorem modSq_gang (s : State) (c k : Nat) (z : Bool) (f : Seq → Seq) : (s.modSq c k z f).gang = s.gang := rfl
@[simp] theorem modSq_clock (s : State) (c k : Nat) (z : Bool) (f : Seq → Seq) : (s.modSq c k z f).clock = s.clock := rfl
@[simp] theorem modSq_window (s : State) (c k : Nat) (z : Bool) (f : Seq → Seq) : (s.modSq c k z f).window = s.window := rfl
@[simp] theorem modSq_role (s : State) (c k : Nat) (z : Bool) (f : Seq → Seq) : (s.modSq c k z f).role = s.role := rfl
@[simp] theorem modSq_darkPoolLayers (s : State) (c k : Nat) (z : Bool) (f : Seq → Seq) : (s.modSq c k z f).darkPoolLayers = s.darkPoolLayers := rfl
@[simp] theorem modSq_keys (s : State) (c k : Nat) (z : Bool) (f : Seq → Seq) : (s.modSq c k z f).keys = s.keys := rfl
@[simp] theorem modSq_mailQueue (s : State) (c k : Nat) (z : Bool) (f : Seq → Seq) : (s.modSq c k z f).mailQueue = s.mailQueue := rfl
@[simp] theorem modSq_resumes (s : State) (c k : Nat) (z : Bool) (f : Seq → Seq) : (s.modSq c k z f).resumes = s.resumes := rfl
@[simp] theorem modSq_tripped (s : State) (c k : Nat) (z : Bool) (f : Seq → Seq) : (s.modSq c k z f).tripped = s.tripped := rfl
@[simp] theorem modSq_powerCap (s : State) (c k : Nat) (z : Bool) (f : Seq → Seq) : (s.modSq c k z f).powerCap = s.powerCap := rfl
@[simp] theorem modSq_hotDies (s : State) (c k : Nat) (z : Bool) (f : Seq → Seq) : (s.modSq c k z f).hotDies = s.hotDies := rfl
@[simp] theorem modSq_boot (s : State) (c k : Nat) (z : Bool) (f : Seq → Seq) : (s.modSq c k z f).boot = s.boot := rfl
@[simp] theorem modSq_measure (s : State) (c k : Nat) (z : Bool) (f : Seq → Seq) : (s.modSq c k z f).measure = s.measure := rfl
@[simp] theorem modSq_fused (s : State) (c k : Nat) (z : Bool) (f : Seq → Seq) : (s.modSq c k z f).fused = s.fused := rfl
@[simp] theorem modSq_poisonCount (s : State) (c k : Nat) (z : Bool) (f : Seq → Seq) : (s.modSq c k z f).poisonCount = s.poisonCount := rfl
@[simp] theorem modSq_poisonLast (s : State) (c k : Nat) (z : Bool) (f : Seq → Seq) : (s.modSq c k z f).poisonLast = s.poisonLast := rfl
@[simp] theorem modSq_controls (s : State) (c k : Nat) (z : Bool) (f : Seq → Seq) : (s.modSq c k z f).controls = s.controls := rfl
@[simp] theorem modSq_msix (s : State) (c k : Nat) (z : Bool) (f : Seq → Seq) : (s.modSq c k z f).msix = s.msix := rfl
@[simp] theorem modSq_outbox (s : State) (c k : Nat) (z : Bool) (f : Seq → Seq) : (s.modSq c k z f).outbox = s.outbox := rfl

/-! ## modCl -/

@[simp] theorem modCl_cycle (s : State) (c : Nat) (f : Cluster → Cluster) : (s.modCl c f).cycle = s.cycle := rfl
@[simp] theorem modCl_tick (s : State) (c : Nat) (f : Cluster → Cluster) : (s.modCl c f).tick = s.tick := rfl
@[simp] theorem modCl_agenda (s : State) (c : Nat) (f : Cluster → Cluster) : (s.modCl c f).agenda = s.agenda := rfl
@[simp] theorem modCl_schedule (s : State) (c : Nat) (f : Cluster → Cluster) : (s.modCl c f).schedule = s.schedule := rfl
@[simp] theorem modCl_cur (s : State) (c : Nat) (f : Cluster → Cluster) : (s.modCl c f).cur = s.cur := rfl
@[simp] theorem modCl_free (s : State) (c : Nat) (f : Cluster → Cluster) : (s.modCl c f).free = s.free := rfl
@[simp] theorem modCl_trapped (s : State) (c : Nat) (f : Cluster → Cluster) : (s.modCl c f).trapped = s.trapped := rfl
@[simp] theorem modCl_fresh (s : State) (c : Nat) (f : Cluster → Cluster) : (s.modCl c f).fresh = s.fresh := rfl
@[simp] theorem modCl_stamp (s : State) (c : Nat) (f : Cluster → Cluster) : (s.modCl c f).stamp = s.stamp := rfl
@[simp] theorem modCl_roles (s : State) (c : Nat) (f : Cluster → Cluster) : (s.modCl c f).roles = s.roles := rfl
@[simp] theorem modCl_partOf (s : State) (c : Nat) (f : Cluster → Cluster) : (s.modCl c f).partOf = s.partOf := rfl
@[simp] theorem modCl_spare (s : State) (c : Nat) (f : Cluster → Cluster) : (s.modCl c f).spare = s.spare := rfl
@[simp] theorem modCl_mem (s : State) (c : Nat) (f : Cluster → Cluster) : (s.modCl c f).mem = s.mem := rfl
@[simp] theorem modCl_parts (s : State) (c : Nat) (f : Cluster → Cluster) : (s.modCl c f).parts = s.parts := rfl
@[simp] theorem modCl_ctxs (s : State) (c : Nat) (f : Cluster → Cluster) : (s.modCl c f).ctxs = s.ctxs := rfl
@[simp] theorem modCl_shadow (s : State) (c : Nat) (f : Cluster → Cluster) : (s.modCl c f).shadow = s.shadow := rfl
@[simp] theorem modCl_banked (s : State) (c : Nat) (f : Cluster → Cluster) : (s.modCl c f).banked = s.banked := rfl
@[simp] theorem modCl_xfers (s : State) (c : Nat) (f : Cluster → Cluster) : (s.modCl c f).xfers = s.xfers := rfl
@[simp] theorem modCl_arrivals (s : State) (c : Nat) (f : Cluster → Cluster) : (s.modCl c f).arrivals = s.arrivals := rfl
@[simp] theorem modCl_condQueue (s : State) (c : Nat) (f : Cluster → Cluster) : (s.modCl c f).condQueue = s.condQueue := rfl
@[simp] theorem modCl_pubReqs (s : State) (c : Nat) (f : Cluster → Cluster) : (s.modCl c f).pubReqs = s.pubReqs := rfl
@[simp] theorem modCl_pubAsks (s : State) (c : Nat) (f : Cluster → Cluster) : (s.modCl c f).pubAsks = s.pubAsks := rfl
@[simp] theorem modCl_shootdowns (s : State) (c : Nat) (f : Cluster → Cluster) : (s.modCl c f).shootdowns = s.shootdowns := rfl
@[simp] theorem modCl_pool (s : State) (c : Nat) (f : Cluster → Cluster) : (s.modCl c f).pool = s.pool := rfl
@[simp] theorem modCl_fabric (s : State) (c : Nat) (f : Cluster → Cluster) : (s.modCl c f).fabric = s.fabric := rfl
@[simp] theorem modCl_gang (s : State) (c : Nat) (f : Cluster → Cluster) : (s.modCl c f).gang = s.gang := rfl
@[simp] theorem modCl_clock (s : State) (c : Nat) (f : Cluster → Cluster) : (s.modCl c f).clock = s.clock := rfl
@[simp] theorem modCl_window (s : State) (c : Nat) (f : Cluster → Cluster) : (s.modCl c f).window = s.window := rfl
@[simp] theorem modCl_role (s : State) (c : Nat) (f : Cluster → Cluster) : (s.modCl c f).role = s.role := rfl
@[simp] theorem modCl_darkPoolLayers (s : State) (c : Nat) (f : Cluster → Cluster) : (s.modCl c f).darkPoolLayers = s.darkPoolLayers := rfl
@[simp] theorem modCl_keys (s : State) (c : Nat) (f : Cluster → Cluster) : (s.modCl c f).keys = s.keys := rfl
@[simp] theorem modCl_mailQueue (s : State) (c : Nat) (f : Cluster → Cluster) : (s.modCl c f).mailQueue = s.mailQueue := rfl
@[simp] theorem modCl_resumes (s : State) (c : Nat) (f : Cluster → Cluster) : (s.modCl c f).resumes = s.resumes := rfl
@[simp] theorem modCl_tripped (s : State) (c : Nat) (f : Cluster → Cluster) : (s.modCl c f).tripped = s.tripped := rfl
@[simp] theorem modCl_powerCap (s : State) (c : Nat) (f : Cluster → Cluster) : (s.modCl c f).powerCap = s.powerCap := rfl
@[simp] theorem modCl_hotDies (s : State) (c : Nat) (f : Cluster → Cluster) : (s.modCl c f).hotDies = s.hotDies := rfl
@[simp] theorem modCl_boot (s : State) (c : Nat) (f : Cluster → Cluster) : (s.modCl c f).boot = s.boot := rfl
@[simp] theorem modCl_measure (s : State) (c : Nat) (f : Cluster → Cluster) : (s.modCl c f).measure = s.measure := rfl
@[simp] theorem modCl_fused (s : State) (c : Nat) (f : Cluster → Cluster) : (s.modCl c f).fused = s.fused := rfl
@[simp] theorem modCl_poisonCount (s : State) (c : Nat) (f : Cluster → Cluster) : (s.modCl c f).poisonCount = s.poisonCount := rfl
@[simp] theorem modCl_poisonLast (s : State) (c : Nat) (f : Cluster → Cluster) : (s.modCl c f).poisonLast = s.poisonLast := rfl
@[simp] theorem modCl_controls (s : State) (c : Nat) (f : Cluster → Cluster) : (s.modCl c f).controls = s.controls := rfl
@[simp] theorem modCl_msix (s : State) (c : Nat) (f : Cluster → Cluster) : (s.modCl c f).msix = s.msix := rfl
@[simp] theorem modCl_outbox (s : State) (c : Nat) (f : Cluster → Cluster) : (s.modCl c f).outbox = s.outbox := rfl

/-! ## modHereCl -/

@[simp] theorem modHereCl_cycle (s : State) (f : Cluster → Cluster) : (s.modHereCl f).cycle = s.cycle := rfl
@[simp] theorem modHereCl_tick (s : State) (f : Cluster → Cluster) : (s.modHereCl f).tick = s.tick := rfl
@[simp] theorem modHereCl_agenda (s : State) (f : Cluster → Cluster) : (s.modHereCl f).agenda = s.agenda := rfl
@[simp] theorem modHereCl_schedule (s : State) (f : Cluster → Cluster) : (s.modHereCl f).schedule = s.schedule := rfl
@[simp] theorem modHereCl_cur (s : State) (f : Cluster → Cluster) : (s.modHereCl f).cur = s.cur := rfl
@[simp] theorem modHereCl_free (s : State) (f : Cluster → Cluster) : (s.modHereCl f).free = s.free := rfl
@[simp] theorem modHereCl_trapped (s : State) (f : Cluster → Cluster) : (s.modHereCl f).trapped = s.trapped := rfl
@[simp] theorem modHereCl_fresh (s : State) (f : Cluster → Cluster) : (s.modHereCl f).fresh = s.fresh := rfl
@[simp] theorem modHereCl_stamp (s : State) (f : Cluster → Cluster) : (s.modHereCl f).stamp = s.stamp := rfl
@[simp] theorem modHereCl_roles (s : State) (f : Cluster → Cluster) : (s.modHereCl f).roles = s.roles := rfl
@[simp] theorem modHereCl_partOf (s : State) (f : Cluster → Cluster) : (s.modHereCl f).partOf = s.partOf := rfl
@[simp] theorem modHereCl_spare (s : State) (f : Cluster → Cluster) : (s.modHereCl f).spare = s.spare := rfl
@[simp] theorem modHereCl_mem (s : State) (f : Cluster → Cluster) : (s.modHereCl f).mem = s.mem := rfl
@[simp] theorem modHereCl_parts (s : State) (f : Cluster → Cluster) : (s.modHereCl f).parts = s.parts := rfl
@[simp] theorem modHereCl_ctxs (s : State) (f : Cluster → Cluster) : (s.modHereCl f).ctxs = s.ctxs := rfl
@[simp] theorem modHereCl_shadow (s : State) (f : Cluster → Cluster) : (s.modHereCl f).shadow = s.shadow := rfl
@[simp] theorem modHereCl_banked (s : State) (f : Cluster → Cluster) : (s.modHereCl f).banked = s.banked := rfl
@[simp] theorem modHereCl_xfers (s : State) (f : Cluster → Cluster) : (s.modHereCl f).xfers = s.xfers := rfl
@[simp] theorem modHereCl_arrivals (s : State) (f : Cluster → Cluster) : (s.modHereCl f).arrivals = s.arrivals := rfl
@[simp] theorem modHereCl_condQueue (s : State) (f : Cluster → Cluster) : (s.modHereCl f).condQueue = s.condQueue := rfl
@[simp] theorem modHereCl_pubReqs (s : State) (f : Cluster → Cluster) : (s.modHereCl f).pubReqs = s.pubReqs := rfl
@[simp] theorem modHereCl_pubAsks (s : State) (f : Cluster → Cluster) : (s.modHereCl f).pubAsks = s.pubAsks := rfl
@[simp] theorem modHereCl_shootdowns (s : State) (f : Cluster → Cluster) : (s.modHereCl f).shootdowns = s.shootdowns := rfl
@[simp] theorem modHereCl_pool (s : State) (f : Cluster → Cluster) : (s.modHereCl f).pool = s.pool := rfl
@[simp] theorem modHereCl_fabric (s : State) (f : Cluster → Cluster) : (s.modHereCl f).fabric = s.fabric := rfl
@[simp] theorem modHereCl_gang (s : State) (f : Cluster → Cluster) : (s.modHereCl f).gang = s.gang := rfl
@[simp] theorem modHereCl_clock (s : State) (f : Cluster → Cluster) : (s.modHereCl f).clock = s.clock := rfl
@[simp] theorem modHereCl_window (s : State) (f : Cluster → Cluster) : (s.modHereCl f).window = s.window := rfl
@[simp] theorem modHereCl_role (s : State) (f : Cluster → Cluster) : (s.modHereCl f).role = s.role := rfl
@[simp] theorem modHereCl_darkPoolLayers (s : State) (f : Cluster → Cluster) : (s.modHereCl f).darkPoolLayers = s.darkPoolLayers := rfl
@[simp] theorem modHereCl_keys (s : State) (f : Cluster → Cluster) : (s.modHereCl f).keys = s.keys := rfl
@[simp] theorem modHereCl_mailQueue (s : State) (f : Cluster → Cluster) : (s.modHereCl f).mailQueue = s.mailQueue := rfl
@[simp] theorem modHereCl_resumes (s : State) (f : Cluster → Cluster) : (s.modHereCl f).resumes = s.resumes := rfl
@[simp] theorem modHereCl_tripped (s : State) (f : Cluster → Cluster) : (s.modHereCl f).tripped = s.tripped := rfl
@[simp] theorem modHereCl_powerCap (s : State) (f : Cluster → Cluster) : (s.modHereCl f).powerCap = s.powerCap := rfl
@[simp] theorem modHereCl_hotDies (s : State) (f : Cluster → Cluster) : (s.modHereCl f).hotDies = s.hotDies := rfl
@[simp] theorem modHereCl_boot (s : State) (f : Cluster → Cluster) : (s.modHereCl f).boot = s.boot := rfl
@[simp] theorem modHereCl_measure (s : State) (f : Cluster → Cluster) : (s.modHereCl f).measure = s.measure := rfl
@[simp] theorem modHereCl_fused (s : State) (f : Cluster → Cluster) : (s.modHereCl f).fused = s.fused := rfl
@[simp] theorem modHereCl_poisonCount (s : State) (f : Cluster → Cluster) : (s.modHereCl f).poisonCount = s.poisonCount := rfl
@[simp] theorem modHereCl_poisonLast (s : State) (f : Cluster → Cluster) : (s.modHereCl f).poisonLast = s.poisonLast := rfl
@[simp] theorem modHereCl_controls (s : State) (f : Cluster → Cluster) : (s.modHereCl f).controls = s.controls := rfl
@[simp] theorem modHereCl_msix (s : State) (f : Cluster → Cluster) : (s.modHereCl f).msix = s.msix := rfl
@[simp] theorem modHereCl_outbox (s : State) (f : Cluster → Cluster) : (s.modHereCl f).outbox = s.outbox := rfl

/-! ## modHere -/

@[simp] theorem modHere_cycle (s : State) (f : Core → Core) : (s.modHere f).cycle = s.cycle := rfl
@[simp] theorem modHere_tick (s : State) (f : Core → Core) : (s.modHere f).tick = s.tick := rfl
@[simp] theorem modHere_agenda (s : State) (f : Core → Core) : (s.modHere f).agenda = s.agenda := rfl
@[simp] theorem modHere_schedule (s : State) (f : Core → Core) : (s.modHere f).schedule = s.schedule := rfl
@[simp] theorem modHere_cur (s : State) (f : Core → Core) : (s.modHere f).cur = s.cur := rfl
@[simp] theorem modHere_free (s : State) (f : Core → Core) : (s.modHere f).free = s.free := rfl
@[simp] theorem modHere_trapped (s : State) (f : Core → Core) : (s.modHere f).trapped = s.trapped := rfl
@[simp] theorem modHere_fresh (s : State) (f : Core → Core) : (s.modHere f).fresh = s.fresh := rfl
@[simp] theorem modHere_stamp (s : State) (f : Core → Core) : (s.modHere f).stamp = s.stamp := rfl
@[simp] theorem modHere_roles (s : State) (f : Core → Core) : (s.modHere f).roles = s.roles := rfl
@[simp] theorem modHere_partOf (s : State) (f : Core → Core) : (s.modHere f).partOf = s.partOf := rfl
@[simp] theorem modHere_spare (s : State) (f : Core → Core) : (s.modHere f).spare = s.spare := rfl
@[simp] theorem modHere_mem (s : State) (f : Core → Core) : (s.modHere f).mem = s.mem := rfl
@[simp] theorem modHere_parts (s : State) (f : Core → Core) : (s.modHere f).parts = s.parts := rfl
@[simp] theorem modHere_ctxs (s : State) (f : Core → Core) : (s.modHere f).ctxs = s.ctxs := rfl
@[simp] theorem modHere_shadow (s : State) (f : Core → Core) : (s.modHere f).shadow = s.shadow := rfl
@[simp] theorem modHere_banked (s : State) (f : Core → Core) : (s.modHere f).banked = s.banked := rfl
@[simp] theorem modHere_xfers (s : State) (f : Core → Core) : (s.modHere f).xfers = s.xfers := rfl
@[simp] theorem modHere_arrivals (s : State) (f : Core → Core) : (s.modHere f).arrivals = s.arrivals := rfl
@[simp] theorem modHere_condQueue (s : State) (f : Core → Core) : (s.modHere f).condQueue = s.condQueue := rfl
@[simp] theorem modHere_pubReqs (s : State) (f : Core → Core) : (s.modHere f).pubReqs = s.pubReqs := rfl
@[simp] theorem modHere_pubAsks (s : State) (f : Core → Core) : (s.modHere f).pubAsks = s.pubAsks := rfl
@[simp] theorem modHere_shootdowns (s : State) (f : Core → Core) : (s.modHere f).shootdowns = s.shootdowns := rfl
@[simp] theorem modHere_pool (s : State) (f : Core → Core) : (s.modHere f).pool = s.pool := rfl
@[simp] theorem modHere_fabric (s : State) (f : Core → Core) : (s.modHere f).fabric = s.fabric := rfl
@[simp] theorem modHere_gang (s : State) (f : Core → Core) : (s.modHere f).gang = s.gang := rfl
@[simp] theorem modHere_clock (s : State) (f : Core → Core) : (s.modHere f).clock = s.clock := rfl
@[simp] theorem modHere_window (s : State) (f : Core → Core) : (s.modHere f).window = s.window := rfl
@[simp] theorem modHere_role (s : State) (f : Core → Core) : (s.modHere f).role = s.role := rfl
@[simp] theorem modHere_darkPoolLayers (s : State) (f : Core → Core) : (s.modHere f).darkPoolLayers = s.darkPoolLayers := rfl
@[simp] theorem modHere_keys (s : State) (f : Core → Core) : (s.modHere f).keys = s.keys := rfl
@[simp] theorem modHere_mailQueue (s : State) (f : Core → Core) : (s.modHere f).mailQueue = s.mailQueue := rfl
@[simp] theorem modHere_resumes (s : State) (f : Core → Core) : (s.modHere f).resumes = s.resumes := rfl
@[simp] theorem modHere_tripped (s : State) (f : Core → Core) : (s.modHere f).tripped = s.tripped := rfl
@[simp] theorem modHere_powerCap (s : State) (f : Core → Core) : (s.modHere f).powerCap = s.powerCap := rfl
@[simp] theorem modHere_hotDies (s : State) (f : Core → Core) : (s.modHere f).hotDies = s.hotDies := rfl
@[simp] theorem modHere_boot (s : State) (f : Core → Core) : (s.modHere f).boot = s.boot := rfl
@[simp] theorem modHere_measure (s : State) (f : Core → Core) : (s.modHere f).measure = s.measure := rfl
@[simp] theorem modHere_fused (s : State) (f : Core → Core) : (s.modHere f).fused = s.fused := rfl
@[simp] theorem modHere_poisonCount (s : State) (f : Core → Core) : (s.modHere f).poisonCount = s.poisonCount := rfl
@[simp] theorem modHere_poisonLast (s : State) (f : Core → Core) : (s.modHere f).poisonLast = s.poisonLast := rfl
@[simp] theorem modHere_controls (s : State) (f : Core → Core) : (s.modHere f).controls = s.controls := rfl
@[simp] theorem modHere_msix (s : State) (f : Core → Core) : (s.modHere f).msix = s.msix := rfl
@[simp] theorem modHere_outbox (s : State) (f : Core → Core) : (s.modHere f).outbox = s.outbox := rfl

/-! ## modHereE -/

@[simp] theorem modHereE_cycle (s : State) (f : CoreE → CoreE) : (s.modHereE f).cycle = s.cycle := rfl
@[simp] theorem modHereE_tick (s : State) (f : CoreE → CoreE) : (s.modHereE f).tick = s.tick := rfl
@[simp] theorem modHereE_agenda (s : State) (f : CoreE → CoreE) : (s.modHereE f).agenda = s.agenda := rfl
@[simp] theorem modHereE_schedule (s : State) (f : CoreE → CoreE) : (s.modHereE f).schedule = s.schedule := rfl
@[simp] theorem modHereE_cur (s : State) (f : CoreE → CoreE) : (s.modHereE f).cur = s.cur := rfl
@[simp] theorem modHereE_free (s : State) (f : CoreE → CoreE) : (s.modHereE f).free = s.free := rfl
@[simp] theorem modHereE_trapped (s : State) (f : CoreE → CoreE) : (s.modHereE f).trapped = s.trapped := rfl
@[simp] theorem modHereE_fresh (s : State) (f : CoreE → CoreE) : (s.modHereE f).fresh = s.fresh := rfl
@[simp] theorem modHereE_stamp (s : State) (f : CoreE → CoreE) : (s.modHereE f).stamp = s.stamp := rfl
@[simp] theorem modHereE_roles (s : State) (f : CoreE → CoreE) : (s.modHereE f).roles = s.roles := rfl
@[simp] theorem modHereE_partOf (s : State) (f : CoreE → CoreE) : (s.modHereE f).partOf = s.partOf := rfl
@[simp] theorem modHereE_spare (s : State) (f : CoreE → CoreE) : (s.modHereE f).spare = s.spare := rfl
@[simp] theorem modHereE_mem (s : State) (f : CoreE → CoreE) : (s.modHereE f).mem = s.mem := rfl
@[simp] theorem modHereE_parts (s : State) (f : CoreE → CoreE) : (s.modHereE f).parts = s.parts := rfl
@[simp] theorem modHereE_ctxs (s : State) (f : CoreE → CoreE) : (s.modHereE f).ctxs = s.ctxs := rfl
@[simp] theorem modHereE_shadow (s : State) (f : CoreE → CoreE) : (s.modHereE f).shadow = s.shadow := rfl
@[simp] theorem modHereE_banked (s : State) (f : CoreE → CoreE) : (s.modHereE f).banked = s.banked := rfl
@[simp] theorem modHereE_xfers (s : State) (f : CoreE → CoreE) : (s.modHereE f).xfers = s.xfers := rfl
@[simp] theorem modHereE_arrivals (s : State) (f : CoreE → CoreE) : (s.modHereE f).arrivals = s.arrivals := rfl
@[simp] theorem modHereE_condQueue (s : State) (f : CoreE → CoreE) : (s.modHereE f).condQueue = s.condQueue := rfl
@[simp] theorem modHereE_pubReqs (s : State) (f : CoreE → CoreE) : (s.modHereE f).pubReqs = s.pubReqs := rfl
@[simp] theorem modHereE_pubAsks (s : State) (f : CoreE → CoreE) : (s.modHereE f).pubAsks = s.pubAsks := rfl
@[simp] theorem modHereE_shootdowns (s : State) (f : CoreE → CoreE) : (s.modHereE f).shootdowns = s.shootdowns := rfl
@[simp] theorem modHereE_pool (s : State) (f : CoreE → CoreE) : (s.modHereE f).pool = s.pool := rfl
@[simp] theorem modHereE_fabric (s : State) (f : CoreE → CoreE) : (s.modHereE f).fabric = s.fabric := rfl
@[simp] theorem modHereE_gang (s : State) (f : CoreE → CoreE) : (s.modHereE f).gang = s.gang := rfl
@[simp] theorem modHereE_clock (s : State) (f : CoreE → CoreE) : (s.modHereE f).clock = s.clock := rfl
@[simp] theorem modHereE_window (s : State) (f : CoreE → CoreE) : (s.modHereE f).window = s.window := rfl
@[simp] theorem modHereE_role (s : State) (f : CoreE → CoreE) : (s.modHereE f).role = s.role := rfl
@[simp] theorem modHereE_darkPoolLayers (s : State) (f : CoreE → CoreE) : (s.modHereE f).darkPoolLayers = s.darkPoolLayers := rfl
@[simp] theorem modHereE_keys (s : State) (f : CoreE → CoreE) : (s.modHereE f).keys = s.keys := rfl
@[simp] theorem modHereE_mailQueue (s : State) (f : CoreE → CoreE) : (s.modHereE f).mailQueue = s.mailQueue := rfl
@[simp] theorem modHereE_resumes (s : State) (f : CoreE → CoreE) : (s.modHereE f).resumes = s.resumes := rfl
@[simp] theorem modHereE_tripped (s : State) (f : CoreE → CoreE) : (s.modHereE f).tripped = s.tripped := rfl
@[simp] theorem modHereE_powerCap (s : State) (f : CoreE → CoreE) : (s.modHereE f).powerCap = s.powerCap := rfl
@[simp] theorem modHereE_hotDies (s : State) (f : CoreE → CoreE) : (s.modHereE f).hotDies = s.hotDies := rfl
@[simp] theorem modHereE_boot (s : State) (f : CoreE → CoreE) : (s.modHereE f).boot = s.boot := rfl
@[simp] theorem modHereE_measure (s : State) (f : CoreE → CoreE) : (s.modHereE f).measure = s.measure := rfl
@[simp] theorem modHereE_fused (s : State) (f : CoreE → CoreE) : (s.modHereE f).fused = s.fused := rfl
@[simp] theorem modHereE_poisonCount (s : State) (f : CoreE → CoreE) : (s.modHereE f).poisonCount = s.poisonCount := rfl
@[simp] theorem modHereE_poisonLast (s : State) (f : CoreE → CoreE) : (s.modHereE f).poisonLast = s.poisonLast := rfl
@[simp] theorem modHereE_controls (s : State) (f : CoreE → CoreE) : (s.modHereE f).controls = s.controls := rfl
@[simp] theorem modHereE_msix (s : State) (f : CoreE → CoreE) : (s.modHereE f).msix = s.msix := rfl
@[simp] theorem modHereE_outbox (s : State) (f : CoreE → CoreE) : (s.modHereE f).outbox = s.outbox := rfl

/-! ## modMe -/

@[simp] theorem modMe_cycle (s : State) (f : Seq → Seq) : (s.modMe f).cycle = s.cycle := rfl
@[simp] theorem modMe_tick (s : State) (f : Seq → Seq) : (s.modMe f).tick = s.tick := rfl
@[simp] theorem modMe_agenda (s : State) (f : Seq → Seq) : (s.modMe f).agenda = s.agenda := rfl
@[simp] theorem modMe_schedule (s : State) (f : Seq → Seq) : (s.modMe f).schedule = s.schedule := rfl
@[simp] theorem modMe_cur (s : State) (f : Seq → Seq) : (s.modMe f).cur = s.cur := rfl
@[simp] theorem modMe_free (s : State) (f : Seq → Seq) : (s.modMe f).free = s.free := rfl
@[simp] theorem modMe_trapped (s : State) (f : Seq → Seq) : (s.modMe f).trapped = s.trapped := rfl
@[simp] theorem modMe_fresh (s : State) (f : Seq → Seq) : (s.modMe f).fresh = s.fresh := rfl
@[simp] theorem modMe_stamp (s : State) (f : Seq → Seq) : (s.modMe f).stamp = s.stamp := rfl
@[simp] theorem modMe_roles (s : State) (f : Seq → Seq) : (s.modMe f).roles = s.roles := rfl
@[simp] theorem modMe_partOf (s : State) (f : Seq → Seq) : (s.modMe f).partOf = s.partOf := rfl
@[simp] theorem modMe_spare (s : State) (f : Seq → Seq) : (s.modMe f).spare = s.spare := rfl
@[simp] theorem modMe_mem (s : State) (f : Seq → Seq) : (s.modMe f).mem = s.mem := rfl
@[simp] theorem modMe_parts (s : State) (f : Seq → Seq) : (s.modMe f).parts = s.parts := rfl
@[simp] theorem modMe_ctxs (s : State) (f : Seq → Seq) : (s.modMe f).ctxs = s.ctxs := rfl
@[simp] theorem modMe_shadow (s : State) (f : Seq → Seq) : (s.modMe f).shadow = s.shadow := rfl
@[simp] theorem modMe_banked (s : State) (f : Seq → Seq) : (s.modMe f).banked = s.banked := rfl
@[simp] theorem modMe_xfers (s : State) (f : Seq → Seq) : (s.modMe f).xfers = s.xfers := rfl
@[simp] theorem modMe_arrivals (s : State) (f : Seq → Seq) : (s.modMe f).arrivals = s.arrivals := rfl
@[simp] theorem modMe_condQueue (s : State) (f : Seq → Seq) : (s.modMe f).condQueue = s.condQueue := rfl
@[simp] theorem modMe_pubReqs (s : State) (f : Seq → Seq) : (s.modMe f).pubReqs = s.pubReqs := rfl
@[simp] theorem modMe_pubAsks (s : State) (f : Seq → Seq) : (s.modMe f).pubAsks = s.pubAsks := rfl
@[simp] theorem modMe_shootdowns (s : State) (f : Seq → Seq) : (s.modMe f).shootdowns = s.shootdowns := rfl
@[simp] theorem modMe_pool (s : State) (f : Seq → Seq) : (s.modMe f).pool = s.pool := rfl
@[simp] theorem modMe_fabric (s : State) (f : Seq → Seq) : (s.modMe f).fabric = s.fabric := rfl
@[simp] theorem modMe_gang (s : State) (f : Seq → Seq) : (s.modMe f).gang = s.gang := rfl
@[simp] theorem modMe_clock (s : State) (f : Seq → Seq) : (s.modMe f).clock = s.clock := rfl
@[simp] theorem modMe_window (s : State) (f : Seq → Seq) : (s.modMe f).window = s.window := rfl
@[simp] theorem modMe_role (s : State) (f : Seq → Seq) : (s.modMe f).role = s.role := rfl
@[simp] theorem modMe_darkPoolLayers (s : State) (f : Seq → Seq) : (s.modMe f).darkPoolLayers = s.darkPoolLayers := rfl
@[simp] theorem modMe_keys (s : State) (f : Seq → Seq) : (s.modMe f).keys = s.keys := rfl
@[simp] theorem modMe_mailQueue (s : State) (f : Seq → Seq) : (s.modMe f).mailQueue = s.mailQueue := rfl
@[simp] theorem modMe_resumes (s : State) (f : Seq → Seq) : (s.modMe f).resumes = s.resumes := rfl
@[simp] theorem modMe_tripped (s : State) (f : Seq → Seq) : (s.modMe f).tripped = s.tripped := rfl
@[simp] theorem modMe_powerCap (s : State) (f : Seq → Seq) : (s.modMe f).powerCap = s.powerCap := rfl
@[simp] theorem modMe_hotDies (s : State) (f : Seq → Seq) : (s.modMe f).hotDies = s.hotDies := rfl
@[simp] theorem modMe_boot (s : State) (f : Seq → Seq) : (s.modMe f).boot = s.boot := rfl
@[simp] theorem modMe_measure (s : State) (f : Seq → Seq) : (s.modMe f).measure = s.measure := rfl
@[simp] theorem modMe_fused (s : State) (f : Seq → Seq) : (s.modMe f).fused = s.fused := rfl
@[simp] theorem modMe_poisonCount (s : State) (f : Seq → Seq) : (s.modMe f).poisonCount = s.poisonCount := rfl
@[simp] theorem modMe_poisonLast (s : State) (f : Seq → Seq) : (s.modMe f).poisonLast = s.poisonLast := rfl
@[simp] theorem modMe_controls (s : State) (f : Seq → Seq) : (s.modMe f).controls = s.controls := rfl
@[simp] theorem modMe_msix (s : State) (f : Seq → Seq) : (s.modMe f).msix = s.msix := rfl
@[simp] theorem modMe_outbox (s : State) (f : Seq → Seq) : (s.modMe f).outbox = s.outbox := rfl

/-! ## tick1 -/

@[simp] theorem tick1_cycle (s : State) : (s.tick1).cycle = s.cycle := rfl
@[simp] theorem tick1_tick (s : State) : (s.tick1).tick = s.tick := rfl
@[simp] theorem tick1_agenda (s : State) : (s.tick1).agenda = s.agenda := rfl
@[simp] theorem tick1_schedule (s : State) : (s.tick1).schedule = s.schedule := rfl
@[simp] theorem tick1_cur (s : State) : (s.tick1).cur = s.cur := rfl
@[simp] theorem tick1_free (s : State) : (s.tick1).free = s.free := rfl
@[simp] theorem tick1_trapped (s : State) : (s.tick1).trapped = s.trapped := rfl
@[simp] theorem tick1_stamp (s : State) : (s.tick1).stamp = s.stamp := rfl
@[simp] theorem tick1_roles (s : State) : (s.tick1).roles = s.roles := rfl
@[simp] theorem tick1_partOf (s : State) : (s.tick1).partOf = s.partOf := rfl
@[simp] theorem tick1_spare (s : State) : (s.tick1).spare = s.spare := rfl
@[simp] theorem tick1_clusters (s : State) : (s.tick1).clusters = s.clusters := rfl
@[simp] theorem tick1_mem (s : State) : (s.tick1).mem = s.mem := rfl
@[simp] theorem tick1_parts (s : State) : (s.tick1).parts = s.parts := rfl
@[simp] theorem tick1_ctxs (s : State) : (s.tick1).ctxs = s.ctxs := rfl
@[simp] theorem tick1_shadow (s : State) : (s.tick1).shadow = s.shadow := rfl
@[simp] theorem tick1_banked (s : State) : (s.tick1).banked = s.banked := rfl
@[simp] theorem tick1_xfers (s : State) : (s.tick1).xfers = s.xfers := rfl
@[simp] theorem tick1_arrivals (s : State) : (s.tick1).arrivals = s.arrivals := rfl
@[simp] theorem tick1_condQueue (s : State) : (s.tick1).condQueue = s.condQueue := rfl
@[simp] theorem tick1_pubReqs (s : State) : (s.tick1).pubReqs = s.pubReqs := rfl
@[simp] theorem tick1_pubAsks (s : State) : (s.tick1).pubAsks = s.pubAsks := rfl
@[simp] theorem tick1_shootdowns (s : State) : (s.tick1).shootdowns = s.shootdowns := rfl
@[simp] theorem tick1_pool (s : State) : (s.tick1).pool = s.pool := rfl
@[simp] theorem tick1_fabric (s : State) : (s.tick1).fabric = s.fabric := rfl
@[simp] theorem tick1_gang (s : State) : (s.tick1).gang = s.gang := rfl
@[simp] theorem tick1_clock (s : State) : (s.tick1).clock = s.clock := rfl
@[simp] theorem tick1_window (s : State) : (s.tick1).window = s.window := rfl
@[simp] theorem tick1_role (s : State) : (s.tick1).role = s.role := rfl
@[simp] theorem tick1_darkPoolLayers (s : State) : (s.tick1).darkPoolLayers = s.darkPoolLayers := rfl
@[simp] theorem tick1_keys (s : State) : (s.tick1).keys = s.keys := rfl
@[simp] theorem tick1_mailQueue (s : State) : (s.tick1).mailQueue = s.mailQueue := rfl
@[simp] theorem tick1_resumes (s : State) : (s.tick1).resumes = s.resumes := rfl
@[simp] theorem tick1_tripped (s : State) : (s.tick1).tripped = s.tripped := rfl
@[simp] theorem tick1_powerCap (s : State) : (s.tick1).powerCap = s.powerCap := rfl
@[simp] theorem tick1_hotDies (s : State) : (s.tick1).hotDies = s.hotDies := rfl
@[simp] theorem tick1_boot (s : State) : (s.tick1).boot = s.boot := rfl
@[simp] theorem tick1_measure (s : State) : (s.tick1).measure = s.measure := rfl
@[simp] theorem tick1_fused (s : State) : (s.tick1).fused = s.fused := rfl
@[simp] theorem tick1_poisonCount (s : State) : (s.tick1).poisonCount = s.poisonCount := rfl
@[simp] theorem tick1_poisonLast (s : State) : (s.tick1).poisonLast = s.poisonLast := rfl
@[simp] theorem tick1_controls (s : State) : (s.tick1).controls = s.controls := rfl
@[simp] theorem tick1_msix (s : State) : (s.tick1).msix = s.msix := rfl
@[simp] theorem tick1_outbox (s : State) : (s.tick1).outbox = s.outbox := rfl

/-! ## report -/

@[simp] theorem report_cycle (s : State) (w : String) (v : Nat) : (s.report w v).cycle = s.cycle := rfl
@[simp] theorem report_tick (s : State) (w : String) (v : Nat) : (s.report w v).tick = s.tick := rfl
@[simp] theorem report_agenda (s : State) (w : String) (v : Nat) : (s.report w v).agenda = s.agenda := rfl
@[simp] theorem report_schedule (s : State) (w : String) (v : Nat) : (s.report w v).schedule = s.schedule := rfl
@[simp] theorem report_cur (s : State) (w : String) (v : Nat) : (s.report w v).cur = s.cur := rfl
@[simp] theorem report_free (s : State) (w : String) (v : Nat) : (s.report w v).free = s.free := rfl
@[simp] theorem report_trapped (s : State) (w : String) (v : Nat) : (s.report w v).trapped = s.trapped := rfl
@[simp] theorem report_fresh (s : State) (w : String) (v : Nat) : (s.report w v).fresh = s.fresh := rfl
@[simp] theorem report_stamp (s : State) (w : String) (v : Nat) : (s.report w v).stamp = s.stamp := rfl
@[simp] theorem report_roles (s : State) (w : String) (v : Nat) : (s.report w v).roles = s.roles := rfl
@[simp] theorem report_partOf (s : State) (w : String) (v : Nat) : (s.report w v).partOf = s.partOf := rfl
@[simp] theorem report_spare (s : State) (w : String) (v : Nat) : (s.report w v).spare = s.spare := rfl
@[simp] theorem report_clusters (s : State) (w : String) (v : Nat) : (s.report w v).clusters = s.clusters := rfl
@[simp] theorem report_mem (s : State) (w : String) (v : Nat) : (s.report w v).mem = s.mem := rfl
@[simp] theorem report_parts (s : State) (w : String) (v : Nat) : (s.report w v).parts = s.parts := rfl
@[simp] theorem report_ctxs (s : State) (w : String) (v : Nat) : (s.report w v).ctxs = s.ctxs := rfl
@[simp] theorem report_shadow (s : State) (w : String) (v : Nat) : (s.report w v).shadow = s.shadow := rfl
@[simp] theorem report_banked (s : State) (w : String) (v : Nat) : (s.report w v).banked = s.banked := rfl
@[simp] theorem report_xfers (s : State) (w : String) (v : Nat) : (s.report w v).xfers = s.xfers := rfl
@[simp] theorem report_arrivals (s : State) (w : String) (v : Nat) : (s.report w v).arrivals = s.arrivals := rfl
@[simp] theorem report_condQueue (s : State) (w : String) (v : Nat) : (s.report w v).condQueue = s.condQueue := rfl
@[simp] theorem report_pubReqs (s : State) (w : String) (v : Nat) : (s.report w v).pubReqs = s.pubReqs := rfl
@[simp] theorem report_pubAsks (s : State) (w : String) (v : Nat) : (s.report w v).pubAsks = s.pubAsks := rfl
@[simp] theorem report_shootdowns (s : State) (w : String) (v : Nat) : (s.report w v).shootdowns = s.shootdowns := rfl
@[simp] theorem report_pool (s : State) (w : String) (v : Nat) : (s.report w v).pool = s.pool := rfl
@[simp] theorem report_fabric (s : State) (w : String) (v : Nat) : (s.report w v).fabric = s.fabric := rfl
@[simp] theorem report_gang (s : State) (w : String) (v : Nat) : (s.report w v).gang = s.gang := rfl
@[simp] theorem report_clock (s : State) (w : String) (v : Nat) : (s.report w v).clock = s.clock := rfl
@[simp] theorem report_window (s : State) (w : String) (v : Nat) : (s.report w v).window = s.window := rfl
@[simp] theorem report_role (s : State) (w : String) (v : Nat) : (s.report w v).role = s.role := rfl
@[simp] theorem report_darkPoolLayers (s : State) (w : String) (v : Nat) : (s.report w v).darkPoolLayers = s.darkPoolLayers := rfl
@[simp] theorem report_keys (s : State) (w : String) (v : Nat) : (s.report w v).keys = s.keys := rfl
@[simp] theorem report_mailQueue (s : State) (w : String) (v : Nat) : (s.report w v).mailQueue = s.mailQueue := rfl
@[simp] theorem report_resumes (s : State) (w : String) (v : Nat) : (s.report w v).resumes = s.resumes := rfl
@[simp] theorem report_tripped (s : State) (w : String) (v : Nat) : (s.report w v).tripped = s.tripped := rfl
@[simp] theorem report_powerCap (s : State) (w : String) (v : Nat) : (s.report w v).powerCap = s.powerCap := rfl
@[simp] theorem report_hotDies (s : State) (w : String) (v : Nat) : (s.report w v).hotDies = s.hotDies := rfl
@[simp] theorem report_boot (s : State) (w : String) (v : Nat) : (s.report w v).boot = s.boot := rfl
@[simp] theorem report_measure (s : State) (w : String) (v : Nat) : (s.report w v).measure = s.measure := rfl
@[simp] theorem report_fused (s : State) (w : String) (v : Nat) : (s.report w v).fused = s.fused := rfl
@[simp] theorem report_poisonCount (s : State) (w : String) (v : Nat) : (s.report w v).poisonCount = s.poisonCount := rfl
@[simp] theorem report_poisonLast (s : State) (w : String) (v : Nat) : (s.report w v).poisonLast = s.poisonLast := rfl
@[simp] theorem report_controls (s : State) (w : String) (v : Nat) : (s.report w v).controls = s.controls := rfl
@[simp] theorem report_msix (s : State) (w : String) (v : Nat) : (s.report w v).msix = s.msix := rfl

/-! ## pend -/

@[simp] theorem pend_cycle (s : State) (n : Nat) (ws : List PWrite) (fl : Fl) : (s.pend n ws fl).cycle = s.cycle := rfl
@[simp] theorem pend_tick (s : State) (n : Nat) (ws : List PWrite) (fl : Fl) : (s.pend n ws fl).tick = s.tick := rfl
@[simp] theorem pend_agenda (s : State) (n : Nat) (ws : List PWrite) (fl : Fl) : (s.pend n ws fl).agenda = s.agenda := rfl
@[simp] theorem pend_schedule (s : State) (n : Nat) (ws : List PWrite) (fl : Fl) : (s.pend n ws fl).schedule = s.schedule := rfl
@[simp] theorem pend_cur (s : State) (n : Nat) (ws : List PWrite) (fl : Fl) : (s.pend n ws fl).cur = s.cur := rfl
@[simp] theorem pend_free (s : State) (n : Nat) (ws : List PWrite) (fl : Fl) : (s.pend n ws fl).free = s.free := rfl
@[simp] theorem pend_trapped (s : State) (n : Nat) (ws : List PWrite) (fl : Fl) : (s.pend n ws fl).trapped = s.trapped := rfl
@[simp] theorem pend_stamp (s : State) (n : Nat) (ws : List PWrite) (fl : Fl) : (s.pend n ws fl).stamp = s.stamp := rfl
@[simp] theorem pend_roles (s : State) (n : Nat) (ws : List PWrite) (fl : Fl) : (s.pend n ws fl).roles = s.roles := rfl
@[simp] theorem pend_partOf (s : State) (n : Nat) (ws : List PWrite) (fl : Fl) : (s.pend n ws fl).partOf = s.partOf := rfl
@[simp] theorem pend_spare (s : State) (n : Nat) (ws : List PWrite) (fl : Fl) : (s.pend n ws fl).spare = s.spare := rfl
@[simp] theorem pend_mem (s : State) (n : Nat) (ws : List PWrite) (fl : Fl) : (s.pend n ws fl).mem = s.mem := rfl
@[simp] theorem pend_parts (s : State) (n : Nat) (ws : List PWrite) (fl : Fl) : (s.pend n ws fl).parts = s.parts := rfl
@[simp] theorem pend_ctxs (s : State) (n : Nat) (ws : List PWrite) (fl : Fl) : (s.pend n ws fl).ctxs = s.ctxs := rfl
@[simp] theorem pend_shadow (s : State) (n : Nat) (ws : List PWrite) (fl : Fl) : (s.pend n ws fl).shadow = s.shadow := rfl
@[simp] theorem pend_banked (s : State) (n : Nat) (ws : List PWrite) (fl : Fl) : (s.pend n ws fl).banked = s.banked := rfl
@[simp] theorem pend_xfers (s : State) (n : Nat) (ws : List PWrite) (fl : Fl) : (s.pend n ws fl).xfers = s.xfers := rfl
@[simp] theorem pend_arrivals (s : State) (n : Nat) (ws : List PWrite) (fl : Fl) : (s.pend n ws fl).arrivals = s.arrivals := rfl
@[simp] theorem pend_condQueue (s : State) (n : Nat) (ws : List PWrite) (fl : Fl) : (s.pend n ws fl).condQueue = s.condQueue := rfl
@[simp] theorem pend_pubReqs (s : State) (n : Nat) (ws : List PWrite) (fl : Fl) : (s.pend n ws fl).pubReqs = s.pubReqs := rfl
@[simp] theorem pend_pubAsks (s : State) (n : Nat) (ws : List PWrite) (fl : Fl) : (s.pend n ws fl).pubAsks = s.pubAsks := rfl
@[simp] theorem pend_shootdowns (s : State) (n : Nat) (ws : List PWrite) (fl : Fl) : (s.pend n ws fl).shootdowns = s.shootdowns := rfl
@[simp] theorem pend_pool (s : State) (n : Nat) (ws : List PWrite) (fl : Fl) : (s.pend n ws fl).pool = s.pool := rfl
@[simp] theorem pend_fabric (s : State) (n : Nat) (ws : List PWrite) (fl : Fl) : (s.pend n ws fl).fabric = s.fabric := rfl
@[simp] theorem pend_gang (s : State) (n : Nat) (ws : List PWrite) (fl : Fl) : (s.pend n ws fl).gang = s.gang := rfl
@[simp] theorem pend_clock (s : State) (n : Nat) (ws : List PWrite) (fl : Fl) : (s.pend n ws fl).clock = s.clock := rfl
@[simp] theorem pend_window (s : State) (n : Nat) (ws : List PWrite) (fl : Fl) : (s.pend n ws fl).window = s.window := rfl
@[simp] theorem pend_role (s : State) (n : Nat) (ws : List PWrite) (fl : Fl) : (s.pend n ws fl).role = s.role := rfl
@[simp] theorem pend_darkPoolLayers (s : State) (n : Nat) (ws : List PWrite) (fl : Fl) : (s.pend n ws fl).darkPoolLayers = s.darkPoolLayers := rfl
@[simp] theorem pend_keys (s : State) (n : Nat) (ws : List PWrite) (fl : Fl) : (s.pend n ws fl).keys = s.keys := rfl
@[simp] theorem pend_mailQueue (s : State) (n : Nat) (ws : List PWrite) (fl : Fl) : (s.pend n ws fl).mailQueue = s.mailQueue := rfl
@[simp] theorem pend_resumes (s : State) (n : Nat) (ws : List PWrite) (fl : Fl) : (s.pend n ws fl).resumes = s.resumes := rfl
@[simp] theorem pend_tripped (s : State) (n : Nat) (ws : List PWrite) (fl : Fl) : (s.pend n ws fl).tripped = s.tripped := rfl
@[simp] theorem pend_powerCap (s : State) (n : Nat) (ws : List PWrite) (fl : Fl) : (s.pend n ws fl).powerCap = s.powerCap := rfl
@[simp] theorem pend_hotDies (s : State) (n : Nat) (ws : List PWrite) (fl : Fl) : (s.pend n ws fl).hotDies = s.hotDies := rfl
@[simp] theorem pend_boot (s : State) (n : Nat) (ws : List PWrite) (fl : Fl) : (s.pend n ws fl).boot = s.boot := rfl
@[simp] theorem pend_measure (s : State) (n : Nat) (ws : List PWrite) (fl : Fl) : (s.pend n ws fl).measure = s.measure := rfl
@[simp] theorem pend_fused (s : State) (n : Nat) (ws : List PWrite) (fl : Fl) : (s.pend n ws fl).fused = s.fused := rfl
@[simp] theorem pend_poisonCount (s : State) (n : Nat) (ws : List PWrite) (fl : Fl) : (s.pend n ws fl).poisonCount = s.poisonCount := rfl
@[simp] theorem pend_poisonLast (s : State) (n : Nat) (ws : List PWrite) (fl : Fl) : (s.pend n ws fl).poisonLast = s.poisonLast := rfl
@[simp] theorem pend_controls (s : State) (n : Nat) (ws : List PWrite) (fl : Fl) : (s.pend n ws fl).controls = s.controls := rfl
@[simp] theorem pend_msix (s : State) (n : Nat) (ws : List PWrite) (fl : Fl) : (s.pend n ws fl).msix = s.msix := rfl
@[simp] theorem pend_outbox (s : State) (n : Nat) (ws : List PWrite) (fl : Fl) : (s.pend n ws fl).outbox = s.outbox := rfl

/-! ## modMem -/

@[simp] theorem modMem_cycle (s : State) (f : Mem → Mem) : (s.modMem f).cycle = s.cycle := rfl
@[simp] theorem modMem_tick (s : State) (f : Mem → Mem) : (s.modMem f).tick = s.tick := rfl
@[simp] theorem modMem_agenda (s : State) (f : Mem → Mem) : (s.modMem f).agenda = s.agenda := rfl
@[simp] theorem modMem_schedule (s : State) (f : Mem → Mem) : (s.modMem f).schedule = s.schedule := rfl
@[simp] theorem modMem_cur (s : State) (f : Mem → Mem) : (s.modMem f).cur = s.cur := rfl
@[simp] theorem modMem_free (s : State) (f : Mem → Mem) : (s.modMem f).free = s.free := rfl
@[simp] theorem modMem_trapped (s : State) (f : Mem → Mem) : (s.modMem f).trapped = s.trapped := rfl
@[simp] theorem modMem_fresh (s : State) (f : Mem → Mem) : (s.modMem f).fresh = s.fresh := rfl
@[simp] theorem modMem_stamp (s : State) (f : Mem → Mem) : (s.modMem f).stamp = s.stamp := rfl
@[simp] theorem modMem_roles (s : State) (f : Mem → Mem) : (s.modMem f).roles = s.roles := rfl
@[simp] theorem modMem_partOf (s : State) (f : Mem → Mem) : (s.modMem f).partOf = s.partOf := rfl
@[simp] theorem modMem_spare (s : State) (f : Mem → Mem) : (s.modMem f).spare = s.spare := rfl
@[simp] theorem modMem_clusters (s : State) (f : Mem → Mem) : (s.modMem f).clusters = s.clusters := rfl
@[simp] theorem modMem_parts (s : State) (f : Mem → Mem) : (s.modMem f).parts = s.parts := rfl
@[simp] theorem modMem_ctxs (s : State) (f : Mem → Mem) : (s.modMem f).ctxs = s.ctxs := rfl
@[simp] theorem modMem_shadow (s : State) (f : Mem → Mem) : (s.modMem f).shadow = s.shadow := rfl
@[simp] theorem modMem_banked (s : State) (f : Mem → Mem) : (s.modMem f).banked = s.banked := rfl
@[simp] theorem modMem_xfers (s : State) (f : Mem → Mem) : (s.modMem f).xfers = s.xfers := rfl
@[simp] theorem modMem_arrivals (s : State) (f : Mem → Mem) : (s.modMem f).arrivals = s.arrivals := rfl
@[simp] theorem modMem_condQueue (s : State) (f : Mem → Mem) : (s.modMem f).condQueue = s.condQueue := rfl
@[simp] theorem modMem_pubReqs (s : State) (f : Mem → Mem) : (s.modMem f).pubReqs = s.pubReqs := rfl
@[simp] theorem modMem_pubAsks (s : State) (f : Mem → Mem) : (s.modMem f).pubAsks = s.pubAsks := rfl
@[simp] theorem modMem_shootdowns (s : State) (f : Mem → Mem) : (s.modMem f).shootdowns = s.shootdowns := rfl
@[simp] theorem modMem_pool (s : State) (f : Mem → Mem) : (s.modMem f).pool = s.pool := rfl
@[simp] theorem modMem_fabric (s : State) (f : Mem → Mem) : (s.modMem f).fabric = s.fabric := rfl
@[simp] theorem modMem_gang (s : State) (f : Mem → Mem) : (s.modMem f).gang = s.gang := rfl
@[simp] theorem modMem_clock (s : State) (f : Mem → Mem) : (s.modMem f).clock = s.clock := rfl
@[simp] theorem modMem_window (s : State) (f : Mem → Mem) : (s.modMem f).window = s.window := rfl
@[simp] theorem modMem_role (s : State) (f : Mem → Mem) : (s.modMem f).role = s.role := rfl
@[simp] theorem modMem_darkPoolLayers (s : State) (f : Mem → Mem) : (s.modMem f).darkPoolLayers = s.darkPoolLayers := rfl
@[simp] theorem modMem_keys (s : State) (f : Mem → Mem) : (s.modMem f).keys = s.keys := rfl
@[simp] theorem modMem_mailQueue (s : State) (f : Mem → Mem) : (s.modMem f).mailQueue = s.mailQueue := rfl
@[simp] theorem modMem_resumes (s : State) (f : Mem → Mem) : (s.modMem f).resumes = s.resumes := rfl
@[simp] theorem modMem_tripped (s : State) (f : Mem → Mem) : (s.modMem f).tripped = s.tripped := rfl
@[simp] theorem modMem_powerCap (s : State) (f : Mem → Mem) : (s.modMem f).powerCap = s.powerCap := rfl
@[simp] theorem modMem_hotDies (s : State) (f : Mem → Mem) : (s.modMem f).hotDies = s.hotDies := rfl
@[simp] theorem modMem_boot (s : State) (f : Mem → Mem) : (s.modMem f).boot = s.boot := rfl
@[simp] theorem modMem_measure (s : State) (f : Mem → Mem) : (s.modMem f).measure = s.measure := rfl
@[simp] theorem modMem_fused (s : State) (f : Mem → Mem) : (s.modMem f).fused = s.fused := rfl
@[simp] theorem modMem_poisonCount (s : State) (f : Mem → Mem) : (s.modMem f).poisonCount = s.poisonCount := rfl
@[simp] theorem modMem_poisonLast (s : State) (f : Mem → Mem) : (s.modMem f).poisonLast = s.poisonLast := rfl
@[simp] theorem modMem_controls (s : State) (f : Mem → Mem) : (s.modMem f).controls = s.controls := rfl
@[simp] theorem modMem_msix (s : State) (f : Mem → Mem) : (s.modMem f).msix = s.msix := rfl
@[simp] theorem modMem_outbox (s : State) (f : Mem → Mem) : (s.modMem f).outbox = s.outbox := rfl

/-! ## bump -/

@[simp] theorem bump_cycle (s : State) : (s.bump).cycle = s.cycle := rfl
@[simp] theorem bump_tick (s : State) : (s.bump).tick = s.tick := rfl
@[simp] theorem bump_agenda (s : State) : (s.bump).agenda = s.agenda := rfl
@[simp] theorem bump_schedule (s : State) : (s.bump).schedule = s.schedule := rfl
@[simp] theorem bump_cur (s : State) : (s.bump).cur = s.cur := rfl
@[simp] theorem bump_free (s : State) : (s.bump).free = s.free := rfl
@[simp] theorem bump_trapped (s : State) : (s.bump).trapped = s.trapped := rfl
@[simp] theorem bump_fresh (s : State) : (s.bump).fresh = s.fresh := rfl
@[simp] theorem bump_roles (s : State) : (s.bump).roles = s.roles := rfl
@[simp] theorem bump_partOf (s : State) : (s.bump).partOf = s.partOf := rfl
@[simp] theorem bump_spare (s : State) : (s.bump).spare = s.spare := rfl
@[simp] theorem bump_clusters (s : State) : (s.bump).clusters = s.clusters := rfl
@[simp] theorem bump_mem (s : State) : (s.bump).mem = s.mem := rfl
@[simp] theorem bump_parts (s : State) : (s.bump).parts = s.parts := rfl
@[simp] theorem bump_ctxs (s : State) : (s.bump).ctxs = s.ctxs := rfl
@[simp] theorem bump_shadow (s : State) : (s.bump).shadow = s.shadow := rfl
@[simp] theorem bump_banked (s : State) : (s.bump).banked = s.banked := rfl
@[simp] theorem bump_xfers (s : State) : (s.bump).xfers = s.xfers := rfl
@[simp] theorem bump_arrivals (s : State) : (s.bump).arrivals = s.arrivals := rfl
@[simp] theorem bump_condQueue (s : State) : (s.bump).condQueue = s.condQueue := rfl
@[simp] theorem bump_pubReqs (s : State) : (s.bump).pubReqs = s.pubReqs := rfl
@[simp] theorem bump_pubAsks (s : State) : (s.bump).pubAsks = s.pubAsks := rfl
@[simp] theorem bump_shootdowns (s : State) : (s.bump).shootdowns = s.shootdowns := rfl
@[simp] theorem bump_pool (s : State) : (s.bump).pool = s.pool := rfl
@[simp] theorem bump_fabric (s : State) : (s.bump).fabric = s.fabric := rfl
@[simp] theorem bump_gang (s : State) : (s.bump).gang = s.gang := rfl
@[simp] theorem bump_clock (s : State) : (s.bump).clock = s.clock := rfl
@[simp] theorem bump_window (s : State) : (s.bump).window = s.window := rfl
@[simp] theorem bump_role (s : State) : (s.bump).role = s.role := rfl
@[simp] theorem bump_darkPoolLayers (s : State) : (s.bump).darkPoolLayers = s.darkPoolLayers := rfl
@[simp] theorem bump_keys (s : State) : (s.bump).keys = s.keys := rfl
@[simp] theorem bump_mailQueue (s : State) : (s.bump).mailQueue = s.mailQueue := rfl
@[simp] theorem bump_resumes (s : State) : (s.bump).resumes = s.resumes := rfl
@[simp] theorem bump_tripped (s : State) : (s.bump).tripped = s.tripped := rfl
@[simp] theorem bump_powerCap (s : State) : (s.bump).powerCap = s.powerCap := rfl
@[simp] theorem bump_hotDies (s : State) : (s.bump).hotDies = s.hotDies := rfl
@[simp] theorem bump_boot (s : State) : (s.bump).boot = s.boot := rfl
@[simp] theorem bump_measure (s : State) : (s.bump).measure = s.measure := rfl
@[simp] theorem bump_fused (s : State) : (s.bump).fused = s.fused := rfl
@[simp] theorem bump_poisonCount (s : State) : (s.bump).poisonCount = s.poisonCount := rfl
@[simp] theorem bump_poisonLast (s : State) : (s.bump).poisonLast = s.poisonLast := rfl
@[simp] theorem bump_controls (s : State) : (s.bump).controls = s.controls := rfl
@[simp] theorem bump_msix (s : State) : (s.bump).msix = s.msix := rfl
@[simp] theorem bump_outbox (s : State) : (s.bump).outbox = s.outbox := rfl

/-! ## The sequencers of a core -/

@[simp] theorem setSq_g (e : CoreE) (z : Bool) (q : Seq) : (e.setSq z q).g = e.g := by cases z <;> rfl
@[simp] theorem setSq_m (e : CoreE) (z : Bool) (q : Seq) : (e.setSq z q).m = e.m := by cases z <;> rfl
@[simp] theorem setSq_b (e : CoreE) (z : Bool) (q : Seq) : (e.setSq z q).b = e.b := by cases z <;> rfl
@[simp] theorem setSq_o (e : CoreE) (z : Bool) (q : Seq) : (e.setSq z q).o = e.o := by cases z <;> rfl
@[simp] theorem setSq_p (e : CoreE) (z : Bool) (q : Seq) : (e.setSq z q).p = e.p := by cases z <;> rfl
@[simp] theorem setSq_k (e : CoreE) (z : Bool) (q : Seq) : (e.setSq z q).k = e.k := by cases z <;> rfl
@[simp] theorem setSq_q (e : CoreE) (z : Bool) (q : Seq) : (e.setSq z q).q = e.q := by cases z <;> rfl
@[simp] theorem setSq_qBound (e : CoreE) (z : Bool) (q : Seq) : (e.setSq z q).qBound = e.qBound := by cases z <;> rfl
@[simp] theorem setSq_dq (e : CoreE) (z : Bool) (q : Seq) : (e.setSq z q).dq = e.dq := by cases z <;> rfl
@[simp] theorem setSq_vBase (e : CoreE) (z : Bool) (q : Seq) : (e.setSq z q).vBase = e.vBase := by cases z <;> rfl
@[simp] theorem setSq_svBase (e : CoreE) (z : Bool) (q : Seq) : (e.setSq z q).svBase = e.svBase := by cases z <;> rfl
@[simp] theorem setSq_tv (e : CoreE) (z : Bool) (q : Seq) : (e.setSq z q).tv = e.tv := by cases z <;> rfl
@[simp] theorem setSq_av (e : CoreE) (z : Bool) (q : Seq) : (e.setSq z q).av = e.av := by cases z <;> rfl
@[simp] theorem setSq_flags (e : CoreE) (z : Bool) (q : Seq) : (e.setSq z q).flags = e.flags := by cases z <;> rfl
@[simp] theorem setSq_raised (e : CoreE) (z : Bool) (q : Seq) : (e.setSq z q).raised = e.raised := by cases z <;> rfl
@[simp] theorem setSq_fpen (e : CoreE) (z : Bool) (q : Seq) : (e.setSq z q).fpen = e.fpen := by cases z <;> rfl
@[simp] theorem setSq_trapCause (e : CoreE) (z : Bool) (q : Seq) : (e.setSq z q).trapCause = e.trapCause := by cases z <;> rfl
@[simp] theorem setSq_trapPc (e : CoreE) (z : Bool) (q : Seq) : (e.setSq z q).trapPc = e.trapPc := by cases z <;> rfl
@[simp] theorem setSq_trapInfo (e : CoreE) (z : Bool) (q : Seq) : (e.setSq z q).trapInfo = e.trapInfo := by cases z <;> rfl
@[simp] theorem setSq_trapAddr (e : CoreE) (z : Bool) (q : Seq) : (e.setSq z q).trapAddr = e.trapAddr := by cases z <;> rfl
@[simp] theorem setSq_mode (e : CoreE) (z : Bool) (q : Seq) : (e.setSq z q).mode = e.mode := by cases z <;> rfl
@[simp] theorem setSq_rsTop (e : CoreE) (z : Bool) (q : Seq) : (e.setSq z q).rsTop = e.rsTop := by cases z <;> rfl
@[simp] theorem setSq_rsBase (e : CoreE) (z : Bool) (q : Seq) : (e.setSq z q).rsBase = e.rsBase := by cases z <;> rfl
@[simp] theorem setSq_rsSpill (e : CoreE) (z : Bool) (q : Seq) : (e.setSq z q).rsSpill = e.rsSpill := by cases z <;> rfl
@[simp] theorem setSq_rsLimit (e : CoreE) (z : Bool) (q : Seq) : (e.setSq z q).rsLimit = e.rsLimit := by cases z <;> rfl
@[simp] theorem setSq_mark (e : CoreE) (z : Bool) (q : Seq) : (e.setSq z q).mark = e.mark := by cases z <;> rfl
@[simp] theorem setSq_cntRun (e : CoreE) (z : Bool) (q : Seq) : (e.setSq z q).cntRun = e.cntRun := by cases z <;> rfl
@[simp] theorem setSq_cntTiming (e : CoreE) (z : Bool) (q : Seq) : (e.setSq z q).cntTiming = e.cntTiming := by cases z <;> rfl
@[simp] theorem setSq_cntYield (e : CoreE) (z : Bool) (q : Seq) : (e.setSq z q).cntYield = e.cntYield := by cases z <;> rfl
@[simp] theorem setSq_trapSec (e : CoreE) (z : Bool) (q : Seq) : (e.setSq z q).trapSec = e.trapSec := by cases z <;> rfl

@[simp] theorem setSq_sq (e : CoreE) (z y : Bool) (q : Seq) : (e.setSq z q).sq y = if y = z then q else e.sq y := by
  cases z <;> cases y <;> rfl

/-! ## A core with other eager registers -/

@[simp] theorem setE_e (y : Core) (e : CoreE) : (y.setE e).e = e := rfl
@[simp] theorem setE_arena (y : Core) (e : CoreE) : (y.setE e).arena = y.arena := rfl
@[simp] theorem setE_side (y : Core) (e : CoreE) : (y.setE e).side = y.side := rfl
@[simp] theorem setE_arenaBad (y : Core) (e : CoreE) : (y.setE e).arenaBad = y.arenaBad := rfl
@[simp] theorem setE_hot (y : Core) (e : CoreE) : (y.setE e).hot = y.hot := rfl
@[simp] theorem setE_hotMarks (y : Core) (e : CoreE) : (y.setE e).hotMarks = y.hotMarks := rfl
@[simp] theorem setE_bankTag (y : Core) (e : CoreE) : (y.setE e).bankTag = y.bankTag := rfl
@[simp] theorem setE_hotTag (y : Core) (e : CoreE) : (y.setE e).hotTag = y.hotTag := rfl
@[simp] theorem setE_portBusy (y : Core) (e : CoreE) : (y.setE e).portBusy = y.portBusy := rfl
@[simp] theorem setE_recBusy (y : Core) (e : CoreE) : (y.setE e).recBusy = y.recBusy := rfl
@[simp] theorem setE_latch (y : Core) (e : CoreE) : (y.setE e).latch = y.latch := rfl
@[simp] theorem setE_store (y : Core) (e : CoreE) : (y.setE e).store = y.store := rfl
@[simp] theorem setE_mloadUntil (y : Core) (e : CoreE) : (y.setE e).mloadUntil = y.mloadUntil := rfl
@[simp] theorem setE_run (y : Core) (e : CoreE) : (y.setE e).run = y.run := rfl
@[simp] theorem setE_call (y : Core) (e : CoreE) : (y.setE e).call = y.call := rfl
@[simp] theorem setE_wait (y : Core) (e : CoreE) : (y.setE e).wait = y.wait := rfl
@[simp] theorem setE_drains (y : Core) (e : CoreE) : (y.setE e).drains = y.drains := rfl
@[simp] theorem setE_pending (y : Core) (e : CoreE) : (y.setE e).pending = y.pending := rfl
@[simp] theorem setE_gathers (y : Core) (e : CoreE) : (y.setE e).gathers = y.gathers := rfl
@[simp] theorem setE_secWait (y : Core) (e : CoreE) : (y.setE e).secWait = y.secWait := rfl
@[simp] theorem setE_yieldNow (y : Core) (e : CoreE) : (y.setE e).yieldNow = y.yieldNow := rfl
@[simp] theorem setE_usedSlots (y : Core) (e : CoreE) : (y.setE e).usedSlots = y.usedSlots := rfl
@[simp] theorem setE_usedBanks (y : Core) (e : CoreE) : (y.setE e).usedBanks = y.usedBanks := rfl
@[simp] theorem setE_order (y : Core) (e : CoreE) : (y.setE e).order = y.order := rfl
@[simp] theorem setE_halted (y : Core) (e : CoreE) : (y.setE e).halted = y.halted := rfl
@[simp] theorem setE_task (y : Core) (e : CoreE) : (y.setE e).task = y.task := rfl
@[simp] theorem setE_withheld (y : Core) (e : CoreE) : (y.setE e).withheld = y.withheld := rfl
@[simp] theorem setE_trapAt (y : Core) (e : CoreE) : (y.setE e).trapAt = y.trapAt := rfl

/-! ## A cluster with another core -/

@[simp] theorem setCo_e (x : Cluster) (k : Nat) (y : Core) : (x.setCo k y).e = x.e := rfl
@[simp] theorem setCo_scratch (x : Cluster) (k : Nat) (y : Core) : (x.setCo k y).scratch = x.scratch := rfl
@[simp] theorem setCo_fe (x : Cluster) (k : Nat) (y : Core) : (x.setCo k y).fe = x.fe := rfl
@[simp] theorem setCo_capTag (x : Cluster) (k : Nat) (y : Core) : (x.setCo k y).capTag = x.capTag := rfl
@[simp] theorem setCo_marks (x : Cluster) (k : Nat) (y : Core) : (x.setCo k y).marks = x.marks := rfl
@[simp] theorem setCo_groupTag (x : Cluster) (k : Nat) (y : Core) : (x.setCo k y).groupTag = x.groupTag := rfl
@[simp] theorem setCo_buf (x : Cluster) (k : Nat) (y : Core) : (x.setCo k y).buf = x.buf := rfl
@[simp] theorem setCo_reads (x : Cluster) (k : Nat) (y : Core) : (x.setCo k y).reads = x.reads := rfl
@[simp] theorem setCo_portUsed (x : Cluster) (k : Nat) (y : Core) : (x.setCo k y).portUsed = x.portUsed := rfl
@[simp] theorem setCo_landings (x : Cluster) (k : Nat) (y : Core) : (x.setCo k y).landings = x.landings := rfl
@[simp] theorem setCo_touched (x : Cluster) (k : Nat) (y : Core) : (x.setCo k y).touched = x.touched := rfl
@[simp] theorem setCo_held (x : Cluster) (k : Nat) (y : Core) : (x.setCo k y).held = x.held := rfl
@[simp] theorem setCo_pwb (x : Cluster) (k : Nat) (y : Core) : (x.setCo k y).pwb = x.pwb := rfl
@[simp] theorem setCo_ctx (x : Cluster) (k : Nat) (y : Core) : (x.setCo k y).ctx = x.ctx := rfl
@[simp] theorem setCo_tasks (x : Cluster) (k : Nat) (y : Core) : (x.setCo k y).tasks = x.tasks := rfl
@[simp] theorem setCo_graphs (x : Cluster) (k : Nat) (y : Core) : (x.setCo k y).graphs = x.graphs := rfl

@[simp] theorem co_setCo (x : Cluster) (k j : Nat) (y : Core) : (x.setCo k y).co j = if j = k then y else x.co j :=
  tget_tset _ _ _ _ _

/-! ## What an update reaches -/

@[simp] theorem cl_setCl (s : State) (c b : Nat) (x : Cluster) : (s.setCl c x).cl b = if b = c then x else s.cl b :=
  tget_tset _ _ _ _ _

@[simp] theorem cl_modCl (s : State) (c b : Nat) (f : Cluster → Cluster) : (s.modCl c f).cl b = if b = c then f (s.cl c) else s.cl b :=
  cl_setCl _ _ _ _

theorem core_setCore (s : State) (c k b j : Nat) (y : Core) :
    (s.setCore c k y).core b j = if b = c ∧ j = k then y else s.core b j := by
  simp only [State.core, State.setCore, cl_setCl]
  by_cases hb : b = c
  · subst hb
    by_cases hj : j = k
    · simp [hj]
    · simp [hj]
  · simp [hb]

@[simp] theorem core_setCore_same (s : State) (c k : Nat) (y : Core) : (s.setCore c k y).core c k = y := by
  simp [core_setCore]

theorem core_modCore (s : State) (c k b j : Nat) (f : Core → Core) :
    (s.modCore c k f).core b j = if b = c ∧ j = k then f (s.core c k) else s.core b j := core_setCore _ _ _ _ _ _

@[simp] theorem core_modCore_same (s : State) (c k : Nat) (f : Core → Core) : (s.modCore c k f).core c k = f (s.core c k) := by
  simp [core_modCore]

theorem core_modE (s : State) (c k b j : Nat) (f : CoreE → CoreE) :
    (s.modE c k f).core b j = if b = c ∧ j = k then (s.core c k).setE (f (s.core c k).e) else s.core b j := core_setCore _ _ _ _ _ _

@[simp] theorem core_modE_same (s : State) (c k : Nat) (f : CoreE → CoreE) :
    (s.modE c k f).core c k = (s.core c k).setE (f (s.core c k).e) := by
  simp [core_modE]

@[simp] theorem e_modE_same (s : State) (c k : Nat) (f : CoreE → CoreE) : ((s.modE c k f).core c k).e = f (s.core c k).e := by simp

@[simp] theorem core_modSq_same (s : State) (c k : Nat) (z : Bool) (f : Seq → Seq) :
    (s.modSq c k z f).core c k = (s.core c k).setE ((s.core c k).e.setSq z (f ((s.core c k).e.sq z))) := core_modE_same _ _ _ _

@[simp] theorem sq_modSq (s : State) (c k : Nat) (z y : Bool) (f : Seq → Seq) :
    (s.modSq c k z f).sq c k y = if y = z then f (s.sq c k z) else s.sq c k y := by
  simp [State.sq]

@[simp] theorem here_modHere (s : State) (f : Core → Core) : (s.modHere f).here = f s.here := core_modCore_same _ _ _ _
@[simp] theorem e_modHereE (s : State) (f : CoreE → CoreE) : (s.modHereE f).e = f s.e := e_modE_same _ _ _ _
@[simp] theorem hereCl_modHereCl (s : State) (f : Cluster → Cluster) : (s.modHereCl f).hereCl = f s.hereCl := by
  simp [State.hereCl, State.modHereCl]
@[simp] theorem me_modMe (s : State) (f : Seq → Seq) : (s.modMe f).me = f s.me := by
  simp [State.me, State.e, State.here, State.modMe]
@[simp] theorem e_modMe (s : State) (f : Seq → Seq) : (s.modMe f).e = s.e.setSq s.cur.sec (f s.me) := by
  simp [State.me, State.e, State.here, State.modMe]
@[simp] theorem here_tick1 (s : State) : s.tick1.here = s.here := rfl
@[simp] theorem core_tick1 (s : State) (c k : Nat) : s.tick1.core c k = s.core c k := rfl
@[simp] theorem cl_tick1 (s : State) (c : Nat) : s.tick1.cl c = s.cl c := rfl
@[simp] theorem core_report (s : State) (w : String) (v c k : Nat) : (s.report w v).core c k = s.core c k := rfl
@[simp] theorem cl_report (s : State) (w : String) (v c : Nat) : (s.report w v).cl c = s.cl c := rfl
@[simp] theorem core_modMem (s : State) (f : Mem → Mem) (c k : Nat) : (s.modMem f).core c k = s.core c k := rfl
@[simp] theorem cl_modMem (s : State) (f : Mem → Mem) (c : Nat) : (s.modMem f).cl c = s.cl c := rfl
@[simp] theorem mem_modMem (s : State) (f : Mem → Mem) : (s.modMem f).mem = f s.mem := rfl

/-- The fields of a core after a fixed-latency result is put in flight: only the results in flight change. -/
@[simp] theorem here_pend (s : State) (n : Nat) (ws : List PWrite) (fl : Fl) :
    (s.pend n ws fl).here = { s.here with pending := s.here.pending ++
      [{ id := s.fresh, land := s.cycle + n, issued := s.cycle, sec := s.cur.sec, slot := s.cur.slot, pc := s.cur.pc, writes := ws, flags := fl }] } := by
  simp [State.pend]

@[simp] theorem e_pend (s : State) (n : Nat) (ws : List PWrite) (fl : Fl) : (s.pend n ws fl).e = s.e := by
  simp [State.e]

@[simp] theorem me_pend (s : State) (n : Nat) (ws : List PWrite) (fl : Fl) : (s.pend n ws fl).me = s.me := by
  simp [State.me]

@[simp] theorem modCtx_mem (s : State) (n : Nat) (f : Context → Context) : (s.modCtx n f).mem = s.mem := by
  unfold State.modCtx; split <;> rfl
@[simp] theorem modCtx_clusters (s : State) (n : Nat) (f : Context → Context) : (s.modCtx n f).clusters = s.clusters := by
  unfold State.modCtx; split <;> rfl
@[simp] theorem modPart_mem (s : State) (n : Nat) (f : Partition → Partition) : (s.modPart n f).mem = s.mem := by
  unfold State.modPart; split <;> rfl
@[simp] theorem modPart_clusters (s : State) (n : Nat) (f : Partition → Partition) : (s.modPart n f).clusters = s.clusters := by
  unfold State.modPart; split <;> rfl
@[simp] theorem modEOf_mem (s : State) (x c k : Nat) (f : CoreE → CoreE) : (s.modEOf x c k f).mem = s.mem := by
  unfold State.modEOf; split <;> rfl

end Sys2Proof.Machine
end

