-- ==== Sys2Proof/Laws/Memory.lean ====
section
/-! SUPPORT. The canonical form of the package's memories: every operation that writes memory keeps it, and the state of reset has it. -/

namespace Sys2Proof.Machine

open Sys2Proof

theorem Memory.wf_iff (m : Mem) : Memory.wf m = true ↔ twf 0 m.phys = true ∧ twf 0 m.layer = true ∧ twf 0 m.host = true := by
  simp [Memory.wf, and_assoc]

theorem reset_wf : Memory.wf State.reset.mem = true := by decide

/-- The canonical form of the memories of a state. -/
def MemOk (s : State) : Prop := Memory.wf s.mem = true

theorem memOk_reset : MemOk State.reset := reset_wf

/-- An update that leaves the memories, keeps their form. -/
theorem memOk_of_mem {s t : State} (h : t.mem = s.mem) (hs : MemOk s) : MemOk t := by rw [MemOk, h]; exact hs

theorem fillLayer_ok {s : State} {l : Loc} (h : MemOk s) : MemOk (s.fillLayer l) := by
  unfold State.fillLayer
  split
  · dsimp only
    split
    · exact h
    · have h' := (Memory.wf_iff _).1 h
      exact (Memory.wf_iff _).2 ⟨h'.1, twf_writeB h'.2.1, h'.2.2⟩
  · exact h

/-- A line encrypted anew keeps the canonical form of physical memory. -/
theorem under_phys {m : Mem} {key : Option (BitVec 512)} {line : Nat} (h : twf 0 m.phys = true) : twf 0 (m.under key line).phys = true := by
  unfold Mem.under
  split
  · exact h
  · exact twf_writeB h

@[simp] theorem under_layer (m : Mem) (key : Option (BitVec 512)) (line : Nat) : (m.under key line).layer = m.layer := by
  unfold Mem.under; split <;> rfl
@[simp] theorem under_host (m : Mem) (key : Option (BitVec 512)) (line : Nat) : (m.under key line).host = m.host := by
  unfold Mem.under; split <;> rfl

/-- A byte written at its home keeps the canonical form. -/
theorem wrHome_ok {s : State} {l : Loc} {b : Byte} {w : WrInfo} (h : MemOk s) : MemOk (s.wrHome l b w) := by
  have h' := (Memory.wf_iff _).1 (fillLayer_ok (l := l) h)
  unfold State.wrHome
  split
  · exact (Memory.wf_iff _).2 ⟨twf_tset (under_phys h'.1), (congrArg (twf 0) (under_layer _ _ _)).trans h'.2.1,
      (congrArg (twf 0) (under_host _ _ _)).trans h'.2.2⟩
  · exact (Memory.wf_iff _).2 ⟨h'.1, twf_tset h'.2.1, h'.2.2⟩
  · exact (Memory.wf_iff _).2 h'

theorem wrAll_ok {s : State} {l : List (Loc × Byte)} {w : WrInfo} (h : MemOk s) : MemOk (wrAll w l s) := by
  induction l generalizing s with
  | nil => exact h
  | cons p r ih => exact ih (wrHome_ok h)

theorem wrHomes_ok {s : State} {l : List (Loc × Byte)} {w : Option (Nat × Nat × Bool)} (h : MemOk s) : MemOk (s.wrHomes w l) :=
  wrAll_ok (s := s.bump) h

theorem setMark_ok {s : State} {l : Loc} {m : Option LineMark} (h : MemOk s) : MemOk (s.setMark l m) := by
  unfold State.setMark
  split
  · exact h
  · exact fillLayer_ok h

theorem poison_ok {s : State} {l : Loc} {n : BitVec 4} (h : MemOk s) : MemOk (s.poison l n) := by
  have h' := setMark_ok (l := l) (m := some { kind := 2, hop := n }) h
  unfold State.poison
  dsimp only
  split <;> exact h'

end Sys2Proof.Machine
end

