-- ==== Sys2Proof/Laws/Ops.lean ====
section
/-! SUPPORT. What the shared operations do, said once: checks, registers, rows, scratch reads and landings, streams, traps. -/

namespace Sys2Proof.Machine

open Sys2Proof

/-! ## Checks at issue -/

@[simp] theorem trapIf_true (r : TrapRec) : trapIf true r = some r := rfl
@[simp] theorem trapIf_false (r : TrapRec) : trapIf false r = none := rfl

theorem trapIf_eq_none {c : Bool} {r : TrapRec} : trapIf c r = none ↔ c = false := by cases c <;> simp

@[simp] theorem firstTrap_nil : firstTrap [] = none := rfl
@[simp] theorem firstTrap_none (l : List (Option TrapRec)) : firstTrap (none :: l) = firstTrap l := rfl
@[simp] theorem firstTrap_some (r : TrapRec) (l : List (Option TrapRec)) : firstTrap (some r :: l) = some r := rfl

/-- No check of a list fails just when each passes. -/
theorem firstTrap_eq_none {l : List (Option TrapRec)} : firstTrap l = none ↔ ∀ x ∈ l, x = none := by
  induction l with
  | nil => simp
  | cons x r ih => cases x <;> simp [ih]

@[simp] theorem checked_none (s : State) (k : State → State) : s.checked none k = .next (k s) := rfl
@[simp] theorem checked_some (s : State) (r : TrapRec) (k : State → State) : s.checked (some r) k = .next (s.raise r) := rfl

/-- An instruction of this shape always goes on: its effect where its checks pass, its trap where one fails. -/
theorem checked_next (s : State) (t : Option TrapRec) (k : State → State) :
    s.checked t k = .next (match t with | none => k s | some r => s.raise r) := by cases t <;> rfl

theorem find_span {f : Nat → Bool} {a n : Nat} : (span a n).find? f = none ↔ ∀ i, i < n → f (a + i) = false := by
  induction n generalizing a with
  | zero => simp [span]
  | succ n ih =>
    rw [span, List.find?_cons]
    constructor
    · intro h i hi
      split at h
      · cases h
      · rename_i h0
        cases i with
        | zero => simpa using h0
        | succ i => rw [show a + (i + 1) = a + 1 + i by omega]; exact (ih.1 h) i (by omega)
    · intro h
      have h0 := h 0 (by omega)
      simp only [Nat.add_zero] at h0
      rw [h0]
      exact ih.2 fun i hi => by rw [show a + 1 + i = a + (i + 1) by omega]; exact h (i + 1) (by omega)

/-! ## Registers (05 R77) -/

theorem rG_wG (e : CoreE) (n m : Nat) (v : Word) :
    (e.wG n v).rG m = if m % 32 = 0 then 0 else if m = n then v else e.rG m := by
  simp only [CoreE.rG, CoreE.wG]
  by_cases hm : m % 32 = 0
  · simp [hm]
  · by_cases hn : n % 32 = 0
    · have : m ≠ n := by rintro rfl; exact hm hn
      simp [hm, hn, this]
    · simp [hm, hn, tget_tset]

@[simp] theorem rG_zero (e : CoreE) : e.rG 0 = 0 := rfl
@[simp] theorem rG_shadow_zero (e : CoreE) : e.rG 32 = 0 := rfl

theorem wrG_eq (s : State) (d : Reg) (v : Word) (lat : Nat) (fl : Fl) : s.wrG d v lat fl = s.pend lat [.g d.toNat v] fl := rfl

/-! ## Rows (15 R261) -/

theorem chkArena_eq_none (s : State) (a n : Nat) :
    s.chkArena a n = none ↔ ∀ i, i < n → tget false s.here.arenaBad (a + i) = false := by
  rw [State.chkArena, Option.map_eq_none_iff, find_span]

/-- The check of a list of rows passes just when no byte of any carries an error. -/
theorem chkRows_eq_none (s : State) (rs : List Nat) :
    s.chkRows rs = none ↔ ∀ r ∈ rs, ∀ i, i < 256 → tget false s.here.arenaBad (s.rowAt r + i) = false := by
  simp [State.chkRows, firstTrap_eq_none, chkArena_eq_none]

/-! ## Scratch (13 R211, R218, R257) -/

@[simp] theorem readLines_mem (s : State) (c : Bool) (as : List (Nat × Nat)) : (s.readLines c as).mem = s.mem := rfl
@[simp] theorem readLines_core (s : State) (c : Bool) (as : List (Nat × Nat)) (b k : Nat) :
    (s.readLines c as).core b k = s.core b k := by
  simp only [State.readLines, State.modHereCl, State.core, cl_modCl]
  split
  · subst_vars; rfl
  · rfl

/-- A read of scratch lines changes no byte of scratch. -/
@[simp] theorem readLines_scratch (s : State) (c : Bool) (as : List (Nat × Nat)) (b : Nat) :
    ((s.readLines c as).cl b).scratch = (s.cl b).scratch := by
  simp only [State.readLines, State.modHereCl, cl_modCl]
  split
  · subst_vars; rfl
  · rfl

@[simp] theorem landAt_mem (s : State) (n : Nat) (bs : List (Nat × Byte)) (t : Option Nat) (f e : List Nat) (x : Option BankAtomic) :
    (s.landAt n bs t f e x).mem = s.mem := rfl

/-- A landing in flight changes no byte of scratch yet. -/
@[simp] theorem landAt_scratch (s : State) (n : Nat) (bs : List (Nat × Byte)) (t : Option Nat) (f e : List Nat) (x : Option BankAtomic) (b : Nat) :
    ((s.landAt n bs t f e x).cl b).scratch = (s.cl b).scratch := by
  simp only [State.landAt, cl_tick1, State.modHereCl, cl_modCl]
  split
  · subst_vars; rfl
  · rfl

@[simp] theorem landAt_core (s : State) (n : Nat) (bs : List (Nat × Byte)) (t : Option Nat) (f e : List Nat) (x : Option BankAtomic) (b k : Nat) :
    (s.landAt n bs t f e x).core b k = s.core b k := by
  simp only [State.landAt, State.core, cl_tick1, State.modHereCl, cl_modCl]
  split
  · subst_vars; rfl
  · rfl

theorem setFE_get (t : Tbl Bool) (v : Bool) (l : List Nat) (g : Nat) :
    tget false (setFE t v l) g = if g ∈ l then v else tget false t g := by
  induction l generalizing t with
  | nil => simp [setFE]
  | cons x r ih =>
    rw [setFE, ih, tget_tset]
    by_cases h1 : g ∈ r
    · simp [h1]
    · by_cases h2 : g = x <;> simp [h1, h2]

/-- A landing that is performed writes its cells and no other byte, and changes just the full-empty bits that it says. -/
theorem tryLand_ok {x y : Cluster} {l : Landing} (h : x.tryLand l = .ok y) :
    (∀ a, a ∉ (l.cellsIn x).map (·.1) → tget 0 y.scratch a = tget 0 x.scratch a) ∧
    y.scratch = writeCells x.scratch (l.cellsIn x) ∧
    (∀ g, tget false y.fe g = if g ∈ l.setFull then true else if g ∈ l.setEmpty then false else tget false x.fe g) ∧
    y.cores = x.cores ∧ y.e = x.e ∧ y.landings = x.landings := by
  unfold Cluster.tryLand at h
  dsimp only at h
  split at h
  · cases h
  · split at h
    · cases h
    · injection h with h
      subst h
      split <;>
        exact ⟨fun a ha => tget_writeCells_outside _ _ _ ha, rfl, fun g => by simp [Cluster.put, setFE_get], rfl, rfl, rfl⟩

/-! ## Return streams (13 R242) -/

/-- A reservation changes nothing but the stream of q and the counter of things in flight. -/
theorem reserve_eq (s : State) (q : Nat) : s.reserve q = if s.e.bound q then
    (some s.fresh, (s.modHereE (fun e => e.setStream q (e.stream q ++
      [{ id := s.fresh, val := none, bySec := s.cur.sec, byOrder := s.ord, usedBy := none }]))).tick1)
  else (none, s) := rfl

@[simp] theorem reserve_mem (s : State) (q : Nat) : (s.reserve q).2.mem = s.mem := by
  rw [reserve_eq]; split <;> rfl

/-! ## Traps (27 R433 to R437) -/

@[simp] theorem haltCtx_mem (s : State) (n : Nat) : (s.haltCtx n).mem = s.mem := rfl

/-- Taking a trap changes no memory. -/
@[simp] theorem deliver_mem (s : State) (c k : Nat) (z : Bool) (r : TrapRec) : (s.deliver c k z r).mem = s.mem := by
  simp only [State.deliver, apply_ite State.mem, modE_mem, report_mem, modCore_mem, haltCtx_mem, ite_self]

@[simp] theorem raise_mem (s : State) (r : TrapRec) : (s.raise r).mem = s.mem := deliver_mem _ _ _ _ _

/-- A trap raised at issue is on record for the bundle. -/
@[simp] theorem raise_trapped (s : State) (r : TrapRec) : (s.raise r).trapped = some r := rfl

theorem checked_mem {s t : State} {x : Option TrapRec} {k : State → State} (h : s.checked x k = .next t) (hk : (k s).mem = s.mem) :
    t.mem = s.mem := by
  rw [checked_next] at h
  injection h with h
  subst h
  cases x
  · exact hk
  · exact raise_mem _ _

end Sys2Proof.Machine
end

