-- ==== Sys2Proof/Laws/PerInstr.lean ====
section
/-! SUPPORT. Statements made for every instruction, with one lemma per constructor. -/

namespace Sys2Proof.Laws

open Sys2Proof

theorem layR_stop (maj d a b : BitVec 6) (f : BitVec 7) : (layR maj d a b f).getLsbD 31 = false := by
  simp only [layR, BitVec.getLsbD_append]; rfl

theorem layBody_stop (maj : BitVec 6) (x : BitVec 25) : (layBody maj x).getLsbD 31 = false := by
  simp only [layBody, BitVec.getLsbD_append]; rfl

theorem layImm_stop (maj d a : BitVec 6) (x : BitVec 13) : (layImm maj d a x).getLsbD 31 = false := by
  simp only [layImm, BitVec.getLsbD_append]; rfl

namespace StopBit

/-- The encoder leaves the S bit of an op clear: ending a group is the assembler's choice, not the op's (05 R69, R71). -/
def Statement (i : Instr) : Prop := i.form = .op → (encodeOp i).getLsbD 31 = false

theorem ret (a : Reg) (pop : BitVec 3) : Statement (.ret a pop) := fun _ => layR_stop _ _ _ _ _
theorem rdtime (d : Reg) : Statement (.rdtime d) := fun _ => layR_stop _ _ _ _ _
theorem rdctr (d : Reg) (sel : BitVec 6) : Statement (.rdctr d sel) := fun _ => layR_stop _ _ _ _ _
theorem xchk (a b : Reg) : Statement (.xchk a b) := fun _ => layR_stop _ _ _ _ _
theorem xchkV (a b : Reg) : Statement (.xchkV a b) := fun _ => layR_stop _ _ _ _ _
theorem gwcondSet (a : Reg) : Statement (.gwcondSet a) := fun _ => layR_stop _ _ _ _ _
theorem gwcondClr (a : Reg) : Statement (.gwcondClr a) := fun _ => layR_stop _ _ _ _ _
theorem gwcondIns (a b : Reg) : Statement (.gwcondIns a b) := fun _ => layR_stop _ _ _ _ _
theorem pbr (t : BitVec 2) (a : Reg) : Statement (.pbr t a) := fun _ => layR_stop _ _ _ _ _
theorem pbri (t : BitVec 2) (imm : Imm) : Statement (.pbri t imm) := fun _ => layBody_stop _ _
theorem br (t : BitVec 2) (cond pop : BitVec 3) (a : Reg) : Statement (.br t cond pop a) := fun _ => layBody_stop _ _
theorem brl (t : BitVec 2) (pop : BitVec 3) (d : Reg) : Statement (.brl t pop d) := fun _ => layBody_stop _ _
theorem loop (a : Reg) (imm : Imm) : Statement (.loop a imm) := fun _ => layImm_stop _ _ _ _
theorem loopi (cnt : Imm) (imm : BitVec 13) : Statement (.loopi cnt imm) := fun _ => layBody_stop _ _
theorem trap (code : BitVec 24) : Statement (.trap code) := fun _ => layBody_stop _ _
theorem svc (code : BitVec 24) : Statement (.svc code) := fun _ => layBody_stop _ _
theorem phase (sc : Scope) : Statement (.phase sc) := fun _ => layBody_stop _ _
theorem phaseProbe (sc : Scope) (a b : Reg) : Statement (.phaseProbe sc a b) := fun _ => layBody_stop _ _
theorem fence (sc : Scope) : Statement (.fence sc) := fun _ => layBody_stop _ _
theorem stage (e : BitVec 1) (n : Reg) : Statement (.stage e n) := fun _ => layR_stop _ _ _ _ _
theorem add (w : Bool) (d a b : Reg) : Statement (.add w d a b) := fun _ => layR_stop _ _ _ _ _
theorem sub (w : Bool) (d a b : Reg) : Statement (.sub w d a b) := fun _ => layR_stop _ _ _ _ _
theorem and (w : Bool) (d a b : Reg) : Statement (.and w d a b) := fun _ => layR_stop _ _ _ _ _
theorem or (w : Bool) (d a b : Reg) : Statement (.or w d a b) := fun _ => layR_stop _ _ _ _ _
theorem xor (w : Bool) (d a b : Reg) : Statement (.xor w d a b) := fun _ => layR_stop _ _ _ _ _
theorem shl (w : Bool) (d a b : Reg) : Statement (.shl w d a b) := fun _ => layR_stop _ _ _ _ _
theorem shr (w : Bool) (d a b : Reg) : Statement (.shr w d a b) := fun _ => layR_stop _ _ _ _ _
theorem sar (w : Bool) (d a b : Reg) : Statement (.sar w d a b) := fun _ => layR_stop _ _ _ _ _
theorem rot (w : Bool) (d a b : Reg) : Statement (.rot w d a b) := fun _ => layR_stop _ _ _ _ _
theorem min (w : Bool) (d a b : Reg) : Statement (.min w d a b) := fun _ => layR_stop _ _ _ _ _
theorem max (w : Bool) (d a b : Reg) : Statement (.max w d a b) := fun _ => layR_stop _ _ _ _ _
theorem minn (w : Bool) (d a b : Reg) : Statement (.minn w d a b) := fun _ => layR_stop _ _ _ _ _
theorem maxn (w : Bool) (d a b : Reg) : Statement (.maxn w d a b) := fun _ => layR_stop _ _ _ _ _
theorem seq (w : Bool) (d a b : Reg) : Statement (.seq w d a b) := fun _ => layR_stop _ _ _ _ _
theorem slt (w : Bool) (d a b : Reg) : Statement (.slt w d a b) := fun _ => layR_stop _ _ _ _ _
theorem sltn (w : Bool) (d a b : Reg) : Statement (.sltn w d a b) := fun _ => layR_stop _ _ _ _ _
theorem clz (w : Bool) (d a : Reg) : Statement (.clz w d a) := fun _ => layR_stop _ _ _ _ _
theorem ctz (w : Bool) (d a : Reg) : Statement (.ctz w d a) := fun _ => layR_stop _ _ _ _ _
theorem popc (w : Bool) (d a : Reg) : Statement (.popc w d a) := fun _ => layR_stop _ _ _ _ _
theorem sel (w : Bool) (d a b : Reg) : Statement (.sel w d a b) := fun _ => layR_stop _ _ _ _ _
theorem lea (w : Bool) (sh : BitVec 2) (d a b : Reg) : Statement (.lea w sh d a b) := fun _ => layR_stop _ _ _ _ _
theorem mul (w : Bool) (d a b : Reg) : Statement (.mul w d a b) := fun _ => layR_stop _ _ _ _ _
theorem mulh (w : Bool) (d a b : Reg) : Statement (.mulh w d a b) := fun _ => layR_stop _ _ _ _ _
theorem mulhn (w : Bool) (d a b : Reg) : Statement (.mulhn w d a b) := fun _ => layR_stop _ _ _ _ _
theorem div (w : Bool) (d a b : Reg) : Statement (.div w d a b) := fun _ => layR_stop _ _ _ _ _
theorem divn (w : Bool) (d a b : Reg) : Statement (.divn w d a b) := fun _ => layR_stop _ _ _ _ _
theorem rem (w : Bool) (d a b : Reg) : Statement (.rem w d a b) := fun _ => layR_stop _ _ _ _ _
theorem remn (w : Bool) (d a b : Reg) : Statement (.remn w d a b) := fun _ => layR_stop _ _ _ _ _
theorem addi (d a : Reg) (imm : Imm) : Statement (.addi d a imm) := fun _ => layImm_stop _ _ _ _
theorem andi (d a : Reg) (imm : Imm) : Statement (.andi d a imm) := fun _ => layImm_stop _ _ _ _
theorem ori (d a : Reg) (imm : Imm) : Statement (.ori d a imm) := fun _ => layImm_stop _ _ _ _
theorem xori (d a : Reg) (imm : Imm) : Statement (.xori d a imm) := fun _ => layImm_stop _ _ _ _
theorem shli (w : Bool) (d a sh : Reg) : Statement (.shli w d a sh) := fun _ => layImm_stop _ _ _ _
theorem shri (w : Bool) (d a sh : Reg) : Statement (.shri w d a sh) := fun _ => layImm_stop _ _ _ _
theorem sari (w : Bool) (d a sh : Reg) : Statement (.sari w d a sh) := fun _ => layImm_stop _ _ _ _
theorem bfx (d a pos len : Reg) : Statement (.bfx d a pos len) := fun _ => layImm_stop _ _ _ _
theorem bfi (d a pos len : Reg) : Statement (.bfi d a pos len) := fun _ => layImm_stop _ _ _ _
theorem movi (d : Reg) (imm : Imm) : Statement (.movi d imm) := fun _ => layBody_stop _ _
theorem movhi (d : Reg) (imm : Imm) : Statement (.movhi d imm) := fun _ => layBody_stop _ _
theorem fadd (t : FTy) (rm : Rm) (d a b : Reg) : Statement (.fadd t rm d a b) := fun _ => layR_stop _ _ _ _ _
theorem fsub (t : FTy) (rm : Rm) (d a b : Reg) : Statement (.fsub t rm d a b) := fun _ => layR_stop _ _ _ _ _
theorem fmul (t : FTy) (rm : Rm) (d a b : Reg) : Statement (.fmul t rm d a b) := fun _ => layR_stop _ _ _ _ _
theorem fdiv (t : FTy) (rm : Rm) (d a b : Reg) : Statement (.fdiv t rm d a b) := fun _ => layR_stop _ _ _ _ _
theorem ffma (t : FTy) (rm : Rm) (d a b : Reg) : Statement (.ffma t rm d a b) := fun _ => layR_stop _ _ _ _ _
theorem fmin (t : FTy) (d a b : Reg) : Statement (.fmin t d a b) := fun _ => layR_stop _ _ _ _ _
theorem fmax (t : FTy) (d a b : Reg) : Statement (.fmax t d a b) := fun _ => layR_stop _ _ _ _ _
theorem fcmp (t : FTy) (c : BitVec 3) (d a b : Reg) : Statement (.fcmp t c d a b) := fun _ => layR_stop _ _ _ _ _
theorem fsqrt (t : FTy) (rm : Rm) (d a : Reg) : Statement (.fsqrt t rm d a) := fun _ => layR_stop _ _ _ _ _
theorem fexp2 (t : FTy) (rm : Rm) (d a : Reg) : Statement (.fexp2 t rm d a) := fun _ => layR_stop _ _ _ _ _
theorem flog2 (t : FTy) (rm : Rm) (d a : Reg) : Statement (.flog2 t rm d a) := fun _ => layR_stop _ _ _ _ _
theorem fexp (t : FTy) (rm : Rm) (d a : Reg) : Statement (.fexp t rm d a) := fun _ => layR_stop _ _ _ _ _
theorem flog (t : FTy) (rm : Rm) (d a : Reg) : Statement (.flog t rm d a) := fun _ => layR_stop _ _ _ _ _
theorem fsin (t : FTy) (rm : Rm) (d a : Reg) : Statement (.fsin t rm d a) := fun _ => layR_stop _ _ _ _ _
theorem fcos (t : FTy) (rm : Rm) (d a : Reg) : Statement (.fcos t rm d a) := fun _ => layR_stop _ _ _ _ _
theorem ftanh (t : FTy) (rm : Rm) (d a : Reg) : Statement (.ftanh t rm d a) := fun _ => layR_stop _ _ _ _ _
theorem ferf (t : FTy) (rm : Rm) (d a : Reg) : Statement (.ferf t rm d a) := fun _ => layR_stop _ _ _ _ _
theorem frcpa (t : FTy) (rm : Rm) (d a : Reg) : Statement (.frcpa t rm d a) := fun _ => layR_stop _ _ _ _ _
theorem frsqa (t : FTy) (rm : Rm) (d a : Reg) : Statement (.frsqa t rm d a) := fun _ => layR_stop _ _ _ _ _
theorem fclass (t : FTy) (d a : Reg) : Statement (.fclass t d a) := fun _ => layR_stop _ _ _ _ _
theorem frnd (t : FTy) (rm : Rm) (d a : Reg) : Statement (.frnd t rm d a) := fun _ => layR_stop _ _ _ _ _
theorem fcvt (t : FTy) (rm : Rm) (c : BitVec 4) (d a : Reg) : Statement (.fcvt t rm c d a) := fun _ => layR_stop _ _ _ _ _
theorem fcvtFromInt (t : FTy) (rm : Rm) (c : BitVec 4) (d a : Reg) : Statement (.fcvtFromInt t rm c d a) := fun _ => layR_stop _ _ _ _ _
theorem ld (ty : BitVec 3) (wait clear : Bool) (d a : Reg) (imm : Imm) : Statement (.ld ty wait clear d a imm) := fun _ => layImm_stop _ _ _ _
theorem st (ty : BitVec 3) (d a : Reg) (imm : Imm) : Statement (.st ty d a imm) := fun _ => layImm_stop _ _ _ _
theorem vld (wait clear : Bool) (d a : Reg) (imm : Imm) : Statement (.vld wait clear d a imm) := fun _ => layImm_stop _ _ _ _
theorem vst (d a : Reg) (imm : Imm) : Statement (.vst d a imm) := fun _ => layImm_stop _ _ _ _
theorem vldm (wait clear : Bool) (d a cnt : Reg) : Statement (.vldm wait clear d a cnt) := fun _ => layImm_stop _ _ _ _
theorem vstm (d a cnt : Reg) : Statement (.vstm d a cnt) := fun _ => layImm_stop _ _ _ _
theorem tld (wait clear : Bool) (tv : BitVec 4) (a : Reg) (imm : Imm) : Statement (.tld wait clear tv a imm) := fun _ => layImm_stop _ _ _ _
theorem tst (tv : BitVec 4) (a : Reg) (imm : Imm) : Statement (.tst tv a imm) := fun _ => layImm_stop _ _ _ _
theorem feset (a b : Reg) : Statement (.feset a b) := fun _ => layR_stop _ _ _ _ _
theorem feclr (a b : Reg) : Statement (.feclr a b) := fun _ => layR_stop _ _ _ _ _
theorem atom (i32 : Bool) (op : BitVec 4) (q : BitVec 3) (a b : Reg) : Statement (.atom i32 op q a b) := fun _ => layR_stop _ _ _ _ _
theorem sbind (q : BitVec 3) (a : Reg) : Statement (.sbind q a) := fun _ => layR_stop _ _ _ _ _
theorem sunbind (q : BitVec 3) : Statement (.sunbind q) := fun _ => layR_stop _ _ _ _ _
theorem sstatVal (d : Reg) (q : BitVec 3) : Statement (.sstatVal d q) := fun _ => layR_stop _ _ _ _ _
theorem sstatQ (d : Reg) (q : BitVec 3) : Statement (.sstatQ d q) := fun _ => layR_stop _ _ _ _ _
theorem sstatCe (d : Reg) (e : BitVec 1) : Statement (.sstatCe d e) := fun _ => layR_stop _ _ _ _ _
theorem sstatCf (d : Reg) (e : BitVec 1) : Statement (.sstatCf d e) := fun _ => layR_stop _ _ _ _ _
theorem sstatPut (d : Reg) : Statement (.sstatPut d) := fun _ => layR_stop _ _ _ _ _
theorem gget (d a b : Reg) : Statement (.gget d a b) := fun _ => layR_stop _ _ _ _ _
theorem gput (d a b : Reg) : Statement (.gput d a b) := fun _ => layR_stop _ _ _ _ _
theorem pld (ty q : BitVec 3) (k : BitVec 4) (a : Reg) : Statement (.pld ty q k a) := fun _ => layBody_stop _ _
theorem pst (ty : BitVec 3) (k : BitVec 4) (a b : Reg) : Statement (.pst ty k a b) := fun _ => layBody_stop _ _
theorem patom (op q : BitVec 3) (k : BitVec 4) (a b : Reg) : Statement (.patom op q k a b) := fun _ => layBody_stop _ _
theorem pget (k : BitVec 4) (a b l : Reg) : Statement (.pget k a b l) := fun _ => layBody_stop _ _
theorem lease (k : BitVec 4) (a b : Reg) : Statement (.lease k a b) := fun _ => layBody_stop _ _
theorem lrel (k : BitVec 4) (a b : Reg) : Statement (.lrel k a b) := fun _ => layBody_stop _ _
theorem capld (k : BitVec 4) (a : Reg) : Statement (.capld k a) := fun _ => layBody_stop _ _
theorem capst (k : BitVec 4) (a : Reg) : Statement (.capst k a) := fun _ => layBody_stop _ _
theorem capder (k kb : BitVec 4) (a b : Reg) : Statement (.capder k kb a b) := fun _ => layBody_stop _ _
theorem capchk (k : BitVec 4) (a b : Reg) : Statement (.capchk k a b) := fun _ => layBody_stop _ _
theorem publish (sc : Scope) (a : Reg) : Statement (.publish sc a) := fun _ => layR_stop _ _ _ _ _
theorem reshPin (a : Reg) : Statement (.reshPin a) := fun _ => layR_stop _ _ _ _ _
theorem reshUnpin (a : Reg) : Statement (.reshUnpin a) := fun _ => layR_stop _ _ _ _ _
theorem reshPrio (a b : Reg) : Statement (.reshPrio a b) := fun _ => layR_stop _ _ _ _ _
theorem evict (a : Reg) : Statement (.evict a) := fun _ => layR_stop _ _ _ _ _
theorem evictDemote (a : Reg) : Statement (.evictDemote a) := fun _ => layR_stop _ _ _ _ _
theorem pref (a : Reg) : Statement (.pref a) := fun _ => layR_stop _ _ _ _ _
theorem vadd (f64 : Bool) (rm : Rm) (m : BitVec 3) (d a b : Reg) : Statement (.vadd f64 rm m d a b) := fun _ => layR_stop _ _ _ _ _
theorem vsub (f64 : Bool) (rm : Rm) (m : BitVec 3) (d a b : Reg) : Statement (.vsub f64 rm m d a b) := fun _ => layR_stop _ _ _ _ _
theorem vmul (f64 : Bool) (rm : Rm) (m : BitVec 3) (d a b : Reg) : Statement (.vmul f64 rm m d a b) := fun _ => layR_stop _ _ _ _ _
theorem vfma (f64 : Bool) (rm : Rm) (m : BitVec 3) (d a b : Reg) : Statement (.vfma f64 rm m d a b) := fun _ => layR_stop _ _ _ _ _
theorem vfms (f64 : Bool) (rm : Rm) (m : BitVec 3) (d a b : Reg) : Statement (.vfms f64 rm m d a b) := fun _ => layR_stop _ _ _ _ _
theorem vdiv (f64 : Bool) (rm : Rm) (m : BitVec 3) (d a b : Reg) : Statement (.vdiv f64 rm m d a b) := fun _ => layR_stop _ _ _ _ _
theorem vsqrt (f64 : Bool) (rm : Rm) (m : BitVec 3) (d a : Reg) : Statement (.vsqrt f64 rm m d a) := fun _ => layR_stop _ _ _ _ _
theorem vrcpa (f64 : Bool) (rm : Rm) (m : BitVec 3) (d a : Reg) : Statement (.vrcpa f64 rm m d a) := fun _ => layR_stop _ _ _ _ _
theorem vrsqa (f64 : Bool) (rm : Rm) (m : BitVec 3) (d a : Reg) : Statement (.vrsqa f64 rm m d a) := fun _ => layR_stop _ _ _ _ _
theorem vexp2 (f64 : Bool) (rm : Rm) (m : BitVec 3) (d a : Reg) : Statement (.vexp2 f64 rm m d a) := fun _ => layR_stop _ _ _ _ _
theorem vlog2 (f64 : Bool) (rm : Rm) (m : BitVec 3) (d a : Reg) : Statement (.vlog2 f64 rm m d a) := fun _ => layR_stop _ _ _ _ _
theorem vexp (f64 : Bool) (rm : Rm) (m : BitVec 3) (d a : Reg) : Statement (.vexp f64 rm m d a) := fun _ => layR_stop _ _ _ _ _
theorem vlog (f64 : Bool) (rm : Rm) (m : BitVec 3) (d a : Reg) : Statement (.vlog f64 rm m d a) := fun _ => layR_stop _ _ _ _ _
theorem vsin (f64 : Bool) (rm : Rm) (m : BitVec 3) (d a : Reg) : Statement (.vsin f64 rm m d a) := fun _ => layR_stop _ _ _ _ _
theorem vcos (f64 : Bool) (rm : Rm) (m : BitVec 3) (d a : Reg) : Statement (.vcos f64 rm m d a) := fun _ => layR_stop _ _ _ _ _
theorem vtanh (f64 : Bool) (rm : Rm) (m : BitVec 3) (d a : Reg) : Statement (.vtanh f64 rm m d a) := fun _ => layR_stop _ _ _ _ _
theorem verf (f64 : Bool) (rm : Rm) (m : BitVec 3) (d a : Reg) : Statement (.verf f64 rm m d a) := fun _ => layR_stop _ _ _ _ _
theorem vabs (f64 : Bool) (m : BitVec 3) (d a : Reg) : Statement (.vabs f64 m d a) := fun _ => layR_stop _ _ _ _ _
theorem vneg (f64 : Bool) (m : BitVec 3) (d a : Reg) : Statement (.vneg f64 m d a) := fun _ => layR_stop _ _ _ _ _
theorem vclass (f64 : Bool) (m : BitVec 3) (d a : Reg) : Statement (.vclass f64 m d a) := fun _ => layR_stop _ _ _ _ _
theorem vaddI32 (m : BitVec 3) (d a b : Reg) : Statement (.vaddI32 m d a b) := fun _ => layR_stop _ _ _ _ _
theorem vsubI32 (m : BitVec 3) (d a b : Reg) : Statement (.vsubI32 m d a b) := fun _ => layR_stop _ _ _ _ _
theorem vmulI32 (m : BitVec 3) (d a b : Reg) : Statement (.vmulI32 m d a b) := fun _ => layR_stop _ _ _ _ _
theorem vmadi (m : BitVec 3) (d a b : Reg) : Statement (.vmadi m d a b) := fun _ => layR_stop _ _ _ _ _
theorem vand (m : BitVec 3) (d a b : Reg) : Statement (.vand m d a b) := fun _ => layR_stop _ _ _ _ _
theorem vor (m : BitVec 3) (d a b : Reg) : Statement (.vor m d a b) := fun _ => layR_stop _ _ _ _ _
theorem vxor (m : BitVec 3) (d a b : Reg) : Statement (.vxor m d a b) := fun _ => layR_stop _ _ _ _ _
theorem vnot (m : BitVec 3) (d a : Reg) : Statement (.vnot m d a) := fun _ => layR_stop _ _ _ _ _
theorem vshl (m : BitVec 3) (d a b : Reg) : Statement (.vshl m d a b) := fun _ => layR_stop _ _ _ _ _
theorem vshr (m : BitVec 3) (d a b : Reg) : Statement (.vshr m d a b) := fun _ => layR_stop _ _ _ _ _
theorem vsar (m : BitVec 3) (d a b : Reg) : Statement (.vsar m d a b) := fun _ => layR_stop _ _ _ _ _
theorem vabsI32 (m : BitVec 3) (d a : Reg) : Statement (.vabsI32 m d a) := fun _ => layR_stop _ _ _ _ _
theorem vnegI32 (m : BitVec 3) (d a : Reg) : Statement (.vnegI32 m d a) := fun _ => layR_stop _ _ _ _ _
theorem vmin (ty : VTy) (m : BitVec 3) (d a b : Reg) : Statement (.vmin ty m d a b) := fun _ => layR_stop _ _ _ _ _
theorem vmax (ty : VTy) (m : BitVec 3) (d a b : Reg) : Statement (.vmax ty m d a b) := fun _ => layR_stop _ _ _ _ _
theorem vcmp (ty : VTy) (cond c m : BitVec 3) (a b : Reg) : Statement (.vcmp ty cond c m a b) := fun _ => layR_stop _ _ _ _ _
theorem vsel (ty : VTy) (m : BitVec 3) (d a b : Reg) : Statement (.vsel ty m d a b) := fun _ => layR_stop _ _ _ _ _
theorem vcvt (tf ff : BitVec 4) (rm : Rm) (sat : Bool) (d a : Reg) : Statement (.vcvt tf ff rm sat d a) := fun _ => layImm_stop _ _ _ _
theorem vpack (w : BitVec 2) (d a b : Reg) : Statement (.vpack w d a b) := fun _ => layR_stop _ _ _ _ _
theorem vunpack (w : BitVec 2) (hi sx : Bool) (d a : Reg) : Statement (.vunpack w hi sx d a) := fun _ => layR_stop _ _ _ _ _
theorem vbcast (w : BitVec 2) (d a : Reg) : Statement (.vbcast w d a) := fun _ => layR_stop _ _ _ _ _
theorem vperm (w : BitVec 2) (d a b : Reg) : Statement (.vperm w d a b) := fun _ => layR_stop _ _ _ _ _
theorem vshuf (w : BitVec 2) (d a b : Reg) : Statement (.vshuf w d a b) := fun _ => layR_stop _ _ _ _ _
theorem vslide (w : BitVec 2) (d a b : Reg) : Statement (.vslide w d a b) := fun _ => layR_stop _ _ _ _ _
theorem vred (op : RedOp) (ty : VTy) (rm : Rm) (m : BitVec 3) (d a : Reg) : Statement (.vred op ty rm m d a) := fun _ => layImm_stop _ _ _ _
theorem vscan (op : RedOp) (ty : VTy) (rm : Rm) (m : BitVec 3) (d a : Reg) : Statement (.vscan op ty rm m d a) := fun _ => layImm_stop _ _ _ _
theorem vrng (d a b : Reg) : Statement (.vrng d a b) := fun _ => layR_stop _ _ _ _ _
theorem vmand (d a b : BitVec 3) : Statement (.vmand d a b) := fun _ => layR_stop _ _ _ _ _
theorem vmor (d a b : BitVec 3) : Statement (.vmor d a b) := fun _ => layR_stop _ _ _ _ _
theorem vmnot (d a : BitVec 3) : Statement (.vmnot d a) := fun _ => layR_stop _ _ _ _ _
theorem vmpopc (d : Reg) (a : BitVec 3) : Statement (.vmpopc d a) := fun _ => layR_stop _ _ _ _ _
theorem vscale (fmt : BitVec 6) (rm : Rm) (m : BitVec 3) (d a : Reg) : Statement (.vscale fmt rm m d a) := fun _ => layR_stop _ _ _ _ _
theorem vw2enc (rm : Rm) (m : BitVec 3) (d a b : Reg) : Statement (.vw2enc rm m d a b) := fun _ => layR_stop _ _ _ _ _
theorem rvmul (t : RTy) (rm : Rm) (d a b : Reg) : Statement (.rvmul t rm d a b) := fun _ => layR_stop _ _ _ _ _
theorem urmul (t : RTy) (rm : Rm) (d a b : Reg) : Statement (.urmul t rm d a b) := fun _ => layR_stop _ _ _ _ _
theorem rvfma (t : RTy) (rm : Rm) (d a b : Reg) : Statement (.rvfma t rm d a b) := fun _ => layR_stop _ _ _ _ _
theorem urfma (t : RTy) (rm : Rm) (d a b : Reg) : Statement (.urfma t rm d a b) := fun _ => layR_stop _ _ _ _ _
theorem rvadd (t : RTy) (rm : Rm) (d a b : Reg) : Statement (.rvadd t rm d a b) := fun _ => layR_stop _ _ _ _ _
theorem uradd (t : RTy) (rm : Rm) (d a b : Reg) : Statement (.uradd t rm d a b) := fun _ => layR_stop _ _ _ _ _
theorem rvcvt (tf ff : BitVec 4) (rm : Rm) (d a : Reg) : Statement (.rvcvt tf ff rm d a) := fun _ => layImm_stop _ _ _ _
theorem urcvt (tf ff : BitVec 4) (rm : Rm) (d a : Reg) : Statement (.urcvt tf ff rm d a) := fun _ => layImm_stop _ _ _ _
theorem rvrelu (bf : Bool) (d a : Reg) : Statement (.rvrelu bf d a) := fun _ => layR_stop _ _ _ _ _
theorem urrelu (bf : Bool) (d a : Reg) : Statement (.urrelu bf d a) := fun _ => layR_stop _ _ _ _ _
theorem rvscale (bf : Bool) (rm : Rm) (d a b : Reg) : Statement (.rvscale bf rm d a b) := fun _ => layR_stop _ _ _ _ _
theorem urscale (bf : Bool) (rm : Rm) (d a b : Reg) : Statement (.urscale bf rm d a b) := fun _ => layR_stop _ _ _ _ _
theorem rvdrop (bf : Bool) (d a : Reg) (m : BitVec 3) : Statement (.rvdrop bf d a m) := fun _ => layR_stop _ _ _ _ _
theorem urdrop (bf : Bool) (d a : Reg) (m : BitVec 3) : Statement (.urdrop bf d a m) := fun _ => layR_stop _ _ _ _ _
theorem pusht (v : BitVec 4) (b : Reg) : Statement (.pusht v b) := fun _ => layR_stop _ _ _ _ _
theorem popt (v : BitVec 4) (b : Reg) : Statement (.popt v b) := fun _ => layR_stop _ _ _ _ _
theorem rsmark (d a : Reg) : Statement (.rsmark d a) := fun _ => layR_stop _ _ _ _ _
theorem rsck (a b : Reg) : Statement (.rsck a b) := fun _ => layR_stop _ _ _ _ _
theorem mcall (ent : BitVec 14) : Statement (.mcall ent) := fun _ => layBody_stop _ _
theorem uxset (x : BitVec 2) (imm : BitVec 16) : Statement (.uxset x imm) := fun h => nomatch h
theorem uxadd (x : BitVec 2) (imm : BitVec 16) : Statement (.uxadd x imm) := fun h => nomatch h
theorem uxldp (x : BitVec 2) (p : BitVec 3) (h : BitVec 2) : Statement (.uxldp x p h) := fun h => nomatch h
theorem ukadd (src : Bool) (x : BitVec 2) (imm : BitVec 16) : Statement (.ukadd src x imm) := fun h => nomatch h
theorem uloop (last : BitVec 14) (src : Bool) (count : BitVec 12) : Statement (.uloop last src count) := fun h => nomatch h
theorem ubnz (x : BitVec 2) (target : BitVec 14) : Statement (.ubnz x target) := fun h => nomatch h
theorem uwait (n : BitVec 12) : Statement (.uwait n) := fun h => nomatch h
theorem uwld (xb : BitVec 2) (kn : BitVec 8) : Statement (.uwld xb kn) := fun h => nomatch h
theorem umac (xa xk xc : BitVec 2) (n : Reg) (kn : BitVec 8) (adv : Bool) : Statement (.umac xa xk xc n kn adv) := fun h => nomatch h
theorem uzero (xc : BitVec 2) (n : Reg) : Statement (.uzero xc n) := fun h => nomatch h
theorem uxmov (xd xs : BitVec 2) : Statement (.uxmov xd xs) := fun h => nomatch h
theorem mparm (p : BitVec 3) (a : Reg) : Statement (.mparm p a) := fun _ => layR_stop _ _ _ _ _
theorem mfoffSet (o : BitVec 3) (a : Reg) : Statement (.mfoffSet o a) := fun _ => layR_stop _ _ _ _ _
theorem mfoff (o : BitVec 3) (a l : Reg) : Statement (.mfoff o a l) := fun _ => layR_stop _ _ _ _ _
theorem mgath (n a b : Reg) : Statement (.mgath n a b) := fun _ => layR_stop _ _ _ _ _
theorem dqpop (d : Reg) (q : BitVec 2) : Statement (.dqpop d q) := fun _ => layR_stop _ _ _ _ _
theorem dqst (q : BitVec 2) (b : Reg) : Statement (.dqst q b) := fun _ => layR_stop _ _ _ _ _
theorem macst (v : BitVec 2) (b : Reg) : Statement (.macst v b) := fun _ => layR_stop _ _ _ _ _
theorem macld (v : BitVec 2) (b : Reg) : Statement (.macld v b) := fun _ => layR_stop _ _ _ _ _
theorem mload (d a b : Reg) : Statement (.mload d a b) := fun _ => layR_stop _ _ _ _ _
theorem fwr (ntf : Bool) (k : BitVec 4) (a b : Reg) : Statement (.fwr ntf k a b) := fun _ => layR_stop _ _ _ _ _
theorem fatom (op : BitVec 3) (q : BitVec 2) (k : BitVec 4) (a b : Reg) : Statement (.fatom op q k a b) := fun _ => layR_stop _ _ _ _ _
theorem freq (q : BitVec 2) (k : BitVec 4) (b : Reg) : Statement (.freq q k b) := fun _ => layR_stop _ _ _ _ _
theorem fmc (ntf : Bool) (k : BitVec 4) (a b : Reg) : Statement (.fmc ntf k a b) := fun _ => layR_stop _ _ _ _ _
theorem fstatOut (d : Reg) : Statement (.fstatOut d) := fun _ => layR_stop _ _ _ _ _
theorem fstatDone (d : Reg) : Statement (.fstatDone d) := fun _ => layR_stop _ _ _ _ _
theorem fstatErr (d : Reg) : Statement (.fstatErr d) := fun _ => layR_stop _ _ _ _ _
theorem fstatPeer (d a : Reg) : Statement (.fstatPeer d a) := fun _ => layR_stop _ _ _ _ _
theorem fgrp (a b : Reg) : Statement (.fgrp a b) := fun _ => layR_stop _ _ _ _ _
theorem csrr (d : Reg) (csr : BitVec 12) : Statement (.csrr d csr) := fun _ => layBody_stop _ _
theorem csrw (d : Reg) (csr : BitVec 12) : Statement (.csrw d csr) := fun _ => layBody_stop _ _
theorem csrwFlags (d : Reg) : Statement (.csrwFlags d) := fun _ => layBody_stop _ _
theorem csrwMode (d : Reg) : Statement (.csrwMode d) := fun _ => layBody_stop _ _
theorem csrwStage (d : Reg) : Statement (.csrwStage d) := fun _ => layBody_stop _ _
theorem csrwRsSpill (limit : Bool) (d : Reg) : Statement (.csrwRsSpill limit d) := fun _ => layBody_stop _ _
theorem tlbinv (d a b : Reg) : Statement (.tlbinv d a b) := fun _ => layR_stop _ _ _ _ _
theorem vwset (view a b : Reg) : Statement (.vwset view a b) := fun _ => layR_stop _ _ _ _ _
theorem tidset (a b : Reg) : Statement (.tidset a b) := fun _ => layR_stop _ _ _ _ _
theorem copyx (dst src : Space) (d a b : Reg) : Statement (.copyx dst src d a b) := fun _ => layR_stop _ _ _ _ _
theorem launchTask (pre : Bool) (addr : Word) : Statement (.launchTask pre addr) := fun h => nomatch h
theorem launchGraph (pre : Bool) (addr : Word) : Statement (.launchGraph pre addr) := fun h => nomatch h
theorem launchGraphResident (pre : Bool) (cluster : BitVec 16) (graph : BitVec 3) : Statement (.launchGraphResident pre cluster graph) := fun h => nomatch h
theorem timed (pre kind : Bool) (t addr gang : Word) : Statement (.timed pre kind t addr gang) := fun h => nomatch h
theorem indirect (addr : Word) (len : BitVec 32) : Statement (.indirect addr len) := fun h => nomatch h
theorem pred (sense : Bool) (span : BitVec 12) (addr mask value : Word) : Statement (.pred sense span addr mask value) := fun h => nomatch h
theorem loopPacket (span : BitVec 12) (rep : BitVec 32) : Statement (.loopPacket span rep) := fun h => nomatch h
theorem writeMemory (addr : Word) (data : List (BitVec 32)) : Statement (.writeMemory addr data) := fun h => nomatch h
theorem writeCondWord (cluster : BitVec 16) (graph : BitVec 3) (value : Word) : Statement (.writeCondWord cluster graph value) := fun h => nomatch h
theorem waitPacket (cond : BitVec 2) (addr mask value : Word) : Statement (.waitPacket cond addr mask value) := fun h => nomatch h
theorem sched (load : Bool) (look : BitVec 4) (step saddr : Word) (scount : BitVec 32) (eaddr : Word) (ecount : BitVec 32) : Statement (.sched load look step saddr scount eaddr ecount) := fun h => nomatch h
theorem event (pre after : Bool) (vector : BitVec 11) (addr value : Word) (ctx : BitVec 12) : Statement (.event pre after vector addr value ctx) := fun h => nomatch h
theorem budget (cls : BitVec 3) (value : BitVec 24) : Statement (.budget cls value) := fun h => nomatch h
theorem nop : Statement (.nop) := fun _ => rfl
theorem tend : Statement (.tend) := fun _ => layR_stop _ _ _ _ _
theorem yieldOp : Statement (.yieldOp) := fun _ => layR_stop _ _ _ _ _
theorem routineStart (cl core : Nat) : Statement (.routineStart cl core) := fun h => nomatch h
theorem routineTimeout (cl core : Nat) : Statement (.routineTimeout cl core) := fun h => nomatch h
theorem drainPush (cl core : Nat) : Statement (.drainPush cl core) := fun h => nomatch h
theorem unop : Statement (.unop) := fun h => nomatch h
theorem uend : Statement (.uend) := fun h => nomatch h
theorem eret : Statement (.eret) := fun _ => layR_stop _ _ _ _ _
theorem halt : Statement (.halt) := fun _ => layR_stop _ _ _ _ _
theorem yieldCycle (cl core : Nat) : Statement (.yieldCycle cl core) := fun h => nomatch h
theorem scratchBufferDrain (cl bank : Nat) : Statement (.scratchBufferDrain cl bank) := fun h => nomatch h
theorem lineLanding (xfer line : Nat) : Statement (.lineLanding xfer line) := fun h => nomatch h
theorem streamSlotLand (arrival : Nat) : Statement (.streamSlotLand arrival) := fun h => nomatch h
theorem copyEntryStart (cl e : Nat) : Statement (.copyEntryStart cl e) := fun h => nomatch h
theorem copyEntryComplete (cl e : Nat) : Statement (.copyEntryComplete cl e) := fun h => nomatch h
theorem spillLine (cl core : Nat) : Statement (.spillLine cl core) := fun h => nomatch h
theorem refillLine (cl core : Nat) : Statement (.refillLine cl core) := fun h => nomatch h
theorem lazyUnitMove (cl core : Nat) (kind : UnitKind) (idx : Nat) : Statement (.lazyUnitMove cl core kind idx) := fun h => nomatch h
theorem preemptWatchdog (ctx cl : Nat) : Statement (.preemptWatchdog ctx cl) := fun h => nomatch h
theorem contextHalt (ctx cl : Nat) : Statement (.contextHalt ctx cl) := fun h => nomatch h
theorem taskComplete (cl task : Nat) : Statement (.taskComplete cl task) := fun h => nomatch h
theorem graphNodeLaunch (cl slot node : Nat) : Statement (.graphNodeLaunch cl slot node) := fun h => nomatch h
theorem conditionalNodeEval (cl slot node : Nat) : Statement (.conditionalNodeEval cl slot node) := fun h => nomatch h
theorem whileNodeEval (cl slot node : Nat) : Statement (.whileNodeEval cl slot node) := fun h => nomatch h
theorem graphComplete (cl slot : Nat) : Statement (.graphComplete cl slot) := fun h => nomatch h
theorem condWordUpdate (update : CondUpdate) : Statement (.condWordUpdate update) := fun h => nomatch h
theorem poolResponse (rsp : PoolRsp) : Statement (.poolResponse rsp) := fun h => nomatch h
theorem poolRetransmit (req : Nat) : Statement (.poolRetransmit req) := fun h => nomatch h
theorem leaseGrant (rsp : PoolRsp) : Statement (.leaseGrant rsp) := fun h => nomatch h
theorem leaseExpiry (ctx idx : Nat) : Statement (.leaseExpiry ctx idx) := fun h => nomatch h
theorem promotionComplete (range : Nat) : Statement (.promotionComplete range) := fun h => nomatch h
theorem deadlineMiss (part stream watch : Nat) : Statement (.deadlineMiss part stream watch) := fun h => nomatch h
theorem budgetWindow : Statement (.budgetWindow) := fun h => nomatch h
theorem publishExchange (ctx idx : Nat) : Statement (.publishExchange ctx idx) := fun h => nomatch h
theorem doorbell (part stream : Nat) (tail : BitVec 32) : Statement (.doorbell part stream tail) := fun h => nomatch h
theorem nopPacket : Statement (.nopPacket) := fun h => nomatch h
theorem launchStart (part stream : Nat) : Statement (.launchStart part stream) := fun h => nomatch h
theorem waitIdle : Statement (.waitIdle) := fun h => nomatch h
theorem waitPoll (part stream : Nat) : Statement (.waitPoll part stream) := fun h => nomatch h
theorem ffence : Statement (.ffence) := fun h => nomatch h
theorem gangInjectHalt (part stream : Nat) : Statement (.gangInjectHalt part stream) := fun h => nomatch h
theorem readyReport (gang : BitVec 32) (src : Nat) : Statement (.readyReport gang src) := fun h => nomatch h
theorem timedLaunchInstant (part stream : Nat) : Statement (.timedLaunchInstant part stream) := fun h => nomatch h
theorem stragglerCheck (part stream : Nat) : Statement (.stragglerCheck part stream) := fun h => nomatch h
theorem stragglerNotice (gang : BitVec 32) (notice : Straggler) : Statement (.stragglerNotice gang notice) := fun h => nomatch h
theorem barrierToken (gang : BitVec 32) (t : Word) (src : Nat) : Statement (.barrierToken gang t src) := fun h => nomatch h
theorem fabricWriteArrival (pkt : Packet) : Statement (.fabricWriteArrival pkt) := fun h => nomatch h
theorem fabricAtomicArrival (pkt : Packet) : Statement (.fabricAtomicArrival pkt) := fun h => nomatch h
theorem fabricRequestArrival (pkt : Packet) : Statement (.fabricRequestArrival pkt) := fun h => nomatch h
theorem multicastArrival (pkt : Packet) : Statement (.multicastArrival pkt) := fun h => nomatch h
theorem fabricAck (pkt : Packet) : Statement (.fabricAck pkt) := fun h => nomatch h
theorem fabricRetransmit (out : Nat) : Statement (.fabricRetransmit out) := fun h => nomatch h
theorem completionNotice (pkt : Packet) : Statement (.completionNotice pkt) := fun h => nomatch h
theorem resumeMarker (pkt : Packet) : Statement (.resumeMarker pkt) := fun h => nomatch h
theorem packetForward (pkt : Packet) : Statement (.packetForward pkt) := fun h => nomatch h
theorem virtualEgressSend (part dst : Nat) : Statement (.virtualEgressSend part dst) := fun h => nomatch h
theorem syncMessage (valid : Bool) (msg : SyncMsg) : Statement (.syncMessage valid msg) := fun h => nomatch h
theorem holdoverEntry : Statement (.holdoverEntry) := fun h => nomatch h
theorem clockLostEntry : Statement (.clockLostEntry) := fun h => nomatch h
theorem clockLock : Statement (.clockLock) := fun h => nomatch h
theorem shootdownInstant : Statement (.shootdownInstant) := fun h => nomatch h
theorem roleMapSet (roles : List Bool) : Statement (.roleMapSet roles) := fun h => nomatch h
theorem roleFlush : Statement (.roleFlush) := fun h => nomatch h
theorem roleDark : Statement (.roleDark) := fun h => nomatch h
theorem roleReenumerate : Statement (.roleReenumerate) := fun h => nomatch h
theorem roleRelight : Statement (.roleRelight) := fun h => nomatch h
theorem partitionCreate (r : PartitionRec) : Statement (.partitionCreate r) := fun h => nomatch h
theorem contextCreate (r : ContextRec) : Statement (.contextCreate r) := fun h => nomatch h
theorem contextDestroy (ctx : Nat) : Statement (.contextDestroy ctx) := fun h => nomatch h
theorem streamBind (part stream ctx : Nat) (base : BitVec 52) (size : Nat) : Statement (.streamBind part stream ctx base size) := fun h => nomatch h
theorem errorClear (part stream : Nat) : Statement (.errorClear part stream) := fun h => nomatch h
theorem capSlotWrite (ctx slot : Nat) (value : BitVec 128) (tag : Bool) : Statement (.capSlotWrite ctx slot value tag) := fun h => nomatch h
theorem handleWrite (ctx idx : Nat) (q0 q1 q2 : Word) : Statement (.handleWrite ctx idx q0 q1 q2) := fun h => nomatch h
theorem fenceAssign (pkg : BitVec 16) (fence : Word) : Statement (.fenceAssign pkg fence) := fun h => nomatch h
theorem fencedStateExit (pkg : BitVec 16) (fence : Word) : Statement (.fencedStateExit pkg fence) := fun h => nomatch h
theorem routerTableWrite (part peer : Nat) (entry : RouterEntry) : Statement (.routerTableWrite part peer entry) := fun h => nomatch h
theorem exportTableWrite (idx : Nat) (q0 q1 q2 q3 : Word) : Statement (.exportTableWrite idx q0 q1 q2 q3) := fun h => nomatch h
theorem keyLoad (idx : Nat) (key : BitVec 512) : Statement (.keyLoad idx key) := fun h => nomatch h
theorem powerCapSet (watts : Nat) : Statement (.powerCapSet watts) := fun h => nomatch h
theorem mgmtPreempt (ctx : Nat) : Statement (.mgmtPreempt ctx) := fun h => nomatch h
theorem mgmtStart (cl core : Nat) : Statement (.mgmtStart cl core) := fun h => nomatch h
theorem attestationReport (nonce : BitVec 256) : Statement (.attestationReport nonce) := fun h => nomatch h
theorem powerOn (img : BootImage) : Statement (.powerOn img) := fun h => nomatch h
theorem thermalTrip (layer : Nat) : Statement (.thermalTrip layer) := fun h => nomatch h
theorem thermalResume (layer : Nat) : Statement (.thermalResume layer) := fun h => nomatch h
theorem hostAccess (acc : HostAcc) : Statement (.hostAccess acc) := fun h => nomatch h
theorem packageReset : Statement (.packageReset) := fun h => nomatch h
theorem recoveryExit : Statement (.recoveryExit) := fun h => nomatch h
theorem publishNotice (ctx idx : Nat) (tp : Word) : Statement (.publishNotice ctx idx tp) := fun h => nomatch h
theorem fabricStreamReset (ctx peer : Nat) : Statement (.fabricStreamReset ctx peer) := fun h => nomatch h
theorem peerPortFailure (port : Nat) : Statement (.peerPortFailure port) := fun h => nomatch h
theorem circuitChange (ports : List Nat) : Statement (.circuitChange ports) := fun h => nomatch h
theorem portRelight (port : Nat) : Statement (.portRelight port) := fun h => nomatch h
theorem clusterCacheEviction (cl line : Nat) : Statement (.clusterCacheEviction cl line) := fun h => nomatch h
theorem gputComplete (xfer : Nat) : Statement (.gputComplete xfer) := fun h => nomatch h

end StopBit

end Sys2Proof.Laws
end

