-- ==== Sys2Proof/Tests/Slice0.lean ====
section
/-! SUPPORT. Tests: ill-formed terms that the checks refuse, words of the spec, single steps on small states, and for each statement with hypotheses a state and operands that meet them, at a boundary for each clause. -/

namespace Sys2Proof.Tests

open Sys2Proof Sys2Proof.Machine

-- one after another: many kernel evaluations at once need more threads than the memory limit allows
set_option Elab.async false

/-! ## Small states -/

/-- The state after reset with general registers g at the site (cluster 0, core 0, primary). -/
def gState (g : Tbl Word) : State := State.reset.modHereE (fun e => { e with g := g })

def tCtx : Context := { id := 5, part := 0, root := 0x10000, handler := 0x100, tidBase := 0, spill := [], parkedMax := 0 }
def tPart : Partition := { num := 0, layers := [0], service := 0x200, spillKey := 0, cacheKey := 0, overflow := (0, 0), egress := (0, 0), parked := (0, 0), vf := 0, bar2 := 0, bar2Size := 2 ^ 36 }

/-- Tables at 0x10000, 0x12000 and 0x14000 that map the first GiB onto physical memory for every context, with all rights. -/
def tMem : Mem :=
  { phys := [(0x10001, 0x20), (0x10002, 0x01), (0x10007, 0x80), (0x12001, 0x40), (0x12002, 0x01), (0x12007, 0x80), (0x14007, 0xF8), (0x1400E, 0xF0), (0x1400F, 0xFF)] }

/-- A state with partition 0, context 5 on its cluster 0, the eager registers e on core 0, and its cluster changed by f. -/
def cState (e : CoreE) (f : Cluster → Cluster) : State :=
  { State.reset with
    ctxs := [(5, tCtx)]
    parts := [(0, tPart)]
    mem := tMem
    clusters := [(0, f { ctx := some 5, cores := [(0, { halted := false, e := e })] })] }

/-- Both sequencers run at 0x40. -/
def runE : CoreE := { prim := { running := true, pc := 0x40 }, second := { running := true, pc := 0x40 } }
def kState : State := cState runE id

/-- A loop body from 0x40 to 0x60. -/
def body : LoopEntry := { first := 0x40, last := 0x60, count := 3, index := 0 }
def loopState (l : List LoopEntry) : State := cState { prim := { running := true, pc := 0x40, loops := l } } id

/-! ## Witnesses: scalar and vector statements -/

theorem wit_ScalarCountsAndProducts :
    ((gState []).g 2).truncate 64 = (0 : BitVec 64) ∧
    ((gState [(1, 0x8000000000000000), (2, 0xFFFFFFFFFFFFFFFF)]).g 1).truncate 64 = BitVec.intMin 64 ∧
    ((gState [(1, 0x8000000000000000), (2, 0xFFFFFFFFFFFFFFFF)]).g 2).truncate 64 = BitVec.allOnes 64 ∧
    ((gState [(1, 0x80000000), (2, 0xFFFFFFFF)]).g 1).truncate 32 = BitVec.intMin 32 ∧
    ((gState [(1, 0x80000000), (2, 0xFFFFFFFF)]).g 2).truncate 32 = BitVec.allOnes 32 ∧
    ((gState [(1, 7), (2, 1)]).g 2).truncate 64 ≠ (0 : BitVec 64) ∧
    ((gState [(1, 7), (2, 1)]).g 1).truncate 64 ≠ BitVec.intMin 64 := by decide

/-- The widest bit field, and one bit at the top. -/
theorem wit_ScalarImmediates : (0 : Reg).toNat + (63 : Reg).toNat < 64 ∧ (63 : Reg).toNat + (0 : Reg).toNat < 64 := by decide

theorem wit_ScalarFloatResults :
    ((0 : BitVec 4).toNat ≤ 6 ∧ (6 : BitVec 4).toNat ≤ 6 ∧ (10 : BitVec 4).toNat = 10) ∧ (7 : BitVec 4).toNat = 7 ∧ (9 : BitVec 4).toNat = 9 ∧
    (7 ≤ (7 : BitVec 4).toNat ∧ (10 : BitVec 4).toNat ≤ 10) := by decide

/-- A quiet and a signalling NaN, infinities of unlike and of like sign, zero and infinity, two zeros, a number and zero, a number and infinity, and the roots. -/
theorem wit_FloatRounding_specials :
    let f := ftyFmt .f16
    f.decode 0x7E00 = .nan false ∧ f.decode 0x7D00 = .nan true ∧ f.decode 0x7C00 = .inf false ∧ f.decode 0xFC00 = .inf true ∧
    f.decode 0x0000 = .fin false 0 (-24) ∧ f.decode 0x8000 = .fin true 0 (-24) ∧ f.decode 0x3C00 = .fin false 1024 (-10) ∧
    f.decode 0xBC00 = .fin true 1024 (-10) := by decide

/-- One third in binary16 overflows under neither mode; so does the least subnormal halved. -/
theorem wit_FloatRounding_tz : ((fmtOf 2).round .tz false false 1 3 0).2 &&& flOF = 0 ∧ ((fmtOf 2).round .tz false true 1 2 (-24)).2 &&& flOF = 0 := by decide

theorem wit_FloatRounding_ne : ((fmtOf 2).round .ne false false 1 3 0).2 &&& flOF = 0 ∧ ((fmtOf 2).round .ne false true 1 2 (-24)).2 &&& flOF = 0 := by decide

/-- Overflows and underflows of E4M3, of FP16 and of format 12, up and to odd. -/
theorem wit_FloatRounding_modes :
    ((fmtOf 2).round .up false false 65536 1 0).2 &&& flOF ≠ 0 ∧ ((fmtOf 4).round .odd false true 1000 1 0).2 &&& flOF ≠ 0 ∧
    ((fmtOf 12).round .na false true 7 1 0).2 &&& flOF ≠ 0 ∧ ((fmtOf 2).round .dn false true 1 3 (-24)).2 &&& flUF ≠ 0 ∧
    ((fmtOf 11).round .up false true 1 3 0).2 &&& flOF = 0 ∧ (fmtOf 2).decode (fmtOf 2).maxFin = .fin false 2047 5 := by decide +kernel

/-- The magnitudes at the edges: the largest finite one, the smallest normal one, and one quantum below it. -/
theorem wit_FloatRounding_edges :
    ((65504 : Nat) : ℚ) / 1 * (2 : ℚ) ^ (0 : Int) ≤ magOf 2047 5 ∧ (2 : ℚ) ^ (fmtOf 2).emin ≤ ((1 : Nat) : ℚ) / 1 * (2 : ℚ) ^ (-14 : Int) ∧
    ((1023 : Nat) : ℚ) / 1 * (2 : ℚ) ^ (-24 : Int) ≤ (2 : ℚ) ^ (fmtOf 2).emin - (2 : ℚ) ^ ((fmtOf 2).emin - (fmtOf 2).mb) := by
  have h : (fmtOf 2).emin = -14 := by decide
  have m : (fmtOf 2).mb = 10 := by decide
  rw [h, m]
  norm_num [magOf]

/-- Finite values and zeros of both signs that are ordered, an infinity and a number, a positive operand of a root, and a value beyond 2. -/
theorem wit_FloatRounding_exact :
    (isFin (.fin true 0 (-24)) ∧ Below true (.fin true 0 (-24)) (.fin false 0 (-24)) ∧ ¬ Below false (.fin true 0 (-24)) (.fin false 0 (-24)) ∧
      Below false (.fin true 1 0) (.inf false) ∧ ratOf (.fin false 1024 (-10)) ≠ 0 ∧ 0 < ratOf (.fin false 1024 (-10))) ∧
    (|ratOf (.fin true 2 0)| ≤ 2 ∧ 2 < |ratOf (.fin false 3 0)|) := by
  refine ⟨⟨⟨_, _, _, rfl⟩, ⟨rfl, rfl, .inl ⟨⟨_, _, _, rfl⟩, ⟨_, _, _, rfl⟩, .inr ⟨rfl, by simp [ratOf, magOf], by simp [ratOf, magOf], rfl, rfl⟩⟩⟩, ?_,
    ⟨rfl, rfl, .inr (.inr ⟨rfl, by simp⟩)⟩, by norm_num [ratOf, magOf], by norm_num [ratOf, magOf]⟩, by norm_num [ratOf, magOf], by norm_num [ratOf, magOf]⟩
  rintro ⟨-, -, ⟨-, -, h | h⟩ | h | h⟩
  · simp [ratOf, magOf] at h
  · simp at h
  · simp at h
  · simp at h

/-- Each format of an encoder, a record of this bundle and none. -/
theorem wit_FloatRounding_formats :
    ((5 : Nat) < 6 ∧ (12 : Nat) < 13 ∧ 7 ≤ 10 ∧ (11 : BitVec 4).toNat = 11 ∧ (12 : BitVec 4).toNat < 13 ∧ 10 < (12 : BitVec 4).toNat) ∧ (∀ r, RowOk kState r) ∧
    (∃ r, ({ kState with cur := { slot := 1, pc := 0x40 } }.modMe (fun q => { q with emu := some { pc := 0x40, effects := [(1, [.g 5 7], 1)] } })).me.emu = some r ∧
      r.pc = 0x40 ∧ look r.effects 1 = some ([.g 5 7], 1)) ∧ kState.me.emu = none := by
  refine ⟨by decide, fun _ _ _ => rfl, ⟨_, rfl, by decide, by decide⟩, rfl⟩

/-- Every row of the core after reset is readable: the hypothesis of the statements about rows. -/
theorem wit_VectorFloatResults (r : Reg) : RowOk State.reset r := fun _ _ => rfl
theorem wit_VectorIntegerResults (r : Reg) : RowOk State.reset r := fun _ _ => rfl
theorem wit_VectorCompareAndReduce (r : Reg) : RowOk State.reset r := fun _ _ => rfl

theorem wit_VectorMoveResults : (0 : BitVec 4).toNat < 11 ∧ (10 : BitVec 4).toNat < 11 ∧ (0 : BitVec 2).toNat < 3 ∧ (2 : BitVec 2).toNat < 3 := by decide

/-- The clauses of a scan: none active up to an element, the first active one, and the elements after it, active and not. -/
theorem wit_VectorCompareAndReduce_scans :
    let on (k : Word) (e : Nat) : Bool := ((State.reset.modHereE (fun x => { x with m := [(1, k)] })).mask 1).getLsbD e
    (on 2 0 = false) ∧ (on 2 1 = true ∧ ∀ j, j < 1 → on 2 j = false) ∧ (on 3 0 = true ∧ on 3 1 = true) ∧ on 1 1 = false := by decide

theorem wit_ResultsInFlightAndLanding_elements :
    (8 = 8 ∨ 8 = 16 ∨ 8 = 32 ∨ 8 = 64) ∧ ([(0, 1), (255, 2)].map (·.1)).Nodup ∧ (∀ p ∈ [(0, 1), (255, 2)], p.1 < 2048 / 8) ∧
    (∀ p ∈ [(31, 5)], p.1 < 2048 / 64) ∧ (3 : Nat) < 2048 / 8 ∧ 3 ∉ [(0, 1), (255, 2)].map (·.1) := by decide

/-! ## Witnesses: control -/

/-- Clauses of the branches: a condition that does not hold, legal exits at the last bundle of the body and out of it, illegal ones, and a target that is not aligned. -/
theorem wit_BranchesAndLoops :
    (¬ condHolds 1 1 ∧ condHolds 1 0) ∧
    ExitOk (loopState []) 0x200 0 ∧ ExitOk (loopState [body]) 0x60 0 ∧ ExitOk (loopState [body]) 0x64 1 ∧
    ¬ ExitOk (loopState []) 0x200 1 ∧ ¬ ExitOk (loopState [body]) 0x60 1 ∧
    (((gState [(3, 0x200)]).g 3).truncate 52 : BitVec 52).toNat % 4 = 0 ∧ (((gState [(3, 0x202)]).g 3).truncate 52 : BitVec 52).toNat % 4 ≠ 0 := by
  refine ⟨⟨by simp [condHolds], by simp [condHolds]⟩, ⟨by decide, by decide, fun _ l h => by cases h⟩,
    ⟨by decide, by decide, fun _ l h => by cases h; decide⟩, ⟨by decide, by decide, fun h => by cases h⟩,
    fun h => absurd h.1 (by decide), fun h => absurd (h.2.1 body (by decide)) (by decide), by decide, by decide⟩

/-- The clauses of loop and loopi: an end at NEXT and at the end of the top body, five entries held, counts 0 and not, and an end before NEXT. -/
theorem wit_BranchesAndLoops_loops :
    let s : State := { loopState [body, body, body, body, body] with cur := { pc := 0x40, next := 0x44 } }
    let last := s.cur.pc.toNat + 4 * (8 : Imm).toNat
    (s.cur.next.toNat ≤ last ∧ last < 2 ^ 52 ∧ s.me.loops.length < 6 ∧ ∀ l, s.me.loops.head? = some l → last ≤ l.last.toNat) ∧
    (s.cur.next.toNat ≤ s.cur.pc.toNat + 4 * (1 : BitVec 13).toNat) ∧ ((5 : Imm).toNat ≠ 0 ∧ (0 : Imm).toNat = 0) ∧
    (min (max ((gState [(1, 0xFFFFFFFFFFFFFFFF)]).g 1).toInt 0) (2 ^ 32 - 1)).toNat = 0 ∧
    (min (max ((gState [(1, 0x100000000)]).g 1).toInt 0) (2 ^ 32 - 1)).toNat ≠ 0 ∧
    s.cur.pc.toNat + 4 * (0 : BitVec 13).toNat < s.cur.next.toNat := by
  refine ⟨⟨by decide, by decide, by decide, fun l h => by cases h; decide⟩, by decide, by decide, by decide, by decide, by decide⟩

theorem wit_ControlResults :
    (∀ i, i < 256 → tget false State.reset.here.arenaBad (State.reset.e.vBase.toNat + 256 * 0 + i) = false) ∧
    State.reset.taskGraph = none ∧ ∃ s : State, s.taskGraph.isSome = true := by
  refine ⟨fun _ _ => rfl, by decide, ?_⟩
  refine ⟨cState runE (fun x => { x with
    cores := [(0, { halted := false, e := runE, task := some 3 })]
    tasks := [{ id := 3, ctx := 5, mask := 1, origin := .node 0 1 2, record := 0 }] }), by decide⟩

/-- Registers that differ first in their top byte; rows that differ first in their last byte; a handler. -/
theorem wit_DuplicateChecks :
    ((gState []).g 1 = (gState []).g 2) ∧
    (7 < 8 ∧ ((gState [(1, 0x0100000000000000)]).g 1).extractLsb' (8 * 7) 8 ≠ ((gState [(1, 0x0100000000000000)]).g 2).extractLsb' (8 * 7) 8 ∧
      ∀ j, j < 7 → ((gState [(1, 0x0100000000000000)]).g 1).extractLsb' (8 * j) 8 = ((gState [(1, 0x0100000000000000)]).g 2).extractLsb' (8 * j) 8) ∧
    (let s : State := State.reset.modHere (fun y => { y with arena := [(255, 1)], e := { y.e with svBase := 0x1000 } })
     (∀ j, j < 256 → tget false s.here.arenaBad (s.e.vBase.toNat + j) = false ∧ tget false s.here.arenaBad (s.e.svBase.toNat + j) = false) ∧
     tget 0 s.here.arena 255 ≠ tget 0 s.here.arena (0x1000 + 255) ∧ ∀ j, j < 255 → tget 0 s.here.arena j = tget 0 s.here.arena (0x1000 + j)) ∧
    (kState.hereCtx = some tCtx ∧ tCtx.handler ≠ 0 ∧ kState.e.mode = false) := by
  refine ⟨by decide, by decide, ⟨fun _ _ => ⟨rfl, rfl⟩, by decide, by decide +kernel⟩, by decide⟩

theorem wit_TrapAndServiceCalls :
    kState.e.mode = false ∧ kState.hereCtx = some tCtx ∧ tCtx.handler ≠ 0 ∧ look kState.parts tCtx.part = some tPart := by decide

/-- A sequencer that runs beside another, one that is its core's last, with empty drain queues and with an entry in the last one. -/
theorem wit_TendAndYield :
    (kState.e.sq true).running = true ∧
    ((loopState []).e.sq true).running = false ∧ ((loopState []).e.sq true).preempted = false ∧ (∀ q, q < 4 → tget [] (loopState []).e.dq q = []) ∧
    (let s : State := cState { dq := [(3, [{ desc := none, sec := false, cn := 1, at_ := 0 }])] } id
     tget [] s.e.dq 3 ≠ [] ∧ ∀ p, p < 3 → tget [] s.e.dq p = []) ∧
    ({ kState with ctxs := [(5, { tCtx with preempt := [(0, 7)] })] } : State).preemptPending 0 = true ∧
    (kState.preemptPending 0 = false ∧ kState.cur.sec = false ∧ kState.e.second.running = true) ∧
    ((loopState []).preemptPending 0 = false ∧ (loopState []).e.second.running = false) := by decide

theorem wit_PhaseResults : Scope.seq ≠ .gang ∧ Scope.package ≠ .gang ∧ kState.me.bounds = [] ∧ (∀ n, kState.openPuts 0 0 false n = false) ∧
    (∀ n, kState.pstComing 0 0 false n = false) ∧ kState.mem.granted = [] ∧ (gState [(2, 1)]).g 2 ≠ 0 :=
  ⟨by decide, by decide, by decide, fun _ => rfl, fun _ => rfl, by decide, by decide⟩

/-! ## Witnesses: scratch, streams, transfers, capabilities -/

/-- The last aligned access that is in range, seals and granules as after reset and full ones, an access that crosses the top, and one that is not aligned. -/
theorem wit_ScratchLoadsAndStores :
    ScratchOk 0x3FFFF8 8 8 ∧ ScratchOk 0x3FFF00 256 16 ∧ SealsOk State.reset 0x3FFF00 256 ∧
    ClearOk State.reset false false 0 8 ∧ ClearOk State.reset true true 0 8 ∧
    ClearOk (State.reset.modHereCl (fun x => { x with fe := [(0, true)] })) false true 0 16 ∧
    0x400000 < 0x3FFFF9 + 8 ∧ (0x3FFFF7 + 8 ≤ 0x400000 ∧ 0x3FFFF7 % 8 ≠ 0) ∧ RowOk State.reset 63 ∧
    (ScratchOk 0x3F0000 0x10000 16 ∧ 0x10000 % 16 = 0 ∧ 16 ≤ 16) := by
  refine ⟨⟨by decide, by decide⟩, ⟨by decide, by decide⟩, fun _ _ _ => rfl, .inl rfl, .inr (.inl rfl), .inr (.inr ?_),
    by decide, by decide, fun _ _ => rfl, ⟨by decide, by decide⟩, by decide, by decide⟩
  intro g h1 h2
  have : g = 0 := by omega
  subst this
  decide

/-- The last row taken, offsets in range; an entry of 64 × 64 F32 and a view that fills the arena's last rows. -/
theorem wit_StridedAndTileMoves :
    let s : State := State.reset.modHereCl (fun x => { x with e := { x.e with tid := [(0, { q0 := 0x8100004000400004, q1 := 0, q2 := 0, q3 := 0 })] } })
    let v : View := { base := 0, rows := 64, cols := 64, pitch := 4 }
    ((60 : Reg).toNat + ((3 : Reg).toNat + 1) ≤ 64) ∧ ScratchOk (64 * 4 * 63 + 4 * 3) 4 4 ∧ SealsOk s 0 256 ∧ ClearOk s false false 0 256 ∧
    (∀ r : Reg, RowOk s r) ∧ (tidOf (s.tid 0)).bad = 0 ∧ v.fits (tidOf (s.tid 0)) = true ∧ ScratchOk (64 * 4 * 63) 256 64 := by
  refine ⟨by decide, ⟨by decide, by decide⟩, fun _ _ _ => rfl, .inl rfl, fun _ _ _ => rfl, by decide, by decide, ⟨by decide, by decide⟩⟩

/-- The last word, an unbound stream, and a bound one with a slot left. -/
theorem wit_ScratchAtomics :
    ScratchOk 0x3FFFFC 4 4 ∧ ScratchOk 0x3FFFF8 8 8 ∧ State.reset.e.bound 0 = false ∧
    (let s := cState { qBound := [0], q := [(0, List.replicate 31 { id := 1, val := none, bySec := false, byOrder := 0, usedBy := none })] } id
     s.e.bound 0 = true ∧ (s.e.stream 0).length < 32) := by
  refine ⟨⟨by decide, by decide⟩, ⟨by decide, by decide⟩, by decide, by decide⟩

/-- A landing at the top of scratch that sets a tag and a full-empty bit, and is performed. -/
def topLanding : Landing :=
  { id := 0, land := 3, issued := 0, core := 0, sec := false, slot := 1, pc := 0, bytes := [(0x3FFFFF, 7)], tagSet := some 0x3FFFF, setFull := [0], setEmpty := [],
    atomic := none, after := 0 }

theorem wit_LandingWrites : topLanding.atomic = none ∧ (∃ y, ({} : Cluster).tryLand topLanding = .ok y) ∧ (topLanding.bytes.map (·.1)).Nodup ∧
    topLanding.tagSet = some 0x3FFFF := by
  refine ⟨rfl, ⟨_, rfl⟩, by decide, rfl⟩

/-- A landing of a whole line, one that tags a granule, and a granule that it neither writes nor tags. -/
theorem wit_LandingWrites_lines :
    let l : Landing := { topLanding with bytes := (List.range 64).map (fun i => (0x3FFFC0 + i, 7)), setFull := [0x3FFFF], setEmpty := [0x3FFFE] }
    (match ({} : Cluster).tryLand l with | .ok _ => true | .error _ => false) = true ∧ (l.bytes.map (·.1)).Nodup ∧
    (∀ i, i < 64 → 64 * 0xFFFF + i ∈ l.bytes.map (·.1)) ∧ (l.tagSet ≠ some 5 ∧ ∀ c ∈ l.bytes, c.1 / 16 ≠ 5) ∧ (0 ∉ topLanding.bytes.map (·.1)) := by
  decide +kernel

theorem wit_ReturnStreams :
    bitsOf ((gState [(1, 0x3FFFFFFFFFFFFFFF)]).g 1) 63 62 = 0 ∧
    (let s := cState { qBound := [2], q := [(2, List.replicate 15 { id := 1, val := some 3, bySec := false, byOrder := 0, usedBy := some (false, 0) } ++
        [{ id := 9, val := some 5, bySec := false, byOrder := 0, usedBy := none }])] } id
     (headSlot (s.e.stream 2)).bind (fun x => x.val.map (fun v => (x.id, v))) = some (9, 5) ∧ s.e.bound 2 = true ∧
      ((s.e.stream 2).filter (fun x => x.usedBy.isSome)).length < 16) := by decide

/-- A page that maps with all rights; lengths 0, 16 and 1 MiB. -/
theorem wit_GlobalCopies :
    ((gState []).g 2).toNat = 0 ∧
    (16 ≠ 0 ∧ 16 % 16 = 0 ∧ 0x100000 % 16 = 0 ∧ 0x100000 ≤ 0x100000 ∧ 0x3FFFF0 + 16 ≤ 0x400000 ∧ 0x3FFFF0 % 16 = 0 ∧ 0x300000 + 0x100000 ≤ 0x400000) ∧
    (∃ lf, kState.xlate (some kState.cur.cl) kState.hereCtxId 0x2000 .read = .ok lf) ∧
    (∃ lf, kState.xlate (some kState.cur.cl) kState.hereCtxId 0x2000 .write = .ok lf) := by
  refine ⟨by decide, by decide, ⟨_, rfl⟩, ⟨_, rfl⟩⟩

/-- A capability of every right over 512 bytes of a pool object. -/
def tCap : Cap := { bits := 0x0000000001FF00000000000000000002, tag := true }

theorem wit_CapabilityResults :
    let s : State := State.reset.modHereCl (fun x => { x with capTag := [(0x3FFFF, true)] })
    (ScratchOk 0x3FFFF0 16 16 ∧ tget false s.hereCl.capTag (0x3FFFF0 / 16) = true ∧ SealsOk s 0x3FFFF0 16) ∧ tCap.tag = true ∧
    (tCap.bits.getLsbD 85 = true ∧ 256 % 256 = 0 ∧ (1 : BitVec 32) ≠ 0 ∧ 256 + 256 * (1 : BitVec 32).toNat ≤ 256 * (tCap.bits.extractLsb' 0 32).toNat) ∧
    (∀ r, r < 8 → CapOk tCap 0 512 r) ∧
    (0 < 8 ∧ ({ tCap with bits := 2 } : Cap).bits.getLsbD 80 = false ∧ (0x0100000000000000 : Word).getLsbD (56 + 0) = true ∧
      ∀ j, j < 0 → (0x0100000000000000 : Word).getLsbD (56 + j) = false) := by
  refine ⟨⟨⟨by decide, by decide⟩, by decide, fun _ _ _ => rfl⟩, rfl, by decide, ?_, by decide⟩
  intro r h
  refine ⟨rfl, ?_, by decide⟩
  have : r = 0 ∨ r = 1 ∨ r = 2 ∨ r = 3 ∨ r = 4 ∨ r = 5 ∨ r = 6 ∨ r = 7 := by omega
  rcases this with h | h | h | h | h | h | h | h <;> subst h <;> decide

theorem wit_PublicationAndResidency :
    (63 < 64 ∧ bitOf (tget ({} : Quads) ([(63, { q0 := 0x8000000000000000, q1 := 0, q2 := 0, q3 := 0 })] : Tbl Quads) 63).q0 63 = true) ∧
    (4095 < 4096 ∧ ∃ q : Quads, (handleOf q).valid = true) ∧ ∃ x, kState.hereCtx = some x := by
  refine ⟨by decide, ⟨by decide, { q0 := 0x8000000000000000, q1 := 0, q2 := 0, q3 := 0 }, by decide⟩, ⟨_, rfl⟩⟩

/-! ## Witnesses: the pool -/

theorem wit_PoolAccesses :
    let s : State := cState { runE with k := [(2, tCap)] } id
    PoolOk s (s.k 2) 504 8 0 8 ∧ PoolOk s (s.k 2) 504 8 1 8 ∧ PoolOk s (s.k 2) 504 8 2 8 ∧ PoolOk s (s.k 2) 0 512 3 64 ∧
    s.e.bound 0 = false ∧ ({ s with pool := { s.pool with fenced := true } } : State).pool.fenced = true ∧ (512 ≠ 0 ∧ 512 % 64 = 0 ∧ 512 ≤ 0x100000 ∧ ScratchOk 0x3FFE00 512 64) := by
  refine ⟨⟨rfl, ⟨rfl, by decide, by decide⟩, by decide, by decide⟩, ⟨rfl, ⟨rfl, by decide, by decide⟩, by decide, by decide⟩,
    ⟨rfl, ⟨rfl, by decide, by decide⟩, by decide, by decide⟩, ⟨rfl, ⟨rfl, by decide, by decide⟩, by decide, by decide⟩,
    by decide, rfl, by decide, by decide, by decide, by decide, by decide⟩

/-- A lease of one chunk at the capability's end, with 63 leases held by the context; one known, and one held. -/
def tLease (g : Option Nat) : Lease :=
  { cap := tCap, off := 0, object := tCap.object, addr := 256, opnd := 0x0001000000000100 <<< 8, granted := g, expiry := 5000, asked := 0 }
def leaseState (ls : List Lease) : State := { cState { runE with k := [(2, tCap)] } id with ctxs := [(5, { tCtx with leases := ls })], clock := { state := 1 } }

theorem wit_LeaseResults :
    let gb : Word := 0x0001000000010000
    (bitsOf gb 63 48 ≠ 0 ∧ bitsOf gb 23 16 ≠ 0 ∧ CapOk tCap 256 (bitsOf gb 47 24 * (bitsOf gb 63 48 - 1) + bitsOf gb 23 16) 4 ∧ tCap.kind = 0 ∧
      (leaseState []).clock.state ≠ 2) ∧
    ((List.replicate 63 (tLease none)).length < 64) ∧ (∃ y, (leaseState []).hereCtx = some y) ∧ (leaseState []).pool.fenced = false ∧
    ([{ tLease none with off := 256, opnd := gb }].any (fun l => l.same tCap.object 256 gb) = true) ∧
    ([{ tLease (some 0) with off := 256, opnd := gb }].any (fun l => l.same tCap.object 256 gb) = true) ∧
    (([] : List Lease).any (fun l => l.same tCap.object 256 gb) = false) := by
  refine ⟨⟨by decide, by decide, ⟨rfl, by decide, by decide⟩, by decide, by decide⟩, by decide, ⟨_, rfl⟩, rfl, by decide, by decide, by decide⟩

/-- A request sent once, 20 µs ago, the eighth time, and one that a response answers. -/
def tReq : PoolReq :=
  { id := 7, need := (64, 8), phase := 0, kind := 0, right := 0, pkg := 0, object := 1, fence := 0, seq := 3, len := 1, op := 0, addr := 64, enables := 0, data := [], arg0 := 0, arg1 := 0,
    ctx := 5, part := 0, cl := 0, core := 0, sec := false, ofSeq := false, dest := .none, port := 0, sends := 1, lastSend := 0, held := false }
def tRsp : PoolRsp := { kind := 0, status := 0, pkg := 0, object := 1, seq := 3, value := 0, addr := 64, bytes := [], port := 3 }
def tRange : RangeRec :=
  { part := 0, object := 1, base := 0, length := 4096, resident := false, demoted := false, promoting := true, pendingEvict := none, pins := [], promotedAt := 0, left := 0, waiting := false }

/-- The last bytes of a line of a resident range, read under a lease of its chunk; and a pst's own bytes in the write buffer. -/
theorem wit_PoolAccesses_here :
    let s : State := { leaseState [{ tLease (some 0) with object := 1, addr := 0, opnd := 0x0001000000800000 }] with
      pool := { lines := [{ part := 0, object := 1, line := 1, bytes := List.replicate 64 9, at_ := 1 }], ranges := [{ tRange with resident := true, promoting := false }] } }
    let r : PoolReq := { tReq with need := (120, 8), addr := 120, sends := 0 }
    s.pool.fenced = false ∧ r.sends = 0 ∧ r.kind = 0 ∧ r.right ≠ 15 ∧ s.ordered r = true ∧
    (s.localBytes r (s.grants r.object r.need.1 r.need.2) r.need.1 r.need.2).1.all Option.isSome = true := by
  refine ⟨rfl, rfl, rfl, by decide, by decide, by decide⟩

/-- A valid handle of the range. -/
def tHandle : Quads := { q0 := 0x8000000000000100, q1 := 0, q2 := 4096, q3 := 0 }

theorem wit_PoolAnswers :
    let s : State := { leaseState [{ tLease (some 0) with asked := 1 }, tLease (some 0)] with
      ctxs := [(5, { tCtx with leases := [{ tLease (some 0) with asked := 1 }, tLease (some 0)], handles := [(0, tHandle)] })]
      gang := 3570000 * 20000
      cycle := 9
      arrivals := [{ id := 4, due := 9, cl := 0, core := 0, q := 1, slot := 2, value := 3 }]
      pool := { reqs := [tReq, { tReq with id := 8, sends := 8, seq := 4 }], ranges := [tRange] } }
    s.pool.fenced = false ∧ (s.matching tRsp = some tReq ∧ tRsp.status.toNat ≤ 4) ∧
    (({ s with pool := { s.pool with reqs := [{ tReq with kind := 4 }] } } : State).matching { tRsp with kind := 4 } = some { tReq with kind := 4 }) ∧
    s.matching { tRsp with seq := 9 } = none ∧
    (s.pool.reqs.find? (fun r => r.id == 7) = some tReq ∧ tReq.sends ≠ 0 ∧ tReq.lastSend + 20000 ≤ s.now ∧ tReq.sends < 8) ∧
    (s.pool.reqs.find? (fun r => r.id == 8) = some { tReq with id := 8, sends := 8, seq := 4 }) ∧
    (∃ x, look s.ctxs 5 = some x ∧ x.leases[1]? = some (tLease (some 0)) ∧ x.leases[0]? = some { tLease (some 0) with asked := 1 }) ∧
    ((tLease (some 0)).granted.isSome = true ∧ (tLease (some 0)).expiry ≤ s.now + 1000) ∧
    (s.pool.ranges[0]? = some tRange ∧ tRange.promoting = true ∧ tRange.waiting = false ∧ tRange.left = 0 ∧ tRange.pendingEvict = none ∧
      (s.handlesOf tRange).isEmpty = false) ∧
    (∃ a, s.arrivals.find? (fun a => a.id == 4) = some a ∧ a.due ≤ s.cycle) ∧
    ({ s with pool := { s.pool with fenced := true } } : State).pool.fenced = true := by
  refine ⟨rfl, by decide, by decide, by decide, by decide, by decide, ⟨_, rfl, rfl, rfl⟩, by decide, by decide, ⟨_, rfl, by decide⟩, rfl⟩

/-- A response of status 1 to a request sent, in a package that is not fenced. -/
theorem wit_PoolAnswers_fenced :
    let s : State := { kState with pool := { reqs := [tReq] } }
    s.pool.fenced = false ∧ s.matching { tRsp with status := 1 } = some tReq ∧ ({ s with pool := { s.pool with fenced := true } } : State).pool.fenced = true := by
  decide

/-! ## Witnesses: the remainder stack -/

/-- A stack whose window is full after a push of 288 bytes, one with 128 KiB pushed since the checkpoint after it, and a port busy just before and after. -/
def pushE (n : Nat) : CoreE :=
  { rsTop := n, rsBase := 0x40000, rsLimit := 0x40000000, prim := { running := true, pushed := 0x20000 - n, ckpt := { rsTop := 0 } } }
def pushState (n : Nat) : State := (cState (pushE n) id).modHere (fun y => { y with portBusy := [3, 5] })

theorem wit_StackResults_push : PushOk (pushState 288) 288 4 := by
  refine ⟨rfl, rfl, by decide, by decide, by decide, by decide⟩

/-- A stack with the record h on top. -/
def popState (h : Hdr) : State :=
  (cState { rsTop := 0, rsBase := 16 + h.len, rsLimit := 0x40000000, prim := { running := true }, tv := [(3, { base := 0, rows := 4, cols := 16, pitch := 4, tid := 2 })] }
    (fun x => { x with e := { x.e with tid := [(2, { q0 := 0x8100000400100001, q1 := 0, q2 := 0, q3 := 0 })] } })).modHere
    (fun y => { y with hot := writeB [] 0 h.bytes, portBusy := [3] })

/-- The header of a record of rvmul.f32 v3, v1, v2, with nothing escaped. -/
def mulHdr : Hdr := { len := 272, tag := 0x60182100, kind := 1, fmt := 1, count := 0, rb := 0 }

theorem wit_ReversibleOps : narrows 1 0 = true ∧ tagOfWord (popState mulHdr) (.rvmul .f32 .ne 3 1 2) = 0x60182100 ∧ PopOk (popState mulHdr) mulHdr := by
  refine ⟨by decide, by decide, rfl, by decide, by decide, by decide, by decide, by decide, fun _ _ _ => rfl⟩

/-- An element that does not escape, one that does, and a narrowing. -/
theorem wit_UndoRestoresOperand :
    (rvElem .mul (fmtOf 2) (fmtOf 2) .ne 16 0x3E00 0x3E00 0).esc = false ∧ (rvElem .mul (fmtOf 2) (fmtOf 2) .ne 16 0 0x3E00 0).esc = true ∧
    (rvElem .cvt (fmtOf 1) (fmtOf 2) .ne 32 0x3FC00001 0 0).esc = false ∧ narrows 2 1 = true ∧ (1 < 4) ∧ 0x3FC00001 < 2 ^ widthOf 1 := by decide

/-- The records of the stack ops: of rvrelu with no value, of rvdrop with 64 values, and of a tensor of 4 rows of 64 bytes. -/
theorem wit_StackResults :
    let n : Hdr := { len := 16, tag := encodeOp (.rvrelu false 3 1), kind := 5, fmt := 1, count := 0, rb := 0 }
    let d : Hdr := { len := 256, tag := encodeOp (.rvdrop false 3 1 1), kind := 7, fmt := 1, count := 64, rb := 0 }
    let t : Hdr := { len := 256, tag := 0, kind := 8, fmt := 1, count := 4, rb := 64 }
    (tagOfWord (popState n) (.rvrelu false 3 1) = n.tag ∧ tagOfWord (popState d) (.rvdrop false 3 1 1) = d.tag ∧ ((popState t).g 0).truncate 32 = (0 : BitVec 32)) ∧
    PushOk (pushState 32) 32 2 ∧ PushOk (pushState 288) (16 + 272) 2 ∧ PopOk (popState n) n ∧ PopOk (popState d) d ∧ PopOk (popState t) t ∧
    ((tidOf ((popState t).tid 2)).bad = 0 ∧ ((popState t).e.view 5).fits (tidOf ((popState t).tid 2)) = true ∧ t.len ≤ 0x10000) ∧
    ((popState t).e.rsTop = ((popState t).g 0).toNat ∧ (popState t).e.mark = ((popState t).g 0).truncate 32) := by
  refine ⟨by decide, ⟨rfl, rfl, by decide, by decide, by decide, by decide⟩, ⟨rfl, rfl, by decide, by decide, by decide, by decide⟩,
    ⟨rfl, by decide, by decide, by decide, by decide, by decide, fun _ _ _ => rfl⟩, ⟨rfl, by decide, by decide, by decide, by decide, by decide, fun _ _ _ => rfl⟩,
    ⟨rfl, by decide, by decide, by decide, by decide, by decide, fun _ _ _ => rfl⟩, by decide, by decide⟩

/-- A core of which 192 KiB and a line are held (a spill), one of which less than 64 KiB is held with more in LPDDR6 (a refill). -/
def spillState (top base : Nat) : State :=
  (cState { rsTop := top, rsBase := base, rsLimit := 0x40000000, prim := { running := true } } id).modHere
    (fun y => { y with hotTag := (List.range 16).map (fun i => (i, tagOf 5)) })

theorem wit_SpillEngine :
    ((spillState 0 0x30040).spillTurn 0 0 = true ∧ (spillState 0 0x30040).spillNeed 0 0 = 1 ∧ (spillState 0 0x30040).ownsHot 0 0 0x30000 = true ∧
      ((spillState 0 0x30040).charge ((spillState 0 0x30040).partOfCtx 5) clsSpill 1).isSome = true) ∧
    ((spillState 0 0x40).spillTurn 0 0 = true ∧ (spillState 0 0x40).spillNeed 0 0 = 2 ∧ (spillState 0 0x40).ownsHot 0 0 0x40 = true ∧ 0x40 % 64 = 0 ∧
      ∀ l, tget none (spillState 0 0x40).mem.marks l = none) := by
  refine ⟨by decide, by decide, by decide, by decide, by decide, fun _ => rfl⟩

theorem wit_SpillEngine_turn : ((spillState 0 0x30040).cl 0).ctx = some 5 ∧ ((spillState 0 0x30040).cl 0).spillAt ≠ (spillState 0 0x30040).cycle + 1 ∧
    64 ≤ ((spillState 0 0x30040).core 0 0).e.rsBase := by decide

/-! ## Witnesses: the matrix unit -/

/-- A core ready to issue an F16 product of 64 × 64 into FP32: entries 1 to 4, views t0 to t2 and a0, and a drain into queue 3 where w says so. -/
def matState (w : Word) (f : Core → Core) : State :=
  (cState { prim := { running := true }, p := [(1, 0x0400000000000000), (2, 0x4000000000000000), (7, w)], 
            tv := [(0, { base := 0, rows := 64, cols := 64, pitch := 2, tid := 1 }), (1, { base := 0x4000, rows := 64, cols := 64, pitch := 2, tid := 2 }),
                   (2, { base := 0x8000, rows := 64, cols := 64, pitch := 2, tid := 4 })],
            av := [(0, { base := 0x10000, rows := 64, cols := 64, pitch := 4, tid := 3 })] }
    (fun x => { x with e := { x.e with tid := [(1, { q0 := 0x8200004000400002, q1 := 0, q2 := 0, q3 := 0 }), (2, { q0 := 0x8200004000400002, q1 := 0, q2 := 0, q3 := 0 }),
      (3, { q0 := 0x8100004000400004, q1 := 0, q2 := 0, q3 := 0 }), (4, { q0 := 0x8200004000400002, q1 := 0, q2 := 0, q3 := 0 })] } })).modHere f

/-- A call without a drain on an idle unit, and one with a drain beside a running routine. -/
theorem wit_MatrixCalls :
    let s := matState 0 id
    let t := matState 0x8640000000000000 (fun y => { y with run := some Routine.blank })
    (s.me.started - 0 < 0x80000000) ∧ (¬ s.me.started - (s.me.cn + 1) < 0x80000000) ∧ CallOk s (s.callOf 0x3C00) ∧ CallOk t (t.callOf 0x3C00) ∧
    (∀ x ∈ [(tidOf (s.callOf 0).aTid).format, (tidOf (s.callOf 0).bTid).format], x ≠ 11 ∧ x ≠ 12) ∧
    (s.here.run = none ∧ s.here.call = none) ∧ t.here.run ≠ none := by
  refine ⟨by decide, by decide, ⟨by decide, by decide, by decide, by decide, by decide, by decide, by decide, by decide, by decide, by decide, by decide, by decide,
    by decide, ⟨_, _, rfl⟩, by decide, by decide, by decide, by decide, by decide, by decide, by decide⟩,
    ⟨by decide, by decide, by decide, by decide, by decide, by decide, by decide, by decide, by decide, by decide, by decide, by decide,
    by decide, ⟨_, _, rfl⟩, by decide, by decide, by decide, by decide, by decide, by decide, by decide⟩, by decide, by decide, by decide⟩

/-- A call of the state above, issued in cycle 0, seen in cycle 1. -/
def tCall : Call := (matState 0 id).callOf 0x3C00
def tRun : Routine := { Routine.blank with call := tCall, loaded := 64 }
def runState (r : Routine) : State := matState 0 (fun y => { y with run := some r })

theorem wit_RoutineStartsAndTimeouts :
    (let s : State := { matState 0 (fun y => { y with call := some tCall }) with cycle := 1 }
     (s.core 0 0).run = none ∧ (s.core 0 0).call = some tCall ∧ tCall.issued < s.cycle) ∧
    (let r : Routine := { tRun with cycles := 2 ^ 22 }
     ((runState r).core 0 0).run = some r ∧ 2 ^ 22 ≤ r.cycles ∧ ((runState r).cl 0).ctx.isSome = true) := by
  refine ⟨⟨by decide, rfl, by decide⟩, rfl, by decide, by decide⟩

/-- Micro-ops outside a loop, at its last one with passes left and without, and branches into a body and out of it. -/
theorem wit_MicroOps :
    let l : MicroLoop := { first := 4, last := 6, count := 2 }
    (∃ r, (runState tRun).here.run = some r) ∧ Inside tRun ∧ Inside { tRun with upc := 0x3FFE, loops := [l] } ∧
    (0 < (1 : BitVec 12).toNat ∧ tRun.sub = (0 : BitVec 12).toNat) ∧
    ((1 : BitVec 12).toNat ≠ 0 ∧ tRun.loops.length < 2 ∧ tRun.upc < 0x3FFF) ∧ ((0 : BitVec 12).toNat = 0 ∧ (0x3FFE : BitVec 14).toNat < 0x3FFF) ∧
    2 ≤ [l, l].length ∧ (3 < 4 ∧ tget 0 [(3, (7 : BitVec 16))] 3 ≠ 0) ∧ (l.last = 6 ∧ l.first ≤ 0x3FFF ∧ 1 < l.count) ∧ ({ l with count := 1 } : MicroLoop).count ≤ 1 ∧
    (l.first ≤ (4 : BitVec 14).toNat ∧ (6 : BitVec 14).toNat ≤ l.last) ∧ (3 : BitVec 14).toNat < l.first ∧ l.last < (7 : BitVec 14).toNat := by
  refine ⟨⟨_, rfl⟩, ⟨by decide, fun l h => by cases h⟩, ⟨by decide, fun l h => by cases h; decide⟩, by decide, by decide, by decide, by decide, by decide, by decide,
    by decide, by decide, by decide, by decide⟩

/-- Arguments at the last rows and columns of the views, one term beyond the A view, and a call on the integer path. -/
theorem wit_MatrixArithmetic :
    let c := tCall
    let i : Call := { c with aTid := { c.aTid with q0 := 0x8700004000400001 }, bTid := { c.bTid with q0 := 0x8A00004000400001 } }
    (64 ≤ c.kb ∧ 0 + 64 ≤ c.bView.rows.toNat ∧ tRun.sub = 0) ∧ (64 ≤ tRun.loaded ∧ 63 < c.aView.rows.toNat ∧ 0 + 64 ≤ c.aView.cols.toNat ∧ 63 < c.cView.rows.toNat) ∧
    ¬ (0 < c.aView.rows.toNat ∧ 1 + 64 ≤ c.aView.cols.toNat) ∧ (c.aLatch = false) ∧ i.path = .int ∧ (0 + 63 + 1 ≤ c.cView.rows.toNat) := by decide

/-- UWLD and UMAC in a cycle after the first and in the last, with ADV and without. -/
theorem wit_MatrixArithmetic_cycles :
    (∃ r, (runState { tRun with sub := 1 }).here.run = some r ∧ Inside r ∧ 0 < r.sub) ∧ (tRun.sub + 1 < 2 ∧ 1 ≤ tRun.sub + 1) ∧
    ((3 : Reg).toNat ≤ 3 ∧ ¬ (3 : Reg).toNat ≤ tRun.sub) := by
  refine ⟨⟨_, rfl, ⟨by decide, fun l h => by cases h⟩, by decide⟩, by decide, by decide⟩

theorem wit_RoutineEnds :
    (∃ r, (runState tRun).here.run = some r) ∧ tRun.call.word.drain = false ∧ ((matState 0x8640000000000000 id).callOf 0).word.drain = true ∧
    (let d : Drain := { land := 0, queue := 3, sec := false, cn := 1, bytes := [(5, 1)], clear := [], flags := 0, desc := 7 }
     let s := matState 0 (fun y => { y with drains := [d] })
     (s.core 0 0).drains = [d] ∧ d.land ≤ s.cycle ∧ (d.bytes.map (·.1)).Nodup) := by
  refine ⟨⟨_, rfl⟩, by decide, by decide, ⟨rfl, by decide, by decide⟩⟩

/-- Both sequencers; a row at the top of scratch; gathers of one row and of two, row 1 of them at the top of scratch. -/
theorem wit_MatrixFeeds :
    (kState.cur.sec = false ∧ ({ kState with cur := { sec := true } } : State).cur.sec = true ∧ ScratchOk 0x3FFF00 256 1 ∧ SealsOk kState 0x3FFF00 256) ∧
    (let s : State := (gState [(2, 0xFFFC0000003C0000)]).modHere (fun y => { y with arena := [(4, 1)] })
     let row (i : Nat) : Nat := bitsOf (s.g 2) 21 0 + 64 * bitsOf (s.g 2) 63 48 * natOf (readB s.here.arena (s.e.vBase.toNat + 256 * (0 : Reg).toNat + 4 * i) 4)
     RowOk s 0 ∧ row 0 = 0x3C0000 ∧ ∀ i, i ≤ 0 → ScratchOk (row i) 256 64 ∧ SealsOk s (row i) 256) ∧
    (let s : State := (gState [(2, 0x00040000003FFE00)]).modHere (fun y => { y with arena := [(4, 1)] })
     let row (i : Nat) : Nat := bitsOf (s.g 2) 21 0 + 64 * bitsOf (s.g 2) 63 48 * natOf (readB s.here.arena (s.e.vBase.toNat + 256 * (0 : Reg).toNat + 4 * i) 4)
     RowOk s 0 ∧ row 1 = 0x3FFF00 ∧ ∀ i, i ≤ 1 → ScratchOk (row i) 256 64 ∧ SealsOk s (row i) 256) := by
  refine ⟨⟨rfl, rfl, ⟨by decide, by decide⟩, fun _ _ _ => rfl⟩, ⟨fun _ _ => rfl, by decide, ?_⟩, ⟨fun _ _ => rfl, by decide, ?_⟩⟩
  · intro i h
    have : i = 0 := by omega
    subst this
    exact ⟨⟨by decide, by decide⟩, fun _ _ _ => rfl⟩
  · intro i h
    have : i = 0 ∨ i = 1 := by omega
    rcases this with h | h <;> subst h <;> exact ⟨⟨by decide, by decide⟩, fun _ _ _ => rfl⟩

/-- A descriptor of one row pushed a cycle ago, for the top of scratch; a head that is reserved, one pushed in this cycle, and an empty queue. -/
theorem wit_QueuePops :
    let q (d : Option Word) (n : Nat) : State := { cState { dq := [(3, [{ desc := d, sec := false, cn := 1, at_ := 0 }])], g := [(2, 0x3FFFF0)] } id with cycle := n }
    (3 ∉ (q none 1).cur.pops) ∧
    (let s := q (some 0x0011000400010000) 1
     ∃ e rest w, tget [] s.e.dq 3 = e :: rest ∧ e.desc = some w ∧ e.at_ < s.cycle ∧
       (let tv := s.e.view (2 + bitsOf w 55 52)
        let rb := (bitsOf w 47 32 * widthOf (bitsOf w 51 48) + 7) / 8
        let rows := (List.range (bitsOf w 31 16)).map (fun i => (bitsOf (s.g 2) 21 0 + 64 * bitsOf (s.g 2) 63 48 * i, tv.base.toNat + 64 * tv.pitch.toNat * i))
        rb = 16 ∧ rows.length = 1 ∧ ∀ y ∈ rows, ScratchOk y.1 rb 16 ∧ ∀ i, i < rb → tget false s.here.arenaBad (y.2 + i) = false)) ∧
    (∃ e rest, tget [] (q none 1).e.dq 3 = e :: rest ∧ e.desc = none) ∧
    (∃ e rest, tget [] (q (some 7) 0).e.dq 3 = e :: rest ∧ (q (some 7) 0).cycle ≤ e.at_) ∧ tget [] kState.e.dq 3 = [] := by
  refine ⟨by decide, ⟨_, _, _, rfl, rfl, by decide, by decide, by decide, ?_⟩, ⟨_, _, rfl, rfl⟩, ⟨_, _, rfl, by decide⟩, by decide⟩
  intro y h
  have : y = (0x3FFFF0, 0) := List.mem_singleton.mp h
  subst this
  exact ⟨⟨by decide, by decide⟩, fun _ _ => rfl⟩

/-- The view a0 at the top of scratch with its side area after it, in task and in service mode; the last word of the store. -/
theorem wit_SpillsAndStores :
    let s := matState 0 id
    let w := s.e.view 18
    ((tidOf (s.tid w.tid.toNat)).bad = 0 ∧ w.fits (tidOf (s.tid w.tid.toNat)) = true ∧ ScratchOk 0x3FB700 256 64 ∧ ScratchOk 0x3FF800 2048 64) ∧
    (∀ i, i < 256 → tget false s.here.arenaBad (0x13F00 + i) = false) ∧ SealsOk s 0x3FF800 2048 ∧ s.e.mode = false ∧
    (let t := s.modHereE (fun e => { e with mode := true })
     t.e.mode = true ∧ t.here.run = none ∧ t.here.call = none ∧ t.here.wait = none ∧ 1 ≠ 0 ∧ 16383 + 1 ≤ 16384 ∧ ScratchOk 0x3FFFFC 4 4 ∧
      ∀ i u, (t.scrWords 0x3FFFFC 1)[i]? = some u → ∃ j, decodeMicro u = some j ∧ ∀ l f c, j = .uloop l f c → 16383 + i < l.toNat) := by
  refine ⟨⟨by decide, by decide, ⟨by decide, by decide⟩, ⟨by decide, by decide⟩⟩, fun _ _ => rfl, fun _ _ _ => rfl, rfl, rfl, rfl, rfl, rfl, by decide, by decide,
    ⟨by decide, by decide⟩, ?_⟩
  intro i u h
  cases i with
  | zero => cases h; exact ⟨.unop, by decide, fun _ _ _ h => by cases h⟩
  | succ i => cases h

/-- No line of the store's words or of the identifier has an ECC error; a poisoned one may be there. -/
theorem wit_EccOk : EccOk kState 0x3FFFFC 4 ∧ EccOk (kState.modHereCl (fun x => { x with marks := [(0xFFFF, some { kind := 2, hop := 8 })] })) 0x3FFFE0 24 := by
  refine ⟨fun _ _ _ _ h => (nomatch h), fun l h1 h2 m h => ?_⟩
  have : l = 0xFFFF := by omega
  subst this
  cases h
  decide

/-! ## Witnesses: control registers and system ops -/

/-- An RS region of the least length, an empty one, a top that equals the base, and values that keep none of R283. -/
theorem wit_ControlRegisters :
    let s : State := cState { runE with mode := true, trapPc := 0x40, rsSpill := 0x8000000000, rsLimit := 0x8000010000 } id
    (s.cur.core < 8 ∧ s.hereCtx = some tCtx ∧ tCtx.part < 8) ∧
    (s.e.mode = true ∧ s.e.trapPc.toNat % 4 = 0 ∧ kState.e.mode = false) ∧
    ((0x070 : BitVec 12).toNat ∈ [0x011, 0x022, 0x023, 0x070, 0x080]) ∧
    (0x8000010000 % 0x10000 = 0 ∧ 0x8000000000 + 0x10000 ≤ 0x8000010000 ∧ 0x8000010000 - 0x8000000000 ≤ 2 ^ 34) ∧
    (0x10000 % 16 = 0 ∧ 0x10000 ≤ s.e.rsLimit - s.e.rsSpill ∧ ¬ 0x10010 ≤ s.e.rsLimit - s.e.rsSpill) ∧
    ((s.cl 0).ctx = some 5 ∧ look s.ctxs 5 = some tCtx) ∧ ((2 : Word).toNat < 3) := by decide

theorem wit_ControlRegisters_status : (2 : Word).toNat < 3 ∧ 3 ≤ (3 : Word).toNat := by decide

/-- A view at the arena's last word that is new and one that is there; an accumulator at its last base; an identifier read at the top of scratch. -/
theorem wit_PrivilegedOps_views :
    let s : State := gState [(1, 0x3C000), (2, 0), (3, 0x3FFFF), (4, 0x0001000100010000), (5, 255), (6, 0x3FFFE0)]
    let t : State := { s with cur := s.cur }
    ((s.g 3).toNat < 2 ^ 18 ∧ (s.g 4).extractLsb' 8 8 = (0 : BitVec 8) ∧ t.e.view 5 ≠ { base := 0x3FFFF, rows := 1, cols := 1, pitch := 1, tid := 0 }) ∧
    (s.g 2 = 0 ∧ (s.g 1).toNat % 256 = 0 ∧ (s.g 1).toNat ≤ 0x3C000) ∧ (s.e.view 21 = { base := 0, rows := 0, cols := 0, pitch := 0, tid := 0 }) ∧
    (ScratchOk (s.g 6).toNat 24 32 ∧ (s.g 5).toNat < 256 ∧ ∀ m, tget none s.hereCl.marks ((s.g 6).toNat / 64) = some m → m.kind ≠ 1) ∧
    (ScratchOk 0 24 32 ∧ 256 ≤ (s.g 1).toNat) := by
  refine ⟨by decide, by decide, by decide, ⟨⟨by decide, by decide⟩, by decide, fun _ h => nomatch h⟩, ⟨by decide, by decide⟩, by decide⟩

/-- A shootdown of the whole context, one of an aligned range, and translations with sizes. -/
theorem wit_ShootdownsAndCopies_shootdowns :
    let e : TlbEntry := { part := 0, cl := some 0, ctx := 5, page := 0x200000, size := 0x200000, q0 := 0, q1 := 0 }
    let s : State := { cState { runE with mode := true, g := [(1, 0x3FF000), (2, 1), (3, 0x0004000000000000)] } id with mem := { tMem with tlb := [e] } }
    (s.e.mode = true ∧ bitsOf (s.g 2) 49 32 = 0 ∧ (s.g 1).toNat % 4096 = 0) ∧ (bitsOf (s.g 3) 49 32 = 0 ∧ (s.g 3).getLsbD 50 = true) ∧
    (∀ e ∈ s.mem.tlb, 0 < e.size) ∧ (∃ i, i < 1 ∧ e.page < 0x3FF000 + 4096 * (i + 1) ∧ 0x3FF000 + 4096 * i < e.page + e.size) := by
  refine ⟨by decide, by decide, by decide, ⟨0, by decide⟩⟩

/-- A copy of one line from the last line of scratch to the arena's last line with a side area, and one of 16 MiB between global addresses. -/
theorem wit_ShootdownsAndCopies_copies :
    let s : State := cState { runE with mode := true, qBound := [1], g := [(1, 0x3FFF40), (2, 64), (3, 0x3FFC0), (4, 0x0018000001000000)] } id
    s.e.mode = true ∧ bitsOf (s.g 2) 63 55 = 0 ∧ bitsOf (s.g 4) 63 55 = 0 ∧ (64 % 64 = 0 ∧ 64 ≤ 64 ∧ 0x1000000 % 64 = 0 ∧ 0x1000000 ≤ 0x1000000) ∧
    (0x3FFF80 + 64 + 64 * ((64 / 8 + 63) / 64) ≤ 0x400000 ∧ (s.g 3).toNat + 64 ≤ 0x40000) ∧ (0 : Nat) < s.clustersOf 0 ∧
    ((s.g 4).getLsbD 51 = true ∧ s.e.bound (bitsOf (s.g 4) 54 52) = true ∧ (s.e.stream (bitsOf (s.g 4) 54 52)).length < 32) := by decide

/-! ## Witnesses: the peer fabric -/

/-- A peer capability of every right over 4 KiB of export 9 of package 31, and a group capability of group 7. -/
def peerCap : Cap := { bits := 0xF07C000009FF00000000000000000010, tag := true }
def groupCap : Cap := { bits := 0xE000000007FF00000000000000000010, tag := true }

/-- A state whose core 0 holds the two capabilities and whose partition has group 7 of packages 31 and 992. -/
def fabState : State :=
  { cState { runE with k := [(1, peerCap), (2, groupCap)], g := [(1, 0x0010000000000000), (2, 0x10000000003FF000), (3, 0x3FFFC0)] } id with
    parts := [(0, { tPart with
      groups := [(7, { q0 := 0x8000500000000009, members := [31, 992] })]
      router := [(31, { minimal := [31], mids := [], flag := .present, loss := 0 }), (992, { minimal := [31], mids := [], flag := .pending, loss := 0 })] })] }

/-- Sixteen bytes at offset 0 of scratch, 4096 at its end; offsets at the capability's end; unbound streams. -/
theorem wit_FabricIssue_ops :
    let s := fabState
    SourceOk s (s.g 1) ∧ SourceOk s (s.g 2) ∧ (CapOk (s.k 1) 4080 16 7 ∧ CapOk (s.k 1) 0 4096 7 ∧ (s.k 1).kind = 1 ∧ 4080 % 16 = 0) ∧
    (CapOk (s.k 1) 4088 8 7 ∧ 4088 % 8 = 0 ∧ s.e.bound 0 = false) ∧ (ScratchOk 0x3FFFC0 64 64 ∧ SealsOk s 0x3FFFC0 64 ∧ CapOk (s.k 1) 0 64 7) ∧
    (s.groupEntry ((s.k 2).object.extractLsb' 0 12).toNat = some { q0 := 0x8000500000000009, members := [31, 992] } ∧
      (0x8000500000000009 : Word).getLsbD 63 = true ∧ bitsOf 0x8000500000000009 55 44 = s.hereCtxId ∧ CapOk (s.k 2) 4080 16 6 ∧ (s.k 2).kind = 2) := by
  refine ⟨⟨⟨by decide, by decide⟩, by decide, by decide, by decide, fun _ _ _ => rfl⟩, ⟨⟨by decide, by decide⟩, by decide, by decide, by decide, fun _ _ _ => rfl⟩,
    ⟨⟨rfl, by decide, by decide⟩, ⟨rfl, by decide, by decide⟩, by decide, by decide⟩, ⟨⟨rfl, by decide, by decide⟩, by decide, by decide⟩,
    ⟨⟨by decide, by decide⟩, fun _ _ _ => rfl, ⟨rfl, by decide, by decide⟩⟩, by decide, by decide, by decide, ⟨rfl, by decide, by decide⟩, by decide⟩

/-- The highest peer and one above it; a group entry of member 992 at the last place of scratch. -/
def groupState : State :=
  cState { runE with mode := true, g := [(1, 992), (2, 993), (3, 4095), (4, 0x3FFF40)] }
    (fun x => { x with scratch := [(0x3FFF45, 0x50), (0x3FFF47, 0x80), (0x3FFFDC, 1)] })

theorem wit_FabricIssue_status :
    let t := groupState
    bitsOf (t.g 1) 9 0 < 993 ∧ 993 ≤ bitsOf (t.g 2) 9 0 ∧ look t.parts (t.partOfCtx t.hereCtxId) = some tPart ∧ t.e.mode = true ∧ (t.g 3).toNat < 4096 ∧
    (ScratchOk (t.g 4).toNat 160 64 ∧ SealsOk t (t.g 4).toNat 160) ∧ bitsOf (BitVec.ofNat 64 (natOf (t.scr (t.g 4).toNat 8))) 61 56 = 0 ∧
    bitsOf (BitVec.ofNat 64 (natOf (t.scr (t.g 4).toNat 8))) 43 16 = 0 ∧ (∀ i, i < 32 → 8 ≤ i → tget 0 t.hereCl.scratch ((t.g 4).toNat + i) = 0) ∧
    natOf (t.scr ((t.g 4).toNat + 32) 128) < 2 ^ 993 := by
  refine ⟨by decide, by decide, by decide, by decide, by decide, ⟨⟨by decide, by decide⟩, fun _ _ _ => rfl⟩, by decide, by decide, by decide, by decide +kernel⟩

/-- A packet of package 31 to this one, of context 5 under export 9. -/
def tPkt : Packet :=
  { kind := 0, hops := 0, src := 31, dst := 0, ctx := 5, export_ := 9, seq := 0, group := 7, wave := 0, len := 1, offset := 0x1000, info := 0,
    payload := List.replicate 16 7, good := true, sealsGood := true, answers := [], waves := [] }

/-- Export 9 of context 5: 8 KiB at 0 with all rights, plain memory, and a ring of requests. -/
def expState (kind : Nat) : State :=
  let q : Quads := { q0 := BitVec.ofNat 64 (0x8E00500000000000 + kind * 2 ^ 60), q1 := 0, q2 := 0x2000, q3 := 0 }
  { kState with fabric := { self := 0, exports := [(9, q)] } }

/-- A stale, a far, an early and the next number; the next one commits. -/
theorem wit_FabricReceive_arrivals :
    let s := expState 0
    let w := s.fabWindow 5 31 5
    let owner := (s.exportE tPkt.export_).owner
    ((({ tPkt with good := false } : Packet).good = false ∨ tPkt.reserved = true) ∧ tPkt.good = true ∧ tPkt.reserved = false ∧ tPkt.dst.toNat = s.fabric.self) ∧
    owner = 5 ∧ 2 ^ 31 ≤ ((0x80000000 : BitVec 32) - w.next).toNat ∧
    (4096 < ((4097 : BitVec 32) - w.next).toNat ∧ ((4097 : BitVec 32) - w.next).toNat < 2 ^ 31) ∧
    (0 < ((4096 : BitVec 32) - w.next).toNat ∧ ((4096 : BitVec 32) - w.next).toNat ≤ 4096) ∧ w.heldPkts = [] ∧ s.sisters w = [] ∧ s.elsewhere w w.next = false ∧
    (tPkt.seq - w.next).toNat = 0 ∧ s.parkFull tPkt = false ∧ ({ s with clusters := [] } : State).parkFull tPkt = true ∧
    (match (s.setWindow { w with heldPkts := w.heldPkts ++ [tPkt] }).commit 0 tPkt with | .done _ _ _ => true | .wait _ => false) = true := by
  refine ⟨?_, ?_, ?_, ?_, ?_, ?_, ?_, ?_, ?_, ?_, ?_, ?_⟩ <;> decide +kernel

/-- A write that ends at the region's end and one beyond it, an atomic at its last word, an owner that runs and one that does not, and translations. -/
theorem wit_FabricReceive_commits :
    let s := expState 0
    let e := s.exportE 9
    let a : Packet := { tPkt with kind := 1, offset := 0x1FF8 }
    (e.valid = true ∧ e.gw = true ∧ e.ga = true ∧ e.kind < 2) ∧ (exportOf {}).valid = false ∧ ((expState 2).exportE 9).kind = 2 ∧
    0x1FF0 + tPkt.payload.length ≤ e.length ∧ e.length < 0x1FF1 + tPkt.payload.length ∧ 0x1FF8 + 8 ≤ e.length ∧ s.ownerRuns e = true ∧
    ({ s with clusters := [] } : State).ownerRuns e = false ∧
    (s.pubWait e.owner (e.base + 0x1FF0) 16 0 (some 31) = false ∧ s.pubWait e.owner (e.base + a.offset.toNat) 8 0 (some 31) = false) ∧
    (match s.vaLocs e.owner (e.base + 0x1FF0) tPkt.payload with | .ok ps => (s.mergeBad (e.base + 0x1FF0) ps).isNone | .error _ => false) = true ∧
    (match s.xlate none e.owner (e.base + a.offset.toNat) .atomic, s.xlate none e.owner (e.base + a.offset.toNat + 7) .atomic,
        s.vaLocs e.owner (e.base + a.offset.toNat) (List.replicate 8 0) with
      | .ok _, .ok _, .ok ps => (s.mergeBad (e.base + a.offset.toNat) ps).isNone
      | _, _, _ => false) = true := by
  refine ⟨by decide, by decide, by decide, by decide, by decide, by decide, by decide, by decide, by decide +kernel, by decide +kernel, by decide +kernel⟩

/-- A write under an entry of scratch, at the end of scratch, beyond it and of an atomic, in an owner's cluster with its groups its own and its banks free. -/
def scrExp : State :=
  let q : Quads := { q0 := BitVec.ofNat 64 (0x8E00500000000000 + 2 ^ 60), q1 := 0x3FF000, q2 := 0x2000, q3 := 0 }
  { cState runE (fun x => { x with groupTag := (List.range 4).map (fun i => (i, tagOf 5)) }) with fabric := { self := 0, exports := [(9, q)] } }

theorem wit_FabricReceive_scratch :
    let s := scrExp
    let e := s.exportE 9
    (e.valid = true ∧ e.gw = true ∧ e.ga = true ∧ e.kind = 1 ∧ e.owner = 5 ∧ s.exportCl e = 0) ∧ s.ownerRuns e = true ∧ tPkt.sealsGood = true ∧
    (0x400000 < e.base + 0x1001 + 16 ∧ e.base + 0xFF0 + 16 ≤ 0x400000 ∧ e.base + 0xFF8 + 8 ≤ 0x400000 ∧ 0x1001 + 16 ≤ e.length) ∧
    (s.needGroups 0 5 0x3FFFF0 16 = none ∧ s.scrRoom 0 0x3FFFF0 16 = true ∧ (s.cl 0).chkMerge (cells 0x3FFFF0 tPkt.payload) = none) ∧
    (s.needGroups 0 5 0x3FFFF8 8 = none ∧ s.scrRoom 0 0x3FFFF8 8 = true) ∧ (∀ l, tget none (s.cl 0).marks l = none) := by
  refine ⟨by decide, by decide, by decide, by decide, ⟨by decide +kernel, by decide, by decide +kernel⟩, ⟨by decide +kernel, by decide⟩, fun _ => rfl⟩

/-- A ring of 127 requests with room for one more, and a full one. -/
def ringExp (tail : Byte) : State := { expState 2 with mem := { tMem with phys := [(8, tail)] ++ tMem.phys } }
def tAsk : Packet := { tPkt with kind := 2, payload := List.replicate 64 7 }

theorem wit_FabricReceive_requests :
    let s (tail : Byte) := ringExp tail
    let e := (s 0).exportE 9
    (e.valid = true ∧ e.gr = true ∧ e.kind = 2 ∧ tAsk.kind = 2 ∧ tAsk.offset.toNat + 64 ≤ e.length ∧ (s 0).ownerRuns e = true) ∧ (e.length - 64) / 64 = 127 ∧
    (match (s 126).readVa 5 e.base 16 with | .ok q => natOf (q.take 8) == 0 && natOf (q.drop 8) == 126 | .error _ => false) = true ∧
    (match (s 127).readVa 5 e.base 16 with | .ok q => natOf (q.take 8) == 0 && natOf (q.drop 8) == 127 | .error _ => false) = true ∧
    (s 126).pubWait 5 (e.base + 64 + 64 * 126) 64 0 (some 31) = false ∧
    (match (s 126).vaLocs 5 (e.base + 64 + 64 * 126) (bytesOf 8 (31 * 2 ^ 54 + 5 * 2 ^ 42) ++ (tAsk.payload.take 64).drop 8), (s 126).vaLocs 5 (e.base + 8) (bytesOf 8 127) with
      | .ok ps, .ok ws => ((s 126).mergeBad e.base (ps ++ ws)).isNone
      | _, _ => false) = true := by
  refine ⟨by decide, by decide, by decide +kernel, by decide +kernel, by decide, by decide +kernel⟩

/-- The number in flight of a write that commits at once. -/
theorem wit_FabricReceive_next :
    let s := expState 0
    let w := s.fabWindow 5 31 5
    let early := s.setWindow { w with heldPkts := w.heldPkts ++ [tPkt] }
    let x := early.waitOf (early.fabWindow 5 31 5) tPkt
    (tPkt.seq - w.next).toNat = 0 ∧ s.parkFull tPkt = false ∧ w.heldPkts = [] ∧ s.sisters w = [] ∧
    (match early.commit ((x.map (fun y => y.1)).getD s.fresh) tPkt with | .done _ _ _ => true | .wait _ => false) = true := by
  decide +kernel

/-- A packet sent once, 20 µs ago, the last of an atomic with a slot, one sent eight times, and its acknowledgement. -/
def tOut (n : Nat) : OutPkt :=
  { id := n, op := 3, part := 0, pkt := { tPkt with kind := 1, src := 0, dst := 31 }, sends := n, lastSend := 0, lines := 1, firstRefusal := none, refused := false, waiting := false, route := .lit 31 }
def tOp : FabOp :=
  { id := 3, kind := 1, ctx := 5, cl := 0, core := 0, sec := false, off := 0, left := 1, slot := some (1, 2), statusAt := 0, ntf := false, group := 0, members := [],
    answers := [], waves := [], exportIdx := 9 }
def outState (n : Nat) : State := { fabState with gang := 3570000 * 20000, fabric := { self := 0, ops := [tOp], out := [tOut n] } }

theorem wit_FabricAcksAndRoutes_answers :
    let ack : Packet := { tPkt with kind := 4, payload := bytesOf 8 6 }
    ((outState 1).fabric.out.find? (fun o => decide (0 < o.sends) && o.pkt.ctx.toNat == ack.ctx.toNat && o.pkt.dst.toNat == ack.src.toNat && o.pkt.seq == ack.seq) =
      some (tOut 1) ∧ (outState 1).fabOp 3 = some tOp ∧ tOp.left = 1 ∧ tOp.kind ≠ 3 ∧ tOp.ntf = false ∧ ((outState 1).cl tOp.cl).ctx = some tOp.ctx) ∧
    (ack.good = true ∧ ack.reserved = false ∧ ack.kind = 4 ∧ ack.dst.toNat = (outState 1).fabric.self ∧ ack.answers = [] ∧ ack.info.toNat % 256 = 0) ∧
    ((outState 1).fabric.out.find? (fun o => o.id == 1) = some (tOut 1) ∧ (tOut 1).sends ≠ 0 ∧ (tOut 1).lastSend + 20000 ≤ (outState 1).now ∧ (tOut 1).sends < 8 ∧
      (tOut 1).pkt.kind ≠ 3 ∧ (tOut 1).route = .lit 31 ∧ (outState 1).portLit 31 = true) ∧
    ((outState 8).fabric.out.find? (fun o => o.id == 8) = some (tOut 8) ∧ 8 ≤ (tOut 8).sends ∧ (tOut 8).refused = false) ∧
    look (outState 1).ctxs 5 ≠ none ∧ ({ outState 1 with boot := .up } : State).boot = .up := by
  decide

/-- A destination of one lit minimal port is reached by it, whether or not its queue is deep. -/
theorem fab_towards : fabState.towards fabState.firstPart 31 = some (.lit 31) := by
  have h : fabState.upPorts fabState.firstPart 31 = [31] := by decide
  unfold State.towards State.freePorts
  rw [h]
  by_cases d : Config.portDeep fabState.free 31 = true <;> simp [List.filter, d, bestPort]

/-- Copies for this package and for package 31 at one hop of two, packets passed on to package 31 within four hops and beyond, to one that the table does not have, and past an intermediate. -/
theorem wit_FabricAcksAndRoutes_routers :
    let s := fabState
    let p : Packet := { tPkt with kind := 3 }
    let far (a b : Nat) : Nat := if a = b then 0 else if adjacent a b = true then 1 else 2
    (p.good = true ∧ p.reserved = false ∧ p.dst.toNat = s.fabric.self ∧ ({ p with waves := [(s.fabric.self, 4)] } : Packet).waves = [(s.fabric.self, 4)]) ∧
    (31 ≠ s.fabric.self ∧ p.hops.toNat + far s.fabric.self 31 ≤ 2) ∧ s.towards s.firstPart 31 = some (.lit 31) ∧
    ({ tPkt with kind := 9 } : Packet).kind = 9 ∧
    (let f : Packet := { tPkt with dst := 31, hops := 2, via := some 0 }
     f.kind.toNat < 10 ∧ f.dst.toNat ≠ s.fabric.self ∧ s.fabric.aggs = [] ∧ f.via = some (BitVec.ofNat 10 s.fabric.self) ∧
       f.hops.toNat + (far s.fabric.self 31 + far 31 31) ≤ 4 ∧ 4 < ({ f with hops := 4 } : Packet).hops.toNat + (far s.fabric.self 31 + far 31 31)) ∧
    s.towards s.firstPart 500 = none ∧ s.portLit 31 = true := by
  refine ⟨by decide, by decide, fab_towards, by decide, by decide, by decide, by decide⟩

/-- A notice of a number that is not committed, one whose owner does not run, one of an entry without a notice word, and one that adds to its word. -/
theorem wit_FabricAcksAndRoutes_notices :
    let s (clear : Bool) (word : Word) : State :=
      { kState with
        clusters := if clear then [] else kState.clusters
        fabric := { self := 0, windows := [{ owner := 5, src := 31, ctx := 5, next := 5, heldPkts := [], acks := [] }],
                    exports := [(9, { q0 := 0x8E00500000000000, q1 := 0, q2 := 0x2000, q3 := word })] } }
    let p (n : BitVec 32) : Packet := { tPkt with kind := 5, waves := [(0, n)] }
    ((p 4).good = true ∧ (p 4).reserved = false ∧ (p 4).kind = 5 ∧ (p 4).dst.toNat = (s false 0).fabric.self ∧ (p 4) ∉ (s false 0).fabric.notices) ∧
    ((∃ x ∈ (p 5).waves, (s false 0x4000).committed 5 31 5 x.2 = false) ∧ ∀ x ∈ (p 4).waves, (s false 0x4000).committed 5 31 5 x.2 = true) ∧
    (((s true 0x4000).exportE 9).valid = true ∧ ((s true 0x4000).exportE 9).notice ≠ 0 ∧ (s true 0x4000).ctxRuns 5 none = false) ∧
    ((s false 0).exportE 9).notice = 0 ∧ (((s false 0x4000).exportE 9).owner = 5 ∧ (s false 0x4000).ctxRuns 5 none = true) ∧
    (let kept : State := { s false 0x4000 with fabric := { (s false 0x4000).fabric with notices := [p 4] } }
     (match kept.xlate none 5 0x4000 .atomic, kept.xlate none 5 0x4007 .atomic, kept.vaLocs 5 0x4000 (List.replicate 8 0) with
      | .ok _, .ok _, .ok ps => !kept.pubWait 5 0x4000 8 kept.fresh (some 31) && (kept.mergeBad 0x4000 ps).isNone
      | _, _, _ => false) = true) := by
  refine ⟨by decide, by decide, by decide, by decide, by decide, by decide +kernel⟩

theorem fab_copy : fabState.copyRoute fabState.firstPart 31 0 false = some (.lit 31) := by
  have h : fabState.copyPorts fabState.firstPart 31 0 = [31] := by decide +kernel
  have l : fabState.portLit 31 = true := by decide
  have u : fabState.fabric.failedPorts = [] := by decide
  unfold State.copyRoute
  simp only [h, u]
  by_cases d : Config.portDeep fabState.free 31 = true <;> simp [List.filter, l, d, bestPort]

/-- A multicast copy that waits at this package for its member at one hop, and a port that is minimal. -/
theorem wit_FabricAcksAndRoutes_copies :
    let s := fabState
    let p : Packet := { tPkt with kind := 3, waves := [(31, 4)] }
    p.good = true ∧ p.reserved = false ∧ p.kind = 3 ∧ p.dst.toNat = s.fabric.self ∧ 31 ≠ s.fabric.self ∧ s.copyRoute s.firstPart 31 p.hops.toNat false = some (.lit 31) ∧
    (let q : Packet := { p with dst := 31 }
     q.dst.toNat ≠ s.fabric.self ∧ s.copyRoute s.firstPart 31 q.hops.toNat false = some (.lit 31)) := by
  refine ⟨rfl, rfl, rfl, by decide, by decide, fab_copy, by decide, fab_copy⟩

/-- The last packet of an atomic, alone of its stream in egress, after eight sends; and a stream that is unreachable. -/
theorem wit_FabricAcksAndRoutes_streams :
    (streamOf (outState 8) (tOut 8) = [tOut 8] ∧ (outState 8).fabOp (tOut 8).op = some tOp ∧ tOp.left = 1 ∧ tOp.kind ≠ 3 ∧ ((outState 8).cl tOp.cl).ctx = some tOp.ctx ∧
      (look (outState 8).ctxs (tOut 8).pkt.ctx.toNat).isSome = true ∧ tOp.slot = some (1, 2)) ∧
    (let s : State := { outState 1 with ctxs := [(5, { tCtx with fab := [{ peer := 31, next := 4, unreachable := true }] })], boot := .up }
     (s.fabStream (tOut 1).pkt.ctx.toNat (tOut 1).pkt.dst.toNat).unreachable = true ∧ look s.ctxs 5 ≠ none ∧ s.boot = .up ∧ s.role = none ∧ 31 ≤ 992) := by
  decide

theorem wit_FabricConfiguration :
    ({ fabState with boot := .up } : State).boot = .up ∧ 992 ≤ 992 ∧ look fabState.parts 0 ≠ none ∧ 65535 < 65536 ∧ (fabState.route 0 0 0).1 ≠ .pending ∧
    (({ fabState with fabric := { fabState.fabric with failedPorts := [31] } } : State).route 0 992 0).1 = .pending ∧ 0 ∉ fabState.fabric.darkPorts := by
  decide

/-- A gang-free package for eviction; routes that are and are not pending without a change of role map. -/
theorem wit_FabricConfiguration_commands : kState.mem.granted = [] ∧ ({ fabState with boot := .up } : State).role = none := by decide

/-! ## Witnesses: engines and lazy units -/

/-- A copy engine's transfer of one line of fill into scratch, with its bank free. -/
def tLine : Line := { idx := 0, dst := .scratch 0 0x3FFFC0, segs := [.fill (List.replicate 64 9)], sent := false }
def tXfer : Xfer :=
  { id := 4, kind := .copy, ctx := 5, part := 0, cl := 0, core := 0, sec := false, engine := 0, phase := 0, born := 0, lines := [tLine], total := 64, notify := none,
    stopped := false, pooled := false, capReg := 0, pieces := [], fences := [], waitCore := none }
def engState (f : Cluster → Cluster) (ts : List Xfer) : State :=
  { cState runE (fun x => f { x with groupTag := (List.range 64).map (fun i => (i, tagOf 5)) }) with xfers := ts }

/-- A copy entry at 0x30000: one row of 16 columns of F32 from global address 0 to offset 0. -/
def tEntry (valid : Bool) : Quads :=
  { q0 := BitVec.ofNat 64 ((if valid then 2 ^ 63 else 0) + 2 ^ 60 + 1 * 2 ^ 36), q1 := 0, q2 := 0, q3 := 0x0001001000000000 }
def quadBytes (q : Quads) : List Byte := bytesOf 8 q.q0.toNat ++ bytesOf 8 q.q1.toNat ++ bytesOf 8 q.q2.toNat ++ bytesOf 8 q.q3.toNat
def copyState (stage : Nat) : State :=
  let ce : CopyEng := { sched := 0x30000, count := 1, task := some 0 }
  { engState (fun x => { x with e := { x.e with ce0 := ce, stage0 := BitVec.ofNat 32 stage, tid := [(0, { q0 := 0x8100004000400004, q1 := 0, q2 := 0, q3 := 0 })] } }) [] with
    mem := { tMem with phys := writeB tMem.phys 0x30000 (quadBytes (tEntry true)) } }

theorem wit_EngineAndUnitEvents :
    let idle : State := (engState id []).modCore 0 0 (fun y => { y with secWait := 256 })
    (256 ≤ (idle.core 0 0).secWait ∧ (kState.core 0 0).secWait < 256) ∧
    (({ kState with gang := 8000 * 3570000 } : State).window < ({ kState with gang := 8000 * 3570000 } : State).now / 8000 ∧ kState.now / 8000 ≤ kState.window) ∧
    (∀ h ∈ ((engState (fun x => { x with held := [{ pa := 64, byte := 1, core := 0, sec := false, id := 0, released := some 0 }] }) []).cl 0).held,
      h.pa / 64 = 1 → h.released.isSome = true) ∧
    ((engState id [{ tXfer with kind := .gput, lines := [] }]).xfer 4 = some { tXfer with kind := .gput, lines := [] } ∧
      ((engState id []).cl tXfer.cl).ctx = some tXfer.ctx) ∧
    (let s := engState id [tXfer]
     (s.xfer 4 = some tXfer ∧ tXfer.lines.find? (fun x => x.idx == 0) = some tLine ∧ s.lineReady tXfer tLine = true ∧ tLine.isPool = false ∧
       tXfer.cls = some clsCopy ∧ (s.charge tXfer.part clsCopy 1).isSome = true ∧
       ∀ x ∈ (s.landLine tXfer tLine).xfers, x.id = 4 → x.stopped = true ∨ ∀ y ∈ x.lines, y.idx ≠ 0) ∧
     ((s.portsOf tXfer tLine).all s.portFree = true ∧ s.lineForeign tXfer tLine = none ∧ s.engRoom 0 0x3FFFC0 64 = true ∧ (s.cl 0).chkMerge (cells 0x3FFFC0 (List.replicate 64 9)) = none ∧
       s.readSegs tXfer true tLine.segs = .ok (List.replicate 64 9, none, s))) ∧
    (let s := copyState 0
     let ce := (s.cl 0).e.ce 0
     let x := copyOf (tEntry true)
     let t := tidOf ((s.cl 0).tid x.tid)
     ((s.cl 0).ctx = some 5 ∧ ce.task.isSome = true ∧ 0 < ce.count ∧ ce.stopped = false ∧ ce.xfer = none ∧ s.copies 0 0 = [] ∧
       (s.fillVa 5 (ce.sched.toNat + 32 * 0) 32).engQuads 0 5 (ce.sched.toNat + 32 * 0) = .ok (tEntry true)) ∧ (tEntry false).q0.getLsbD 63 = false ∧ x.valid = true ∧
     (((copyState 0x80000000).cl 0).e.stage0 - x.stage).toNat = 0x80000000 ∧ ((s.cl 0).e.stage0 - x.stage).toNat < 0x80000000 ∧
     x.bad t = none ∧ pastScratch (x.lines t {} 0) = none) ∧
    (engState id [{ tXfer with lines := [] }]).copies 0 0 = [{ tXfer with lines := [] }] := by
  refine ⟨by decide, by decide, by decide, by decide, ⟨⟨by decide, by decide, by decide, by decide, by decide, by decide, by decide +kernel⟩, by decide, by decide, by decide, by decide +kernel, by rfl⟩,
    ⟨⟨by decide, by decide, by decide, by decide, by decide, by decide, by decide +kernel⟩, by decide, by decide, by decide, by decide, by decide, by decide +kernel⟩, by decide⟩

/-- A bank unit touched under the tag of context 6, one under the running context's, and the running context's copy. -/
theorem wit_EngineAndUnitEvents_units :
    let s (old : Nat) : State := { (engState (fun x => { x with touched := [(0, .bank, 15, 0)] }) []).modCore 0 0 (fun y => { y with bankTag := [(15, old)] }) with
      banked := [{ ctx := 5, part := 0, cl := 0, core := 0, kind := .bank, idx := 15, bytes := [(0x3FFFF, 8)], side := [], fe := [], capTag := [], marks := [] }] }
    ((s 7).cl 0).ctx = some 5 ∧ (0, UnitKind.bank, 15, 0) ∈ ((s 7).cl 0).touched ∧ tget 0 ((s 7).core 0 0).bankTag 15 ≠ 5 + 1 ∧
    tget 0 ((s 6).core 0 0).bankTag 15 = 5 + 1 ∧
    (∀ b, (s 7).banked.find? (fun b => b.ctx == 5 && b.cl == 0 && b.core == 0 && b.kind == .bank && b.idx == 15) = some b →
      twf 0 b.bytes = true ∧ ∀ p ∈ b.bytes, p.1 / 0x4000 = 15) := by
  refine ⟨by decide, by decide, by decide, by decide, ?_⟩
  intro b h
  cases h
  decide

/-- A unit of hot region and a parity group touched under the tag of context 6, with the running context's copy of one and none of the other, and a bank's copy with side storage. -/
theorem wit_EngineAndUnitEvents_kinds :
    let hot : Banked := { ctx := 5, part := 0, cl := 0, core := 0, kind := .hot, idx := 15, bytes := [(0x3FFFF, 8)], side := [], fe := [], capTag := [], marks := [(0xFFF, some { kind := 2, hop := 8 })] }
    let bank : Banked := { hot with kind := .bank, side := [(0xFFFF, 3)], marks := [] }
    let s : State := { (engState (fun x => { x with touched := [(0, .hot, 15, 0), (0, .group, 3, 0)], groupTag := [(3, 7)] }) []).modCore 0 0 (fun y => { y with hotTag := [(15, 7)] }) with
      banked := [hot, bank] }
    (s.cl 0).ctx = some 5 ∧ (0, UnitKind.hot, 15, 0) ∈ (s.cl 0).touched ∧ (0, UnitKind.group, 3, 0) ∈ (s.cl 0).touched ∧
    unitOwner s 0 0 .hot 15 = 7 ∧ (s.banked.find? (fun b => b.ctx == 5 && b.cl == 0 && b.core == 0 && b.kind == .hot && b.idx == 15) = some hot) ∧ CopyFits hot ∧ CopyFits bank ∧
    (s.banked.find? (fun b => b.ctx == 5 && b.cl == 0 && b.core == 0 && b.kind == .group && b.idx == 3) = none) ∧
    (unitHas .hot 15 1 0x3FFFF ∧ unitHas .hot 15 64 0xFFF ∧ unitHas .group 3 1 0x3FFFFF ∧ unitHas .group 3 16 0x3FFFF ∧ ¬ unitHas .group 3 64 0) := by
  refine ⟨by decide, by decide, by decide, by decide, by decide, ?_, ?_, by decide, by simp [unitHas]⟩
  · refine ⟨by decide, by decide, by decide, by decide, by decide, ?_, ?_, ?_, ?_, ?_⟩ <;> intro p h <;> simp_all [unitHas]
  · refine ⟨by decide, by decide, by decide, by decide, by decide, ?_, ?_, ?_, ?_, ?_⟩ <;> intro p h <;> simp_all [unitHas]

/-! ## Witnesses: tasks, graphs and streams -/

/-- A stream of context 5 with a 4 KiB ring, at its end. -/
def tStream : Stream := { ctx := 5, base := 0x80000, size := 12, levels := [{ base := 0x80000, len := 4096, pos := 4092, loop := none }], plen := 4 }

/-- A launch record at 0x20000 for all cores of cluster 0 with the secondary, a graph record of one node at 0x21000, and a gang record of packages 0 and 31 at 0x22000. -/
def recMem : Mem :=
  { phys := tMem.phys ++ [(0x20004, 0x80), (0x20005, 0xFF), (0x20009, 4), (0x20011, 8), (0x21000, 1), (0x21008, 5), (0x21041, 8), (0x22002, 0x40), (0x22004, 7), (0x22042, 31)] }
def cpState (t : Stream) (f : Cluster → Cluster) : State :=
  { cState {} f with parts := [(0, { tPart with streams := [(0, some t)] })], mem := recMem }

def tLaunch : LaunchWait :=
  { asked := State.reset.fresh, ctx := 5, record := 0x20000, header := [0x0000FF8000000000, 0x400, 0x800, 0, 0, 0, 0, 0], items := [], cluster := 0, mask := 0xFF, pre := false, origin := .stream 0 0 0x80FFC }

theorem launch_read : (cpState tStream id).readLaunch 5 0x20000 none false (.stream 0 0 0x80FFC) = .ok tLaunch := by decide +kernel

/-- Reading the record fills nothing: no page is pinned in layer store. -/
theorem launch_fill : (cpState tStream id).fillRecord 5 0x20000 (fun h => (launchOf h).items) = cpState tStream id := by decide +kernel

/-- A cluster that runs context 6, so that a launch of context 5 waits. -/
def busyState (t : Stream) : State := cpState t (fun x => { x with ctx := some 6, cores := [(7, { halted := false, task := some 1 })] })

/-- A task of every core that has stopped, a request for pre-emption 2 ms ago, and one of a quiet cluster. -/
def tTask : Task := { id := 8, ctx := 5, mask := 0xFF, origin := .stream 0 0 0x80FFC, record := 0x20000 }
def doneState : State :=
  { cpState tStream (fun x => { x with tasks := [tTask], cores := (List.range 8).map (fun k => (k, { halted := false, task := some 8 })) }) with
    ctxs := [(5, { tCtx with preempt := [(0, 0)] })], cycle := 4000000, tick := 714000000 }

theorem wit_TaskExecution :
    ((cpState tStream id).cpCtx = 5 ∧ (cpState tStream id).cpOrigin = .stream 0 0 0x80FFC ∧
      (cpState tStream id).fillRecord 5 0x20000 (fun h => (launchOf h).items) = cpState tStream id ∧
      (cpState tStream id).readLaunch 5 0x20000 none false (.stream 0 0 0x80FFC) = .ok tLaunch ∧ (cpState tStream id).tick1.canStart tLaunch = true) ∧
    ((cpState tStream id).fillRecord 5 0x20001 (fun h => (launchOf h).items)).readLaunch 5 0x20001 none false (cpState tStream id).cpOrigin = .error 7 ∧
    (let b := (busyState tStream).fillRecord (busyState tStream).cpCtx 0x20000 (fun h => (launchOf h).items)
     b.readLaunch b.cpCtx 0x20000 none false b.cpOrigin = .ok tLaunch ∧ b.tick1.canStart tLaunch = false) ∧
    (let t := { tStream with wait := .launch tLaunch }
     (cpState t id).stream 0 0 = some t ∧ (cpState t id).canStart tLaunch = true) ∧
    ((look (cpState tStream id).ctxs tLaunch.ctx).isSome = true ∧ tLaunch.mask.getLsbD 7 = true) ∧
    (let s0 := doneState
     doneState.flushCores 0 (fun k => tTask.mask.getLsbD k) = s0 ∧ (doneState.cl 0).tasks.find? (fun x => x.id == 8) = some tTask ∧ s0.taskOver 0 tTask = true ∧ s0.condQueue = [] ∧ s0.stream 0 0 = some tStream ∧
       ∀ k, k < 8 → tTask.mask.getLsbD k = true → ((doneState.core 0 k).e.prim.over && (doneState.core 0 k).e.second.over) = true) ∧
    (look doneState.ctxs 5 = some { tCtx with preempt := [(0, 0)] } ∧ 0 + 2000000 * 357 ≤ doneState.tick ∧ (doneState.cl 0).ctx = some 5) ∧
    (let s8 := doneState
     doneState.flushCores 0 (fun _ => true) = s8 ∧ (∀ k, k < 8 → s8.coreQuiet 0 k = true) ∧ s8.awaits 5 0 (fun _ => true) = false ∧ s8.engineAwaits 5 0 = false ∧ s8.arrivals = [] ∧
       (∀ k, k < 8 → (doneState.sq 0 k false).running = false ∧ (doneState.sq 0 k true).running = false)) := by
  refine ⟨⟨by decide, by decide, launch_fill, launch_read, by decide +kernel⟩, by decide +kernel, ⟨by decide +kernel, by decide +kernel⟩, ⟨by decide, by decide +kernel⟩, by decide,
    ⟨rfl, by decide, by decide +kernel, by decide, by decide, by decide⟩, by decide, ⟨rfl, by decide +kernel, by decide +kernel, by decide, by decide, by decide⟩⟩

/-- A role map that left no compute layer for the cluster of the launch. -/
def goneState (t : Stream) : State := { cpState t id with roles := [false] }

theorem wit_TaskExecution_gone :
    let f := (goneState tStream).fillRecord 5 0x20000 (fun h => (launchOf h).items)
    f.layerOf (tLaunch.key f) = none ∧ (cpState tStream id).layerOf (tLaunch.key (cpState tStream id)) = some 0 ∧
    (({ cpState tStream id with partOf := [0] } : State).layerOf 0).isSome = true := by decide

/-- The clauses of what a launch waits for: a core of its mask with a task, one not quiet, another context's task, an engine armed, no cluster, a change of role map, a hot die, and none of them. -/
theorem wit_TaskExecution_waits :
    let free := cpState tStream (fun x => { x with ctx := some 5 })
    let task := cpState tStream (fun x => { x with ctx := some 5, cores := [(7, { halted := false, task := some 1 })] })
    let loud := free.modCore 0 7 (fun y => { y with pending := [{ id := 0, land := 2, issued := 1, sec := false, slot := 1, pc := 0x40, writes := [], flags := 0 }] })
    let arm : LaunchWait := { tLaunch with header := tLaunch.header.set 5 0xFFFFFFFFFFFFFFFF }
    let eng := cpState tStream (fun x => { x with ctx := some 5, e := { x.e with ce0 := { task := some 1, count := 1 } } })
    (tLaunch.mask.getLsbD 7 = true ∧ (task.cl 0).ctx = some 5 ∧ (task.core 0 7).task.isSome = true ∧ (task.core 0 7).e.wasHalted = false) ∧
    (loud.coreQuiet 0 7 = false ∧ (loud.cl 0).ctx = some 5) ∧
    ((busyState tStream).cl 0).ctx = some 6 ∧ (∃ p ∈ ((busyState tStream).cl 0).cores, p.2.task.isSome = true ∧ p.2.e.wasHalted = false) ∧
    (0 < (launchOf arm.header).count0 ∧ 0 < (launchOf arm.header).count1 ∧ eng.engineBusy 0 0 = true) ∧
    ((goneState tStream).layerOf 0 = none ∧ ({ free with hotDies := [3] } : State).hotDies ≠ []) ∧
    (free.shadowOf 5 0 = none ∧ (free.layerOf 0).isSome = true ∧ free.role = none ∧ free.hotDies = [] ∧ (∀ w ∈ free.waiting, tLaunch.asked ≤ w.asked ∨ w.key free ≠ 0)) ∧
    (∀ k, k < 8 → (free.core 0 k).task = none ∧ free.coreQuiet 0 k = true ∧ free.awaits 5 0 (fun j => j == k) = false) ∧ free.engineBusy 0 0 = false ∧ free.engineBusy 0 1 = false ∧
    (let left := cpState tStream (fun x => { x with ctx := some 6, cores := [(7, {})] })
     (left.cl 0).ctx = some 6 ∧ (∀ p ∈ (left.cl 0).cores, p.2.task = none) ∧ left.clusterQuiet 6 0 = true) := by
  refine ⟨by decide, by decide, by decide, ⟨_, List.mem_singleton.mpr rfl, by decide, by decide⟩, by decide, by decide, by decide, by decide, by decide, by decide, by decide⟩

/-- The node that launches the record at 0x20000, one of an address that is refused, a conditional node and a while node whose body is node 1. -/
def taskNode : Quads := { q0 := 0x20000 / 64, q1 := 0, q2 := 0, q3 := 0 }
def badNode : Quads := { q0 := 0x40000000 / 64, q1 := 0, q2 := 0, q3 := 0 }
def condNode : Quads := { q0 := 1 <<< 62, q1 := 0, q2 := 1, q3 := 1 }
def whileNode (limit : Nat) : Quads := { q0 := BitVec.ofNat 64 (2 ^ 63 + 2 ^ 48 + 2 ^ 38 + limit), q1 := 0, q2 := 1, q3 := 1 }
def bodyNode : Quads := { q0 := BitVec.ofNat 64 (2 ^ 59 + 0x20000 / 64), q1 := 0xC000, q2 := 0, q3 := 0 }
def graphState (cond : Word) (ns : List Quads) (f : GraphSlot → GraphSlot) : State :=
  cpState tStream (fun x => { x with graphs := [(7, f (({ loaded := true, ctx := 5, nodes := ns, cond0 := cond, status := 0x30000 } : GraphSlot).start (0, 0) false))] })

/-- A walker whose slot 0 holds a graph of context 5, which may run, and slot 3 one of n nodes. -/
def fullState (n : Nat) (run : Bool) : State := cpState tStream (fun x => { x with graphs :=
  [(0, { loaded := true, running := run, ctx := 5, nodes := [badNode] }), (3, { loaded := true, ctx := 5, nodes := List.replicate n badNode })] })
def fillGraph (s : State) : State := s.fillRecord s.cpCtx 0x21000 (fun h => (graphOf h).nodes)
def graphRec : Nat × Nat × List Quads × List Word := (0, 0, [{ q0 := 0x800, q1 := 0, q2 := 0, q3 := 0 }], [1, 5, 0, 0, 0, 0, 0, 0])

/-- The nodes of the other slots, and whether slot 0 runs, once the walker has its context's graphs back. -/
def walkerOf (s : State) : Option (Nat × Bool) := (s.withGraphs s.cpCtx 0).map (fun t =>
  ((((t.cl 0).graphs.filter (fun g => g.2.loaded && g.1 != 0)).map (fun g => g.2.nodes.length)).foldl (· + ·) 0, (tget ({} : GraphSlot) (t.cl 0).graphs 0).running))

/-- A graph record that reads well into an idle slot of a walker that has room for its one node and of one that has not, and into a slot that runs. -/
theorem wit_GraphExecution_room : (fillGraph (fullState 1023 false)).readGraph 5 0x21000 = .ok graphRec ∧ walkerOf (fillGraph (fullState 1023 false)) = some (1023, false) := by
  decide +kernel
theorem wit_GraphExecution_noRoom : (fillGraph (fullState 1024 false)).readGraph 5 0x21000 = .ok graphRec ∧ walkerOf (fillGraph (fullState 1024 false)) = some (1024, false) := by
  decide +kernel
theorem wit_GraphExecution_busy : (fillGraph (fullState 1 true)).readGraph 5 0x21000 = .ok graphRec ∧ walkerOf (fillGraph (fullState 1 true)) = some (1, true) ∧
    (fillGraph (fullState 1 true)).cpCtx = 5 := by
  decide +kernel

/-- A record that reads ill; a cluster that another context runs on; the last cluster and the one beyond; a loaded slot and one that is not. -/
theorem wit_GraphExecution_launches :
    (let s := cpState tStream id
     (s.fillRecord s.cpCtx 0x21020 (fun h => (graphOf h).nodes)).readGraph 5 0x21020 = .error 7) ∧
    ((busyState tStream).otherRuns 0 5 = true ∧ (cpState tStream id).otherRuns 0 5 = false) ∧
    ((graphState 0 [taskNode] id).clustersOf 0 = 24 ∧ (23 : BitVec 16).toNat < 24 ∧ 24 ≤ (24 : BitVec 16).toNat) ∧
    (let s := graphState 0 [taskNode] (fun x => { x with running := false })
     let y := tget ({} : GraphSlot) (s.cl 0).graphs 7
     y.loaded = true ∧ y.ctx = s.cpCtx ∧ y.running = false ∧ s.shadowOf s.cpCtx 0 = none ∧ (tget ({} : GraphSlot) (s.cl 0).graphs 6).loaded = false) := by
  refine ⟨by decide +kernel, by decide, by decide, by decide⟩

theorem wit_GraphExecution_nodes :
    let fill (s : State) : State := s.fillRecord 5 0x20000 (fun h => (launchOf h).items)
    ((graphState 0 [taskNode] id).nodeTurn 0 7 0 0 = true ∧ fill (graphState 0 [taskNode] id) = graphState 0 [taskNode] id ∧
      (graphState 0 [taskNode] id).nodeLaunch 0 7 0 = .ok { tLaunch with origin := .node 0 7 0 } ∧
      (graphState 0 [taskNode] id).canStart { tLaunch with origin := .node 0 7 0 } = true) ∧
    ((graphState 0 [badNode] id).nodeTurn 0 7 0 0 = true ∧
      ((graphState 0 [badNode] id).fillRecord 5 0x40000000 (fun h => (launchOf h).items)).nodeLaunch 0 7 0 = .error 6) ∧
    (graphState 0 [condNode] id).nodeTurn 0 7 0 1 = true ∧
    ((graphState 1 [whileNode 0, bodyNode] id).nodeTurn 0 7 0 2 = true ∧ 0 < (nodeAt [whileNode 0, bodyNode] 0).first ∧ (nodeAt [whileNode 0, bodyNode] 0).limit = 0 ∧
      (graphState 0 [whileNode 1, bodyNode] id).nodeTurn 0 7 0 2 = true ∧ (nodeAt [whileNode 1, bodyNode] 0).limit = 1) ∧
    (let o (st : BitVec 52) (n : Bool) := graphState 0 [condNode] (fun x => { x.put 0 .completed with status := st, counted := n })
     ((tget ({} : GraphSlot) ((o 0 false).cl 0).graphs 7).isOver = true ∧ (o 0 false).stream 0 0 = some tStream) ∧
     (tget ({} : GraphSlot) ((o 0x30000 true).cl 0).graphs 7).isOver = true ∧ (o 0x30000 true).pubWait 5 0x30000 8 0 = false ∧
       (match (o 0x30000 true).writeVa 5 0x30000 (bytesOf 8 (2 ^ 63)) with | .ok _ => true | .error _ => false) = true) ∧
    (let s := graphState 0 [condNode] id
     (tget ({} : GraphSlot) (s.cl 0).graphs 7).loaded = true ∧ (tget ({} : GraphSlot) (s.cl 0).graphs 7).ctx = 5 ∧ (tget ({} : GraphSlot) (s.cl 0).graphs 6).loaded = false) ∧
    (let h : Shadow := { ctx := 5, part := 0, cl := 0, e := {}, cores := [], tasks := [], graphs := [(7, { loaded := true, ctx := 5 })] }
     h ∈ ({ cpState tStream id with shadow := [h] } : State).shadow ∧ h.ctx = 5 ∧ h.cl = 0) := by
  refine ⟨⟨by decide +kernel, by decide +kernel, by decide +kernel, by decide +kernel⟩,
    ⟨by decide +kernel, by decide +kernel⟩, by decide +kernel, by decide +kernel, ⟨by decide, by decide, by decide, by decide +kernel⟩, by decide, by decide⟩

/-- A graph record whose cluster has gone, and one whose cluster a change of role map drains. -/
theorem wit_GraphExecution_gone :
    ((fillGraph { fullState 1 false with roles := [false] }).readGraph 5 0x21000 = .ok graphRec ∨
      (fillGraph { fullState 1 false with roles := [false] }).layerOf 0 = none) ∧
    ((fillGraph (fullState 1 false)).layerOf 0).isSome = true ∧ (fillGraph (fullState 1 false)).draining 0 = false ∧ (fullState 1 false).shadowOf 5 0 = none := by
  refine ⟨.inr (by decide +kernel), by decide +kernel, by decide +kernel, by decide⟩

/-- A context whose saved graph stood in a slot where that of another runs: it cannot come back. -/
def savedGraphs : State :=
  { cpState tStream (fun x => { x with graphs := [(0, { loaded := true, running := true, ctx := 6, nodes := [badNode] })] }) with
    shadow := [{ ctx := 5, part := 0, cl := 0, e := {}, cores := [], tasks := [], graphs := [(0, { loaded := true, ctx := 5, nodes := [badNode] })] }] }

theorem wit_GraphExecution_waits :
    (({ fullState 1 false with role := some { step := .drain, old := [], new := [], changed := [0], drained := [0], resume := [] } } : State).draining 0 = true) ∧
    (savedGraphs.withGraphs 5 0 = none ∧ (savedGraphs.layerOf 0).isSome = true) ∧
    (true = true ∧ (busyState tStream).otherRuns 0 5 = true ∧ (cpState tStream id).otherRuns 0 5 = false) ∧
    (let x := tget ({} : GraphSlot) ((graphState 0 [condNode] id).cl 0).graphs 7
     x.loaded = true ∧ x.statusNo = none) := by decide

/-- A condition update of the graph in the slot and of a saved one. -/
theorem wit_GraphExecution_updates :
    let u : CondUpdate := { ctx := 5, cl := 0, slot := 7, src := .packet, op := .ins, value := 1, mask := 1 }
    let s := graphState 0 [condNode] id
    (let y := tget ({} : GraphSlot) (s.cl u.cl).graphs u.slot
     y.loaded = true ∧ y.ctx = u.ctx) ∧
    ((tget ({} : GraphSlot) (s.cl u.cl).graphs u.slot).ctx ≠ { u with ctx := 6 }.ctx) := by decide

/-! ## Witnesses: the command processor -/

/-- The last word of the ring, the last packet of a span with two and with one iteration left, and the end of an indirect buffer in the ring. -/
theorem wit_PacketStreamResults :
    let l : Level := { base := 0x80000, len := 4096, pos := 8, loop := some { first := 4, last := 12, left := 2 } }
    (atCp (cpState tStream id) tStream ∧ tStream.levels = [{ base := 0x80000, len := 4096, pos := 4092, loop := none }] ∧ tStream.levels ≠ []) ∧
    (l.pos < 12 ∧ 12 ≤ l.pos + 4 ∧ 4 < l.len ∧ l.pos + 4 < l.len ∧ 1 < 2 ∧ 1 ≤ 1) ∧ (64 ≤ 60 + 4 ∧ 4080 + 16 = l.len ∧ 4076 + 16 < l.len) ∧
    (tStream.levels.length < 3 ∧ 4 ≤ (4 : BitVec 32).toNat ∧ (0x100000 : BitVec 32).toNat ≤ 0x100000 ∧ 0x100000 % 4 = 0) ∧
    ((cpState tStream id).meetVa tStream.ctx 0x20008 8).cpWord 0x20008 = .ok 0x400 ∧ (4092 + 4 + 4 * 0 ≤ tStream.top.len ∧ tStream.top.loop = none ∧ l.loop.isSome = true) ∧
    ((cpState tStream id).cpHeld 0x20000 8 = false ∧ ((cpState tStream id).cpWords (cpState tStream id).cpCtx 0x20000 [1, 2]).1 = none) ∧
    23 < (cpState tStream id).clustersOf 0 := by
  refine ⟨⟨by rfl, by rfl, by decide⟩, by decide, by decide, by decide, by decide +kernel, by decide, ⟨by decide, by decide +kernel⟩, by decide⟩

/-- Values at each condition's edge, streams that wait and do not, vectors on and off, and a schedule of 4096 entries and one more. -/
theorem wit_WaitsAndEvents :
    let p : CpWait := .poll 2 0x20008 0xFFF 0x400
    let w : Watch := { entry := { q0 := 0x2000000000000000, q1 := 0, q2 := 0, q3 := 0 }, range := 0, due := some 0 }
    let s := cpState tStream id
    let y := cpState { tStream with wait := p } id
    (atCp s tStream ∧ (s.meetVa s.cpCtx 0x20008 8).cpWord 0x20008 = .ok 0x400) ∧
    (y.stream 0 0 = some { tStream with wait := p } ∧ (({ y with cur := { y.cur with part := 0, stream := 0 } } : State).meetVa 5 0x20008 8).cpWord 0x20008 = .ok 0x400) ∧
    (0x400 = 0x400 ∧ ¬ 0x400 < 0x400 ∧ 0x3FF < 0x400) ∧ (tStream.completed = tStream.launched ∧ { tStream with launched := 1 }.completed ≠ (1 : Word)) ∧
    ((0, 2047) ∈ ({ s with msix := [(0, 2047)] } : State).msix ∧ (0, 2047) ∉ s.msix) ∧
    (0x20000 % 8 = 0 ∧ s.cpHeld 0x20000 8 = false ∧
      (match s.writeVa 5 0x20000 (bytesOf 8 7) with | .ok _ => true | .error _ => false) = true) ∧
    ((5 : BitVec 3).toNat ≤ 5 ∧ 5 < (6 : BitVec 3).toNat) ∧ (4096 < (4097 : BitVec 32).toNat ∧ (4096 : BitVec 32).toNat ≤ 4096) ∧
    ((cpState { tStream with pf := { watches := [w] } } id).stream 0 0 = some { tStream with pf := { watches := [w] } } ∧ w.due = some 0 ∧ 0 ≤ s.now ∧
      w.entry.q0.getLsbD 61 = true ∧ s.range 0 = none ∧ bitsOf w.entry.q0 51 36 < s.clustersOf 0 ∧
      ¬ bitsOf (w.entry.q0 + 0x0000018000000000) 51 36 < s.clustersOf 0) := by
  refine ⟨⟨by rfl, by decide +kernel⟩, ⟨by decide, by decide +kernel⟩, by decide, by decide, by decide, ⟨by decide, by decide, by decide +kernel⟩, by decide, by decide, by decide⟩

/-- Events after what was launched, with tasks to be stopped and without; an eviction entry at its step, sound, with a reserved bit, and naming no range. -/
theorem wit_WaitsAndEvents_forms :
    let s := cpState { tStream with launched := 1 } id
    let busy := cpState tStream (fun x => { x with tasks := [tTask] })
    let sound : Word × Word := (0x8000000000000001, 0)
    let pf (e : Word × Word) : State := { cpState { tStream with pf := { evicts := [some e] } } id with
      ctxs := [(5, { tCtx with handles := [(0, tHandle)] })], pool := { ranges := [{ tRange with promoting := false, resident := true }] } }
    (atCp s { tStream with launched := 1 } ∧ 0x20000 % 8 = 0 ∧ { tStream with launched := 1 }.completed ≠ (1 : Word)) ∧
    ((look busy.ctxs 5).isSome = true ∧ ∃ p ∈ busy.clusters, p.1 / 256 = busy.cur.part ∧ p.2.ctx = some 5 ∧ p.2.tasks ≠ []) ∧
    (∀ p ∈ (cpState tStream id).clusters, p.1 / 256 = (cpState tStream id).cur.part → p.2.ctx = some 5 → p.2.tasks = []) ∧
    (sound.1.getLsbD 63 = true ∧ (1 : Word).toNat = ({} : Prefetcher).step.toNat + 1 ∧ bitsOf sound.1 31 0 = (1 : Word).toNat % 2 ^ 32 ∧ bitsOf sound.1 61 44 = 0 ∧
      bitsOf sound.1 43 32 = 0 ∧ (∃ j v, (pf sound).rangeIn 5 0 = some (j, v)) ∧ (pf sound).rangeIn 5 1 = none ∧ bitsOf (0x8000100000000001 : Word) 61 44 ≠ 0) ∧
    ((4096 : BitVec 32).toNat ≤ 4096 ∧ 0x40000 % 32 = 0 ∧ 0x40010 % 16 = 0) := by
  refine ⟨⟨rfl, by decide, by decide⟩, ⟨by decide, _, List.mem_singleton.mpr rfl, by decide, by decide, by decide⟩, by decide, ⟨by decide, by decide, by decide, by decide, by decide, ⟨_, _, rfl⟩, by decide, by decide⟩, by decide⟩

/-! ## Witnesses: gangs -/

def tGang : GangRec := { gang := 7, members := [0, 31], tol := 5000, rank := 0 }
def tTimed (ready : Option Nat) : TimedRec :=
  { t := 10000, pre := false, gang := 7, members := [0, 31], tol := 5000, rank := 0, halted := none, ready := ready, tokenAt := none, checked := false,
    launched := false, ended := false, task := none, launch := some tLaunch, graph := none }
def timedState (now : Nat) (r : TimedRec) : State :=
  { cpState { tStream with wait := .timed r } id with gang := now * 3570000, clock := { state := 0 } }

/-- The records that a timed packet reads, and one at an address that is refused. -/
def gangState : State := (cpState tStream id).fillRecord 5 0x22000 (fun h => (2 * bitsOf (h.getD 0 0) 31 21 + 31) / 32)
def gangLaunchState : State := gangState.fillRecord 5 0x20000 (fun h => (launchOf h).items)
theorem wit_GangTime_gang : (cpState tStream id).cpCtx = 5 ∧ gangState.cpCtx = 5 ∧ gangState.readGang gangState.cpCtx 0x22000 = .ok tGang := by decide +kernel
theorem wit_GangTime_launch : gangLaunchState.readLaunch gangLaunchState.cpCtx 0x20000 none false gangLaunchState.cpOrigin = .ok tLaunch ∧
    gangLaunchState.fabric.gangIn = [] ∧ gangLaunchState.stream 0 0 = some tStream := by decide +kernel
theorem wit_GangTime_refused :
    ((cpState tStream id).fillRecord 5 0x22001 (fun h => (2 * bitsOf (h.getD 0 0) 31 21 + 31) / 32)).readGang 5 0x22001 = .error 7 := by decide +kernel

/-- Instants at each edge: 250 ms without a Sync, 2 s of holdover, 1 s of locked conditions, T − 2 µs, T, T + tol, and Tp. -/
theorem wit_GangTime :
    let s := cpState tStream id
    ((49 : Int).natAbs < 50 ∧ 50 ≤ (-50 : Int).natAbs ∧ 7 ≤ 7) ∧
    (let q : State := { s with tick := 250 * 357000000, clock := { state := 0, lastSync := some 0 } }
     let k : State := { s with tick := 250 * 357000000, clock := { state := 0, lastSync := some 1 } }
     (q.clock.state = 0 ∧ ¬ q.tick < 0 + 250 * 357000000) ∧ (k.clock.lastSync = some 1 ∧ k.tick < 1 + 250 * 357000000)) ∧
    (({ s with tick := 2000 * 357000000, clock := { state := 1 } } : State).clock.holdAt + 2000 * 357000000 ≤ 2000 * 357000000) ∧
    (let c : GangClock := { state := 2, goodSince := some 0, lastSync := some (1000 * 357000000) }
     c.goodSince = some 0 ∧ 0 + 1000 * 357000000 ≤ 1000 * 357000000 ∧ 1000 * 357000000 < 1000 * 357000000 + 250 * 357000000) ∧
    ((timedState 8000 (tTimed none)).stream 0 0 = some { tStream with wait := .timed (tTimed none) } ∧ (tTimed none).halted = none ∧
      (tTimed none).t ≤ (timedState 8000 (tTimed none)).now + 2000 ∧ (timedState 7999 (tTimed none)).now + 2000 < (tTimed none).t) ∧
    ((tTimed (some 15001)).t + (tTimed none).tol < 15001 ∧ 15000 ≤ (tTimed none).t + (tTimed none).tol ∧
      (timedState 9999 (tTimed (some 5))).now < 10000 ∧ 10000 ≤ (timedState 10000 (tTimed (some 5))).now) ∧
    ((((timedState 10000 (tTimed (some 5))).setTimed 0 0 (tTimed (some 5))).atStream 0 0).makeTimed 0 0 5 (tTimed (some 5))).isSome = true ∧
    ((tTimed none).t + (tTimed none).tol ≤ (timedState 15000 (tTimed none)).now ∧ (timedState 15000 (tTimed none)).gangMissing 6 7 [0, 31] 0 = some 1) ∧
    (∀ y ∈ s.allStreams, y.2.2.gangs = [] ∧ y.2.2.wait = .none) ∧
    ((timedState 7999 (tTimed none)).now < 8000 ∧ 8000 ≤ (timedState 8000 (tTimed none)).now ∧
      (timedState 8000 (tTimed none)).now ≤ (8000 : Word).toNat ∧ (7999 : Word).toNat < (timedState 8000 (tTimed none)).now) := by
  refine ⟨by decide, by decide, by decide, by decide, by decide, by decide, by decide +kernel, by decide, ?_, by decide⟩
  decide

/-- A publication at package scope with nothing to wait for and with a write held, a gang publication with another member to ask, one that waits for its answer, one that all have answered, and one whose instant is known. -/
theorem wit_GangTime_publications :
    let pub (sc : Scope) (tp : Option Nat) (ws : Option (List Nat)) : PubReq := { ctx := 5, idx := 63, scope := sc, cl := 0, asked := 9, tp := tp, token := false, waits := ws }
    let x : Context := { tCtx with gangMembers := [0, 31], pubs := [(63, { q0 := 0x8000010000000000, q1 := 0, q2 := 1, q3 := 0 })] }
    let s (r : PubReq) (h : List Held) : State :=
      { cState runE (fun y => { y with held := h }) with ctxs := [(5, x)], pubReqs := [r], clock := { state := 0 } }
    let found (r : PubReq) : Prop := (s r []).pubReqs.find? (fun y => !y.done && y.ctx == 5 && y.idx == 63) = some r
    look (s (pub .package none none) []).ctxs 5 = some x ∧ (found (pub .package none none) ∧ (pub .package none none).scope ≠ .gang) ∧
    (s (pub .package none none) []).pubBusy (pub .package none none) x.pubs = false ∧
    (s (pub .package none none) [{ pa := 0x1FFF, byte := 1, core := 0, sec := false, id := 1, released := none }]).pubBusy (pub .package none none) x.pubs = true ∧
    (x.gangMembers.filter (fun p => p ≠ (s (pub .gang none none) []).fabric.self) = [31] ∧ found (pub .gang none none) ∧ found (pub .gang none (some [31])) ∧
      found (pub .gang none (some [])) ∧ found (pub .gang (some 8000) (some []))) ∧
    ((s (pub .gang none (some [])) []).pubBusy (pub .gang none (some [])) x.pubs = false ∧ (s (pub .gang none (some [])) []).clock.state ≠ 2) ∧
    (((s (pub .package none none) []).cl 0).ctx = some 5 ∧ ((s (pub .package none none) []).sq 0 0 true).running = true) := by
  decide

/-- A Sync that waits for its follow-up and one that waits for its delay response, at the last port; one past it. -/
theorem wit_GangTime_syncs :
    let r (a b : Option Int) : SyncRec := { port := 1, seq := 9, t2 := 1000, t1 := a, t3 := b }
    let c (a b : Option Int) : GangClock := { state := 1, goodRun := 7, syncs := [r a b] }
    ((c none none).syncs.find? (fun r => r.port == 1 && r.seq == 9) = some (r none none)) ∧
    ((c (some 900) (some 1000)).syncs.find? (fun r => r.port == 1 && r.seq == 9) = some (r (some 900) (some 1000))) ∧ 1 < 2 ∧ 1 ≤ 1 ∧ 0 ≤ 1 := by decide

/-- A timed launch whose cluster has gone, one whose token was sent tol ago and whose member's has not come, and a gang without streams. -/
theorem wit_GangTime_timed :
    let gone : State := { timedState 8000 (tTimed none) with roles := [false] }
    let tok : TimedRec := { tTimed (some 5) with tokenAt := some 10000 }
    ((tTimed none).launch.any (fun l => gone.noCluster (l.key gone)) = true ∧ (tTimed none).launch.any (fun l => (timedState 8000 (tTimed none)).noCluster (l.key (timedState 8000 (tTimed none)))) = false) ∧
    (tok.tokenAt = some 10000 ∧ 10000 + tok.tol ≤ (timedState 15000 tok).now ∧ (timedState 15000 tok).gangMissing 8 7 [0, 31] (BitVec.ofNat 64 tok.t) = some 1 ∧
      tok.checked = false ∧ tok.ended = false ∧ tok.launched = false) := by decide

/-- A publication that a straggler notice names: exchanged already, and not yet; a notice that comes late. -/
theorem wit_GangTime_stragglers :
    let q (d : Bool) : PubReq := { ctx := 5, idx := 63, scope := .gang, cl := 0, asked := 9, tp := some 8000, token := false, done := d, before := 1 }
    let s (d : Bool) : State := { kState with ctxs := [(5, { tCtx with gang := 7 })], pubReqs := [q d], gang := 9000 * 3570000 }
    (look (s true).ctxs 5 = some { tCtx with gang := 7 }) ∧
    (s true).pubReqs.filter (fun q => q.scope == .gang && q.tp.isSome && q.ctx == 5 && q.idx == 63) = [q true] ∧ (q true).done = true ∧
    ([q false].all (fun q => !q.done) = true) ∧ ((8000 : Word) ≠ 0 ∧ (8000 : Word).toNat < (s true).now ∧ (s true).now ≤ (9000 : Word).toNat) ∧
    (((s true).cl 0).ctx = some 5 ∧ ((s true).sq 0 0 false).running = true) := by decide

/-! ## Witnesses: management -/

theorem wit_PartitionsAndContexts :
    let s : State := { cpState tStream id with boot := .up, roles := List.replicate 6 true, partOf := [0, 6, 6, 6, 6, 6] }
    let p : PartitionRec := { num := 5, layers := [5], roles := List.replicate 6 true, service := 4, spillKey := 0, cacheKey := 0, overflow := (0x5FFFFFF000, 0x1000), egress := (0, 0), parked := (0, 0), vf := 5, bar2 := 0, bar2Size := 2 ^ 36 }
    let c : ContextRec := { id := 0xFFE, part := 0, root := 0x100, handler := 0, tidBase := 0, spill := [(0, 0, 0x8000000000, 0x8000010000)], parked := 0 }
    (s.boot = .up ∧ p.num < 6 ∧ p.roles.length = 6 ∧ p.layers ≠ [] ∧ (∀ l ∈ p.layers, l < 6 ∧ s.partOf.getD l 6 = 6) ∧ p.layers.Nodup ∧ p.service.toNat % 4 = 0 ∧
      look s.parts p.num = none ∧ s.role = none ∧ p.vf ≤ 5 ∧ (∀ q ∈ s.parts, q.2.vf ≠ p.vf) ∧ p.bar2Size ≤ 2 ^ 36 ∧ (∀ x ∈ [p.overflow, p.egress, p.parked], x.1 + x.2 ≤ 0x6000000000) ∧ ∃ l ∈ p.layers, p.roles.getD l false = true) ∧
    (c.id < 0xFFF ∧ c.root % 256 = 0 ∧ physOk c.root = true ∧ (∀ x ∈ c.spill, spillOk x.2.2.1 x.2.2.2 = true) ∧ look s.ctxs c.id = none ∧
      look s.parts c.part ≠ none ∧ s.ctxs.length < 64) ∧
    (look s.ctxs 5 = some tCtx ∧ tCtx.part = 0 ∧ (look s.ctxs 6).isNone = true) ∧ (7 < 8 ∧ 12 ≤ 12 ∧ 24 ≤ 24 ∧ (0x1000000 : BitVec 52).toNat % 2 ^ 24 = 0) ∧
    s.stream 0 0 = some tStream := by
  refine ⟨⟨rfl, by decide, by decide, by decide, by decide, by decide, by decide, by decide, by decide, by decide, by decide, by decide, by decide, ⟨5, by decide, by decide⟩⟩, by decide, by decide, by decide, by decide⟩

theorem wit_ManagementAndRoles :
    let s : State := { cpState tStream (fun x => { x with cores := [(7, { e := { prim := { wasRunning := true } } })] }) with
      boot := .up, roles := List.replicate 6 true, partOf := [0, 6, 6, 6, 6, 6] }
    let r (x : RoleStep) : RoleChange := { step := x, old := List.replicate 6 true, new := [true, true, true, true, true, false], changed := [5], drained := [], resume := [] }
    let change : List Nat := (List.range 6).filter (fun l => s.roles.getD l true != [true, true, true, true, true, false].getD l true)
    (s.boot = .up ∧ look s.ctxs 5 = some tCtx ∧ 65535 < 65536 ∧ 4095 < 4096 ∧ 0 < 1 ∧ 63 < 64 ∧ 1200 ≤ 1200 ∧ 3000 ≤ 3000 ∧ 1199 < 1200 ∧ 3000 < 3001) ∧
    (s.pool.fenced = false ∧ ({ s with pool := { s.pool with fenced := true } } : State).pool.fenced = true) ∧
    (7 < 8 ∧ 0 % 256 < s.clustersOf (0 / 256) ∧ s.draining 0 = false ∧ (s.core 0 7).halted = true ∧ (s.sq 0 7 false).wasRunning = true) ∧
    (s.role = none ∧ [true, true, true, true, true, false].any id = true ∧ change = [5] ∧ (List.replicate 6 false).any id = false ∧
      ∀ p ∈ s.parts, ∃ l ∈ p.2.layers, [true, true, true, true, true, false].getD l true = true) ∧
    (s.keysOn (r .drain).old (r .drain).drained = [] ∧ s.cacheLeft (r .flush) = [] ∧ s.storeLeft (r .flush) = [] ∧ ∀ q ∈ s.pool.reqs, q.sends = 0 ∨ (r .dark).changed.contains (q.port / 16) = false) ∧
    (State.reset.boot = .off ∧ (3 : Nat) ∉ s.hotDies ∧ 992 ≤ 992 ∧ 6 ≤ 6 ∧ 2047 ≤ 2047) ∧
    (look s.parts 0 ≠ none ∧ 0xFFFFFFFFF + 1 ≤ 2 ^ 36 ∧ physOk 0xFFF = true ∧ (∀ l, tget none s.mem.marks l = none) ∧ physOk 0xFFFFFFFFFFF = false ∧
      s.stream 0 0 = some tStream) := by
  refine ⟨by decide, by decide, by decide, ⟨by decide, by decide, by decide, by decide, ?_⟩, ⟨by decide, by decide, by decide, by decide⟩, by decide, ⟨by decide, by decide, by decide, fun _ => rfl, by decide, by decide⟩⟩
  intro p h
  have : p = _ := List.mem_singleton.mp h
  subst this
  exact ⟨0, by decide, by decide⟩
/-! ## Witnesses: the whole machine -/

/-- A cluster from which context 5 was moved, to which it may come back or not; a core halted with what ran. -/
theorem wit_ManagementAndRoles_starts :
    let h : Shadow := { ctx := 5, part := 0, cl := 0, e := {}, cores := [], tasks := [tTask], graphs := [] }
    let s : State := { cpState tStream (fun x => { x with ctx := none }) with shadow := [h] }
    let b : State := { s with hotDies := [3] }
    let w : State := cpState tStream (fun x => { x with cores := [(7, { halted := true, e := { prim := { wasRunning := true } } })] })
    (s.comesBack 0 7 = some 5 ∧ s.mayTake 5 0 = true ∧ (look s.ctxs 5).isSome = true) ∧ (b.comesBack 0 7 = some 5 ∧ b.mayTake 5 0 = false) ∧
    ((w.core 0 7).halted = true ∧ (w.core 0 7).e.wasHalted = true ∧ (w.sq 0 7 false).wasRunning = true ∧ 7 < 8 ∧ 0 % 256 < w.clustersOf 0) ∧ s.role = none := by
  decide

/-- A change of role map with a command behind it; dies that are hot; an unmarked line, outside a SEAL 1 page and in one, that no key has written. -/
theorem wit_ManagementAndRoles_host :
    let s : State := cpState tStream id
    let z : State := { s with mem := { tMem with phys := tMem.phys.map (fun p => if p.1 = 0x14007 then (p.1, p.2 ||| 1) else p) } }
    (s.sealedAt 0 0x20008 = none ∧ z.sealedAt 0 0x20008 = some 5) ∧
    ((3 : Nat) ∉ s.hotDies ∧ (∃ d ∈ ({ s with hotDies := [3, 4] } : State).hotDies, d ≠ 3) ∧ ∀ d ∈ ({ s with hotDies := [3] } : State).hotDies, d = 3) ∧
    (∀ i, i < 8 → tget none s.mem.marks ((0x20008 + i) / 64) = none ∧ tget none s.mem.cipher ((0x20008 + i) / 64) = none) ∧ s.mem.hist = [] ∧ s.mem.granted = [] ∧
    (0x20008 % 64 + 8 < 64) := by
  refine ⟨by decide +kernel, by decide, fun _ _ => ⟨rfl, rfl⟩, rfl, rfl, by decide⟩

theorem wit_ResultsInFlightAndLanding :
    let p (f : BitVec 6) : Pend := { id := 0, land := 2, issued := 1, sec := false, slot := 1, pc := 0x40, writes := [.g 32 1, .g 63 1], flags := f }
    let s : State := cState { fpen := 0x10 } id
    ((p 0x2F).flags.toNat % 32 &&& (s.core 0 0).e.fpen.toNat % 32 = 0 ∧ (p 0x10).flags.toNat % 32 &&& (s.core 0 0).e.fpen.toNat % 32 ≠ 0) ∧
    ([(0x3FFFF, (1 : Byte)), (0, 2)].map (·.1)).Nodup ∧ 5 ∉ [(0x3FFFF, (1 : Byte)), (0, 2)].map (·.1) ∧ (2 ≤ 21 ∧ 21 < 22) := by decide

theorem wit_TrapEntryAndReruns :
    let r : TrapRec := trapR codePage 1 0x80
    (r.code ≠ codeTiming ∧ r.code ≠ codeEmul ∧ r.code ≠ codeSvc ∧ r.code ≠ codeClockLost ∧ kState.ctxOf 0 = some tCtx ∧ (kState.core 0 0).e.mode = false ∧
      tCtx.handler ≠ 0 ∧ (kState.core 0 0).e.prim.running = true ∧ r.code ≠ codeData) ∧
    ((cState { runE with mode := true } id).core 0 0).e.mode = true ∧
    ({ kState with ctxs := [(5, { tCtx with handler := 0 })] } : State).ctxOf 0 = some { tCtx with handler := 0 } ∧
    ((trapR codeTiming 0 0).code = codeTiming ∧ (cState { runE with prim := { runE.prim with timingRow := 14 } } id).sq 0 0 false = { runE.prim with timingRow := 14 } ∧ 14 < 15) := by
  decide

theorem wit_MemoryCanonicalKept : Memory.wf State.reset.mem = true ∧ ∃ t, step State.reset = .next t := ⟨by decide, _, rfl⟩

theorem wit_EncodeDecodeAgree :
    ((Instr.addi 63 63 0xFFFFFFFFFFFFFFFF).wf = true ∧ (Instr.addi 63 63 0xFFFFFFFFFFFFFFFF).form = .op) ∧
    ((Instr.uloop 0x3FFF true 3).wf = true ∧ (Instr.uloop 0x3FFF true 3).form = .micro) ∧
    ((Instr.writeMemory 4 (List.replicate 2045 0)).wf = true ∧ (Instr.writeMemory 4 []).form = .packet) := by decide +kernel

/-- A primary at movi g5, 0x3456 with a stop bit at 0x40; nothing stalls it. -/
def fetchState : State :=
  let s := cState { prim := { running := true, pc := 0x40 } } id
  { s with mem := { tMem with phys := [(0x40, 0x56), (0x41, 0x34), (0x42, 0x28), (0x43, 0x9C)] ++ tMem.phys }, agenda := [.issue 0 0 false] }
def fetchPrep : Prep :=
  { bundle := { len := 16, fold := 0, restart := false, ops := [(slotC, 0x9C283456, 0), (slotV, 0, 0), (slotM, 0, 0), (slotX, 0, 0)], stop := true }
    ops := [(slotC, .movi 5 0x3456)], restart := true, group := { counted := 1, reads := [], writes := [.g 5] } }

/-- The site of that bundle, and the state in which its op runs. -/
def fetchSite : State :=
  let u := ({ fetchState with agenda := [] } : State).visit 0 0 false
  { u.fillPc with trapped := none, cur := { u.cur with pc := 0x40, next := 0x50, fold := 0, slot := 0 } }
def fetchRun : State :=
  (({ fetchSite with cur := { fetchSite.cur with beats := 1, wbeats := 1 } } : State).takeCkpt true).modMe
    (fun q => { q with restartNext := false, newGroup := false, taken := false })

/-- Each premise of the clause of a bundle's issue. -/
theorem wit_StepRunsDecoded_issue :
    let u := ({ fetchState with agenda := [] } : State).visit 0 0 false
    let f := u.fillPc
    (fetchState.agenda = .issue 0 0 false :: [] ∧ u.me.running = true ∧ u.here.halted = false ∧ u.hereCtx.isSome = true ∧ u.me.nextIssue ≤ u.cycle ∧
      u.here.trapAt ≠ u.cycle + 1 ∧ u.withheldHere = false ∧ u.clockTrapHere = false ∧ u.me.pend = []) ∧
    (match f.prep with | .ok p => p == fetchPrep | .error _ => false) = true ∧
    (fetchSite.stalls fetchPrep = false ∧ disjoint (slotsOf fetchPrep.ops) fetchSite.here.usedSlots = true ∧
      disjoint (fetchSite.banksOf fetchPrep.ops) fetchSite.here.usedBanks = true ∧ fetchSite.bankCheck fetchPrep.ops = (1, 1, none) ∧
      ∀ o ∈ fetchPrep.ops, o.2 ≠ .eret) ∧
    (∃ t, runOps (fetchPrep.ops.filter (fun o => !requested o.2)) fetchRun = .next t ∧ t.trapped = none ∧
      ∃ v, runOps (fetchPrep.ops.filter (fun o => requested o.2))
        ((t.giveBeats fetchSite.fresh 1 (fetchSite.readLinesOf fetchPrep.ops)).account fetchPrep (slotsOf fetchPrep.ops) (fetchSite.banksOf fetchPrep.ops)) = .next v) := by
  refine ⟨by decide, by decide +kernel, ⟨by decide +kernel, by decide, by decide +kernel, by decide +kernel, by decide⟩, ⟨_, rfl, rfl, _, rfl⟩⟩

/-- A routine whose next word is uend, a stream whose ring holds a nop packet, and an event. -/
theorem wit_StepRunsDecoded :
    let m : State := State.reset.withFetchWord 32 0x08000000
    let ring : Stream := { ctx := 5, base := 0x80000, size := 12, tail := 4, levels := [{ base := 0x80000, len := 4096, pos := 0, loop := none }], window := [(0, some 0), (1, some 0), (2, some 0), (3, some 0)] }
    let c : State := { cState {} id with parts := [(0, { tPart with streams := [(0, some ring)] })], agenda := [.cp 0 0] }
    let z := ({ c with agenda := [], trapped := none, cur := { part := 0, stream := 0 } } : State).prefetchAhead 0 0
    let w := z.fillPacket ring
    ({ State.reset with agenda := [.event .shootdownInstant] } : State).agenda = [.event .shootdownInstant] ∧
    (m.agenda = [.micro 0 0] ∧ (m.visit 0 0 false).here.run = some Routine.blank ∧ Routine.blank.cycles < 2 ^ 22 ∧
      decodeMicro (tget 0 (m.visit 0 0 false).here.store Routine.blank.upc) = some .uend) ∧
    (c.cpS = some ring ∧ ring.error = 0 ∧ ring.wait = .none ∧ z.cpS = some ring ∧ w.cpS = some ring ∧ (match w.nextPacket ring with | some (n, .ok i) => n == 4 && i == .nopPacket | _ => false) = true) ∧
    (look w.parts 0).any (fun p => p.held) = false := by
  refine ⟨rfl, by decide, ⟨by decide, by decide, by decide, by decide, by decide⟩, by decide⟩
/-! ## Smoke: for each check of WellFormed an ill-formed term, which it refuses -/

theorem smoke_control : ∀ i ∈ ([.ret 1 7, .rdctr 1 7, .pbri 0 0x8000000000000000, .br 1 7 0 1, .br 1 0 0 1, .br 1 2 7 1, .brl 1 7 2, .loop 1 0xFFFFFFFFFFFFFFFF,
    .loopi 0xFFFFFFFFFFFFFFFF 4, .phaseProbe .cluster 1 2, .stage 0 0] : List Instr), i.wf = false := by decide +kernel

theorem smoke_scalar : ∀ i ∈ ([.addi 1 1 0x8000000000000000, .andi 1 1 0xFFFFFFFFFFFFFFFF, .ori 1 1 0xFFFFFFFFFFFFFFFF, .xori 1 1 0xFFFFFFFFFFFFFFFF, .shli true 1 1 32,
    .shri true 1 1 63, .sari true 1 1 32, .bfx 1 1 32 32, .bfi 1 1 63 1, .movi 1 0x8000000000000000, .movhi 1 0xFFFFFFFFFFFFFFFF, .fcvt .f64 .ne 13 1 1,
    .fcvtFromInt .f64 .ne 6 1 1, .fcvtFromInt .f64 .ne 11 1 1] : List Instr), i.wf = false := by decide +kernel

theorem smoke_memory : ∀ i ∈ ([.ld 7 false false 1 1 0, .ld 0 false false 1 1 0x400000, .st 7 1 1 0, .st 0 1 1 0x400000, .vld false false 1 1 0x1000000, .vst 1 1 0x1000000,
    .vldm false false 60 1 4, .vstm 63 1 1, .tld false false 0 1 0x1000000, .tst 0 1 0x1000000, .atom false 10 0 1 2, .atom false 5 0 1 3, .pld 7 0 0 1, .pst 7 0 1 2,
    .patom 5 0 0 1 3, .publish .seq 1] : List Instr), i.wf = false := by decide +kernel

theorem smoke_vector : ∀ i ∈ ([.vsel .f32 0 1 1 1, .vcvt 13 1 .ne false 1 1, .vcvt 1 13 .ne false 1 1, .vpack 3 1 1 1, .vunpack 3 false false 1 1, .vred .and .f32 .ne 0 1 1,
    .vred .and .i32 .tz 0 1 1, .vscan .and .f64 .ne 0 1 1, .vrng 1 1 1, .vscale 0 .ne 0 1 1, .rvcvt 1 2 .ne 1 1, .urcvt 2 2 .ne 1 1, .rvdrop false 1 1 0,
    .urdrop false 1 1 0] : List Instr), i.wf = false := by decide +kernel

theorem smoke_system : ∀ i ∈ ([.fatom 5 0 0 1 3, .fmc false 0 1 3, .csrr 1 0xFFF, .csrw 1 0x070, .csrw 1 0x001, .csrw 1 0x060, .csrw 1 0x022, .csrw 1 0x023, .csrw 1 0xFFF,
    .vwset 22 1 1, .ukadd true 0 1, .uloop 0 true 4, .pred false 0 0 0 0, .loopPacket 0 1, .writeMemory 0 [], .writeMemory 0 (List.replicate 2046 0),
    .sched true 9 0 0 0 0 0, .sched false 0 0 64 0 0 0, .budget 6 0] : List Instr), i.wf = false := by decide +kernel

/-! ## Decoding: words that the spec writes out -/

/-- 06: the dump at 0x40 and 0x50. -/
theorem test_dump :
    (match bundleOf [0x14186001, 0x40208280, 0xAC304002, 0] with | .ok b => decodeOps false 0x40 b.ops | .error _ => .ok []) =
      .ok [(slotC, .addi 3 3 1), (slotV, .vadd false .ne 0 4 4 5), (slotM, .vld false false 6 2 2)] ∧
    (match bundleOf [0x7F000000, 0x80000001] with | .ok b => decodeOps false 0x50 b.ops | .error _ => .ok []) = .ok [(slotC, .tend)] := by decide +kernel

/-- 06: the two damaged words. -/
theorem test_damaged : bundleLen 0xFE000000 = .error 2 ∧ decodeOp slotC 0x1E000000 0 = .error 17 := by decide +kernel

/-- 06 and 10: header with a lent immediate, folds, and the words of each op. -/
theorem test_scalar_words : decodeOp slotC 0x9C283456 9 = .ok (.movi 5 0x123456) ∧ decodeOp slotC 0x9430A040 0 = .ok (.addi 6 5 64) ∧
    decodeOp slotC 0x9238C300 0 = .ok (.mul false 7 6 6) ∧ decodeOp slotC 0x9040E280 0 = .ok (.add false 8 7 5) ∧ decodeOp slotC 0x04A55800 0 = .ok (.br 1 2 2 43) ∧
    decodeOp slotV 0x954D2001 0 = .ok (.addi 41 41 1) := by decide +kernel

/-- 05 R80, 09 R169: fmul.f64.dn g10, g1, g2 ends its group: S 1, major 0x10, D 10, A 1, B 2, RM 3, F 2. -/
theorem test_float_word : decodeOp slotC 0xA0502132 0 = .ok (.fmul .f64 .dn 10 1 2) := by decide +kernel

/-- 06, 14: memory words. -/
theorem test_memory_words : decodeOp slotM 0xAA403801 0 = .ok (.st 6 8 1 1) ∧ decodeOp slotM 0xAE0080F0 0 = .ok (.vldm false false 0 4 15) ∧
    decodeOp slotM 0xB0405000 0 = .ok (.tst 2 2 0) ∧ decodeOp slotM 0xBE000084 0 = .ok (.stage 0 1) := by decide +kernel

/-- 24, 26: pool and fabric words. -/
theorem test_pool_fabric_words : decodeOp slotM 0xB8403200 0 = .ok (.lease 2 0 25) ∧ decodeOp slotM 0xB6402C15 0 = .ok (.patom 5 0 2 0 22) ∧
    decodeOp slotX 0xF8194600 0 = .ok (.fwr false 3 10 12) ∧ decodeOp slotX 0xF8914601 0 = .ok (.fatom 0 1 2 10 12) := by decide +kernel

/-- 08, 16, 18: vector and reversible words. -/
theorem test_vector_words : decodeOp slotV 0xD2103820 0 = .ok (.vcvt 12 1 .ne false 2 1) ∧ decodeOp slotV 0xCC81E100 0 = .ok (.vrsqa false .ne 0 16 15) ∧
    decodeOp slotV 0xD8F51500 0 = .ok (.vrng 30 40 42) ∧ decodeOp slotV 0xE0182100 0 = .ok (.rvmul .f32 .ne 3 1 2) := by decide +kernel

/-- 20: matrix words. -/
theorem test_matrix_words : decodeOp slotX 0xF1E00000 0 = .ok (.mcall 0x3C00) ∧ decodeOp slotX 0xF1E08000 0 = .ok (.mcall 0x3C10) ∧ decodeOp slotX 0xF2394000 0 = .ok (.mparm 7 10) ∧
    decodeOp slotX 0xF4280000 0 = .ok (.dqpop 5 0) ∧ decodeOp slotX 0xF23A8302 0 = .ok (.mgath 7 20 6) ∧ decodeOp slotX 0xF6000400 0 = .ok (.macst 0 8) := by decide +kernel

/-- 28: system words. -/
theorem test_system_words : decodeOp slotC 0xFC280080 0 = .ok (.csrr 5 1) ∧ decodeOp slotC 0xFC000002 0 = .ok .eret ∧ decodeOp slotC 0xFC0841C4 0 = .ok (.copyx .global .host 1 2 3) := by
  decide +kernel

/-- 19 R325: micro-op codes in bits 31:27. -/
theorem test_micro_words : decodeMicro 0x00000000 = some .unop ∧ decodeMicro 0x08000000 = some .uend ∧ decodeMicro 0x12000005 = some (.uxset 1 5) ∧
    decodeMicro 0x00000001 = none ∧ decodeMicro 0xF8000000 = none := by decide +kernel

/-- 22: the packets of the stream. -/
theorem test_packets : decodePacket 0x18030000 [0x70001000, 7, 0x40] = .ok (.indirect 0x770001000 0x40) ∧ decodePacket 0x38002000 [] = .ok .waitIdle ∧
    decodePacket 0x30030000 [0x7000200C, 7, 0xC0DE0001] = .ok (.writeMemory 0x77000200C [0xC0DE0001]) ∧ decodePacket 0x28010003 [4] = .ok (.loopPacket 3 4) ∧
    decodePacket 0x08020000 [0x70003000, 7] = .ok (.launchTask false 0x770003000) ∧
    decodePacket 0x20060004 [0x70002000, 7, 4, 0, 4, 0] = .ok (.pred false 4 0x770002000 4 4) ∧ decodePacket 0x40000000 [] = .ok .ffence := by decide +kernel

/-! ## Worked examples of the spec -/

/-- What a fixed-latency op leaves in flight on core 0: its writes and flags. -/
def left (o : Out) : List (List PWrite × BitVec 6) := match o with | .next t => (t.core 0 0).pending.map (fun p => (p.writes, p.flags)) | _ => []

/-- 10: two roundings of one expression: fmul .dn and .up, ffma .up, fadd .up. -/
theorem test_interval :
    let s := gState [(1, 0x3FF0000000000001), (2, 0x3FF0000000000001), (3, 0xBFF0000000000000), (11, 0x3FF0000000000003), (15, 0xBFF0000000000000)]
    left (exec (.fmul .f64 .dn 10 1 2) s) = [([.g 10 0x3FF0000000000002], 1)] ∧ left (exec (.fmul .f64 .up 11 1 2) s) = [([.g 11 0x3FF0000000000003], 1)] ∧
    left (exec (.ffma .f64 .up 15 1 2) s) = [([.g 15 0x3CC0000000000001], 1)] ∧ left (exec (.fadd .f64 .up 13 11 3) s) = [([.g 13 0x3CC8000000000000], 0)] := by decide +kernel

/-- 10: a flipped bit 17 gives kind 0 and byte 2. -/
theorem test_xchk : (match exec (.xchk 5 37) (gState [(5, 0x369C), (37, 0x6369C)]) with | .next t => t.trapped.map (fun r => r.info) | _ => none) = some 0x002 := by decide +kernel

/-- 08: weights, 0.5, 0.75, −0.375 and 0.3 in FP32; 0.3 rounds. -/
theorem test_w2p8 : [0x3F000000, 0x3F400000, 0xBEC00000, 0x3E99999A].map (fun x => w2Encode .ne (fmt32.decode x)) = [(0x17, 0), (0x0A, 0), (0x93, 0), (0x24, flNX)] := by
  decide +kernel

/-- 08: 1,000, 300 and 0.1 under a scale of 2^2, and 1,000 without one. -/
theorem test_e4m3 : [0x447A0000, 0x43960000, 0x3DCCCCCD].map (fun x => (encodeFmt 4 .ne false (descale 0x81 (fmt32.decode x))).1) = [0x78, 0x69, 0x0D] ∧
    encodeFmt 4 .ne false (fmt32.decode 0x447A0000) = (0x7F, flOF ||| flNX) := by decide +kernel

/-- 08: 2.5 and 7.0 in E2M1. -/
theorem test_e2m1 : encodeFmt 12 .ne false (fmt32.decode 0x40200000) = (0x4, flNX) ∧ encodeFmt 12 .na false (fmt32.decode 0x40200000) = (0x5, flNX) ∧
    encodeFmt 12 .ne false (fmt32.decode 0x40E00000) = (0x7, flOF ||| flNX) := by decide +kernel

/-- 16: vrsqa of 16 is 0.25 exactly; of 8 it is inexact. -/
theorem test_rsqa : fmt32.rsqa 0x41800000 = (0x3E800000, 0) ∧ (fmt32.rsqa 0x41000000).2 = flNX := by decide +kernel

/-- 08: the chunk 2^24 + 1 − 2^24, then its end; the block of four in FP64. -/
theorem test_chunk :
    let p (x : Nat) (a : AccElem) : AccElem := (accAdd .ne a (fmt32.decode x)).1
    (accChunk .ne (p 0xCB800000 (p 0x3F800000 (p 0x4B800000 {})))).1.enc = 0x3F800000 ∧ (accChunk .ne (p 0x3F800000 (p 0x4B800000 {}))).1.enc = 0x4B800000 := by decide +kernel
theorem test_block :
    let p (x : Word) (k : Nat) (a : AccElem) : AccElem := (accAdd64 .ne a x 0x3FF0000000000000 k).1
    (p 0x3CA0000000000000 3 (p 0x3CA0000000000000 2 (p 0x3CA0000000000000 1 (p 0x3FF0000000000000 0 {})))).enc = 0x3FF0000000000002 := by decide +kernel

/-- 20: 2^24 + 1 + 0.5 leaves guard bits 0b110. -/
theorem test_guard : (accAdd .ne (accAdd .ne (accAdd .ne {} (fmt32.decode 0x4B800000)).1 (fmt32.decode 0x3F800000)).1 (fmt32.decode 0x3F000000)).1 =
    { enc := 0x4B800000, guard := 0b110, sticky := false } := by decide +kernel

/-- 18: u, q and their slots; an element whose operand is zero escapes with its own bits; the operand comes back. -/
theorem test_remainders :
    rvElem .mul (fmtOf 3) (fmtOf 3) .ne 16 0x3FC0 0x3F81 0 = { r := 0x3FC2, fl := flNX, esc := false, slot := 0xF000 } ∧
    (rvElem .mul (fmtOf 3) (fmtOf 3) .ne 16 0 0x3F81 0).esc = true ∧ (rvElem .mul (fmtOf 3) (fmtOf 3) .ne 16 0 0x3F81 0).slot = 0 ∧
    rvElem .add (fmtOf 3) (fmtOf 3) .ne 16 0x3CC0 0x4100 0 = { r := 0x4100, fl := flNX, esc := false, slot := 0x0C00 } ∧
    (rvElem .add (fmtOf 3) (fmtOf 3) .ne 16 0x4013 0x4100 0).slot = 0xF800 ∧ undoElem .mul (fmtOf 3) (fmtOf 3) 16 0x3FC2 0 0x3F81 0xF000 = 0x3FC0 := by decide +kernel

/-- 24: entry 0 of step_out. -/
theorem test_copy_entry :
    let e := copyOf { q0 := 0xE101040000000001, q1 := 0x10000, q2 := 0x10000, q3 := 0x0001040000000000 }
    (e.valid, e.out, e.space, e.cap, e.tid, e.spitch, e.stage) = (true, true, 2, 1, 1, 64, 1) ∧ (e.addr, e.soff, e.rows, e.cols, e.reserved) = (0x10000, 0x10000, 1, 1024, false) := by
  decide +kernel

/-- 24: capability k2: read, atomic and lease on one 256-byte unit at 0x3_1000_0000. -/
theorem test_cap :
    let c : Cap := { bits := 0x51000000021500031000000000000001, tag := true }
    (c.object, c.base, c.len, c.kind) = (0x5100000002, 0x310000000, 256, 0) ∧ [0, 1, 2, 3, 4].map c.right = [true, false, true, false, true] := by decide +kernel

/-- 20: the feed offset 192 with step 2 after three steps. -/
theorem test_feed_step : feedStep (feedStep (feedStep 0x008000C0)) = 0x008000C6 ∧ feedStep 0xFF8000C0 = 0xFF8000BE := by decide +kernel

/-! ## Single steps -/

/-- R77: g0 and g32 take nothing; a result lands in its register in its cycle. -/
theorem test_landing :
    let p (n : Nat) : Pend := { id := 0, land := 1, issued := 0, sec := false, slot := 0, pc := 0, writes := [.g n 7], flags := 0 }
    ((kState.landPend 0 0 (p 32)).2.core 0 0).e.rG 32 = 0 ∧ ((kState.landPend 0 0 (p 33)).2.core 0 0).e.rG 33 = 7 := by decide +kernel

/-- R142, R139: a loop pushed with count 3, and the way back from its last bundle. -/
theorem test_loop :
    (match exec (.loopi 3 8) { kState with cur := { cl := 0, core := 0, sec := false, pc := 0x40, next := 0x44 } } with | .next t => (t.sq 0 0 false).loops | _ => []) =
      [{ first := 0x44, last := 0x60, count := 3, index := 0 }] ∧
    (({ loops := [body] } : Seq).advance 0x60 0x64 true 1).1.pc = 0x40 := by decide +kernel

/-- R438: eret brings MODE back from bit 10 and the pc from TRAP.PC. -/
theorem test_eret :
    let s := cState { mode := true, trapPc := 0x80, trapCause := 0, prim := { running := true, savedRunning := true } } id
    (match exec .eret s with | .next t => ((t.core 0 0).e.mode, (t.sq 0 0 false).pc, (t.sq 0 0 false).running) | _ => (true, 0, false)) = (false, 0x80, true) := by decide +kernel

/-- R439: a privileged op in task mode. -/
theorem test_privilege : (match exec .halt kState with | .next t => t.trapped.map (fun r => (r.code, r.info)) | _ => none) = some (codeIllegal, 23) := by decide +kernel

/-- R423: right after reset the clock is lost and GANG.NOW reads 0. -/
theorem test_reset_time : left (exec (.rdtime 5) State.reset) = [([.g 5 0], 0)] ∧ State.reset.clock.state = 2 := by decide +kernel

/-- R455: an older version than the fused counter stops in recovery. -/
theorem test_power_on : (match exec (.powerOn { bytes := some [], version := 0, ed25519 := true, mldsa := true, fuse := 0 }) { State.reset with fused := 1 } with
    | .next t => some t.boot | _ => none) = some .recovery := by decide +kernel

/-- 27 R453: a host read where no memory is stops. -/
theorem test_host_hole : (match exec (.hostAccess (.read 0 0 1)) { kState with parts := [(0, { tPart with bar2 := 0x7000000000 })] } with
    | .fault (.noMemory a) => a | _ => 0) = 0x7000000000 := by decide +kernel

end Sys2Proof.Tests
end

section
/-! PROOF. Every step keeps the canonical form of the memories (00 R5, 27 R448, log entry 2).

The lemmas follow the model's files. For each operation on the state that is met on the way from a step there is one
lemma: `f_mem`, where f leaves the memories as they are, or `f_canon`, where it changes them and keeps their canonical
form; `execX_keeps` and `execX_canon` say the same of an instruction's outcome. They are simp lemmas, so that the proof
for an operation splits along its branches and rewrites each of them. The tables of bytes themselves are written by
`wrHome` and `fillLayer` (`wrHome_ok` and `fillLayer_ok` of Laws), and directly by `writeEnd`, `storeBack`,
`storeMove` and the reset of the package. -/

namespace Sys2Proof.Machine

open Sys2Proof

/-! ## Outcomes and folds -/

/-- `MemOk` of Laws as a property of the memories alone: the three tables of bytes are in canonical form
(00 R5, log entry 2). -/
def Mem.Canon (m : Mem) : Prop := Memory.wf m = true

theorem Mem.canon_iff {m : Mem} : m.Canon ↔ twf 0 m.phys = true ∧ twf 0 m.layer = true ∧ twf 0 m.host = true :=
  Memory.wf_iff m

/-- Where an outcome is a next state, its memories are m. -/
def Out.Keeps (m : Mem) (o : Out) : Prop := ∀ t, o = .next t → t.mem = m

/-- Where an outcome is a next state, its memories are in canonical form. -/
def Out.Canon (o : Out) : Prop := ∀ t, o = .next t → t.mem.Canon

@[simp] theorem mem_ite (c : Prop) [Decidable c] (s t : State) :
    (if c then s else t).mem = if c then s.mem else t.mem :=
  apply_ite State.mem c s t

@[simp] theorem Mem.canon_ite (c : Prop) [Decidable c] (m n : Mem) :
    (if c then m else n).Canon ↔ (c → m.Canon) ∧ (¬c → n.Canon) := by
  split <;> simp [*]

@[simp] theorem Out.keeps_next {m : Mem} {t : State} : Out.Keeps m (.next t) ↔ t.mem = m :=
  ⟨fun h => h t rfl, fun h _ e => by cases e; exact h⟩

@[simp] theorem Out.keeps_checked {s : State} {x : Option TrapRec} {k : State → State} (hk : (k s).mem = s.mem) :
    (s.checked x k).Keeps s.mem :=
  fun _ h => checked_mem h hk

@[simp] theorem Out.canon_next {t : State} : Out.Canon (.next t) ↔ t.mem.Canon :=
  ⟨fun h => h t rfl, fun h _ e => by cases e; exact h⟩

@[simp] theorem Out.canon_fault (r : Fault) : Out.Canon (.fault r) := fun _ e => by cases e

@[simp] theorem Out.canon_refused (r : Refusal) : Out.Canon (.refused r) := fun _ e => by cases e

@[simp] theorem Out.canon_checked {s : State} {x : Option TrapRec} {k : State → State} (h : s.mem.Canon)
    (hk : (k s).mem.Canon) : (s.checked x k).Canon := by
  rw [checked_next, Out.canon_next]
  cases x
  · exact hk
  · simpa using h

theorem Out.Keeps.canon {o : Out} {m : Mem} (ho : o.Keeps m) (h : m.Canon) : o.Canon := fun t e => ho t e ▸ h

@[simp] theorem foldl_mem {A : Type} {f : State → A → State} {l : List A} {s : State}
    (hf : ∀ t x, (f t x).mem = t.mem) : (l.foldl f s).mem = s.mem := by
  induction l generalizing s with
  | nil => rfl
  | cons x r ih => exact ih.trans (hf s x)

@[simp] theorem foldl_canon {A : Type} {f : State → A → State} {l : List A} {s : State} (h : s.mem.Canon)
    (hf : ∀ t x, t.mem.Canon → (f t x).mem.Canon) : (l.foldl f s).mem.Canon := by
  induction l generalizing s with
  | nil => exact h
  | cons x r ih => exact ih (hf s x h)

@[simp] theorem happen_mem {s : State} {f : State → Out} (h : Out.Keeps s.mem (f s)) : (s.happen f).mem = s.mem := by
  unfold State.happen
  split
  · exact h _ ‹_›
  · rfl

@[simp] theorem happen_canon {s : State} {f : State → Out} (h : s.mem.Canon) (hf : (f s).Canon) :
    (s.happen f).mem.Canon := by
  unfold State.happen
  split
  · exact hf _ ‹_›
  · exact h

/-- `happen_canon` for an event that keeps the canonical form from every state. -/
theorem happen_canon_of {f : State → Out} {s : State} (h : s.mem.Canon) (hf : ∀ t, t.mem.Canon → (f t).Canon) :
    (s.happen f).mem.Canon :=
  happen_canon h (hf s h)

@[simp] theorem happenAll_mem {A : Type} {s : State} {l : List A} {f : A → State → Out}
    (h : ∀ x t, Out.Keeps t.mem (f x t)) : (s.happenAll l f).mem = s.mem :=
  foldl_mem fun t x => happen_mem (h x t)

@[simp] theorem happenAll_canon {A : Type} {s : State} {l : List A} {f : A → State → Out} (h : s.mem.Canon)
    (hf : ∀ x t, t.mem.Canon → (f x t).Canon) : (s.happenAll l f).mem.Canon :=
  foldl_canon h fun t x ht => happen_canon ht (hf x t ht)

/-- An update of anything but the three tables of bytes keeps the canonical form. -/
@[simp] theorem Mem.canon_mk {m : Mem} {c : Tbl (Option (BitVec 512))} {k : Tbl (Option LineMark)}
    {f : Tbl (Option Nat)} {hs : List OldByte} {e : List Exch} {g : List Grant} {l : Tbl (List Nat)}
    {t : List TlbEntry} : Mem.Canon ⟨m.phys, c, k, m.layer, f, m.host, hs, e, g, l, t⟩ ↔ m.Canon :=
  Iff.rfl

@[simp] theorem modMem_mem (s : State) (f : Mem → Mem) : (s.modMem f).mem = f s.mem := rfl

theorem mem_of_pair {A : Type} {p : A × State} {a : A} {t : State} {m : Mem} (e : p = (a, t)) (h : p.2.mem = m) :
    t.mem = m := by
  subst e; exact h

theorem canon_of_pair {A : Type} {p : A × State} {a : A} {t : State} (e : p = (a, t)) (h : p.2.mem.Canon) :
    t.mem.Canon := by
  subst e; exact h

/-- The state that a fabric commit leaves, whether it waits or is done. -/
def Commit.state : Commit → State
  | .wait s => s
  | .done _ _ s => s

@[simp] theorem Commit.state_wait (s : State) : (Commit.wait s).state = s := rfl

@[simp] theorem Commit.state_done (n : Nat) (v : List Byte) (s : State) : (Commit.done n v s).state = s := rfl

@[simp] theorem pend_srcs_mem (s : State) (n : Nat) (ws : List PWrite) (fl : Fl) (rs : List Src) :
    (s.pend n ws fl rs).mem = s.mem :=
  (rfl)

/-! ## Results in flight and arithmetic (Machine/Ops) -/

@[simp] theorem wrG_mem (s : State) (d : Reg) (v : Word) (lat : Nat) (fl : Fl) : (s.wrG d v lat fl).mem = s.mem :=
  (rfl)

@[simp] theorem afterCsrw_mem (s : State) (w : PWrite) : (s.afterCsrw w).mem = s.mem := (rfl)

@[simp] theorem postFault_mem (s : State) (ctx c k : Nat) (sec : Bool) (r : TrapRec) :
    (s.postFault ctx c k sec r).mem = s.mem := by
  simp [State.postFault]

theorem mailTurn_keeps {s : State} {i : MailCmd} {k : Out} (hk : k.Keeps s.mem) : (s.mailTurn i k).Keeps s.mem := by
  unfold State.mailTurn
  split
  · simp
  · simp
  · exact hk

theorem mailTurn_canon {s : State} {i : MailCmd} {k : Out} (h : s.mem.Canon) (hk : k.Canon) :
    (s.mailTurn i k).Canon := by
  unfold State.mailTurn
  split
  · exact Out.canon_next.2 h
  · exact Out.canon_next.2 h
  · exact hk

@[simp] theorem mailStatus_mem (s : State) (n : Nat) : (s.mailStatus n).mem = s.mem := (rfl)

/-- Of a mailbox command only its change f of the state bears on the memories. -/
theorem mailbox_keeps {s : State} {i : MailCmd} {bad : Option Nat} {f : State → State} (hf : (f s).mem = s.mem) :
    (s.mailbox i bad f).Keeps s.mem := by
  refine mailTurn_keeps ?_
  split
  · simp
  · split <;> simp [hf]

theorem mailbox_canon {s : State} {i : MailCmd} {bad : Option Nat} {f : State → State} (h : s.mem.Canon)
    (hf : (f s).mem.Canon) : (s.mailbox i bad f).Canon := by
  refine mailTurn_canon h ?_
  split
  · simp [h]
  · split <;> simp [h, hf]

/-! ## Vector operands (Machine/Operands) -/

@[simp] theorem fRes_mem (s : State) (d : Reg) (lat : Nat) (r : Nat × Fl) : (s.fRes d lat r).mem = s.mem :=
  (rfl)

@[simp] theorem vecW_mem (s : State) (w : Nat) (m : BitVec 3) (d : Reg) (lat : Nat) (f : Nat → Nat × Fl) :
    (s.vecW w m d lat f).mem = s.mem :=
  (rfl)

@[simp] theorem rowW_mem (s : State) (d : Reg) (lat row : Nat) (fl : Fl) : (s.rowW d lat row fl).mem = s.mem :=
  (rfl)

@[simp] theorem emulate_keeps (s : State) (lat : Nat) (ws : List PWrite) (fl : Fl) :
    (s.emulate lat ws fl).Keeps s.mem := by
  unfold State.emulate
  dsimp only
  split <;> simp

/-! ## Homes of bytes, marks and translation (Machine/Memory) -/

@[simp] theorem fillLayer_canon {s : State} {l : Loc} (h : s.mem.Canon) : (s.fillLayer l).mem.Canon :=
  fillLayer_ok h

/-- Every store of a sequencer goes home by `wrHome`. -/
@[simp] theorem wrHome_canon {s : State} {l : Loc} {b : Byte} {i : WrInfo} (h : s.mem.Canon) :
    (s.wrHome l b i).mem.Canon :=
  wrHome_ok h

@[simp] theorem wrHomes_canon {s : State} {by_ : Option (Nat × Nat × Bool)} {l : List (Loc × Byte)}
    (h : s.mem.Canon) : (s.wrHomes by_ l).mem.Canon :=
  wrHomes_ok h

@[simp] theorem setMark_canon {s : State} {l : Loc} {m : Option LineMark} (h : s.mem.Canon) :
    (s.setMark l m).mem.Canon :=
  setMark_ok h

@[simp] theorem poison_canon {s : State} {l : Loc} {hop : BitVec 4} (h : s.mem.Canon) : (s.poison l hop).mem.Canon :=
  poison_ok h

@[simp] theorem tlbFill_canon {s : State} {cl : Option Nat} {ctx va : Nat} (h : s.mem.Canon) :
    (s.tlbFill cl ctx va).mem.Canon := by
  unfold State.tlbFill
  split <;> exact h

@[simp] theorem l2Enter_canon {s : State} {part pa : Nat} (h : s.mem.Canon) : (s.l2Enter part pa).mem.Canon := by
  unfold State.l2Enter
  split <;> simp [h]

@[simp] theorem l2Flush_canon {s : State} {part : Nat} {slices : List Nat} (h : s.mem.Canon) :
    (s.l2Flush part slices).mem.Canon :=
  h

@[simp] theorem l2Touch_canon {s : State} {part : Nat} {l : Leaf} {loc : Loc} (h : s.mem.Canon) :
    (s.l2Touch part l loc).mem.Canon := by
  unfold State.l2Touch
  split
  · split <;> simp [h]
  · exact h

@[simp] theorem freeExch_canon {s : State} (h : s.mem.Canon) : s.freeExch.mem.Canon := h

@[simp] theorem touch_mem (s : State) (c k : Nat) (u : UnitKind) (idx : Nat) : (s.touch c k u idx).mem = s.mem := by
  simp [State.touch]

@[simp] theorem takePorts_mem (s : State) (ps : List (Nat × Nat × Bool)) : (s.takePorts ps).mem = s.mem :=
  foldl_mem fun _ _ => rfl

@[simp] theorem touchVa_mem (s : State) (ctx va n : Nat) : (s.touchVa ctx va n).mem = s.mem :=
  foldl_mem fun t l => by
    dsimp only
    (repeat' split) <;> simp

@[simp] theorem pickVer_mem (s : State) (cl k : Nat) (sec : Bool) (phase n : Nat) (vs : List Ver) :
    (s.pickVer cl k sec phase n vs).2.mem = s.mem := by
  unfold State.pickVer
  dsimp only
  (repeat' split) <;> rfl

@[simp] theorem seqByteAt_mem (s : State) (cl k : Nat) (sec : Bool) (phase : Nat) (l : Loc) (hop : Nat) :
    (s.seqByteAt cl k sec phase l hop).2.2.mem = s.mem := by
  simp [State.seqByteAt]

@[simp] theorem poolByteAt_mem (s : State) (cl k : Nat) (sec : Bool) (phase n : Nat) (now : Option Byte) :
    (s.poolByteAt cl k sec phase n now).2.mem = s.mem := by
  simp [State.poolByteAt]

@[simp] theorem seqWrite_canon {s : State} {cl k : Nat} {sec never : Bool} {l : Loc} {b : Byte} {op : Nat}
    {mark : Option LineMark} (h : s.mem.Canon) : (s.seqWrite cl k sec never l b op mark).mem.Canon := by
  unfold State.seqWrite
  split <;> simp [h]

@[simp] theorem faultWriters_mem (s : State) (cl : Nat) (hs : List Held) (r : TrapRec) :
    (s.faultWriters cl hs r).mem = s.mem := by
  simp [State.faultWriters]

@[simp] theorem lineHome_canon {s : State} {cl line : Nat} {hs : List Held} {vis wide : Option Nat}
    (h : s.mem.Canon) : (s.lineHome cl line hs vis wide).mem.Canon := by
  have hw (w : Held → WrInfo) : (hs.foldl (fun t x => t.wrHome (locOfNum x.pa x.key) x.byte (w x)) s).mem.Canon :=
    foldl_canon h fun _ _ ht => wrHome_canon ht
  have hl (w : Held → WrInfo) (n pa : Nat) :
      ((hs.foldl (fun t x => t.wrHome (locOfNum x.pa x.key) x.byte (w x)) s).l2Enter n pa).mem.Canon :=
    l2Enter_canon (hw w)
  unfold State.lineHome
  dsimp only
  split
  · simp [h]
  · generalize locOfNum (64 * line) = l
    cases l <;> dsimp only
    case phys pa x =>
      split
      · split <;> simp [hl]
      · exact hl _ _ _
    all_goals
      split
      · split <;> simp [hw]
      · exact hw _

@[simp] theorem writeHome_canon {s : State} {cl : Nat} {f : Held → Bool} {vis wide : Option Nat} (h : s.mem.Canon) :
    (s.writeHome cl f vis wide).mem.Canon :=
  foldl_canon h fun _ _ => lineHome_canon

@[simp] theorem showHome_canon {s : State} {cl vis : Nat} {wide : Bool} {f : OldByte → Bool} (h : s.mem.Canon) :
    (s.showHome cl vis wide f).mem.Canon :=
  h

@[simp] theorem release_canon {s : State} {cl k : Nat} {sec : Bool} {sc : Scope} (h : s.mem.Canon) :
    (s.release cl k sec sc).mem.Canon := by
  unfold State.release
  split
  · exact h
  · dsimp only
    split
    · exact h
    · exact writeHome_canon (showHome_canon h)

@[simp] theorem pushHome_canon {s : State} {cl k : Nat} {sec : Bool} (h : s.mem.Canon) :
    (s.pushHome cl k sec).mem.Canon := by
  simp [State.pushHome, h]

@[simp] theorem acquire_mem (s : State) (cl k : Nat) (sec : Bool) : (s.acquire cl k sec).mem = s.mem := (rfl)

@[simp] theorem boundary_canon {s : State} {cl k : Nat} {sec : Bool} {sc : Scope} (h : s.mem.Canon) :
    (s.boundary cl k sec sc).mem.Canon := by
  simp [State.boundary, h]

@[simp] theorem wholeSealed_canon {s : State} {ls : List (Loc × Byte)} (h : s.mem.Canon) :
    (s.wholeSealed ls).mem.Canon := by
  unfold State.wholeSealed
  exact foldl_canon h fun t x ht => by split <;> simp [ht]

theorem writeVa_canon {s t : State} (h : s.mem.Canon) {ctx va : Nat} {bs : List Byte}
    (ht : s.writeVa ctx va bs = .ok t) : t.mem.Canon := by
  unfold State.writeVa at ht
  (repeat' split at ht) <;> cases ht
  simp [h]

@[simp] theorem fillVa_canon {s : State} {ctx va n : Nat} (h : s.mem.Canon) : (s.fillVa ctx va n).mem.Canon := by
  unfold State.fillVa
  exact foldl_canon h fun t x ht => by split <;> simp [ht]

@[simp] theorem ownerFault_mem (s : State) (ctx : Nat) (r : TrapRec) : (s.ownerFault ctx r).mem = s.mem := by
  unfold State.ownerFault
  dsimp only
  (repeat' split) <;> simp

@[simp] theorem agentFails_canon {s : State} {ctx va : Nat} {r : TrapRec} (h : s.mem.Canon) :
    (s.agentFails ctx va r).mem.Canon := by
  unfold State.agentFails
  dsimp only
  (repeat' split) <;> simp [h]

@[simp] theorem writeFails_canon {s : State} {ctx : Nat} {r : TrapRec} (h : s.mem.Canon) :
    (s.writeFails ctx r).mem.Canon := by
  unfold State.writeFails
  dsimp only
  (repeat' split) <;> simp [h]

@[simp] theorem meetVa_canon {s : State} {ctx va n : Nat} (h : s.mem.Canon) : (s.meetVa ctx va n).mem.Canon :=
  foldl_canon (fillVa_canon h) fun t l ht => by
    split
    · exact ht
    · dsimp only
      split
      · exact ht
      · exact agentFails_canon ht

/-! ## Scratch, landings and the line buffer (Machine/Scratch) -/

@[simp] theorem readBeats_mem (s : State) (c : Nat) : (s.readBeats c).mem = s.mem := by simp [State.readBeats]

@[simp] theorem perform_mem (s : State) (c : Nat) (l : Landing) : (s.perform c l).mem = s.mem := by
  unfold State.perform
  (repeat' split) <;> simp

@[simp] theorem landCluster_mem (s : State) (c : Nat) : (s.landCluster c).mem = s.mem := by
  simp [State.landCluster]

/-! ## The port to the pool (Machine/PoolPort) -/

/-- A charge against the budget of a class leaves the memories. -/
theorem charge_mem {s t : State} {part cls n : Nat} (h : s.charge part cls n = some t) : t.mem = s.mem := by
  unfold State.charge at h
  dsimp only at h
  (repeat' split at h) <;> cases h <;> simp

@[simp] theorem addReq_mem (s : State) (r : PoolReq) : (s.addReq r).mem = s.mem := (rfl)

@[simp] theorem forgetLine_canon {s : State} {part : Nat} {o : BitVec 40} {line : Nat} (h : s.mem.Canon) :
    (s.forgetLine part o line).mem.Canon :=
  h

@[simp] theorem refreshLine_canon {s : State} {part : Nat} {o : BitVec 40} {line id : Nat} {bs : List Byte}
    (h : s.mem.Canon) : (s.refreshLine part o line id bs).mem.Canon := by
  unfold State.refreshLine
  split
  · split <;> simp [h]
  · simp [h]

@[simp] theorem poolSeen_mem (s : State) (r : PoolReq) : (s.poolSeen r).mem = s.mem := by
  simp [State.poolSeen]

@[simp] theorem updateCopy_canon {s : State} {o : BitVec 40} {line : Nat} {vs : List (Nat × Ver)} {part : Nat}
    (h : s.mem.Canon) : (s.updateCopy o line vs part).mem.Canon := by
  unfold State.updateCopy
  split <;> simp [h]

@[simp] theorem poolWrote_canon {s : State} {o : BitVec 40} {line : Nat} {vs : List (Nat × Ver)} (h : s.mem.Canon) :
    (s.poolWrote o line vs).mem.Canon := by
  simp +contextual [State.poolWrote, h]

@[simp] theorem modXfer_mem (s : State) (id : Nat) (f : Xfer → Xfer) : (s.modXfer id f).mem = s.mem := (rfl)

@[simp] theorem dropXfer_mem (s : State) (id : Nat) : (s.dropXfer id).mem = s.mem := (rfl)

@[simp] theorem fillSegs_mem (s : State) (xid : Nat) (f : Nat → Bool) (o : BitVec 40) (line : Nat) (bs : List Byte) :
    (s.fillSegs xid f o line bs).mem = s.mem :=
  (rfl)

@[simp] theorem poolRead_mem (s : State) (r : PoolReq) (bs : List Byte) : (s.poolRead r bs).mem = s.mem := by
  unfold State.poolRead
  split <;> simp

@[simp] theorem localBytes_mem (s : State) (r : PoolReq) (gs : List Nat) (a n : Nat) :
    (s.localBytes r gs a n).2.mem = s.mem := by
  induction n generalizing s a with
  | zero => rfl
  | succ n ih =>
    unfold State.localBytes
    dsimp only
    split <;> simp [ih]

@[simp] theorem takeSeq_mem (s : State) (r : PoolReq) : (s.takeSeq r).2.mem = s.mem := by
  unfold State.takeSeq
  split <;> rfl

@[simp] theorem sendReq_mem (s : State) (r : PoolReq) : (s.sendReq r).mem = s.mem := by simp [State.sendReq]

@[simp] theorem sendPart_mem (s : State) (r : PoolReq) (n : Nat) : (s.sendPart r n).mem = s.mem := by
  simp [State.sendPart]

@[simp] theorem readFault_mem (s : State) (r : PoolReq) (m : LineMark) : (s.readFault r m).mem = s.mem := by
  simp [State.readFault]

@[simp] theorem trySend_mem (s : State) (r : PoolReq) : (s.trySend r).mem = s.mem := by
  unfold State.trySend
  split
  · rfl
  · dsimp only
    generalize ((r.kind == kRead || r.kind == kGet) && r.right != 15) = read
    generalize hb : (if read = true then s.localBytes r _ _ _ else ([], s)) = p
    have hp : p.2.mem = s.mem := by rw [← hb]; split <;> simp
    generalize (if read = true then r.knows p.1 else r) = q
    split
    · simp
    · split
      · simp [hp]
      · split
        · split
          · simp [charge_mem ‹_›, hp]
          · split
            · rfl
            · split
              · rfl
              · simp [charge_mem ‹_›]
        · rfl

@[simp] theorem pumpPool_mem (s : State) : s.pumpPool.mem = s.mem := by
  unfold State.pumpPool
  exact foldl_mem fun t x => by split <;> simp

@[simp] theorem flushEntry_mem (s : State) (cl : Nat) (w : PoolWb) : (s.flushEntry cl w).mem = s.mem := (rfl)

@[simp] theorem flushPool_mem (s : State) (cl k : Nat) (sec : Bool) : (s.flushPool cl k sec).mem = s.mem := by
  simp [State.flushPool]

@[simp] theorem releasePool_mem (s : State) (cl k : Nat) (sec : Bool) (n : Nat) :
    (s.releasePool cl k sec n).mem = s.mem :=
  (rfl)

@[simp] theorem pstEnter_mem (s : State) (cl k : Nat) (sec : Bool) (n : Nat) (o : BitVec 40) (a : Nat)
    (bs : List Byte) (fence : Word) : (s.pstEnter cl k sec n o a bs fence).1.mem = s.mem := by
  unfold State.pstEnter
  dsimp only
  split
  · split <;> simp
  · rfl

@[simp] theorem promote_canon {s : State} {cl : Nat} {nums : List Nat} (h : s.mem.Canon) :
    (s.promote cl nums).mem.Canon := by
  unfold State.promote
  exact foldl_canon h fun t x ht => by simp [ht]

@[simp] theorem promoteFor_canon {s : State} {cl k : Nat} {sec : Bool} {b : Bound} (h : s.mem.Canon) :
    (s.promoteFor cl k sec b).mem.Canon := by
  unfold State.promoteFor
  split <;> simp [h]

@[simp] theorem passBound_canon {s : State} {cl k : Nat} {sec : Bool} {b : Bound} (h : s.mem.Canon) :
    (s.passBound cl k sec b).mem.Canon := by
  simp [State.passBound, h]

@[simp] theorem askProbe_mem (s : State) (cl k : Nat) (sec : Bool) (b : Bound) (peers : List Nat) :
    (s.askProbe cl k sec b peers).mem = s.mem :=
  (rfl)

@[simp] theorem tryBound_canon {s : State} {cl k : Nat} {sec : Bool} {b : Bound} (h : s.mem.Canon) :
    (s.tryBound cl k sec b).mem.Canon := by
  unfold State.tryBound
  split
  · exact h
  · split <;> simp [h]

@[simp] theorem probeAcked_mem (s : State) (peer cl k : Nat) (sec : Bool) (n : Nat) :
    (s.probeAcked peer cl k sec n).mem = s.mem :=
  (rfl)

@[simp] theorem probeAsked_canon {s : State} {peer ctx base len : Nat} (h : s.mem.Canon) :
    (s.probeAsked peer ctx base len).mem.Canon := by
  unfold State.probeAsked
  split <;> simp [h]

@[simp] theorem settleN_canon {s : State} {cl k : Nat} {sec : Bool} {n : Nat} (h : s.mem.Canon) :
    (s.settleN cl k sec n).mem.Canon := by
  induction n generalizing s with
  | zero => exact h
  | succ n ih =>
    unfold State.settleN
    split
    · exact h
    · split
      · exact ih (by simp [h])
      · exact h

@[simp] theorem fencePush_canon {s : State} {cl k : Nat} {sec : Bool} (h : s.mem.Canon) :
    (s.fencePush cl k sec).mem.Canon := by
  unfold State.fencePush
  split <;> simp [h]

@[simp] theorem settle_canon {s : State} {cl k : Nat} {sec : Bool} (h : s.mem.Canon) :
    (s.settle cl k sec).mem.Canon := by
  simp [State.settle, h]

@[simp] theorem startBound_canon {s : State} {cl k : Nat} {sec : Bool} {sc : Scope} {base len : Nat}
    (h : s.mem.Canon) : (s.startBound cl k sec sc base len).mem.Canon := by
  simp [State.startBound, h]

@[simp] theorem startFence_canon {s : State} {cl k : Nat} {sec : Bool} {sc : Scope} (h : s.mem.Canon) :
    (s.startFence cl k sec sc).mem.Canon := by
  simp [State.startFence, h]

/-! ## Control flow, phases and fences (Machine/Control) -/

@[simp] theorem redirect_mem (s : State) (t : BitVec 52) (pop cost : Nat) : (s.redirect t pop cost).mem = s.mem :=
  (rfl)

@[simp] theorem prepare_mem (s : State) (t : BitVec 2) (v : BitVec 52) : (s.prepare t v).mem = s.mem := (rfl)

@[simp] theorem execBr_keeps (t : BitVec 2) (cond pop : BitVec 3) (a : Reg) (s : State) :
    (execBr t cond pop a s).Keeps s.mem := by
  unfold execBr
  split <;> simp

@[simp] theorem fillFetch_canon {s : State} {cl ctx va : Nat} (h : s.mem.Canon) :
    (s.fillFetch cl ctx va).mem.Canon := by
  unfold State.fillFetch
  split <;> simp [h]

theorem loopPush_canon {s : State} {last c : Nat} (h : s.mem.Canon) : (s.loopPush last c).Canon := by
  unfold State.loopPush
  refine Out.canon_checked h ?_
  split
  · exact fillFetch_canon h
  · exact h

theorem execLoop_canon {a : Reg} {imm : Imm} {s : State} (h : s.mem.Canon) : (execLoop a imm s).Canon :=
  loopPush_canon h

theorem execLoopi_canon {cnt : Imm} {imm : BitVec 13} {s : State} (h : s.mem.Canon) : (execLoopi cnt imm s).Canon :=
  loopPush_canon h

theorem execTend_keeps (s : State) : (execTend s).Keeps s.mem := by
  unfold execTend
  split
  · exact Out.keeps_checked (by simp)
  · simp

@[simp] theorem execYieldOp_keeps (s : State) : (execYieldOp s).Keeps s.mem := by
  unfold execYieldOp
  split
  · simp
  · split <;> simp

theorem execTrap_keeps (code : BitVec 24) (s : State) : (execTrap code s).Keeps s.mem :=
  Out.keeps_next.2 (by simp [State.request])

theorem execSvc_keeps (code : BitVec 24) (s : State) : (execSvc code s).Keeps s.mem :=
  Out.keeps_next.2 (by simp [State.request])

@[simp] theorem gwcond_mem (s : State) (op : CondOp) (v m : Word) : (s.gwcond op v m).mem = s.mem := by
  unfold State.gwcond
  split <;> rfl

@[simp] theorem execPhase_canon {sc : Scope} {s : State} (h : s.mem.Canon) : (execPhase sc s).Canon := by
  simp [execPhase, h]

@[simp] theorem execPhaseProbe_canon {sc : Scope} {a b : Reg} {s : State} (h : s.mem.Canon) :
    (execPhaseProbe sc a b s).Canon := by
  simp [execPhaseProbe, h]

@[simp] theorem execFence_canon {sc : Scope} {s : State} (h : s.mem.Canon) : (execFence sc s).Canon := by
  simp [execFence, h]

/-! ## Transfers (Machine/Transfer) -/

@[simp] theorem addXfer_mem (s : State) (t : Xfer) : (s.addXfer t).mem = s.mem := (rfl)

@[simp] theorem lineDone_mem (s : State) (id idx : Nat) : (s.lineDone id idx).mem = s.mem := (rfl)

@[simp] theorem modCe_mem (s : State) (c n : Nat) (f : CopyEng → CopyEng) : (s.modCe c n f).mem = s.mem :=
  (rfl)

@[simp] theorem engineFault_mem (s : State) (c n ctx : Nat) (r : TrapRec) (at_ : Nat) :
    (s.engineFault c n ctx r at_).mem = s.mem := by
  simp [State.engineFault]

@[simp] theorem xferFault_mem (s : State) (t : Xfer) (r : TrapRec) (a : Nat) : (s.xferFault t r a).mem = s.mem := by
  unfold State.xferFault
  split <;> simp

@[simp] theorem seqBytes_mem (s : State) (t : Xfer) (l : Leaf) (va n : Nat) :
    (s.seqBytes t l va n).2.2.mem = s.mem := by
  induction n generalizing s va with
  | zero => rfl
  | succ n ih =>
    unfold State.seqBytes
    dsimp only
    split <;> simp [ih]

theorem readEnd_canon {s u : State} {t : Xfer} {e : End} {n : Nat} {g : Got} (h : s.mem.Canon)
    (hr : s.readEnd t e n = .ok (g, u)) : u.mem.Canon := by
  have hl (va : Nat) (l : Leaf) (loc : Loc) :
      (((s.tlbFill (some t.cl) t.ctx va).fillLayer loc).l2Touch t.part l loc).mem.Canon :=
    l2Touch_canon (fillLayer_canon (tlbFill_canon h))
  unfold State.readEnd at hr
  cases e <;> dsimp only at hr
  case glob va =>
    split at hr
    · cases hr
    · split at hr <;> cases hr
      · exact (seqBytes_mem ..).symm ▸ hl _ _ _
      · exact hl _ _ _
  all_goals cases hr; exact h

theorem readSegs_canon {s u : State} {t : Xfer} {whole : Bool} {l : List Seg} {bs : List Byte} {m : Option LineMark}
    (h : s.mem.Canon) (hr : s.readSegs t whole l = .ok (bs, m, u)) : u.mem.Canon := by
  induction l generalizing s whole bs m u with
  | nil => cases hr; exact h
  | cons x r ih =>
    cases x <;> unfold State.readSegs at hr
    case fill =>
      split at hr <;> cases hr
      exact ih h ‹_›
    case half =>
      split at hr
      · cases hr
      · split at hr
        · cases hr
        · split at hr <;> cases hr
          exact ih (readEnd_canon h ‹_›) ‹_›
    case src =>
      split at hr
      · cases hr
      · dsimp only at hr
        split at hr
        · split at hr <;> cases hr
          exact readEnd_canon h ‹_›
        · split at hr <;> cases hr
          exact ih (readEnd_canon h ‹_›) ‹_›

@[simp] theorem engPut_mem (s : State) (c off : Nat) (bs : List Byte) (m : Option LineMark) :
    (s.engPut c off bs m).mem = s.mem :=
  (rfl)

@[simp] theorem seqWrites_canon {s : State} {t : Xfer} {never : Bool} {m : Option LineMark} {l : List (Loc × Byte)}
    (h : s.mem.Canon) : (seqWrites t never m l s).mem.Canon := by
  induction l generalizing s with
  | nil => exact h
  | cons x r ih => exact ih (by simp [h])

@[simp] theorem putGlob_canon {s : State} {t : Xfer} {va : Nat} {l : Leaf} {ps : List (Loc × Byte)} {l0 : Loc}
    {m : Option LineMark} (h : s.mem.Canon) : (s.putGlob t va l ps l0 m).mem.Canon := by
  unfold State.putGlob
  dsimp only
  generalize h1 : (if t.kind = .gput then _ else _) = s1
  have h1 : s1.mem.Canon := by
    rw [← h1]
    split
    · exact seqWrites_canon (l2Touch_canon (tlbFill_canon h))
    · exact wrHomes_canon (l2Touch_canon (tlbFill_canon h))
  split
  · exact h1
  · split <;> simp [h1]

/-- A transfer that ends in global memory goes through `wrHomes`; one that ends at the host writes its table at once. -/
theorem writeEnd_canon {s u : State} {t : Xfer} {e : End} {bs : List Byte} {m : Option LineMark} (h : s.mem.Canon)
    (hw : s.writeEnd t e bs m = .ok (some u)) : u.mem.Canon := by
  unfold State.writeEnd at hw
  cases e <;> dsimp only at hw
  case scratch =>
    (repeat' split at hw) <;> cases hw
    exact h
  case glob =>
    (repeat' split at hw) <;> cases hw <;> exact putGlob_canon h
  case host =>
    cases hw
    obtain ⟨hp, hl, hh⟩ := Mem.canon_iff.1 h
    exact Mem.canon_iff.2 ⟨hp, hl, twf_writeB hh⟩
  case arena => cases hw; exact h
  case side => cases hw; exact h
  case pool => cases hw

@[simp] theorem poisonAt_canon {s : State} {cl : Nat} {loc : Loc} (h : s.mem.Canon) :
    (s.poisonAt cl loc).mem.Canon := by
  unfold State.poisonAt
  dsimp only
  (repeat' split) <;> simp [h]

@[simp] theorem poisonSrc_canon {s : State} {t : Xfer} {l : Line} (h : s.mem.Canon) : (s.poisonSrc t l).mem.Canon :=
  foldl_canon h fun u g hu => by (repeat' split) <;> simp [hu]

@[simp] theorem poisonDst_canon {s : State} {t : Xfer} {l : Line} (h : s.mem.Canon) :
    (s.poisonDst t l).mem.Canon := by
  unfold State.poisonDst
  dsimp only
  split <;> simp [h]

@[simp] theorem linePool_mem (s : State) (t : Xfer) (l : Line) (k : Cap) (line : Nat) (write : Bool)
    (enables : Word) (data : List Byte) : (s.linePool t l k line write enables data).mem = s.mem :=
  (rfl)

@[simp] theorem askPool_mem (s : State) (t : Xfer) (l : Line) (k : Cap) (line : Nat) :
    (s.askPool t l k line).mem = s.mem :=
  (rfl)

@[simp] theorem landPool_canon {s : State} {t : Xfer} {l : Line} (h : s.mem.Canon) : (s.landPool t l).mem.Canon := by
  unfold State.landPool
  split
  · dsimp only
    split
    · simp [h]
    · split
      · simp [h]
      · split
        · split <;> simp [h]
        · simpa using readSegs_canon h ‹_›
  · dsimp only
    split <;> simp [h]

@[simp] theorem moveSide_mem (s s0 : State) (l : Line) : (s.moveSide s0 l).mem = s.mem := by
  unfold State.moveSide
  split
  · exact foldl_mem fun _ _ => rfl
  · rfl

@[simp] theorem finishXfer_mem (s : State) (id : Nat) : (s.finishXfer id).mem = s.mem := by
  unfold State.finishXfer
  (repeat' split) <;> rfl

@[simp] theorem landLine_canon {s : State} {t : Xfer} {l : Line} (h : s.mem.Canon) : (s.landLine t l).mem.Canon := by
  unfold State.landLine
  split
  · simp [h]
  · split
    · simp [h]
    · split
      · exact h
      · split
        · split <;> simp [h]
        · have h1 := readSegs_canon h ‹_›
          split
          · split <;> simp [h1]
          · exact h
          · simpa using writeEnd_canon h1 ‹_›

theorem execLineLanding_canon {xfer line : Nat} {s : State} (h : s.mem.Canon) :
    (execLineLanding xfer line s).Canon := by
  unfold execLineLanding
  split
  · simp [h]
  · split
    · simp [h]
    · split
      · dsimp only
        split
        · simp [h]
        · split
          · simp [h]
          · simp [charge_mem ‹_›, h]
      · simp [h]

@[simp] theorem execGputComplete_keeps (xfer : Nat) (s : State) : (execGputComplete xfer s).Keeps s.mem := by
  unfold execGputComplete
  split
  · simp
  · split <;> simp

/-! ## Memory instructions (Machine/MemOps) -/

@[simp] theorem execSstatVal_keeps (d : Reg) (q : BitVec 3) (s : State) : (execSstatVal d q s).Keeps s.mem := by
  unfold execSstatVal
  dsimp only
  split <;> simp

theorem execGget_canon {d a b : Reg} {s : State} (h : s.mem.Canon) : (execGget d a b s).Canon := by
  unfold execGget
  dsimp only
  split
  · simp [h]
  · exact Out.canon_checked h (by simp [h])

theorem execGput_canon {d a b : Reg} {s : State} (h : s.mem.Canon) : (execGput d a b s).Canon := by
  unfold execGput
  dsimp only
  split
  · simp [h]
  · exact Out.canon_checked h (by simp [h])

/-! ## Pool instructions and residency (Machine/PoolOps) -/

@[simp] theorem askLine_mem (s : State) (o : BitVec 40) (a n : Nat) (dest : PoolDest) :
    (s.askLine o a n dest).mem = s.mem :=
  (rfl)

@[simp] theorem askLines_mem (s : State) (o : BitVec 40) (xid : Nat) (ps : List (Cap × Nat × Nat)) (l : List Nat) :
    (s.askLines o xid ps l).mem = s.mem := by
  induction l generalizing s with
  | nil => rfl
  | cons x r ih => exact ih _

@[simp] theorem execPget_keeps (k : BitVec 4) (a b l : Reg) (s : State) : (execPget k a b l s).Keeps s.mem := by
  unfold execPget
  dsimp only
  split <;> simp

@[simp] theorem unwant_mem (s : State) (ctx : Nat) (o : BitVec 40) (off : Nat) (gb : Word) :
    (s.unwant ctx o off gb).mem = s.mem :=
  (rfl)

@[simp] theorem execLrel_keeps (k : BitVec 4) (a b : Reg) (s : State) : (execLrel k a b s).Keeps s.mem := by
  unfold execLrel
  dsimp only
  (repeat' split) <;> simp

@[simp] theorem rangeOf_mem (s : State) (part : Nat) (h : HandleE) : (s.rangeOf part h).2.mem = s.mem := by
  unfold State.rangeOf
  split <;> rfl

@[simp] theorem modRange_mem (s : State) (i : Nat) (f : RangeRec → RangeRec) : (s.modRange i f).mem = s.mem := by
  unfold State.modRange
  split <;> rfl

@[simp] theorem dropLines_mem (s : State) : s.dropLines.mem = s.mem := (rfl)

@[simp] theorem evictNow_mem (s : State) (i : Nat) (demote : Bool) : (s.evictNow i demote).mem = s.mem := by
  unfold State.evictNow
  split <;> simp

@[simp] theorem evict_mem (s : State) (i : Nat) (demote : Bool) : (s.evict i demote).mem = s.mem := by
  unfold State.evict
  split <;> simp

@[simp] theorem evictPending_mem (s : State) (i : Nat) : (s.evictPending i).mem = s.mem := by
  unfold State.evictPending
  split
  · rfl
  · split <;> simp

@[simp] theorem makeRoom_mem (s : State) (pages n : Nat) : (s.makeRoom pages n).mem = s.mem := by
  induction n generalizing s with
  | zero => rfl
  | succ n ih =>
    unfold State.makeRoom
    dsimp only
    (repeat' split) <;> simp [ih]

@[simp] theorem promoteRange_mem (s : State) (i : Nat) : (s.promoteRange i).mem = s.mem := by
  unfold State.promoteRange
  split <;> simp

@[simp] theorem askPromotion_mem (s : State) (i : Nat) (r : RangeRec) (a n : Nat) :
    (s.askPromotion i r a n).mem = s.mem :=
  (rfl)

@[simp] theorem promoteStep_mem (s : State) (i : Nat) : (s.promoteStep i).mem = s.mem := by
  unfold State.promoteStep
  split <;> simp

@[simp] theorem pumpResidency_mem (s : State) : s.pumpResidency.mem = s.mem := by simp [State.pumpResidency]

@[simp] theorem onRange_keeps {s : State} {a : Reg} {f : Nat → State → State} (hf : ∀ i t, (f i t).mem = t.mem) :
    (s.onRange a f).Keeps s.mem :=
  Out.keeps_checked (by simp [hf])

@[simp] theorem dropUnnamed_mem (s : State) : s.dropUnnamed.mem = s.mem := (rfl)

@[simp] theorem execPromotionComplete_keeps (range : Nat) (s : State) :
    (execPromotionComplete range s).Keeps s.mem := by
  unfold execPromotionComplete
  split
  · simp
  · split <;> simp

@[simp] theorem enterFenced_mem (s : State) : s.enterFenced.mem = s.mem := by simp [State.enterFenced]

@[simp] theorem unsend_mem (s : State) (xid idx : Nat) : (s.unsend xid idx).mem = s.mem := (rfl)

@[simp] theorem poolFault_mem (s : State) (r : PoolReq) (ws : List (Nat × Bool × Nat × Nat)) (f : TrapRec) :
    (s.poolFault r ws f).mem = s.mem := by
  unfold State.poolFault
  (repeat' split) <;> simp

@[simp] theorem unask_mem (s : State) (r : PoolReq) : (s.unask r).mem = s.mem := by simp [State.unask]

@[simp] theorem grant_mem (s : State) (r : PoolReq) (e : Nat) : (s.grant r e).mem = s.mem := by
  simp [State.grant]

@[simp] theorem promoted_canon {s : State} {r : PoolReq} {i line : Nat} {again : Bool} {bs : List Byte}
    (h : s.mem.Canon) : (s.promoted r i line again bs).mem.Canon := by
  unfold State.promoted
  split <;> simp [h]

@[simp] theorem poolDone_canon {s : State} {r : PoolReq} {w : Option PoolWb} {rsp : PoolRsp} (h : s.mem.Canon) :
    (s.poolDone r w rsp).mem.Canon := by
  unfold State.poolDone
  dsimp only
  split
  case h_1 q slot _ =>
    cases slot
    · dsimp only
      split
      · exact h
      · exact foldl_canon h fun _ _ => poolWrote_canon
    · dsimp only [tick1_mem]
      split
      · exact h
      · exact foldl_canon h fun _ _ => poolWrote_canon
  · split <;> simp [h]
  · split
    · exact poolWrote_canon h
    · simp [h]
  · simp [h]
  · exact foldl_canon h fun _ _ => promoted_canon
  · split <;> simp [h]
  · simp [h]

@[simp] theorem poolRefused_mem (s : State) (r : PoolReq) : (s.poolRefused r).mem = s.mem := by
  unfold State.poolRefused
  split <;> simp

@[simp] theorem answer_canon {s : State} {r : PoolReq} {rsp : PoolRsp} {reason5 : Nat} (h : s.mem.Canon) :
    (s.answer r rsp reason5).mem.Canon := by
  unfold State.answer
  dsimp only
  rw [pumpResidency_mem]
  split
  · exact poolDone_canon h
  · split <;> split <;> simp [h]

@[simp] theorem countError_mem (s : State) (port : Nat) : (s.countError port).mem = s.mem := (rfl)

@[simp] theorem respond_canon {s : State} {rsp : PoolRsp} (h : s.mem.Canon) : (s.respond rsp).mem.Canon := by
  unfold State.respond
  split
  · exact h
  · split <;> simp [h]

@[simp] theorem execPoolResponse_canon {rsp : PoolRsp} {s : State} (h : s.mem.Canon) :
    (execPoolResponse rsp s).Canon := by
  simp [execPoolResponse, h]

@[simp] theorem execLeaseGrant_canon {rsp : PoolRsp} {s : State} (h : s.mem.Canon) :
    (execLeaseGrant rsp s).Canon := by
  unfold execLeaseGrant
  split <;> simp [h]

@[simp] theorem execPoolRetransmit_canon {req : Nat} {s : State} (h : s.mem.Canon) :
    (execPoolRetransmit req s).Canon := by
  unfold execPoolRetransmit
  (repeat' split) <;> simp [h]

@[simp] theorem execLeaseExpiry_keeps (ctx idx : Nat) (s : State) : (execLeaseExpiry ctx idx s).Keeps s.mem := by
  unfold execLeaseExpiry
  split
  · simp
  · split <;> simp

@[simp] theorem execStreamSlotLand_keeps (arrival : Nat) (s : State) :
    (execStreamSlotLand arrival s).Keeps s.mem := by
  unfold execStreamSlotLand
  split
  · simp
  · split <;> simp

/-! ## Stream arrivals, copy engines and lazy units (Machine/Engines) -/

@[simp] theorem execYieldCycle_keeps (cl core : Nat) (s : State) : (execYieldCycle cl core s).Keeps s.mem := by
  unfold execYieldCycle
  split <;> simp

@[simp] theorem execScratchBufferDrain_keeps (cl bank : Nat) (s : State) :
    (execScratchBufferDrain cl bank s).Keeps s.mem :=
  Out.keeps_next.2 rfl

@[simp] theorem execCopyEntryStart_canon {cl e : Nat} {s : State} (h : s.mem.Canon) :
    (execCopyEntryStart cl e s).Canon := by
  unfold execCopyEntryStart
  dsimp only
  (repeat' split) <;> simp [h]

@[simp] theorem execCopyEntryComplete_keeps (cl e : Nat) (s : State) :
    (execCopyEntryComplete cl e s).Keeps s.mem := by
  unfold execCopyEntryComplete
  split
  · simp
  · split <;> simp

@[simp] theorem unitIn_mem (s : State) (c k : Nat) (kind : UnitKind) (idx : Nat) (b : Banked) :
    (s.unitIn c k kind idx b).mem = s.mem := by
  unfold State.unitIn
  split <;> rfl

@[simp] theorem setTag_mem (s : State) (c k : Nat) (kind : UnitKind) (idx t : Nat) :
    (s.setTag c k kind idx t).mem = s.mem := by
  unfold State.setTag
  split <;> rfl

@[simp] theorem unitSave_mem (s : State) (c k : Nat) (kind : UnitKind) (idx : Nat) :
    (s.unitSave c k kind idx).mem = s.mem := by
  simp [State.unitSave]

@[simp] theorem unitLoad_mem (s : State) (ctx c k : Nat) (kind : UnitKind) (idx : Nat) :
    (s.unitLoad ctx c k kind idx).mem = s.mem := by
  simp [State.unitLoad]

@[simp] theorem execLazyUnitMove_keeps (cl core : Nat) (kind : UnitKind) (idx : Nat) (s : State) :
    (execLazyUnitMove cl core kind idx s).Keeps s.mem := by
  unfold execLazyUnitMove
  dsimp only
  (repeat' split) <;> simp

@[simp] theorem execBudgetWindow_keeps (s : State) : (execBudgetWindow s).Keeps s.mem := by
  unfold execBudgetWindow
  dsimp only
  split <;> simp

@[simp] theorem execClusterCacheEviction_canon {cl line : Nat} {s : State} (h : s.mem.Canon) :
    (execClusterCacheEviction cl line s).Canon := by
  unfold execClusterCacheEviction
  split <;> simp [h]

/-! ## Control registers and shootdowns (Machine/System) -/

@[simp] theorem csrLand_mem (s : State) (c k n : Nat) (v : Word) : (s.csrLand c k n v).mem = s.mem := by
  unfold State.csrLand
  split <;> simp

@[simp] theorem csrWrite_keeps (s : State) (n : Nat) (d : Reg) : (s.csrWrite n d).Keeps s.mem :=
  Out.keeps_checked rfl

@[simp] theorem resumeEngines_mem (s : State) : s.resumeEngines.mem = s.mem := by simp [State.resumeEngines]

theorem execEret_keeps (s : State) : (execEret s).Keeps s.mem := Out.keeps_checked (by simp)

@[simp] theorem dropEntry_canon {s : State} {t : TlbEntry} (h : s.mem.Canon) : (s.dropEntry t).mem.Canon := by
  unfold State.dropEntry
  split
  · exact h
  · simp [h]

@[simp] theorem shoot_canon {s : State} {d : Shootdown} (h : s.mem.Canon) : (s.shoot d).mem.Canon := by
  simp +contextual [State.shoot, h]

@[simp] theorem execShootdownInstant_canon {s : State} (h : s.mem.Canon) : (execShootdownInstant s).Canon := by
  simp +contextual [execShootdownInstant, h]

@[simp] theorem execCopyx_keeps (dst src : Space) (d a b : Reg) (s : State) :
    (execCopyx dst src d a b s).Keeps s.mem := by
  unfold execCopyx
  refine Out.keeps_checked ?_
  dsimp only
  (repeat' split) <;> simp

/-! ## The fabric (Machine/Fabric) -/

@[simp] theorem modFab_mem (s : State) (f : FabricSide → FabricSide) : (s.modFab f).mem = s.mem := (rfl)

@[simp] theorem divert_mem (s : State) (port : Nat) (p : Packet) : (s.divert port p).mem = s.mem := by
  simp [State.divert]

@[simp] theorem leave_mem (s : State) (port : Nat) (p : Packet) : (s.leave port p).mem = s.mem := by
  simp [State.leave]

@[simp] theorem emit_mem (s : State) (r : Route) (p : Packet) : (s.emit r p).mem = s.mem := by
  unfold State.emit
  split <;> simp

@[simp] theorem sendCtl_mem (s : State) (part : Nat) (p : Packet) : (s.sendCtl part p).mem = s.mem := by
  unfold State.sendCtl
  split <;> simp

@[simp] theorem modOp_mem (s : State) (id : Nat) (g : FabOp → FabOp) : (s.modOp id g).mem = s.mem := (rfl)

@[simp] theorem modOut_mem (s : State) (id : Nat) (g : OutPkt → OutPkt) : (s.modOut id g).mem = s.mem := (rfl)

@[simp] theorem modFabSeq_mem (s : State) (f : FabOp) (g : Seq → Seq) : (s.modFabSeq f g).mem = s.mem := by
  simp [State.modFabSeq]

@[simp] theorem sendNotices_mem (s : State) (f : FabOp) : (s.sendNotices f).mem = s.mem := by
  simp [State.sendNotices]

@[simp] theorem fabDone_mem (s : State) (f : FabOp) : (s.fabDone f).mem = s.mem := by simp [State.fabDone]

@[simp] theorem fabStatus_mem (s : State) (f : FabOp) (peer st : Nat) : (s.fabStatus f peer st).mem = s.mem := by
  simp [State.fabStatus]

@[simp] theorem endPkt_mem (s : State) (o : OutPkt) (st : Nat) (payload : List Byte) :
    (s.endPkt o st payload).mem = s.mem := by
  unfold State.endPkt
  dsimp only
  (repeat' split) <;> simp

@[simp] theorem setFabStream_mem (s : State) (ctx : Nat) (t : FabStream) : (s.setFabStream ctx t).mem = s.mem := by
  simp [State.setFabStream]

@[simp] theorem chargeLines_mem (s : State) (part done n : Nat) : (s.chargeLines part done n).2.mem = s.mem := by
  induction n generalizing s done with
  | zero => rfl
  | succ n ih =>
    unfold State.chargeLines
    split
    · rfl
    next t ht => exact (ih t _).trans (charge_mem ht)

@[simp] theorem number_mem (s : State) (o : OutPkt) (acc : List (Route × Packet)) :
    (s.number o acc).2.mem = s.mem := by
  unfold State.number
  dsimp only
  (repeat' split) <;> simp

@[simp] theorem numberAll_mem (s : State) (acc : List (Route × Packet)) (l : List OutPkt) :
    (s.numberAll acc l).2.mem = s.mem := by
  induction l generalizing s acc with
  | nil => rfl
  | cons o r ih => exact (ih _ _).trans (number_mem s o acc)

@[simp] theorem inject_mem (s : State) (o : OutPkt) : (s.inject o).mem = s.mem := by
  unfold State.inject
  split
  · rfl
  · dsimp only
    (repeat' split) <;> simp

@[simp] theorem putHomes_canon {s : State} {ps : List (Loc × Byte)} (h : s.mem.Canon) :
    (s.putHomes ps).mem.Canon := by
  simp [State.putHomes, h]

@[simp] theorem commitGlob_canon {s : State} {id peer owner va : Nat} {bs : List Byte} (h : s.mem.Canon) :
    (s.commitGlob id peer owner va bs).state.mem.Canon := by
  unfold State.commitGlob
  (repeat' split) <;> simp [h]

theorem needGroups_mem {s t : State} {c ctx off n : Nat} (h : s.needGroups c ctx off n = some t) : t.mem = s.mem := by
  unfold State.needGroups at h
  split at h <;> cases h
  simp

@[simp] theorem commitScr_mem (s : State) (c ctx off : Nat) (bs : List Byte) :
    (s.commitScr c ctx off bs).state.mem = s.mem := by
  unfold State.commitScr
  split
  · rfl
  · split
    · exact needGroups_mem ‹_›
    · (repeat' split) <;> simp

@[simp] theorem atomGlob_canon {s : State} {id peer owner va : Nat} {f : Nat → Option Nat} (h : s.mem.Canon) :
    (s.atomGlob id peer owner va f).state.mem.Canon := by
  unfold State.atomGlob
  dsimp only
  (repeat' split) <;> simp [h]

@[simp] theorem atomScr_mem (s : State) (c ctx off : Nat) (f : Nat → Option Nat) :
    (s.atomScr c ctx off f).state.mem = s.mem := by
  unfold State.atomScr
  split
  · rfl
  · split
    · exact needGroups_mem ‹_›
    · dsimp only
      (repeat' split) <;> simp

@[simp] theorem appendRing_canon {s : State} {id : Nat} {e : ExportE} {p : Packet} (h : s.mem.Canon) :
    (s.appendRing id e p).state.mem.Canon := by
  unfold State.appendRing
  dsimp only
  (repeat' split) <;> simp [h]

@[simp] theorem commit_canon {s : State} {id : Nat} {p : Packet} (h : s.mem.Canon) :
    (s.commit id p).state.mem.Canon := by
  unfold State.commit
  dsimp only
  (repeat' split) <;> simp [h]

theorem Commit.canon_of_wait {c : Commit} {t : State} (h : c.state.mem.Canon) (e : c = .wait t) : t.mem.Canon := by
  subst e; exact h

theorem Commit.canon_of_done {c : Commit} {n : Nat} {v : List Byte} {t : State} (h : c.state.mem.Canon)
    (e : c = .done n v t) : t.mem.Canon := by
  subst e; exact h

@[simp] theorem closeAgg_mem (s : State) (a : Agg) : (s.closeAgg a).mem = s.mem := by simp [State.closeAgg]

@[simp] theorem gatherAck_mem (s : State) (src ctx member : Nat) (seq : BitVec 32) (st : Nat) :
    (s.gatherAck src ctx member seq st).mem = s.mem := by
  simp [State.gatherAck]

@[simp] theorem giveAck_mem (s : State) (p : Packet) (st : Nat) (value : List Byte) :
    (s.giveAck p st value).mem = s.mem := by
  simp [State.giveAck]

@[simp] theorem setWindow_mem (s : State) (w : Window) : (s.setWindow w).mem = s.mem := by
  unfold State.setWindow
  split <;> simp

@[simp] theorem drainWin_canon {s : State} {owner src ctx n : Nat} (h : s.mem.Canon) :
    (s.drainWin owner src ctx n).mem.Canon := by
  induction n generalizing s with
  | zero => exact h
  | succ n ih =>
    unfold State.drainWin
    dsimp only
    split
    · exact h
    · split
      · have ht := Commit.canon_of_wait (commit_canon h) ‹_›
        split <;> simp [ht]
      · exact ih (by simpa using Commit.canon_of_done (commit_canon h) ‹_›)

@[simp] theorem areaSave_mem (s : State) (ctx : Nat) : (s.areaSave ctx).mem = s.mem := by
  unfold State.areaSave
  split <;> simp

@[simp] theorem areaLoad_mem (s : State) (ctx : Nat) : (s.areaLoad ctx).mem = s.mem := by
  unfold State.areaLoad
  split <;> simp

@[simp] theorem arriveSeq_canon {s : State} {p : Packet} (h : s.mem.Canon) : (s.arriveSeq p).mem.Canon := by
  unfold State.arriveSeq
  dsimp only
  (repeat' split) <;> simp [h]

@[simp] theorem deliverNotice_canon {s : State} {p : Packet} (h : s.mem.Canon) : (s.deliverNotice p).mem.Canon := by
  unfold State.deliverNotice
  dsimp only
  split
  · exact h
  · split
    · exact h
    · split
      · exact h
      · split
        · exact Commit.canon_of_wait (atomGlob_canon h) ‹_›
        · rw [modFab_mem]; exact Commit.canon_of_done (atomGlob_canon h) ‹_›

@[simp] theorem ackOne_mem (s : State) (ctx peer : Nat) (seq : BitVec 32) (st : Nat) (value : List Byte) :
    (s.ackOne ctx peer seq st value).mem = s.mem := by
  unfold State.ackOne
  split <;> simp

@[simp] theorem ackIn_mem (s : State) (p : Packet) : (s.ackIn p).mem = s.mem := by
  unfold State.ackIn
  split
  · simp
  · exact foldl_mem fun t a => by split <;> simp

@[simp] theorem fmcLand_mem (s : State) (f : FabOp) : (s.fmcLand f).mem = s.mem := by
  unfold State.fmcLand
  split
  · rfl
  · split
    · rfl
    · split
      · exact needGroups_mem ‹_›
      · split <;> simp

@[simp] theorem fabIn_canon {s : State} {p : Packet} (h : s.mem.Canon) : (s.fabIn p).mem.Canon := by
  simp [State.fabIn, h]

@[simp] theorem pumpFabric_canon {s : State} (h : s.mem.Canon) : s.pumpFabric.mem.Canon := by
  have received (t : State) (ht : t.mem.Canon) (l : List Packet) : (l.foldl (fun t p => t.fabIn p) t).mem.Canon :=
    foldl_canon ht fun _ _ => fabIn_canon
  have drained (t : State) (ht : t.mem.Canon) (l : List Window) :
      (l.foldl (fun t w => t.drainWin w.owner w.src w.ctx w.heldPkts.length) t).mem.Canon :=
    foldl_canon ht fun _ _ => drainWin_canon
  have noticed (t : State) (ht : t.mem.Canon) (l : List Packet) :
      (l.foldl (fun t p => t.deliverNotice p) t).mem.Canon :=
    foldl_canon ht fun _ _ => deliverNotice_canon
  unfold State.pumpFabric
  dsimp only
  rw [foldl_mem fun t f => fmcLand_mem t f, foldl_mem fun t f => by split <;> simp, foldl_mem fun t o => inject_mem t o]
  exact noticed _ (drained _ (received (s.modFab _) h _) _) _

@[simp] theorem sourceFault_canon {s : State} {bad : List (Nat × LineMark)} (h : s.mem.Canon) :
    (s.sourceFault bad).mem.Canon := by
  unfold State.sourceFault
  (repeat' split) <;> simp +contextual [h]

@[simp] theorem addFab_mem (s : State) (f : FabOp) (ps : List Packet) : (s.addFab f ps).mem = s.mem := by
  simp [State.addFab]

@[simp] theorem addPieces_mem (s : State) (f : FabOp) (pieces : List (Nat × List Byte))
    (pkts : Nat × List Byte → List Packet) : (s.addPieces f pieces pkts).mem = s.mem := by
  simp [State.addPieces]

@[simp] theorem execFwr_canon {ntf : Bool} {k : BitVec 4} {a b : Reg} {s : State} (h : s.mem.Canon) :
    (execFwr ntf k a b s).Canon := by
  simp [execFwr, h]

@[simp] theorem unsentSlot_mem (s : State) (slot : Option (Nat × Nat)) : (s.unsentSlot slot).mem = s.mem := by
  unfold State.unsentSlot
  split <;> rfl

@[simp] theorem execFreq_canon {q : BitVec 2} {k : BitVec 4} {b : Reg} {s : State} (h : s.mem.Canon) :
    (execFreq q k b s).Canon := by
  unfold execFreq
  refine Out.canon_checked h ?_
  dsimp only
  (repeat' split) <;> simp [h]

@[simp] theorem execFmc_canon {ntf : Bool} {k : BitVec 4} {a b : Reg} {s : State} (h : s.mem.Canon) :
    (execFmc ntf k a b s).Canon := by
  unfold execFmc
  refine Out.canon_checked h ?_
  dsimp only
  (repeat' split) <;> simp [h]

@[simp] theorem badPacket_mem (s : State) (p : Packet) : (s.badPacket p).mem = s.mem := (rfl)

theorem fabArrival_keeps {s : State} {p : Packet} {kind : Nat} {f : State → State} (hf : (f s).mem = s.mem) :
    (s.fabArrival p kind f).Keeps s.mem := by
  unfold State.fabArrival
  (repeat' split) <;> simp [hf]

theorem fabArrival_canon {s : State} {p : Packet} {kind : Nat} {f : State → State} (h : s.mem.Canon)
    (hf : (f s).mem.Canon) : (s.fabArrival p kind f).Canon := by
  unfold State.fabArrival
  (repeat' split) <;> simp [h, hf]

theorem execFabricWriteArrival_canon {p : Packet} {s : State} (h : s.mem.Canon) :
    (execFabricWriteArrival p s).Canon :=
  fabArrival_canon h (by simp [h])

theorem execFabricAtomicArrival_canon {p : Packet} {s : State} (h : s.mem.Canon) :
    (execFabricAtomicArrival p s).Canon :=
  fabArrival_canon h (by simp [h])

theorem execFabricRequestArrival_canon {p : Packet} {s : State} (h : s.mem.Canon) :
    (execFabricRequestArrival p s).Canon :=
  fabArrival_canon h (by simp [h])

@[simp] theorem forwardCopy_mem (s : State) (p : Packet) (m : Nat × BitVec 32) : (s.forwardCopy p m).mem = s.mem := by
  unfold State.forwardCopy
  split <;> simp

theorem execMulticastArrival_canon {p : Packet} {s : State} (h : s.mem.Canon) : (execMulticastArrival p s).Canon := by
  refine fabArrival_canon h ?_
  dsimp only
  split
  · exact h
  · split
    · simp [h]
    · exact arriveSeq_canon (by simp [h])

theorem execFabricAck_keeps (p : Packet) (s : State) : (execFabricAck p s).Keeps s.mem :=
  fabArrival_keeps (by simp)

@[simp] theorem giveUp_mem (s : State) (o : OutPkt) : (s.giveUp o).mem = s.mem := by simp [State.giveUp]

@[simp] theorem execFabricRetransmit_keeps (out : Nat) (s : State) : (execFabricRetransmit out s).Keeps s.mem := by
  unfold execFabricRetransmit
  (repeat' split) <;> simp

theorem execCompletionNotice_canon {p : Packet} {s : State} (h : s.mem.Canon) : (execCompletionNotice p s).Canon :=
  fabArrival_canon h (by
    split
    · exact deliverNotice_canon h
    · exact h)

theorem execResumeMarker_keeps (p : Packet) (s : State) : (execResumeMarker p s).Keeps s.mem :=
  fabArrival_keeps rfl

@[simp] theorem execPacketForward_keeps (p : Packet) (s : State) : (execPacketForward p s).Keeps s.mem := by
  unfold execPacketForward
  dsimp only
  (repeat' split) <;> simp

@[simp] theorem execVirtualEgressSend_keeps (part dst : Nat) (s : State) :
    (execVirtualEgressSend part dst s).Keeps s.mem := by
  unfold execVirtualEgressSend
  split <;> simp

theorem execFabricStreamReset_keeps (ctx peer : Nat) (s : State) : (execFabricStreamReset ctx peer s).Keeps s.mem :=
  mailbox_keeps (by simp)

@[simp] theorem resumePorts_mem (s : State) (ports : List Nat) : (s.resumePorts ports).mem = s.mem := by
  simp [State.resumePorts]

theorem execRouterTableWrite_keeps (part peer : Nat) (entry : RouterEntry) (s : State) :
    (execRouterTableWrite part peer entry s).Keeps s.mem :=
  mailbox_keeps (by simp)

theorem execExportTableWrite_keeps (idx : Nat) (q0 q1 q2 q3 : Word) (s : State) :
    (execExportTableWrite idx q0 q1 q2 q3 s).Keeps s.mem := by
  unfold execExportTableWrite
  exact mailbox_keeps rfl

/-! ## Tasks and pre-emption (Machine/Tasks) -/

@[simp] theorem switchOut_mem (s : State) (c : Nat) (graphs : Bool) : (s.switchOut c graphs).mem = s.mem := by
  unfold State.switchOut
  dsimp only
  split <;> simp

@[simp] theorem enterPhase_canon {s : State} {c k : Nat} {sec : Bool} (h : s.mem.Canon) :
    (s.enterPhase c k sec).mem.Canon := by
  unfold State.enterPhase
  split <;> simp [h]

@[simp] theorem saveGraphs_mem (s : State) (c : Nat) (f : Nat → GraphSlot → Bool) :
    (s.saveGraphs c f).mem = s.mem := by
  unfold State.saveGraphs
  exact foldl_mem fun t x => by split <;> simp

@[simp] theorem loadGraphs_mem (s : State) (ctx c : Nat) (gs : Tbl GraphSlot) :
    (s.loadGraphs ctx c gs).mem = s.mem := by
  simp [State.loadGraphs]

@[simp] theorem switchIn_canon {s : State} {ctx c : Nat} (h : s.mem.Canon) : (s.switchIn ctx c).mem.Canon := by
  have hp (t : State) (ht : t.mem.Canon) :
      ((span 0 8).foldl (fun t k => (t.enterPhase c k false).enterPhase c k true) t).mem.Canon :=
    foldl_canon ht fun _ _ ht => enterPhase_canon (enterPhase_canon ht)
  unfold State.switchIn
  split
  · exact h
  · dsimp only
    split
    · simp [h]
    · cases (s.switchOut c false).shadowOf ctx c with
      | none => simp [h]
      | some sh =>
        dsimp only
        split
        · simp [h]
        · rw [modCtx_mem]
          exact hp _ (by simp [h])

@[simp] theorem preempt_mem (s : State) (ctx c : Nat) : (s.preempt ctx c).mem = s.mem := by
  simp [State.preempt]

@[simp] theorem preemptOn_mem (s : State) (ctx : Nat) (f : Nat → Bool) : (s.preemptOn ctx f).mem = s.mem := by
  simp [State.preemptOn]

@[simp] theorem preemptAll_mem (s : State) (ctx : Nat) : (s.preemptAll ctx).mem = s.mem := by
  simp [State.preemptAll]

theorem execPreemptWatchdog_keeps (ctx cl : Nat) (s : State) : (execPreemptWatchdog ctx cl s).Keeps s.mem := by
  have hf : ((span 0 8).foldl (fun t k =>
      (t.modCore cl k (Core.dropFeeds none)).modE cl k (fun e => e.cut s.cycle)) s).mem = s.mem :=
    foldl_mem fun _ _ => by rw [modE_mem, modCore_mem]
  unfold execPreemptWatchdog
  dsimp only
  (repeat' split) <;> simp [hf]

@[simp] theorem flushCores_mem (s : State) (c : Nat) (f : Nat → Bool) : (s.flushCores c f).mem = s.mem := by
  simp [State.flushCores]

theorem execContextHalt_canon {ctx cl : Nat} {s : State} (h : s.mem.Canon) : (execContextHalt ctx cl s).Canon := by
  unfold execContextHalt
  dsimp only
  split
  all_goals
    split
    · exact Out.canon_next.2 h
    split
    · simp [h]
    refine Out.canon_next.2 ?_
    rw [modCtx_mem, switchOut_mem, foldl_mem fun _ _ => by rw [modE_mem]]
    refine foldl_canon ?_ fun _ _ ht => boundary_canon (boundary_canon ht)
    simp [h]

@[simp] theorem fillRecord_canon {s : State} {ctx record : Nat} {items : List Word → Nat} (h : s.mem.Canon) :
    (s.fillRecord ctx record items).mem.Canon := by
  unfold State.fillRecord
  dsimp only
  split <;> simp [h]

@[simp] theorem itemShared_canon {s : State} {ctx c : Nat} {q : Quads} (h : s.mem.Canon) :
    (s.itemShared ctx c q).mem.Canon := by
  unfold State.itemShared
  split <;> simp [h]

@[simp] theorem startTask_canon {s : State} {l : LaunchWait} (h : s.mem.Canon) : (s.startTask l).mem.Canon := by
  have hi (c : Nat) (t : State) (ht : t.mem.Canon) : (l.items.foldl (fun t q => t.itemShared l.ctx c q) t).mem.Canon :=
    foldl_canon ht fun _ _ => itemShared_canon
  have hp (c : Nat) (t : State) (ht : t.mem.Canon) :
      ((maskCores l.mask).foldl (fun t k => (t.enterPhase c k false).enterPhase c k true) t).mem.Canon :=
    foldl_canon ht fun _ _ ht => enterPhase_canon (enterPhase_canon ht)
  unfold State.startTask
  dsimp only
  split
  · exact switchIn_canon h
  · rw [modCtx_mem]
    exact hp _ _ (hi _ _ (switchIn_canon h))

theorem tryStart_canon {s t : State} {l : LaunchWait} (h : s.mem.Canon) (ht : s.tryStart l = some t) :
    t.mem.Canon := by
  unfold State.tryStart at ht
  split at ht <;> cases ht
  exact startTask_canon h

@[simp] theorem askCluster_mem (s : State) (pre : Bool) (c ctx : Nat) : (s.askCluster pre c ctx).mem = s.mem := by
  unfold State.askCluster
  split <;> simp

@[simp] theorem clearWay_mem (s : State) (pre : Bool) (c ctx : Nat) : (s.clearWay pre c ctx).mem = s.mem := by
  simp [State.clearWay]

@[simp] theorem askFor_mem (s : State) (l : LaunchWait) : (s.askFor l).mem = s.mem := by simp [State.askFor]

@[simp] theorem tryResume_canon {s : State} {x : Nat × Nat} (h : s.mem.Canon) : (s.tryResume x).mem.Canon := by
  unfold State.tryResume
  split <;> simp [h]

@[simp] theorem resumeSoon_mem (s : State) (xs : List (Nat × Nat)) : (s.resumeSoon xs).mem = s.mem := (rfl)

@[simp] theorem modStream_mem (s : State) (part stream : Nat) (f : Stream → Stream) :
    (s.modStream part stream f).mem = s.mem := by
  simp [State.modStream]

@[simp] theorem countDone_mem (s : State) (part stream : Nat) : (s.countDone part stream).mem = s.mem := by
  simp [State.countDone]

@[simp] theorem endTask_canon {s : State} {c : Nat} {t : Task} (h : s.mem.Canon) : (s.endTask c t).mem.Canon := by
  have hb (u : State) (hu : u.mem.Canon) :
      ((maskCores t.mask).foldl (fun u k => (u.boundary c k false .package).boundary c k true .package) u).mem.Canon :=
    foldl_canon hu fun _ _ hu => boundary_canon (boundary_canon hu)
  simp [State.endTask, hb, h]

/-! ## Task graphs (Machine/Graphs) -/

@[simp] theorem setSlot_mem (s : State) (c g : Nat) (x : GraphSlot) : (s.setSlot c g x).mem = s.mem := (rfl)

@[simp] theorem modGraph_mem (s : State) (ctx c g : Nat) (f : GraphSlot → GraphSlot) :
    (s.modGraph ctx c g f).mem = s.mem := by
  simp [State.modGraph]

theorem execGraphNodeLaunch_canon {cl slot node : Nat} {s : State} (h : s.mem.Canon) :
    (execGraphNodeLaunch cl slot node s).Canon := by
  unfold execGraphNodeLaunch
  dsimp only
  split
  · simp [h]
  · split
    · simp [h]
    · split
      · simp [h]
      · simp [tryStart_canon (fillRecord_canon h) ‹_›]

@[simp] theorem execConditionalNodeEval_keeps (cl slot node : Nat) (s : State) :
    (execConditionalNodeEval cl slot node s).Keeps s.mem := by
  unfold execConditionalNodeEval
  split <;> simp

@[simp] theorem execWhileNodeEval_keeps (cl slot node : Nat) (s : State) :
    (execWhileNodeEval cl slot node s).Keeps s.mem := by
  unfold execWhileNodeEval
  dsimp only
  (repeat' split) <;> simp

@[simp] theorem writeStatus_canon {s : State} {g : GraphSlot} {w : Word} (h : s.mem.Canon) :
    (s.writeStatus g w).mem.Canon := by
  unfold State.writeStatus
  split
  · exact h
  · split
    · exact writeFails_canon h
    · exact writeVa_canon h ‹_›

@[simp] theorem execGraphComplete_canon {cl slot : Nat} {s : State} (h : s.mem.Canon) :
    (execGraphComplete cl slot s).Canon := by
  unfold execGraphComplete
  dsimp only
  (repeat' split) <;> simp [h]

@[simp] theorem execCondWordUpdate_keeps (u : CondUpdate) (s : State) : (execCondWordUpdate u s).Keeps s.mem := by
  simp [execCondWordUpdate]

@[simp] theorem recordDone_mem (s : State) (t : Task) : (s.recordDone t).mem = s.mem := by
  unfold State.recordDone
  split <;> simp

@[simp] theorem execTaskComplete_canon {cl task : Nat} {s : State} (h : s.mem.Canon) :
    (execTaskComplete cl task s).Canon := by
  unfold execTaskComplete
  dsimp only
  (repeat' split) <;> simp [h]

/-! ## The command processor (Machine/CmdProc) -/

@[simp] theorem modCp_mem (s : State) (f : Stream → Stream) : (s.modCp f).mem = s.mem := by simp [State.modCp]

@[simp] theorem cpDone_mem (s : State) : s.cpDone.mem = s.mem := by simp [State.cpDone]

@[simp] theorem sendMsi_mem (s : State) (part vector : Nat) : (s.sendMsi part vector).mem = s.mem := by
  simp [State.sendMsi]

@[simp] theorem failStream_mem (s : State) (part i code : Nat) : (s.failStream part i code).mem = s.mem := by
  simp [State.failStream]

@[simp] theorem cpFail_mem (s : State) (code : Nat) : (s.cpFail code).mem = s.mem := by simp [State.cpFail]

@[simp] theorem cpWait_mem (s : State) (w : CpWait) : (s.cpWait w).mem = s.mem := by simp [State.cpWait]

@[simp] theorem cpCount_mem (s : State) : s.cpCount.mem = s.mem := by simp [State.cpCount]

@[simp] theorem cpBegin_mem (s : State) : s.cpBegin.mem = s.mem := by
  unfold State.cpBegin
  split <;> simp

@[simp] theorem lookAhead_canon {s : State} {part i off n : Nat} (h : s.mem.Canon) :
    (s.lookAhead part i off n).mem.Canon := by
  unfold State.lookAhead
  dsimp only
  (repeat' split) <;> simp [h]

@[simp] theorem prefetchAhead_canon {s : State} {part i : Nat} (h : s.mem.Canon) :
    (s.prefetchAhead part i).mem.Canon := by
  unfold State.prefetchAhead
  (repeat' split) <;> simp +contextual [h]

@[simp] theorem execIndirect_keeps (addr : Word) (len : BitVec 32) (s : State) :
    (execIndirect addr len s).Keeps s.mem := by
  unfold execIndirect
  (repeat' split) <;> simp

@[simp] theorem fillPacket_canon {s : State} {t : Stream} (h : s.mem.Canon) : (s.fillPacket t).mem.Canon := by
  have hf (u : State) (hu : u.mem.Canon) (off n : Nat) :
      (if (span off n).all (fun i => (tget none t.window i).isSome) then u
        else u.meetVa t.ctx (t.top.base + off) n).mem.Canon := by
    split
    · exact hu
    · exact meetVa_canon hu
  unfold State.fillPacket
  dsimp only
  have h1 := hf s h t.top.pos 4
  split
  · exact h
  · split
    · exact h1
    · split
      · exact h1
      · exact hf _ h1 _ _

theorem execPred_canon {sense : Bool} {n : BitVec 12} {addr mask value : Word} {s : State} (h : s.mem.Canon) :
    (execPred sense n addr mask value s).Canon := by
  unfold execPred
  dsimp only
  (repeat' split) <;> simp [h]

@[simp] theorem execLoopPacket_keeps (n : BitVec 12) (rep : BitVec 32) (s : State) :
    (execLoopPacket n rep s).Keeps s.mem := by
  unfold execLoopPacket
  (repeat' split) <;> simp

@[simp] theorem cpWrite_canon {s : State} {ctx a : Nat} {bs : List Byte} (h : s.mem.Canon) :
    (s.cpWrite ctx a bs).2.mem.Canon := by
  unfold State.cpWrite
  split
  · split <;> simp [h]
  · exact writeVa_canon h ‹_›

@[simp] theorem cpWords_canon {s : State} {ctx a : Nat} {l : List (BitVec 32)} (h : s.mem.Canon) :
    (s.cpWords ctx a l).2.mem.Canon := by
  induction l generalizing s a with
  | nil => exact h
  | cons d r ih =>
    have h1 : (s.cpWrite ctx a (bytesOf 4 d.toNat)).2.mem.Canon := cpWrite_canon h
    unfold State.cpWords
    split
    · exact ih (canon_of_pair ‹_› h1)
    · exact h1

@[simp] theorem cpHold_mem (s : State) (a n : Nat) : (s.cpHold a n).mem = s.mem := by simp [State.cpHold]

theorem execWriteMemory_canon {addr : Word} {data : List (BitVec 32)} {s : State} (h : s.mem.Canon) :
    (execWriteMemory addr data s).Canon := by
  have h1 : (s.cpWords s.cpCtx addr.toNat data).2.mem.Canon := cpWords_canon h
  unfold execWriteMemory
  split
  · simp [h]
  · split
    · simp [h]
    · split <;> simpa using canon_of_pair ‹_› h1

@[simp] theorem execWriteCondWord_keeps (cluster : BitVec 16) (graph : BitVec 3) (value : Word) (s : State) :
    (execWriteCondWord cluster graph value s).Keeps s.mem := by
  unfold execWriteCondWord
  split <;> simp

theorem execWaitPacket_canon {cond : BitVec 2} {addr mask value : Word} {s : State} (h : s.mem.Canon) :
    (execWaitPacket cond addr mask value s).Canon := by
  unfold execWaitPacket
  dsimp only
  (repeat' split) <;> simp [h]

@[simp] theorem atStream_mem (s : State) (part stream : Nat) : (s.atStream part stream).mem = s.mem := (rfl)

theorem execWaitPoll_canon {part stream : Nat} {s : State} (h : s.mem.Canon) :
    (execWaitPoll part stream s).Canon := by
  unfold execWaitPoll
  dsimp only
  (repeat' split) <;> simp [h]

@[simp] theorem execWaitIdle_keeps (s : State) : (execWaitIdle s).Keeps s.mem := by
  unfold execWaitIdle
  split
  · simp
  · split <;> simp

@[simp] theorem eventSend_canon {s : State} {vector : Nat} {addr value : Word} (h : s.mem.Canon) :
    (s.eventSend vector addr value).mem.Canon := by
  have h1 : (s.cpWrite s.cpCtx addr.toNat (bytesOf 8 value.toNat)).2.mem.Canon := cpWrite_canon h
  unfold State.eventSend
  dsimp only
  split
  · simp [h]
  · split
    · simp [h]
    · split <;> simpa using canon_of_pair ‹_› h1

@[simp] theorem eventPre_canon {s : State} {pre : Bool} {vector : Nat} {addr value : Word} {ctx : Nat}
    (h : s.mem.Canon) : (s.eventPre pre vector addr value ctx).mem.Canon := by
  unfold State.eventPre
  split <;> simp [h]

@[simp] theorem execEvent_canon {pre after : Bool} {vector : BitVec 11} {addr value : Word} {ctx : BitVec 12}
    {s : State} (h : s.mem.Canon) : (execEvent pre after vector addr value ctx s).Canon := by
  unfold execEvent
  (repeat' split) <;> simp [h]

@[simp] theorem cpContinue_canon {s : State} (h : s.mem.Canon) : s.cpContinue.mem.Canon := by
  unfold State.cpContinue
  split
  · exact h
  · split
    case h_5 => exact h
    case h_4 => exact eventSend_canon h
    all_goals split <;> simp [h]

@[simp] theorem execBudget_keeps (cls : BitVec 3) (value : BitVec 24) (s : State) :
    (execBudget cls value s).Keeps s.mem := by
  unfold execBudget
  split <;> simp

@[simp] theorem launch_canon {s : State} {l : LaunchWait} (h : s.mem.Canon) : (s.launch l).mem.Canon := by
  unfold State.launch
  split
  · simp [h]
  · split
    · simpa using tryStart_canon h ‹_›
    · simp [h]

theorem execLaunchTask_canon {pre : Bool} {addr : Word} {s : State} (h : s.mem.Canon) :
    (execLaunchTask pre addr s).Canon := by
  unfold execLaunchTask
  dsimp only
  split
  · simp [h]
  · exact Out.canon_next.2 (launch_canon (fillRecord_canon h))

theorem withGraphs_canon {s t : State} {ctx c : Nat} (h : s.mem.Canon) (ht : s.withGraphs ctx c = some t) :
    t.mem.Canon := by
  unfold State.withGraphs at ht
  (repeat' split at ht) <;> cases ht <;> simp [h]

theorem startGraph_canon {s t : State} {ctx c slot : Nat} {load : Option (List Quads × List Word)} {pre : Bool}
    {origin : Nat × Nat} (h : s.mem.Canon) (ht : s.startGraph ctx c slot load pre origin = .ok (some t)) :
    t.mem.Canon := by
  unfold State.startGraph at ht
  split at ht
  · cases ht
  next u hu =>
    have hu : u.mem.Canon := by
      split at hu
      · cases hu
      · exact withGraphs_canon h hu
    dsimp only at ht
    (repeat' split at ht) <;> cases ht <;> exact hu

@[simp] theorem launchG_canon {s : State} {c slot : Nat} {load : Option (List Quads × List Word)} {pre : Bool}
    (h : s.mem.Canon) : (s.launchG c slot load pre).mem.Canon := by
  unfold State.launchG
  split
  · simp [h]
  · split
    · simp [h]
    · simpa using startGraph_canon h ‹_›
    · simp [h]

@[simp] theorem execLaunchGraph_canon {pre : Bool} {addr : Word} {s : State} (h : s.mem.Canon) :
    (execLaunchGraph pre addr s).Canon := by
  unfold execLaunchGraph
  dsimp only
  split <;> simp [h]

@[simp] theorem execLaunchGraphResident_canon {pre : Bool} {cluster : BitVec 16} {graph : BitVec 3} {s : State}
    (h : s.mem.Canon) : (execLaunchGraphResident pre cluster graph s).Canon := by
  unfold execLaunchGraphResident
  split <;> simp [h]

theorem execLaunchStart_canon {part stream : Nat} {s : State} (h : s.mem.Canon) :
    (execLaunchStart part stream s).Canon := by
  unfold execLaunchStart
  split
  · exact Out.canon_next.2 h
  · dsimp only
    split
    · exact Out.canon_next.2 (launch_canon h)
    · exact Out.canon_next.2 (launchG_canon h)
    · exact Out.canon_next.2 h

theorem rangeIn_mem {s t : State} {ctx handle i : Nat} (h : s.rangeIn ctx handle = some (i, t)) : t.mem = s.mem := by
  unfold State.rangeIn at h
  split at h
  · cases h
  · dsimp only at h
    split at h
    · cases h
    · exact mem_of_pair (Option.some.inj h) (by simp)

@[simp] theorem modPf_mem (s : State) (part stream : Nat) (f : Prefetcher → Prefetcher) :
    (s.modPf part stream f).mem = s.mem := by
  simp [State.modPf]

@[simp] theorem pfSkip_mem (s : State) (part stream : Nat) : (s.pfSkip part stream).mem = s.mem := by
  simp [State.pfSkip]

@[simp] theorem evictEntry_mem (s : State) (part stream ctx : Nat) (e : Word × Word) :
    (s.evictEntry part stream ctx e).mem = s.mem := by
  unfold State.evictEntry
  split
  · simp
  · split
    · simp
    · split <;> simp [rangeIn_mem ‹_›]

@[simp] theorem evictStep_mem (s : State) (part stream ctx : Nat) (p : Prefetcher) (step : Nat) :
    (s.evictStep part stream ctx p step).mem = s.mem := by
  simp [State.evictStep]

theorem execSched_canon {load : Bool} {look_ : BitVec 4} {step saddr : Word} {scount : BitVec 32} {eaddr : Word}
    {ecount : BitVec 32} {s : State} (h : s.mem.Canon) :
    (execSched load look_ step saddr scount eaddr ecount s).Canon := by
  unfold execSched
  dsimp only
  split
  · simp [h]
  · split <;> simp [h]

@[simp] theorem pfRead_canon {s : State} {part stream : Nat} {t : Stream} (h : s.mem.Canon) :
    (s.pfRead part stream t).mem.Canon := by
  unfold State.pfRead
  dsimp only
  (repeat' split) <;> simp [h]

@[simp] theorem pfIssue_mem (s : State) (part stream : Nat) (t : Stream) (q : Quads) :
    (s.pfIssue part stream t q).mem = s.mem := by
  unfold State.pfIssue
  dsimp only
  split
  · simp
  · split
    · simp
    · split
      · simp
      · split
        · rfl
        · split
          · simp
          · simp [rangeIn_mem ‹_›]

@[simp] theorem pfStep_canon {s : State} {part stream : Nat} (h : s.mem.Canon) :
    (s.pfStep part stream).mem.Canon := by
  unfold State.pfStep
  split
  · exact h
  · dsimp only
    split
    · simp [h]
    · split <;> simp [h]

@[simp] theorem execDeadlineMiss_keeps (part stream watch : Nat) (s : State) :
    (execDeadlineMiss part stream watch s).Keeps s.mem := by
  unfold execDeadlineMiss
  dsimp only
  (repeat' split) <;> simp

/-! ## Gangs, the clock and timed launches (Machine/Gang) -/

@[simp] theorem clockTo_mem (s : State) (n : BitVec 2) : (s.clockTo n).mem = s.mem := (rfl)

@[simp] theorem syncHeard_mem (s : State) (offset : ℤ) : (s.syncHeard offset).mem = s.mem := by
  simp [State.syncHeard]

@[simp] theorem syncTimed_mem (s : State) (port seq : Nat) (t1 t2 : ℤ) :
    (s.syncTimed port seq t1 t2).mem = s.mem := by
  simp [State.syncTimed]

@[simp] theorem execSyncMessage_keeps (valid : Bool) (msg : SyncMsg) (s : State) :
    (execSyncMessage valid msg s).Keeps s.mem := by
  unfold execSyncMessage
  dsimp only
  (repeat' split) <;> simp

@[simp] theorem execHoldoverEntry_keeps (s : State) : (execHoldoverEntry s).Keeps s.mem := by
  unfold execHoldoverEntry
  split <;> simp

@[simp] theorem execClockLostEntry_canon {s : State} (h : s.mem.Canon) : (execClockLostEntry s).Canon := by
  unfold execClockLostEntry
  split <;> simp [h]

@[simp] theorem leaseAsked_canon {s : State} {g : Grant} (h : s.mem.Canon) : (s.leaseAsked g).mem.Canon := by
  unfold State.leaseAsked
  (repeat' split) <;> simp +contextual [h]

@[simp] theorem leaseEnded_canon {s : State} {peer base : Nat} (h : s.mem.Canon) :
    (s.leaseEnded peer base).mem.Canon :=
  h

@[simp] theorem execClockLock_keeps (s : State) : (execClockLock s).Keeps s.mem := by
  unfold execClockLock
  split
  · simp
  · split <;> simp

@[simp] theorem tellGang_mem (s : State) (part : Nat) (kind : BitVec 4) (gang : BitVec 32) (members : List Nat)
    (arg : Nat) (pub : Option (Nat × Nat)) : (s.tellGang part kind gang members arg pub).mem = s.mem := by
  simp [State.tellGang]

@[simp] theorem gangKeep_mem (s : State) (x : Nat × BitVec 32 × Nat × Word) : (s.gangKeep x).mem = s.mem :=
  (rfl)

@[simp] theorem gangDrop_mem (s : State) (kind : Nat) (gang : BitVec 32) : (s.gangDrop kind gang).mem = s.mem :=
  (rfl)

@[simp] theorem setTimed_mem (s : State) (part stream : Nat) (r : TimedRec) :
    (s.setTimed part stream r).mem = s.mem := by
  simp [State.setTimed]

@[simp] theorem liftInject_mem (s : State) (r : TimedRec) : (s.liftInject r).mem = s.mem := by
  simp [State.liftInject]

@[simp] theorem keepTimed_mem (s : State) (part stream : Nat) (r : TimedRec) :
    (s.keepTimed part stream r).mem = s.mem := by
  simp [State.keepTimed]

@[simp] theorem stragglerAll_mem (s : State) (ctx : Nat) (r : TrapRec) : (s.stragglerAll ctx r).mem = s.mem :=
  (rfl)

@[simp] theorem countTimed_mem (s : State) (part stream : Nat) (r : TimedRec) :
    (s.countTimed part stream r).mem = s.mem := by
  unfold State.countTimed
  split
  · simp
  · split <;> simp

@[simp] theorem noLaunch_mem (s : State) (part stream : Nat) (r : TimedRec) :
    (s.noLaunch part stream r).mem = s.mem := by
  simp [State.noLaunch]

@[simp] theorem stragglerOn_mem (s : State) (part stream ctx rank : Nat) (r : TimedRec) :
    (s.stragglerOn part stream ctx rank r).mem = s.mem := by
  simp [State.stragglerOn]

@[simp] theorem beginTimed_mem (s : State) (r : TimedRec) : (s.beginTimed r).mem = s.mem := by
  simp [State.beginTimed]

@[simp] theorem execTimed_canon {pre kind : Bool} {t addr gang : Word} {s : State} (h : s.mem.Canon) :
    (execTimed pre kind t addr gang s).Canon := by
  unfold execTimed
  dsimp only
  (repeat' split) <;> simp [h]

theorem execGangInjectHalt_keeps (part stream : Nat) (s : State) :
    (execGangInjectHalt part stream s).Keeps s.mem := by
  unfold execGangInjectHalt
  split
  · simp
  · split
    · split
      · simp
      · dsimp only
        rw [Out.keeps_next, setTimed_mem]
        split
        · rw [foldl_mem fun _ _ => by (repeat' split) <;> simp]
          simp
        · simp
    · simp

theorem makeTimed_canon {s t : State} {part stream ctx : Nat} {r : TimedRec} (h : s.mem.Canon)
    (ht : s.makeTimed part stream ctx r = some t) : t.mem.Canon := by
  unfold State.makeTimed at ht
  dsimp only at ht
  split at ht
  · obtain ⟨u, hu, rfl⟩ := Option.map_eq_some_iff.1 ht
    simpa using tryStart_canon h hu
  · split at ht
    · cases ht
      simp [h]
    · obtain ⟨u, hu, rfl⟩ := Option.map_eq_some_iff.1 ht
      subst hu
      simpa using startGraph_canon h ‹_›
  · cases ht

@[simp] theorem timedNews_mem (s : State) (part ctx : Nat) (r : TimedRec) :
    (s.timedNews part ctx r).2.mem = s.mem := by
  unfold State.timedNews
  dsimp only
  (repeat' split) <;> simp

theorem execTimedLaunchInstant_canon {part stream : Nat} {s : State} (h : s.mem.Canon) :
    (execTimedLaunchInstant part stream s).Canon := by
  unfold execTimedLaunchInstant
  split
  · simp [h]
  · split
    next t _ _ r0 _ =>
      split
      · simp [h]
      · dsimp only
        generalize hu : ((s.timedNews part t.ctx r0).2.setTimed part stream
          (s.timedNews part t.ctx r0).1).atStream part stream = u
        have hu : u.mem.Canon := by simp [← hu, h]
        have hgo (r : TimedRec) : ((u.makeTimed part stream t.ctx r).getD u).mem.Canon := by
          cases hm : u.makeTimed part stream t.ctx r with
          | none => exact hu
          | some v => exact makeTimed_canon hu hm
        split
        · simp [hu]
        · (repeat' split) <;> simp [hu, hgo]
    · simp [h]

@[simp] theorem timedLack_mem (s : State) (part stream ctx rank : Nat) (r : TimedRec) :
    (s.timedLack part stream ctx rank r).mem = s.mem := by
  simp [State.timedLack]

@[simp] theorem timedCheck_mem (s : State) (part stream ctx : Nat) (r : TimedRec) :
    (s.timedCheck part stream ctx r).mem = s.mem := by
  unfold State.timedCheck
  dsimp only
  (repeat' split) <;> simp

@[simp] theorem execStragglerCheck_keeps (part stream : Nat) (s : State) :
    (execStragglerCheck part stream s).Keeps s.mem := by
  unfold execStragglerCheck
  split
  · simp
  · split <;> simp

@[simp] theorem pubUndo_canon {s : State} {r : PubReq} (h : s.mem.Canon) : (s.pubUndo r).mem.Canon := by
  unfold State.pubUndo
  split <;> simp [h]

@[simp] theorem pubStraggler_canon {s : State} {ctx idx rank : Nat} (h : s.mem.Canon) :
    (s.pubStraggler ctx idx rank).mem.Canon := by
  unfold State.pubStraggler
  (repeat' split) <;> simp +contextual [h]

theorem execStragglerNotice_canon {gang : BitVec 32} {notice : Straggler} {s : State} (h : s.mem.Canon) :
    (execStragglerNotice gang notice s).Canon := by
  unfold execStragglerNotice
  dsimp only
  split
  · simp [h]
  · split
    · simp [h]
    · refine Out.canon_next.2 (foldl_canon h fun u x hu => ?_)
      split
      · split <;> simp [hu]
      · simp [hu]

@[simp] theorem pubSwap_canon {s : State} {r : PubReq} (h : s.mem.Canon) : (s.pubSwap r).mem.Canon := by
  simp [State.pubSwap, h]

@[simp] theorem setPub_mem (s : State) (r r' : PubReq) : (s.setPub r r').mem = s.mem := (rfl)

@[simp] theorem pubNotices_mem (s : State) (r : PubReq) (members : List Nat) (tp : Nat) :
    (s.pubNotices r members tp).mem = s.mem :=
  (rfl)

@[simp] theorem askPub_mem (s : State) (r : PubReq) (peers : List Nat) : (s.askPub r peers).mem = s.mem :=
  (rfl)

@[simp] theorem pubAcked_mem (s : State) (peer ctx idx : Nat) : (s.pubAcked peer ctx idx).mem = s.mem := (rfl)

@[simp] theorem pubAsked_mem (s : State) (peer ctx idx : Nat) : (s.pubAsked peer ctx idx).mem = s.mem := (rfl)

@[simp] theorem answerPubs_mem (s : State) : s.answerPubs.mem = s.mem := (rfl)

@[simp] theorem execPublishExchange_canon {ctx idx : Nat} {s : State} (h : s.mem.Canon) :
    (execPublishExchange ctx idx s).Canon := by
  unfold execPublishExchange
  dsimp only
  (repeat' split) <;> simp [h]

@[simp] theorem execPublishNotice_canon {ctx idx : Nat} {tp : Word} {s : State} (h : s.mem.Canon) :
    (execPublishNotice ctx idx tp s).Canon := by
  unfold execPublishNotice
  split
  · simp [h]
  · split <;> simp [h]

/-! ## Reversible instructions (Machine/Reversible) -/

@[simp] theorem push_keeps (s : State) (p : Push) : (s.push p).Keeps s.mem := by
  unfold State.push
  split <;> simp

@[simp] theorem pop_keeps (s : State) (p : Pop) (lat : Nat → Nat) (f : State → Hdr → List Byte → List PWrite) :
    (s.pop p lat f).Keeps s.mem := by
  unfold State.pop
  split <;> simp

@[simp] theorem spillDone_mem (s : State) (c k mode : Nat) : (s.spillDone c k mode).mem = s.mem := (rfl)

@[simp] theorem spillRest_mem (s : State) (c : Nat) : (s.spillRest c).mem = s.mem := (rfl)

theorem spillMove_canon {s : State} {c k mode x : Nat} {f : State → State} (h : s.mem.Canon)
    (hf : ∀ t, t.mem.Canon → (f t).mem.Canon) : (s.spillMove c k mode x f).Canon := by
  unfold State.spillMove
  split
  · simp [h]
  · split
    · split
      · split
        · simp [h]
        · have h1 : (f _).mem.Canon := hf _ ((charge_mem ‹_›).symm ▸ h)
          simpa using h1
      · simp [h]
    · simp [h]

@[simp] theorem spillFail_mem (s : State) (c k : Nat) (r : TrapRec) : (s.spillFail c k r).mem = s.mem := by
  simp [State.spillFail]

theorem execSpillLine_canon {cl core : Nat} {s : State} (h : s.mem.Canon) : (execSpillLine cl core s).Canon := by
  unfold execSpillLine
  refine spillMove_canon h fun t ht => ?_
  dsimp only
  rw [modE_mem]
  split
  · exact setMark_canon (wrHomes_canon ht)
  · split
    · exact setMark_canon (setMark_canon (wrHomes_canon ht))
    · rw [spillFail_mem]
      exact poison_canon (setMark_canon (wrHomes_canon ht))

theorem execRefillLine_canon {cl core : Nat} {s : State} (h : s.mem.Canon) : (execRefillLine cl core s).Canon := by
  unfold execRefillLine
  dsimp only
  split
  · split <;> exact Out.canon_next.2 h
  · refine spillMove_canon h fun t ht => ?_
    split
    · split <;> simp [ht]
    · exact ht

@[simp] theorem runSpill_canon {s : State} {c : Nat} (h : s.mem.Canon) : (s.runSpill c).mem.Canon := by
  unfold State.runSpill
  split
  · exact h
  next k _ =>
    have ho : (if s.spillNeed c k = 1 then execSpillLine c k s else execRefillLine c k s).Canon := by
      split
      · exact execSpillLine_canon h
      · exact execRefillLine_canon h
    split
    · exact ho _ ‹_›
    · exact h

/-! ## Matrix routines and micro-operations (Machine/Matrix) -/

@[simp] theorem emulateCall_mem (s : State) (c : Call) : (s.emulateCall c).mem = s.mem := by
  simp [State.emulateCall]

@[simp] theorem placeCall_mem (s : State) (c : Call) : (s.placeCall c).mem = s.mem := by
  simp [State.placeCall]

@[simp] theorem execMcall_keeps (ent : BitVec 14) (s : State) : (execMcall ent s).Keeps s.mem := by
  unfold execMcall
  dsimp only
  (repeat' split) <;> simp

@[simp] theorem execRoutineStart_keeps (cl core : Nat) (s : State) : (execRoutineStart cl core s).Keeps s.mem := by
  unfold execRoutineStart
  dsimp only
  (repeat' split) <;> simp

@[simp] theorem stopRoutine_mem (s : State) (c k : Nat) (r : Routine) (reason : Nat) :
    (s.stopRoutine c k r reason).mem = s.mem := by
  simp [State.stopRoutine]

@[simp] theorem execRoutineTimeout_keeps (cl core : Nat) (s : State) :
    (execRoutineTimeout cl core s).Keeps s.mem := by
  unfold execRoutineTimeout
  split
  · simp
  · split <;> simp

@[simp] theorem setRun_mem (s : State) (r : Routine) : (s.setRun r).mem = s.mem := (rfl)

@[simp] theorem stopHere_mem (s : State) (r : Routine) (reason : Nat) : (s.stopHere r reason).mem = s.mem := by
  simp [State.stopHere]

@[simp] theorem uGoto_mem (s : State) (r : Routine) (target : Nat) : (s.uGoto r target).mem = s.mem := by
  simp [State.uGoto]

@[simp] theorem uNext_mem (s : State) (r : Routine) : (s.uNext r).mem = s.mem := by
  unfold State.uNext
  split <;> simp

@[simp] theorem uHold_mem (s : State) (r : Routine) (n : Nat) : (s.uHold r n).mem = s.mem := by
  simp [State.uHold]

@[simp] theorem micro_keeps {s : State} {f : Routine → State} (hf : ∀ r, (f r).mem = s.mem) :
    (s.micro f).Keeps s.mem := by
  unfold State.micro
  split <;> simp [hf]

@[simp] theorem micro_canon {s : State} {f : Routine → State} (h : s.mem.Canon) (hf : ∀ r, (f r).mem.Canon) :
    (s.micro f).Canon := by
  unfold State.micro
  split <;> simp [h, hf]

theorem execUloop_keeps (last : BitVec 14) (src : Bool) (count : BitVec 12) (s : State) :
    (execUloop last src count s).Keeps s.mem :=
  micro_keeps fun r => by
    dsimp only
    (repeat' split) <;> simp

theorem execUbnz_keeps (x : BitVec 2) (target : BitVec 14) (s : State) : (execUbnz x target s).Keeps s.mem :=
  micro_keeps fun r => by
    dsimp only
    (repeat' split) <;> simp

@[simp] theorem scaleFaults_canon {s : State} {c : Call} {offs : List Nat} (h : s.mem.Canon) :
    (s.scaleFaults c offs).mem.Canon := by
  unfold State.scaleFaults
  split
  · exact h
  · exact foldl_canon h fun t l ht => by
      split
      · split <;> simp [ht]
      · exact ht

theorem execUwld_canon {xb : BitVec 2} {kn : BitVec 8} {s : State} (h : s.mem.Canon) : (execUwld xb kn s).Canon :=
  micro_canon h fun r => by
    dsimp only
    (repeat' split) <;> simp [h]

theorem execUmac_canon {xa xk xc : BitVec 2} {n : Reg} {kn : BitVec 8} {adv : Bool} {s : State} (h : s.mem.Canon) :
    (execUmac xa xk xc n kn adv s).Canon :=
  micro_canon h fun r => by
    dsimp only
    split
    · simp [h]
    · (repeat' split) <;> simp [h]

theorem execUzero_keeps (xc : BitVec 2) (n : Reg) (s : State) : (execUzero xc n s).Keeps s.mem :=
  micro_keeps fun r => by
    dsimp only
    split <;> simp

theorem execUend_keeps (s : State) : (execUend s).Keeps s.mem :=
  micro_keeps fun r => by
    dsimp only
    split <;> simp

@[simp] theorem execDrainPush_keeps (cl core : Nat) (s : State) : (execDrainPush cl core s).Keeps s.mem :=
  Out.keeps_next.2 rfl

theorem execMfoff_keeps (o : BitVec 3) (a l : Reg) (s : State) : (execMfoff o a l s).Keeps s.mem := by
  unfold execMfoff
  dsimp only
  exact Out.keeps_checked (by rw [pend_mem, pend_mem, readLines_mem])

@[simp] theorem dropHead_mem (s : State) (q : Nat) : (s.dropHead q).mem = s.mem := (rfl)

@[simp] theorem execDqpop_keeps (d : Reg) (q : BitVec 2) (s : State) : (execDqpop d q s).Keeps s.mem := by
  unfold execDqpop
  split <;> simp

@[simp] theorem execDqst_keeps (q : BitVec 2) (b : Reg) (s : State) : (execDqst q b s).Keeps s.mem := by
  unfold execDqst
  split <;> simp

theorem execMload_keeps (d a b : Reg) (s : State) : (execMload d a b s).Keeps s.mem := by
  unfold execMload
  dsimp only
  exact Out.keeps_checked (by rw [modHere_mem, pend_srcs_mem, readLines_mem])

/-! ## Management: roles, partitions, contexts, host (Machine/Mgmt) -/

@[simp] theorem roleBegin_mem (s : State) (roles : List Bool) : (s.roleBegin roles).mem = s.mem := by
  simp [State.roleBegin]

theorem execRoleMapSet_keeps (roles : List Bool) (s : State) : (execRoleMapSet roles s).Keeps s.mem :=
  mailTurn_keeps (by (repeat' split) <;> simp)

@[simp] theorem bankAll_mem (s : State) (c : Nat) : (s.bankAll c).mem = s.mem := by
  have hu (t : State) (k i : Nat) (u : UnitKind) : ((t.unitSave c k u i).setTag c k u i 0).mem = t.mem := by simp
  refine (foldl_mem fun t i => hu t 0 i .group).trans (foldl_mem fun t k => ?_)
  exact (foldl_mem fun t i => hu t k i .hot).trans (foldl_mem fun t i => hu t k i .bank)

@[simp] theorem renumber_canon {s : State} {num : Nat → Nat} (h : s.mem.Canon) : (s.renumber num).mem.Canon :=
  h

@[simp] theorem flushFault_mem (s : State) (hop addr : Nat) : (s.flushFault hop addr).mem = s.mem := (rfl)

/-- A flushed line moves from its layer to its frame, so that two tables change. -/
@[simp] theorem storeBack_canon {s : State} {key frame : Nat} (h : s.mem.Canon) :
    (s.storeBack key frame).mem.Canon := by
  obtain ⟨hp, hl, hh⟩ := Mem.canon_iff.1 h
  have hm : Mem.Canon { s.mem with
      phys := writeB s.mem.phys frame (readB s.mem.layer key 64)
      layer := s.mem.layer.filter (fun p => decide (p.1 / 64 * 64 ≠ key)) } :=
    Mem.canon_iff.2 ⟨twf_writeB hp, twf_filter hl, hh⟩
  unfold State.storeBack
  dsimp only
  split
  · exact setMark_canon (renumber_canon hm)
  · split
    · exact setMark_canon (renumber_canon hm)
    · rw [flushFault_mem]
      exact poison_canon (renumber_canon hm)

@[simp] theorem cacheBack_canon {s : State} {c line : Nat} (h : s.mem.Canon) : (s.cacheBack c line).mem.Canon := by
  unfold State.cacheBack
  split <;> simp [h]

theorem chargedEach_canon {A : Type} {part : A → Nat} {f : A → State → State} {l : List A} {s : State}
    (h : s.mem.Canon) (hf : ∀ a t, t.mem.Canon → (f a t).mem.Canon) : (chargedEach part f l s).mem.Canon := by
  induction l generalizing s with
  | nil => exact h
  | cons a r ih =>
    unfold chargedEach
    split
    · exact ih h
    · exact ih (hf _ _ ((charge_mem ‹_›).symm ▸ h))

@[simp] theorem flushStep_canon {s : State} {r : RoleChange} (h : s.mem.Canon) : (s.flushStep r).mem.Canon :=
  chargedEach_canon (chargedEach_canon h fun _ _ => cacheBack_canon) fun _ _ => storeBack_canon

@[simp] theorem roleEvents_canon {s : State} (h : s.mem.Canon) : s.roleEvents.mem.Canon := by
  unfold State.roleEvents
  split <;> simp [h]

@[simp] theorem slicesOut_canon {s : State} {r : RoleChange} (h : s.mem.Canon) : (s.slicesOut r).mem.Canon := by
  simp +contextual [State.slicesOut, h]

@[simp] theorem execRoleFlush_canon {s : State} (h : s.mem.Canon) : (execRoleFlush s).Canon := by
  unfold execRoleFlush
  dsimp only
  (repeat' split) <;> simp [h]

@[simp] theorem execRoleDark_keeps (s : State) : (execRoleDark s).Keeps s.mem := by
  unfold execRoleDark
  split
  · simp
  · split <;> simp

/-- Inserting the entries of a canonical table under any keys keeps the canonical form. -/
theorem twf_foldl_tins {V : Type} [DecidableEq V] {d : V} {f : Nat × V → Nat} {t u : Tbl V} (ht : twf d t = true)
    (hu : twf d u = true) : twf d (t.foldl (fun a p => tins a (f p) p.2) u) = true := by
  induction t generalizing u with
  | nil => exact hu
  | cons p r ih =>
    obtain ⟨hv, -, hr⟩ := (twf_cons d p.1 p.2 r).1 ht
    exact ih hr (twf_tins hu hv)

/-- A change of roles puts the bytes of the layers under new keys. -/
@[simp] theorem storeMove_canon {s : State} {r : RoleChange} (h : s.mem.Canon) : (s.storeMove r).mem.Canon := by
  obtain ⟨hp, hl, hh⟩ := Mem.canon_iff.1 h
  unfold State.storeMove
  refine renumber_canon (Mem.canon_iff.2 ⟨hp, ?_, hh⟩)
  exact twf_foldl_tins hl rfl

@[simp] theorem rehash_canon {s : State} {r : RoleChange} (h : s.mem.Canon) : (s.rehash r).mem.Canon := by
  unfold State.rehash
  exact foldl_canon h fun t x ht => by simp [ht]

@[simp] theorem graphLost_canon {s : State} {g : GraphSlot} (h : s.mem.Canon) : (s.graphLost g).mem.Canon := by
  unfold State.graphLost
  split
  · exact h
  · dsimp only
    rw [report_mem]
    split
    · exact h
    · split
      · exact writeFails_canon h
      · exact writeVa_canon h ‹_›

theorem execRoleReenumerate_canon {s : State} (h : s.mem.Canon) : (execRoleReenumerate s).Canon := by
  unfold execRoleReenumerate
  split
  · simp [h]
  next r _ =>
    dsimp only
    split
    · simp [h]
    · refine Out.canon_next.2 (foldl_canon (rehash_canon (storeMove_canon h)) fun t p ht => ?_)
      exact foldl_canon ht fun _ _ => graphLost_canon

@[simp] theorem taskLost_mem (s : State) (t : Task) : (s.taskLost t).mem = s.mem := by
  unfold State.taskLost
  split <;> simp

@[simp] theorem dropLost_canon {s : State} (h : s.mem.Canon) : s.dropLost.mem.Canon := by
  unfold State.dropLost
  refine foldl_canon h fun t x ht => foldl_canon ?_ fun _ _ => graphLost_canon
  rwa [foldl_mem fun t y => taskLost_mem t y]

@[simp] theorem mailGo_mem (s : State) : s.mailGo.mem = s.mem := (rfl)

@[simp] theorem execRoleRelight_canon {s : State} (h : s.mem.Canon) : (execRoleRelight s).Canon := by
  unfold execRoleRelight
  (repeat' split) <;> simp +contextual [h]

theorem execPartitionCreate_keeps (r : PartitionRec) (s : State) : (execPartitionCreate r s).Keeps s.mem := by
  have reported (c : Bool) : (if c then s.report "illegal role map" 0 else s).mem = s.mem := by
    cases c <;> simp
  unfold execPartitionCreate
  dsimp only
  rw [← reported]
  exact mailbox_keeps rfl

theorem execContextCreate_keeps (r : ContextRec) (s : State) : (execContextCreate r s).Keeps s.mem :=
  mailbox_keeps rfl

@[simp] theorem releaseAll_mem (s : State) (x : Context) : (s.releaseAll x).mem = s.mem := by
  simp [State.releaseAll]

@[simp] theorem fabWithout_mem (s : State) (ctx : Nat) : (s.fabWithout ctx).mem = s.mem := (rfl)

@[simp] theorem evictUnpinned_mem (s : State) : s.evictUnpinned.mem = s.mem := by simp [State.evictUnpinned]

theorem execContextDestroy_canon {ctx : Nat} {s : State} (h : s.mem.Canon) : (execContextDestroy ctx s).Canon := by
  refine mailbox_canon h ?_
  split
  · exact h
  next x _ =>
    have hr : (s.releaseAll x).mem.Canon := by simp [h]
    simpa using hr

theorem execStreamBind_keeps (part stream ctx : Nat) (base : BitVec 52) (size : Nat) (s : State) :
    (execStreamBind part stream ctx base size s).Keeps s.mem :=
  mailbox_keeps (by simp)

theorem execErrorClear_keeps (part stream : Nat) (s : State) : (execErrorClear part stream s).Keeps s.mem :=
  mailbox_keeps (by simp)

theorem execCapSlotWrite_keeps (ctx slot : Nat) (value : BitVec 128) (tag : Bool) (s : State) :
    (execCapSlotWrite ctx slot value tag s).Keeps s.mem :=
  mailbox_keeps (by simp)

theorem execHandleWrite_keeps (ctx idx : Nat) (q0 q1 q2 : Word) (s : State) :
    (execHandleWrite ctx idx q0 q1 q2 s).Keeps s.mem :=
  mailbox_keeps (by simp)

theorem execFenceAssign_keeps (pkg : BitVec 16) (fence : Word) (s : State) :
    (execFenceAssign pkg fence s).Keeps s.mem :=
  mailbox_keeps rfl

theorem execFencedStateExit_keeps (pkg : BitVec 16) (fence : Word) (s : State) :
    (execFencedStateExit pkg fence s).Keeps s.mem :=
  mailbox_keeps rfl

theorem execKeyLoad_keeps (idx : Nat) (key : BitVec 512) (s : State) : (execKeyLoad idx key s).Keeps s.mem :=
  mailbox_keeps rfl

theorem execPowerCapSet_keeps (watts : Nat) (s : State) : (execPowerCapSet watts s).Keeps s.mem :=
  mailbox_keeps rfl

theorem execMgmtPreempt_keeps (ctx : Nat) (s : State) : (execMgmtPreempt ctx s).Keeps s.mem :=
  mailbox_keeps (by simp)

theorem execMgmtStart_canon {cl core : Nat} {s : State} (h : s.mem.Canon) : (execMgmtStart cl core s).Canon := by
  unfold execMgmtStart
  dsimp only
  refine mailbox_canon h ?_
  rw [modCore_mem]
  split
  · exact h
  · exact switchIn_canon h

@[simp] theorem execThermalTrip_keeps (layer : Nat) (s : State) : (execThermalTrip layer s).Keeps s.mem := by
  unfold execThermalTrip
  split <;> simp

@[simp] theorem clockZero_mem (s : State) : s.clockZero.mem = s.mem := (rfl)

@[simp] theorem execPowerOn_keeps (img : BootImage) (s : State) : (execPowerOn img s).Keeps s.mem := by
  unfold execPowerOn
  dsimp only
  (repeat' split) <;> simp

theorem execAttestationReport_keeps (nonce : BitVec 256) (s : State) : (execAttestationReport nonce s).Keeps s.mem :=
  mailTurn_keeps (by simp)

/-- A reset empties the memories of the package and leaves those of the host. -/
theorem execPackageReset_canon {s : State} (h : s.mem.Canon) : (execPackageReset s).Canon :=
  Out.canon_next.2 (Mem.canon_iff.2 ⟨rfl, rfl, (Mem.canon_iff.1 h).2.2⟩)

@[simp] theorem execRecoveryExit_keeps (s : State) : (execRecoveryExit s).Keeps s.mem := by
  unfold execRecoveryExit
  split <;> simp

@[simp] theorem hostFails_canon {s : State} {part pa : Nat} {m : LineMark} {hop : Nat} (h : s.mem.Canon) :
    (s.hostFails part pa m hop).mem.Canon := by
  unfold State.hostFails
  split <;> simp [h]

@[simp] theorem hostLine_canon {s : State} {part pa : Nat} {bs : List Byte} {crc : Option (BitVec 32)}
    (h : s.mem.Canon) : (s.hostLine part pa bs crc).mem.Canon := by
  unfold State.hostLine
  dsimp only
  split
  · exact hostFails_canon h
  · split
    · exact hostFails_canon (setMark_canon (wrHomes_canon h))
    · exact setMark_canon (wrHomes_canon h)

@[simp] theorem hostLines_canon {s : State} {part pa : Nat} {bs : List Byte} {crc : List (BitVec 32)} {n : Nat}
    (h : s.mem.Canon) : (s.hostLines part pa bs crc n).mem.Canon := by
  induction n generalizing s pa bs crc with
  | zero => exact h
  | succ n ih =>
    unfold State.hostLines
    split
    · exact h
    · exact ih (hostLine_canon h)

@[simp] theorem hostWrite_canon {s : State} {part pa : Nat} {bs : List Byte} {crc : List (BitVec 32)}
    {again : MailCmd} (h : s.mem.Canon) : (s.hostWrite part pa bs crc again).mem.Canon := by
  unfold State.hostWrite
  split <;> simp [h]

@[simp] theorem hostRead_canon {s : State} {part pa n : Nat} (h : s.mem.Canon) :
    (s.hostRead part pa n).mem.Canon := by
  unfold State.hostRead
  split <;> simp [h]

theorem mailRead_keeps {s : State} {i : MailCmd} {vs : List Word} : (s.mailRead i vs).Keeps s.mem :=
  mailTurn_keeps (by simp)

theorem execHostAccess_canon {acc : HostAcc} {s : State} (h : s.mem.Canon) : (execHostAccess acc s).Canon := by
  cases acc <;> unfold execHostAccess <;> dsimp only
  case read => (repeat' split) <;> simp [h]
  case write => (repeat' split) <;> simp [h]
  case streamReg => split <;> simp [h]
  case peerNumber => exact mailbox_canon h h
  case vectorEnable => split <;> exact Out.canon_next.2 h
  all_goals exact mailRead_keeps.canon h

theorem mailAct_canon {s : State} {c : MailCmd} (h : s.mem.Canon) : (s.mailAct c).Canon := by
  cases c with
  | roleMap r => exact (execRoleMapSet_keeps r s).canon h
  | partition r => exact (execPartitionCreate_keeps r s).canon h
  | context r => exact (execContextCreate_keeps r s).canon h
  | destroy x => exact execContextDestroy_canon h
  | bind p i x b n => exact (execStreamBind_keeps p i x b n s).canon h
  | clearError p i => exact (execErrorClear_keeps p i s).canon h
  | capSlot x n v t => exact (execCapSlotWrite_keeps x n v t s).canon h
  | handle x n a b c => exact (execHandleWrite_keeps x n a b c s).canon h
  | fence p f => exact (execFenceAssign_keeps p f s).canon h
  | leaveFenced p f => exact (execFencedStateExit_keeps p f s).canon h
  | router p n e => exact (execRouterTableWrite_keeps p n e s).canon h
  | exportEntry n a b c d => exact (execExportTableWrite_keeps n a b c d s).canon h
  | key n k => exact (execKeyLoad_keeps n k s).canon h
  | powerCap w => exact (execPowerCapSet_keeps w s).canon h
  | preempt x => exact (execMgmtPreempt_keeps x s).canon h
  | start c k => exact execMgmtStart_canon h
  | attest n => exact (execAttestationReport_keeps n s).canon h
  | host a => exact execHostAccess_canon h
  | resetStream x n => exact (execFabricStreamReset_keeps x n s).canon h

/-! ## Scalar floating point (Machine/Scalar) -/

@[simp] theorem execFcvt_keeps (t : FTy) (rm : Rm) (c : BitVec 4) (d a : Reg) (s : State) :
    (execFcvt t rm c d a s).Keeps s.mem := by
  unfold execFcvt
  split <;> simp

/-! ## Vector instructions (Machine/Vector) -/

@[simp] theorem vecF_keeps (s : State) (f64 : Bool) (m : BitVec 3) (d a b : Reg) (lat : Nat)
    (f : FFmt → Nat → Nat → Nat → Nat × Fl) : (s.vecF f64 m d a b lat f).Keeps s.mem := by
  simp [State.vecF]

@[simp] theorem vecF1_keeps (s : State) (f64 : Bool) (m : BitVec 3) (d a : Reg) (lat : Nat)
    (f : FFmt → Nat → Nat × Fl) : (s.vecF1 f64 m d a lat f).Keeps s.mem := by
  simp [State.vecF1]

@[simp] theorem vecI_keeps (s : State) (m : BitVec 3) (d a b : Reg) (lat : Nat)
    (f : BitVec 32 → BitVec 32 → BitVec 32 → BitVec 32) : (s.vecI m d a b lat f).Keeps s.mem :=
  Out.keeps_checked rfl

@[simp] theorem vecT_keeps (s : State) (ty : VTy) (m : BitVec 3) (d a b : Reg) (lat : Nat)
    (f : Nat → Nat → Nat × Fl) : (s.vecT ty m d a b lat f).Keeps s.mem := by
  simp [State.vecT]

@[simp] theorem execVcvt_keeps (tf ff : BitVec 4) (rm : Rm) (sat : Bool) (d a : Reg) (s : State) :
    (execVcvt tf ff rm sat d a s).Keeps s.mem := by
  unfold execVcvt
  split
  · simp
  · split <;> simp

@[simp] theorem execVunpack_keeps (w : BitVec 2) (hi sx : Bool) (d a : Reg) (s : State) :
    (execVunpack w hi sx d a s).Keeps s.mem := by
  unfold execVunpack
  refine Out.keeps_checked ?_
  dsimp only
  (repeat' split) <;> simp

@[simp] theorem execVred_keeps (op : RedOp) (ty : VTy) (rm : Rm) (m : BitVec 3) (d a : Reg) (s : State) :
    (execVred op ty rm m d a s).Keeps s.mem := by
  refine Out.keeps_checked ?_
  split <;> simp

/-! ## Every instruction (Machine/Dispatch) -/

/-- Every instruction, micro-operation, packet and event. The arms of the first groups share an operation, whose lemma
settles them; the rest have a lemma each. -/
theorem exec_canon {i : Instr} {s : State} (h : s.mem.Canon) : Out.Canon (exec i s) := by
  cases i with
  | nop | rdtime | rdctr | pbr | pbri | stage | add | sub | and | or | xor | shl | shr | sar | rot | min | max | minn
  | maxn | seq | slt | sltn | clz | ctz | popc | sel | lea | mul | mulh | mulhn | div | divn | rem | remn | addi
  | andi | ori | xori | shli | shri | sari | bfx | bfi | movi | movhi | fadd | fsub | fmul | fdiv | ffma | fmin
  | fmax | fcmp | fsqrt | fexp2 | flog2 | fexp | flog | fsin | fcos | ftanh | ferf | frcpa | frsqa | fclass | frnd
  | fcvtFromInt | sunbind | sstatQ | sstatCe | sstatCf | sstatPut | vbcast | vrng | vmand | vmor | vmnot | vmpopc
  | mparm | fstatDone | fstatErr | readyReport | barrierToken | peerPortFailure | circuitChange =>
    simp [exec, execNop, execRdtime, execRdctr, execPbr, execPbri, execStage, execAdd, execSub, execAnd, execOr,
    execXor, execShl, execShr, execSar, execRot, execMin, execMax, execMinn, execMaxn, execSeq, execSlt, execSltn,
    execClz, execCtz, execPopc, execSel, execLea, execMul, execMulh, execMulhn, execDiv, execDivn, execRem, execRemn,
    execAddi, execAndi, execOri, execXori, execShli, execShri, execSari, execBfx, execBfi, execMovi, execMovhi,
    execFadd, execFsub, execFmul, execFdiv, execFfma, execFmin, execFmax, execFcmp, execFsqrt, execFexp2, execFlog2,
    execFexp, execFlog, execFsin, execFcos, execFtanh, execFerf, execFrcpa, execFrsqa, execFclass, execFrnd,
    execFcvtFromInt, execSunbind, execSstatQ, execSstatCe, execSstatCf, execSstatPut, execVbcast, execVrng,
    execVmand, execVmor, execVmnot, execVmpopc, execMparm, execFstatDone, execFstatErr, execReadyReport,
    execBarrierToken, execPeerPortFailure, execCircuitChange, h]
  | ret | xchk | xchkV | brl | sbind | capchk | vscan | vscale | vw2enc | rsmark | rsck | mfoffSet | csrr | halt | ld
  | st | vld | vst | vldm | vstm | tld | tst | feset | feclr | capld | capst | capder | publish | pst | tidset
  | fstatPeer | macst | macld | vcmp | vsel | vpack | vperm | vshuf | vslide =>
    simp only [exec, execRet, execXchk, execXchkV, execBrl, execSbind, execCapchk, execVscan, execVscale,
    execVw2enc, execRsmark, execRsck, execMfoffSet, execCsrr, execHalt, execLd, execSt, execVld, execVst, execVldm,
    execVstm, execTld, execTst, execFeset, execFeclr, execCapld, execCapst, execCapder, execPublish, execPst,
    execTidset, execFstatPeer, execMacst, execMacld, execVcmp, execVsel, execVpack, execVperm, execVshuf, execVslide]
    exact (Out.keeps_checked (by simp)).canon h
  | gwcondSet | gwcondClr | gwcondIns | atom | pld | patom | lease | reshPrio | mgath | fatom | fgrp | tlbinv | vwset
  | doorbell | nopPacket | ffence | thermalResume | portRelight =>
    refine Out.Keeps.canon (m := s.mem) ?_ h
    simp [exec, execGwcondSet, execGwcondClr, execGwcondIns, execAtom, execPld, execPatom, execLease, execReshPrio,
    execMgath, execFatom, execFgrp, execTlbinv, execVwset, execDoorbell, execNopPacket, execFfence,
    execThermalResume, execPortRelight]
  | vadd | vsub | vmul | vfma | vfms | vdiv =>
    simp only [exec, execVadd, execVsub, execVmul, execVfma, execVfms, execVdiv]
    exact (vecF_keeps _ _ _ _ _ _ _ _).canon h
  | vsqrt | vrcpa | vrsqa | vexp2 | vlog2 | vexp | vlog | vsin | vcos | vtanh | verf | vabs | vneg | vclass =>
    simp only [exec, execVsqrt, execVrcpa, execVrsqa, execVexp2, execVlog2, execVexp, execVlog, execVsin, execVcos,
    execVtanh, execVerf, execVabs, execVneg, execVclass]
    exact (vecF1_keeps _ _ _ _ _ _ _).canon h
  | vaddI32 | vsubI32 | vmulI32 | vmadi | vand | vor | vxor | vnot | vshl | vshr | vsar | vabsI32 | vnegI32 =>
    simp only [exec, execVaddI32, execVsubI32, execVmulI32, execVmadi, execVand, execVor, execVxor, execVnot,
    execVshl, execVshr, execVsar, execVabsI32, execVnegI32]
    exact (vecI_keeps _ _ _ _ _ _ _).canon h
  | vmin | vmax =>
    simp only [exec, execVmin, execVmax]
    exact (vecT_keeps _ _ _ _ _ _ _ _).canon h
  | rvmul | rvfma | rvadd | rvcvt | rvrelu | rvscale | rvdrop | pusht =>
    simp only [exec, execRvmul, execRvfma, execRvadd, execRvcvt, execRvrelu, execRvscale, execRvdrop, execPusht]
    exact (push_keeps _ _).canon h
  | urmul | urfma | uradd | urcvt | urrelu | urscale | urdrop | popt =>
    simp only [exec, execUrmul, execUrfma, execUradd, execUrcvt, execUrrelu, execUrscale, execUrdrop, execPopt]
    exact (pop_keeps _ _ _ _).canon h
  | unop | uxset | uxadd | uxldp | ukadd | uwait | uxmov =>
    simp only [exec, execUnop, execUxset, execUxadd, execUxldp, execUkadd, execUwait, execUxmov]
    exact (micro_keeps fun _ => by simp).canon h
  | csrw | csrwFlags | csrwMode | csrwStage | csrwRsSpill =>
    simp only [exec, execCsrw, execCsrwFlags, execCsrwMode, execCsrwStage, execCsrwRsSpill]
    exact (csrWrite_keeps _ _ _).canon h
  | reshPin | reshUnpin | evict | evictDemote | pref =>
    simp only [exec, execReshPin, execReshUnpin, execEvict, execEvictDemote, execPref]
    exact (onRange_keeps fun _ _ => by simp).canon h
  | drainPush cl core => exact (execDrainPush_keeps cl core s).canon h
  | fstatOut => exact Out.canon_next.2 h
  | scratchBufferDrain cl bank => exact (execScratchBufferDrain_keeps cl bank s).canon h
  | tend => exact (execTend_keeps s).canon h
  | yieldOp => exact (execYieldOp_keeps s).canon h
  | br t cond pop a => exact (execBr_keeps t cond pop a s).canon h
  | trap code => exact (execTrap_keeps code s).canon h
  | svc code => exact (execSvc_keeps code s).canon h
  | fcvt t rm c d a => exact (execFcvt_keeps t rm c d a s).canon h
  | sstatVal d q => exact (execSstatVal_keeps d q s).canon h
  | pget k a b l => exact (execPget_keeps k a b l s).canon h
  | lrel k a b => exact (execLrel_keeps k a b s).canon h
  | vcvt tf ff rm sat d a => exact (execVcvt_keeps tf ff rm sat d a s).canon h
  | vunpack w hi sx d a => exact (execVunpack_keeps w hi sx d a s).canon h
  | vred op ty rm m d a => exact (execVred_keeps op ty rm m d a s).canon h
  | mcall ent => exact (execMcall_keeps ent s).canon h
  | routineStart cl core => exact (execRoutineStart_keeps cl core s).canon h
  | routineTimeout cl core => exact (execRoutineTimeout_keeps cl core s).canon h
  | uend => exact (execUend_keeps s).canon h
  | uloop last src count => exact (execUloop_keeps last src count s).canon h
  | ubnz x target => exact (execUbnz_keeps x target s).canon h
  | uzero xc n => exact (execUzero_keeps xc n s).canon h
  | mfoff o a l => exact (execMfoff_keeps o a l s).canon h
  | dqpop d q => exact (execDqpop_keeps d q s).canon h
  | dqst q b => exact (execDqst_keeps q b s).canon h
  | mload d a b => exact (execMload_keeps d a b s).canon h
  | eret => exact (execEret_keeps s).canon h
  | copyx dst src d a b => exact (execCopyx_keeps dst src d a b s).canon h
  | yieldCycle cl core => exact (execYieldCycle_keeps cl core s).canon h
  | streamSlotLand arrival => exact (execStreamSlotLand_keeps arrival s).canon h
  | copyEntryComplete cl e => exact (execCopyEntryComplete_keeps cl e s).canon h
  | lazyUnitMove cl core kind idx => exact (execLazyUnitMove_keeps cl core kind idx s).canon h
  | preemptWatchdog ctx cl => exact (execPreemptWatchdog_keeps ctx cl s).canon h
  | conditionalNodeEval cl slot node => exact (execConditionalNodeEval_keeps cl slot node s).canon h
  | whileNodeEval cl slot node => exact (execWhileNodeEval_keeps cl slot node s).canon h
  | leaseExpiry ctx idx => exact (execLeaseExpiry_keeps ctx idx s).canon h
  | promotionComplete range => exact (execPromotionComplete_keeps range s).canon h
  | deadlineMiss part stream watch => exact (execDeadlineMiss_keeps part stream watch s).canon h
  | budgetWindow => exact (execBudgetWindow_keeps s).canon h
  | indirect addr len => exact (execIndirect_keeps addr len s).canon h
  | loopPacket span rep => exact (execLoopPacket_keeps span rep s).canon h
  | writeCondWord cluster graph value => exact (execWriteCondWord_keeps cluster graph value s).canon h
  | waitIdle => exact (execWaitIdle_keeps s).canon h
  | budget cls value => exact (execBudget_keeps cls value s).canon h
  | gangInjectHalt part stream => exact (execGangInjectHalt_keeps part stream s).canon h
  | stragglerCheck part stream => exact (execStragglerCheck_keeps part stream s).canon h
  | fabricAck pkt => exact (execFabricAck_keeps pkt s).canon h
  | fabricRetransmit out => exact (execFabricRetransmit_keeps out s).canon h
  | resumeMarker pkt => exact (execResumeMarker_keeps pkt s).canon h
  | packetForward pkt => exact (execPacketForward_keeps pkt s).canon h
  | virtualEgressSend part dst => exact (execVirtualEgressSend_keeps part dst s).canon h
  | syncMessage valid msg => exact (execSyncMessage_keeps valid msg s).canon h
  | holdoverEntry => exact (execHoldoverEntry_keeps s).canon h
  | clockLock => exact (execClockLock_keeps s).canon h
  | roleMapSet roles => exact (execRoleMapSet_keeps roles s).canon h
  | roleDark => exact (execRoleDark_keeps s).canon h
  | partitionCreate r => exact (execPartitionCreate_keeps r s).canon h
  | contextCreate r => exact (execContextCreate_keeps r s).canon h
  | streamBind part stream ctx base size => exact (execStreamBind_keeps part stream ctx base size s).canon h
  | errorClear part stream => exact (execErrorClear_keeps part stream s).canon h
  | capSlotWrite ctx slot value tag => exact (execCapSlotWrite_keeps ctx slot value tag s).canon h
  | handleWrite ctx idx q0 q1 q2 => exact (execHandleWrite_keeps ctx idx q0 q1 q2 s).canon h
  | fenceAssign pkg fence => exact (execFenceAssign_keeps pkg fence s).canon h
  | fencedStateExit pkg fence => exact (execFencedStateExit_keeps pkg fence s).canon h
  | routerTableWrite part peer entry => exact (execRouterTableWrite_keeps part peer entry s).canon h
  | exportTableWrite idx q0 q1 q2 q3 => exact (execExportTableWrite_keeps idx q0 q1 q2 q3 s).canon h
  | keyLoad idx key => exact (execKeyLoad_keeps idx key s).canon h
  | powerCapSet watts => exact (execPowerCapSet_keeps watts s).canon h
  | mgmtPreempt ctx => exact (execMgmtPreempt_keeps ctx s).canon h
  | attestationReport nonce => exact (execAttestationReport_keeps nonce s).canon h
  | powerOn img => exact (execPowerOn_keeps img s).canon h
  | thermalTrip layer => exact (execThermalTrip_keeps layer s).canon h
  | recoveryExit => exact (execRecoveryExit_keeps s).canon h
  | fabricStreamReset ctx peer => exact (execFabricStreamReset_keeps ctx peer s).canon h
  | gputComplete xfer => exact (execGputComplete_keeps xfer s).canon h
  | condWordUpdate update => exact (execCondWordUpdate_keeps update s).canon h
  | loop => exact execLoop_canon h
  | loopi => exact execLoopi_canon h
  | phase => exact execPhase_canon h
  | phaseProbe => exact execPhaseProbe_canon h
  | fence => exact execFence_canon h
  | gget => exact execGget_canon h
  | gput => exact execGput_canon h
  | uwld => exact execUwld_canon h
  | umac => exact execUmac_canon h
  | fwr => exact execFwr_canon h
  | freq => exact execFreq_canon h
  | fmc => exact execFmc_canon h
  | lineLanding => exact execLineLanding_canon h
  | copyEntryStart => exact execCopyEntryStart_canon h
  | spillLine => exact execSpillLine_canon h
  | refillLine => exact execRefillLine_canon h
  | contextHalt => exact execContextHalt_canon h
  | taskComplete => exact execTaskComplete_canon h
  | graphNodeLaunch => exact execGraphNodeLaunch_canon h
  | graphComplete => exact execGraphComplete_canon h
  | poolResponse => exact execPoolResponse_canon h
  | poolRetransmit => exact execPoolRetransmit_canon h
  | leaseGrant => exact execLeaseGrant_canon h
  | publishExchange => exact execPublishExchange_canon h
  | launchTask => exact execLaunchTask_canon h
  | launchGraph => exact execLaunchGraph_canon h
  | launchGraphResident => exact execLaunchGraphResident_canon h
  | launchStart => exact execLaunchStart_canon h
  | timed => exact execTimed_canon h
  | pred => exact execPred_canon h
  | writeMemory => exact execWriteMemory_canon h
  | waitPacket => exact execWaitPacket_canon h
  | waitPoll => exact execWaitPoll_canon h
  | sched => exact execSched_canon h
  | event => exact execEvent_canon h
  | timedLaunchInstant => exact execTimedLaunchInstant_canon h
  | stragglerNotice => exact execStragglerNotice_canon h
  | fabricWriteArrival => exact execFabricWriteArrival_canon h
  | fabricAtomicArrival => exact execFabricAtomicArrival_canon h
  | fabricRequestArrival => exact execFabricRequestArrival_canon h
  | multicastArrival => exact execMulticastArrival_canon h
  | completionNotice => exact execCompletionNotice_canon h
  | clockLostEntry => exact execClockLostEntry_canon h
  | shootdownInstant => exact execShootdownInstant_canon h
  | roleFlush => exact execRoleFlush_canon h
  | roleReenumerate => exact execRoleReenumerate_canon h
  | roleRelight => exact execRoleRelight_canon h
  | contextDestroy => exact execContextDestroy_canon h
  | mgmtStart => exact execMgmtStart_canon h
  | hostAccess => exact execHostAccess_canon h
  | packageReset => exact execPackageReset_canon h
  | publishNotice => exact execPublishNotice_canon h
  | clusterCacheEviction => exact execClusterCacheEviction_canon h

/-! ## Issue of a bundle (Machine/Issue) -/

@[simp] theorem touchAll_mem (s : State) (us : List (UnitKind × Nat)) : (s.touchAll us).mem = s.mem := by
  simp [State.touchAll]

@[simp] theorem giveBeats_mem (s : State) (since beats : Nat) (lines : List Nat) :
    (s.giveBeats since beats lines).mem = s.mem :=
  (rfl)

theorem runOps_canon {ops : List (Nat × Instr)} {s : State} (h : s.mem.Canon) : (runOps ops s).Canon := by
  induction ops generalizing s with
  | nil => exact Out.canon_next.2 h
  | cons o r ih =>
    obtain ⟨slot, i⟩ := o
    have ran : Out.Canon (exec i (s.atSlot slot)) := exec_canon h
    unfold runOps
    split
    case h_1 t e =>
      have ht := ran t e
      split
      · exact Out.canon_next.2 ht
      · exact ih ht
    case h_2 f _ => exact Out.canon_fault f
    case h_3 x _ => exact Out.canon_refused x

@[simp] theorem moveOn_mem (s : State) (stop : Bool) : (s.moveOn stop).mem = s.mem := by simp [State.moveOn]

@[simp] theorem takeCkpt_mem (s : State) (restart : Bool) : (s.takeCkpt restart).mem = s.mem := by
  simp [State.takeCkpt]

@[simp] theorem account_mem (s : State) (p : Prep) (slots banks : List Nat) :
    (s.account p slots banks).mem = s.mem := by
  simp [State.account]

/-- What an attempt to issue ends in has memories in canonical form. -/
def IssueRes.Canon : IssueRes → Prop
  | .stall t => t.mem.Canon
  | .done o => o.Canon
  | _ => True

theorem IssueRes.canon_stall {t : State} : (IssueRes.stall t).Canon ↔ t.mem.Canon := Iff.rfl

theorem IssueRes.canon_done {o : Out} : (IssueRes.done o).Canon ↔ o.Canon := Iff.rfl

theorem issueBundle_canon {s : State} {p : Prep} (h : s.mem.Canon) : (s.issueBundle p).Canon := by
  have ran (ops : List (Nat × Instr)) (u : State) (hu : u.mem = s.mem) : (runOps ops u).Canon :=
    runOps_canon (hu ▸ h)
  unfold State.issueBundle
  dsimp only
  split
  · trivial
  · split
    next t e =>
      have ht : t.mem.Canon := ran _ _ (by simp) t e
      split
      · trivial
      · split
        · trivial
        · split
          · exact Out.canon_next.2 ht
          · split
            next u eu =>
              have hu : u.mem.Canon := runOps_canon (by simpa using ht) u eu
              exact Out.canon_next.2 hu
            · exact runOps_canon (by simpa using ht)
    · exact ran _ _ (by simp)

theorem tryIssue_canon {s : State} (h : s.mem.Canon) : s.tryIssue.Canon := by
  unfold State.tryIssue
  split
  · trivial
  · dsimp only
    split
    · exact IssueRes.canon_stall.2 ((touchAll_mem _ _).symm ▸ h)
    · exact issueBundle_canon h

@[simp] theorem visit_mem (s : State) (cl core : Nat) (sec : Bool) : (s.visit cl core sec).mem = s.mem :=
  (rfl)

@[simp] theorem noteKept_mem (s : State) (kept : Bool) : (s.noteKept kept).mem = s.mem := by
  simp [State.noteKept]

@[simp] theorem takeTrap_mem (s : State) (r : TrapRec) (emu : Option EmuRec) : (s.takeTrap r emu).mem = s.mem := by
  simp [State.takeTrap]

theorem pendingTrap_mem {s t : State} (e : s.pendingTrap = some t) : t.mem = s.mem := by
  unfold State.pendingTrap at e
  split at e
  · cases e; simp
  · split at e <;> cases e
    simp

@[simp] theorem fillPc_canon {s : State} (h : s.mem.Canon) : s.fillPc.mem.Canon := by simp [State.fillPc, h]

theorem trapNow_canon {s t : State} (h : s.mem.Canon) (e : s.trapNow = some t) : t.mem.Canon := by
  unfold State.trapNow at e
  split at e
  · cases e
  · rcases hp : s.pendingTrap with _ | u <;> rw [hp] at e
    · dsimp only [Option.orElse_none] at e
      split at e <;> cases e
      simp [h]
    · cases e
      exact (pendingTrap_mem hp).symm ▸ h

theorem yieldTrap_canon {s t : State} {first : Bool} (h : s.mem.Canon) (ht : t.mem.Canon) :
    (s.yieldTrap first t).Canon := by
  refine Out.canon_next.2 ?_
  rcases hu : (if first then (s.visit s.cur.cl s.cur.core false).trapNow else none) with _ | u
  · simpa using ht
  · split at hu
    · exact trapNow_canon (s := s.visit s.cur.cl s.cur.core false) (t := u) h hu
    · cases hu

theorem issueAct_canon {s : State} {cl core : Nat} {sec first : Bool} (h : s.mem.Canon) :
    (s.issueAct cl core sec first).Canon := by
  have hv : (s.visit cl core sec).mem.Canon := h
  unfold State.issueAct
  dsimp only
  generalize s.visit cl core sec = s at hv
  split
  · split <;> simp [hv]
  · split
    · simp [hv]
    · split
      next t e => exact yieldTrap_canon hv ((pendingTrap_mem e).symm ▸ hv)
      next =>
        have hf := fillPc_canon hv
        have ht := tryIssue_canon hf
        split
        next t e => rw [e, IssueRes.canon_stall] at ht; exact Out.canon_next.2 (by simpa using ht)
        next e => simp [hv]
        next t e => rw [e, IssueRes.canon_done, Out.canon_next] at ht; exact Out.canon_next.2 (by simpa using ht)
        next o _ e => rw [e] at ht; exact ht
        next r emu e => exact yieldTrap_canon hf (by simp [hv])

/-! ## The events of a cycle (Machine/Cycle) -/

@[simp] theorem takeBest_mem (s : State) (c : Nat) (cs : List Cand) : (s.takeBest c cs).mem = s.mem := by
  unfold State.takeBest
  exact foldl_mem fun t x => by split <;> simp

@[simp] theorem goLate_mem (s : State) (c : Nat) (r : BankRead) : (s.goLate c r).2.mem = s.mem := by
  unfold State.goLate
  split <;> rfl

@[simp] theorem goAllLate_mem (s : State) (c : Nat) (rs : List BankRead) : (s.goAllLate c rs).2.mem = s.mem := by
  induction rs generalizing s with
  | nil => rfl
  | cons r rest ih => exact (ih _).trans (goLate_mem s c r)

@[simp] theorem endReads_mem (s : State) (c : Nat) : (s.endReads c).mem = s.mem := by
  have drained (b : Nat) (t : State) :
      (match execScratchBufferDrain c b t with | .next u => u | _ => t).mem = t.mem := rfl
  unfold State.endReads
  dsimp only
  exact (foldl_mem fun t b => drained b t).trans ((takeBest_mem _ c _).trans (goAllLate_mem s c _))

@[simp] theorem deadlines_mem (s : State) (p : Nat × Nat) : (s.deadlines p).mem = s.mem := by
  simp [State.deadlines]

@[simp] theorem endSpill_canon {s : State} {c : Nat} (h : s.mem.Canon) : (s.endSpill c).mem.Canon := by
  simp [State.endSpill, h]

@[simp] theorem landCycle_mem (s : State) : s.landCycle.mem = s.mem := by simp [State.landCycle]

@[simp] theorem endCycle_canon {s : State} (h : s.mem.Canon) : s.endCycle.mem.Canon := by
  have pumped : s.pumpFabric.mem.Canon := by simp [h]
  refine foldl_canon (happenAll_canon (foldl_canon pumped fun t c ht => ?_) ?_) fun t p ht => ?_
  · exact endSpill_canon ((endReads_mem t c).symm ▸ ht)
  · exact fun n t ht => (execPromotionComplete_keeps n t).canon ht
  · exact (deadlines_mem t p).symm ▸ ht

@[simp] theorem landLater_mem (s : State) (c k : Nat) (p : Pend) (w : PWrite) : (s.landLater c k p w).mem = s.mem :=
  (rfl)

@[simp] theorem landWrite_mem (s : State) (c k : Nat) (p : Pend) (w : PWrite) :
    (s.landWrite c k p w).mem = s.mem := by
  cases w
  case csr n v => exact csrLand_mem s c k n v
  case stage e n =>
    unfold State.landWrite
    dsimp only
    split <;> simp
  case pool o a bs fence =>
    unfold State.landWrite
    dsimp only
    split
    · exact pstEnter_mem s c k p.sec p.id o a bs fence
    · exact landLater_mem s c k p (.pool o a bs fence)
  all_goals rfl

@[simp] theorem landWrites_mem (s : State) (c k : Nat) (p : Pend) : (s.landWrites c k p).mem = s.mem :=
  foldl_mem fun t w => landWrite_mem t c k p w

@[simp] theorem dropPends_mem (s : State) (c k : Nat) (ps : List Pend) : (s.dropPends c k ps).mem = s.mem :=
  (rfl)

@[simp] theorem landPend_mem (s : State) (c k : Nat) (p : Pend) : (s.landPend c k p).2.mem = s.mem := by
  unfold State.landPend
  dsimp only
  split <;> simp

@[simp] theorem landAll_mem (s : State) (c k : Nat) (ps : List Pend) : (s.landAll c k ps).2.mem = s.mem := by
  induction ps generalizing s with
  | nil => rfl
  | cons p r ih => exact (ih _).trans (landPend_mem s c k p)

@[simp] theorem coreResults_mem (s : State) (c k : Nat) : (s.coreResults c k).2.mem = s.mem := by
  unfold State.coreResults
  dsimp only
  rw [landAll_mem, dropPends_mem, modE_mem]
  exact (foldl_mem fun t p => landWrites_mem t c k p).trans (dropPends_mem s c k _)

@[simp] theorem gatherRow_mem (s : State) (c k : Nat) (g : Gather) (row off : Nat) :
    (s.gatherRow c k g row off).mem = s.mem :=
  (rfl)

@[simp] theorem gatherAll_mem (s : State) (c k : Nat) (gs : List Gather) : (s.gatherAll c k gs).mem = s.mem := by
  unfold State.gatherAll
  exact foldl_mem fun t x => by split <;> simp

@[simp] theorem coreGathers_mem (s : State) (c k : Nat) : (s.coreGathers c k).mem = s.mem := by
  simp [State.coreGathers]

theorem foldl_pair_mem {A B : Type} {f : B × State → A → B × State} {l : List A} {p : B × State}
    (hf : ∀ q x, (f q x).2.mem = q.2.mem) : (l.foldl f p).2.mem = p.2.mem := by
  induction l generalizing p with
  | nil => rfl
  | cons x r ih => exact ih.trans (hf p x)

@[simp] theorem clusterResults_mem (s : State) (c : Nat) : (s.clusterResults c).mem = s.mem := by
  have pushed (t : State) (k : Nat) : (t.happen (execDrainPush c k)).mem = t.mem :=
    happen_mem (execDrainPush_keeps c k t)
  have gathered (t : State) (k : Nat) : (t.coreGathers c k).mem = t.mem := coreGathers_mem t c k
  unfold State.clusterResults
  dsimp only
  rw [takeBest_mem, foldl_mem pushed, foldl_mem gathered, modCl_mem]
  refine foldl_pair_mem (p := ([], s)) ?_
  intro q k
  dsimp only
  exact coreResults_mem q.2 c k

@[simp] theorem settleAll_canon {s : State} (h : s.mem.Canon) : s.settleAll.mem.Canon := by
  refine foldl_canon (happenAll_canon (happenAll_canon h ?_) ?_) fun t c ht => foldl_canon ht fun u k hu => ?_
  · exact fun n t ht => (execStreamSlotLand_keeps n t).canon ht
  · exact fun n t ht => (execGputComplete_keeps n t).canon ht
  · exact settle_canon (settle_canon hu)

@[simp] theorem poolEvents_canon {s : State} (h : s.mem.Canon) : s.poolEvents.mem.Canon := by
  refine happen_canon_of ?_ fun t => (execBudgetWindow_keeps t).canon
  rw [pumpResidency_mem]
  refine foldl_canon (foldl_canon (happenAll_canon h ?_) fun t p ht => happenAll_canon ht ?_) fun t p => pfStep_canon
  · exact fun _ _ => execPoolRetransmit_canon
  · exact fun n u => (execLeaseExpiry_keeps p.1 n u).canon

@[simp] theorem fabricEvents_mem (s : State) : s.fabricEvents.mem = s.mem := by simp [State.fabricEvents]

@[simp] theorem condEvents_mem (s : State) : s.condEvents.mem = s.mem := by simp [State.condEvents]

@[simp] theorem clockEvents_canon {s : State} (h : s.mem.Canon) : s.clockEvents.mem.Canon := by
  have locked : (((s.happen execHoldoverEntry).happen execClockLostEntry).happen execClockLock).mem.Canon :=
    happen_canon_of (happen_canon_of (happen_canon_of h
      fun t => (execHoldoverEntry_keeps t).canon) fun _ => execClockLostEntry_canon)
      fun t => (execClockLock_keeps t).canon
  refine roleEvents_canon (happen_canon_of (freeExch_canon ?_) fun _ => execShootdownInstant_canon)
  rw [answerPubs_mem]
  exact happenAll_canon locked fun _ _ => execPublishExchange_canon

@[simp] theorem streamEvents_canon {s : State} {micro : Bool} (h : s.mem.Canon) :
    (s.streamEvents micro).mem.Canon := by
  have launched (t : State) (p : Nat × Nat) (ht : t.mem.Canon) :
      ((((t.happen (execGangInjectHalt p.1 p.2)).happen (execTimedLaunchInstant p.1 p.2)).happen
        (execStragglerCheck p.1 p.2)).happen (execLaunchStart p.1 p.2)).mem.Canon :=
    happen_canon_of (happen_canon_of (happen_canon_of (happen_canon_of ht
      fun u => (execGangInjectHalt_keeps _ _ u).canon) fun _ => execTimedLaunchInstant_canon)
      fun u => (execStragglerCheck_keeps _ _ u).canon) fun _ => execLaunchStart_canon
  have each := foldl_canon (l := s.streamKeys) h launched
  unfold State.streamEvents
  dsimp only
  split
  · exact happenAll_canon each fun _ _ => execWaitPoll_canon
  · exact each

@[simp] theorem engineEvents_canon {s : State} {c : Nat} (h : s.mem.Canon) : (s.engineEvents c).mem.Canon := by
  refine foldl_canon h fun t e ht => ?_
  split
  · exact ht
  · exact happen_canon_of (happen_canon_of ht fun u => (execCopyEntryComplete_keeps c e u).canon)
      fun _ => execCopyEntryStart_canon

@[simp] theorem moveEvents_mem (s : State) (c : Nat) : (s.moveEvents c).mem = s.mem := by
  simp [State.moveEvents]

@[simp] theorem graphEvents_canon {s : State} {c : Nat} (h : s.mem.Canon) : (s.graphEvents c).mem.Canon := by
  refine foldl_canon h fun t g ht => ?_
  split
  · exact ht
  · exact foldl_canon ht fun u i hu =>
      happen_canon_of (happen_canon_of (happen_canon_of hu fun v => execGraphNodeLaunch_canon)
        fun v => (execConditionalNodeEval_keeps _ _ _ v).canon) fun v => (execWhileNodeEval_keeps _ _ _ v).canon

@[simp] theorem taskEvents_canon {s : State} (h : s.mem.Canon) : s.taskEvents.mem.Canon := by
  refine happenAll_canon (happenAll_canon (foldl_canon h fun t c ht => ?_) ?_) ?_
  · exact happenAll_canon ht fun _ _ => execTaskComplete_canon
  · exact fun p t => (execPreemptWatchdog_keeps p.1 p.2 t).canon
  · exact fun _ _ => execContextHalt_canon

@[simp] theorem resumeEvents_canon {s : State} (h : s.mem.Canon) : s.resumeEvents.mem.Canon :=
  foldl_canon h fun _ _ => tryResume_canon

@[simp] theorem events_canon {s : State} {micro : Bool} (h : s.mem.Canon) : (s.events micro).mem.Canon := by
  have pooled : (s.settleAll.poolEvents.fabricEvents.condEvents).mem.Canon := by
    rw [condEvents_mem, fabricEvents_mem]
    exact poolEvents_canon (settleAll_canon h)
  refine foldl_canon (streamEvents_canon (resumeEvents_canon (taskEvents_canon
    (foldl_canon (foldl_canon (clockEvents_canon pooled) ?_) ?_)))) fun _ _ => graphEvents_canon
  · exact fun t c ht => (moveEvents_mem _ c).symm ▸ engineEvents_canon ht
  · exact fun t c ht => foldl_canon ht fun u k hu => happen_canon_of hu fun v => (execRoutineStart_keeps c k v).canon

@[simp] theorem openCore_mem (s : State) (c k : Nat) : (s.openCore c k).2.mem = s.mem := by
  have yielded (t : State) : (t.happen (execYieldCycle c k)).mem = t.mem := happen_mem (execYieldCycle_keeps c k t)
  unfold State.openCore
  dsimp only
  split
  · rfl
  · split
    · split <;> simp
    · split <;> simp [yielded]

@[simp] theorem openCores_mem (s : State) (ks : List (Nat × Nat)) : (s.openCores ks).2.mem = s.mem := by
  induction ks generalizing s with
  | nil => rfl
  | cons p r ih => exact (ih _).trans (openCore_mem s p.1 p.2)

@[simp] theorem open_mem (s : State) : s.open_.mem = s.mem := openCores_mem s s.coreKeys

@[simp] theorem beginCycle_canon {s : State} (h : s.mem.Canon) : s.beginCycle.mem.Canon := by
  unfold State.beginCycle
  dsimp only
  rw [open_mem]
  exact events_canon (foldl_canon (endCycle_canon h) fun t c ht => (clusterResults_mem t c).symm ▸ ht)

/-! ## The acts of the agenda and the step (Machine/Step) -/

theorem microAct_canon {s : State} {cl core : Nat} (h : s.mem.Canon) : (s.microAct cl core).Canon := by
  unfold State.microAct
  dsimp only
  split
  · exact Out.canon_next.2 h
  · split
    · exact (execRoutineTimeout_keeps cl core _).canon h
    · split
      · exact Out.canon_next.2 ((stopHere_mem ..).symm ▸ h)
      · exact exec_canon h

theorem streamAct_canon {s : State} {part stream : Nat} (h : s.mem.Canon) : (s.streamAct part stream).Canon := by
  have filled (t : State) (ht : t.mem.Canon) : (match t.cpS with | none => t | some x => t.fillPacket x).mem.Canon := by
    split
    · exact ht
    · exact fillPacket_canon ht
  have run (hold : Bool) (i : Instr) (t u : State) (ht : t.mem.Canon) (hu : u.mem = t.mem) :
      Out.Canon (if hold && heldPacket i then .next t else exec i u) := by
    split
    · exact Out.canon_next.2 ht
    · exact exec_canon (hu ▸ ht)
  unfold State.streamAct
  dsimp only
  split
  · exact Out.canon_next.2 h
  · split
    · exact Out.canon_next.2 h
    · split
      · exact Out.canon_next.2 (prefetchAhead_canon (cpContinue_canon h))
      · have hs := filled _ (prefetchAhead_canon
          (s := { s with trapped := none, cur := { part := part, stream := stream } }) (part := part) (i := stream) h)
        split
        · exact Out.canon_next.2 hs
        · exact Out.canon_next.2 ((cpFail_mem _ _).symm ▸ hs)
        · exact run _ _ _ _ hs (by simp)

theorem act_canon {s : State} {a : Act} (h : s.mem.Canon) : (s.act a).Canon := by
  cases a
  case issue c k sec => exact issueAct_canon h
  case micro c k => exact microAct_canon h
  case cp p i => exact streamAct_canon h
  case event i => exact exec_canon h
  case mail c => exact mailAct_canon h
  case graphEnd c g => exact execGraphComplete_canon h
  all_goals exact Out.canon_next.2 (by simp [h])

/-- A step opens a cycle or performs the first act of the agenda. -/
theorem step_canon {s : State} (h : s.mem.Canon) : Out.Canon (step s) := by
  unfold step
  split
  · exact Out.canon_next.2 (beginCycle_canon h)
  · exact act_canon h

end Sys2Proof.Machine
end

section
/-! PROOF. The two statements on the state of reset and the canonical form of memory (00 R1, R5, 27 R448, log entries 1, 2). -/

open Sys2Proof Sys2Proof.Machine

/-- Settles O53: every part is read off `State.reset`, and `reset_wf` gives the canonical form. -/
theorem resetState : Obligations.ResetState := by
  refine ⟨rfl, rfl, rfl, rfl, rfl, rfl, rfl, rfl, rfl, ?_, ?_, reset_wf, ?_⟩
  · exact fun _ _ => ⟨rfl, rfl, rfl, fun _ => ⟨rfl, rfl⟩⟩
  · exact fun _ _ => ⟨rfl, rfl⟩
  · exact fun _ => rfl

/-- Settles O54: `step_canon`, the invariant over every act of the agenda and the opening of a cycle. -/
theorem memoryCanonicalKept : Obligations.MemoryCanonicalKept := fun _ t h e => step_canon h t e

end

section
/-! PROOF. What writes at homes, boundaries and the pool's ports leave (11 R188 to R193, 23 R366 to R372).

The frame of a state is what these operations leave: the site, the change of role map with its dark ports and waiting
commands, the contexts, the streams, and for each cluster its context, tasks, graphs and cores; of a sequencer all but
its phase, what it has read in it, and the faults posted to it. One simp lemma `f_frame` for each operation says so. -/

namespace Sys2Proof.Machine

open Sys2Proof

/-! ## The frame of a state -/

/-- A fold keeps what each of its steps keeps. -/
theorem foldl_keeps {S A B : Type} (P : S → B) {f : S → A → S} (hf : ∀ t x, P (f t x) = P t) (l : List A)
    (s : S) : P (l.foldl f s) = P s := by
  induction l generalizing s with
  | nil => rfl
  | cons x r ih => exact (ih _).trans (hf s x)

/-- A sequencer but for the start of its phase, what it has read in it (11 R187, R190), and the faults that wait for its
next issue (27 R434). -/
def Seq.bare (q : Seq) : Seq := { q with phase := 0, seen := [], pend := [] }

def CoreE.bare (e : CoreE) : CoreE := { e with prim := e.prim.bare, second := e.second.bare }

def Core.bare (y : Core) : Core := { y with e := y.e.bare }

/-- Who holds a cluster, and what its cores do. -/
structure Seat where
  ctx : Option Nat
  tasks : List Task
  graphs : Tbl GraphSlot
  core : Nat → Core

def Cluster.seat (x : Cluster) : Seat := ⟨x.ctx, x.tasks, x.graphs, fun k => (x.co k).bare⟩

/-- The change of role map with its dark ports, the commands that wait for it (01 R17, 27 R457), and which context ids
are in use. -/
structure Desk where
  role : Option RoleChange
  roles : List Bool
  darkPools : List Nat
  darkPorts : List Nat
  mail : List MailCmd
  known : Nat → Bool

def State.desk (s : State) : Desk :=
  ⟨s.role, s.roles, s.darkPoolLayers, s.fabric.darkPorts, s.mailQueue, fun n => (look s.ctxs n).isSome⟩

structure Frame where
  desk : Desk
  cur : Cur
  cycle : Nat
  ctxs : List (Nat × Context)
  stream : Nat → Nat → Option Stream
  seat : Nat → Seat

def State.frame (s : State) : Frame := ⟨s.desk, s.cur, s.cycle, s.ctxs, s.stream, fun c => (s.cl c).seat⟩

@[simp] theorem setSq_bare (e : CoreE) (z : Bool) (q : Seq) : (e.setSq z q).bare = e.bare.setSq z q.bare := by
  cases z <;> rfl

@[simp] theorem bare_sq (e : CoreE) (z : Bool) : e.bare.sq z = (e.sq z).bare := by cases z <;> rfl

@[simp] theorem setSq_sq_self (e : CoreE) (z : Bool) : e.setSq z (e.sq z) = e := by cases z <;> rfl

@[simp] theorem frame_ite (c : Prop) [Decidable c] (s t : State) :
    (if c then s else t).frame = if c then s.frame else t.frame :=
  apply_ite State.frame c s t

@[simp] theorem foldl_frame {A : Type} {f : State → A → State} {l : List A} {s : State}
    (hf : ∀ t x, (f t x).frame = t.frame) : (l.foldl f s).frame = s.frame :=
  foldl_keeps State.frame hf l s

/-- An update of a cluster that leaves who holds it and what its cores do. -/
theorem modCl_frame {s : State} {c : Nat} {f : Cluster → Cluster} (h : (f (s.cl c)).seat = (s.cl c).seat) :
    (s.modCl c f).frame = s.frame := by
  have hs : (fun b => ((s.modCl c f).cl b).seat) = fun b => (s.cl b).seat := by
    funext b
    rw [cl_modCl]
    split
    · subst_vars; exact h
    · rfl
  exact congrArg (Frame.mk s.desk s.cur s.cycle s.ctxs s.stream) hs

theorem setCo_seat {x : Cluster} {k : Nat} {y : Core} (h : y.bare = (x.co k).bare) : (x.setCo k y).seat = x.seat := by
  have hc : (fun j => ((x.setCo k y).co j).bare) = fun j => (x.co j).bare := by
    funext j
    rw [co_setCo]
    split
    · subst_vars; exact h
    · rfl
  exact congrArg (Seat.mk x.ctx x.tasks x.graphs) hc

theorem modE_frame {s : State} {c k : Nat} {f : CoreE → CoreE}
    (h : (f (s.core c k).e).bare = (s.core c k).e.bare) : (s.modE c k f).frame = s.frame :=
  modCl_frame (f := fun x => x.setCo k ((x.co k).setE (f (x.co k).e)))
    (setCo_seat (congrArg (fun e => { s.core c k with e := e }) h))

theorem modSq_frame {s : State} {c k : Nat} {z : Bool} {f : Seq → Seq}
    (h : (f (s.sq c k z)).bare = (s.sq c k z).bare) : (s.modSq c k z f).frame = s.frame := by
  refine modE_frame ?_
  change (f (s.sq c k z)).bare = _ at h
  rw [setSq_bare]
  exact (congrArg _ h).trans (by rw [State.sq, ← bare_sq, setSq_sq_self])

@[simp] theorem modMem_frame (s : State) (f : Mem → Mem) : (s.modMem f).frame = s.frame := rfl
@[simp] theorem tick1_frame (s : State) : s.tick1.frame = s.frame := rfl
@[simp] theorem bump_frame (s : State) : s.bump.frame = s.frame := rfl
@[simp] theorem report_frame (s : State) (w : String) (v : Nat) : (s.report w v).frame = s.frame := rfl

/-- A change of the counter of free choices, or of the pool side, alone. -/
theorem free_frame (s : State) (n : Nat) : ({ s with free := n } : State).frame = s.frame := rfl
@[simp] theorem pool_frame (s : State) (p : PoolSide) : ({ s with pool := p } : State).frame = s.frame := rfl

/-! ## Homes, marks and faults (Machine/Memory, Machine/Ops) -/

@[simp] theorem fillLayer_frame (s : State) (l : Loc) : (s.fillLayer l).frame = s.frame := by
  unfold State.fillLayer
  split
  · dsimp only; split <;> rfl
  · rfl

@[simp] theorem wrHome_frame (s : State) (l : Loc) (b : Byte) (i : WrInfo) : (s.wrHome l b i).frame = s.frame := by
  cases l with
  | phys pa key => rfl
  | layer p off pa => simp [State.wrHome]
  | scratch c off => exact modCl_frame rfl

@[simp] theorem wrAll_frame (i : WrInfo) (l : List (Loc × Byte)) (s : State) : (wrAll i l s).frame = s.frame := by
  induction l generalizing s with
  | nil => rfl
  | cons p r ih => exact (ih _).trans (wrHome_frame _ _ _ _)

@[simp] theorem wrHomes_frame (s : State) (w : Option (Nat × Nat × Bool)) (l : List (Loc × Byte)) :
    (s.wrHomes w l).frame = s.frame :=
  wrAll_frame _ _ _

@[simp] theorem setMark_frame (s : State) (l : Loc) (m : Option LineMark) : (s.setMark l m).frame = s.frame := by
  cases l with
  | phys pa key => rfl
  | layer p off pa => simp [State.setMark]
  | scratch c off => exact modCl_frame rfl

@[simp] theorem poison_frame (s : State) (l : Loc) (hop : BitVec 4) : (s.poison l hop).frame = s.frame := by
  have h := setMark_frame s l (some { kind := 2, hop := hop })
  unfold State.poison
  dsimp only
  split <;> exact h

@[simp] theorem l2Enter_frame (s : State) (part pa : Nat) : (s.l2Enter part pa).frame = s.frame := by
  unfold State.l2Enter
  split <;> simp

@[simp] theorem l2Flush_frame (s : State) (part : Nat) (slices : List Nat) : (s.l2Flush part slices).frame = s.frame := rfl

@[simp] theorem takePorts_frame (s : State) (ps : List (Nat × Nat × Bool)) : (s.takePorts ps).frame = s.frame :=
  foldl_frame fun _ _ => modCl_frame rfl

@[simp] theorem postFault_frame (s : State) (ctx c k : Nat) (sec : Bool) (r : TrapRec) :
    (s.postFault ctx c k sec r).frame = s.frame := by
  unfold State.postFault State.modEOf
  split
  · refine modE_frame ?_
    dsimp only
    split
    · rfl
    · rw [setSq_bare]; exact (congrArg _ (bare_sq _ _).symm).trans (setSq_sq_self _ _)
  · rfl

@[simp] theorem faultWriters_frame (s : State) (cl : Nat) (hs : List Held) (r : TrapRec) :
    (s.faultWriters cl hs r).frame = s.frame := by
  simp [State.faultWriters]

@[simp] theorem ownerFault_frame (s : State) (ctx : Nat) (r : TrapRec) : (s.ownerFault ctx r).frame = s.frame := by
  unfold State.ownerFault
  dsimp only
  (repeat' split) <;> simp

@[simp] theorem writeFails_frame (s : State) (ctx : Nat) (r : TrapRec) : (s.writeFails ctx r).frame = s.frame := by
  unfold State.writeFails
  split
  · rfl
  · rw [ownerFault_frame]; split <;> simp

@[simp] theorem wholeSealed_frame (s : State) (ls : List (Loc × Byte)) : (s.wholeSealed ls).frame = s.frame := by
  simp [State.wholeSealed]

theorem writeVa_frame {s t : State} {ctx va : Nat} {bs : List Byte} (h : s.writeVa ctx va bs = .ok t) :
    t.frame = s.frame := by
  unfold State.writeVa at h
  (repeat' split at h) <;> cases h
  simp

/-! ## Boundaries (11 R188 to R190) -/

/-- What writes and marks at homes, lines that enter the L2, and faults of writers leave, a line that goes home leaves. -/
theorem lineHome_keeps {B : Type} (P : State → B) (hw : ∀ s l b i, P (State.wrHome s l b i) = P s)
    (hl : ∀ s part pa, P (State.l2Enter s part pa) = P s) (hm : ∀ s l m, P (State.setMark s l m) = P s)
    (hp : ∀ s l hop, P (State.poison s l hop) = P s) (hf : ∀ s c hs r, P (State.faultWriters s c hs r) = P s)
    (s : State) (cl line : Nat) (hs : List Held) (vis wide : Option Nat) : P (s.lineHome cl line hs vis wide) = P s := by
  unfold State.lineHome
  dsimp only
  split
  · exact (hf _ _ _ _).trans (hp _ _ _)
  · have hu := foldl_keeps P (f := fun t (h : Held) => t.wrHome (locOfNum h.pa h.key) h.byte
      { w := h.id, by_ := some (cl, h.core, h.sec), rel := h.released
        vis := if h.released.isSome then vis else none, wide := if h.released.isSome then wide else none })
      (fun t h => hw _ _ _ _) hs s
    generalize hs.foldl _ s = u at hu ⊢
    generalize locOfNum (64 * line) = l
    have hv : P (match l with | .phys pa _ => u.l2Enter (cl / 256) pa | _ => u) = P s := by
      cases l with
      | phys pa key => exact (hl _ _ _).trans hu
      | layer p off pa => exact hu
      | scratch c off => exact hu
    generalize (match l with | .phys pa _ => u.l2Enter (cl / 256) pa | _ => u : State) = v at hv ⊢
    split
    · split
      · exact (hm _ _ _).trans hv
      · exact (hf _ _ _ _).trans ((hp _ _ _).trans ((hm _ _ _).trans hv))
    · exact hv

@[simp] theorem lineHome_frame (s : State) (cl line : Nat) (hs : List Held) (vis wide : Option Nat) :
    (s.lineHome cl line hs vis wide).frame = s.frame :=
  lineHome_keeps State.frame wrHome_frame l2Enter_frame setMark_frame poison_frame faultWriters_frame s cl line hs vis wide

@[simp] theorem writeHome_frame (s : State) (cl : Nat) (f : Held → Bool) (vis wide : Option Nat) :
    (s.writeHome cl f vis wide).frame = s.frame :=
  (foldl_frame fun _ _ => lineHome_frame _ _ _ _ _ _).trans (modCl_frame rfl)

@[simp] theorem showHome_frame (s : State) (cl inst : Nat) (wide : Bool) (f : OldByte → Bool) :
    (s.showHome cl inst wide f).frame = s.frame := rfl

@[simp] theorem release_frame (s : State) (cl k : Nat) (sec : Bool) (sc : Scope) :
    (s.release cl k sec sc).frame = s.frame := by
  unfold State.release
  dsimp only
  split
  · rfl
  · split
    · rw [modMem_frame]
      exact modCl_frame rfl
    · rw [writeHome_frame, showHome_frame, modMem_frame]
      exact modCl_frame rfl

@[simp] theorem acquire_frame (s : State) (cl k : Nat) (sec : Bool) : (s.acquire cl k sec).frame = s.frame :=
  modSq_frame rfl

@[simp] theorem boundary_frame (s : State) (cl k : Nat) (sec : Bool) (sc : Scope) :
    (s.boundary cl k sec sc).frame = s.frame := by
  simp [State.boundary]

/-! ## The pool's ports and the write buffer (23 R366 to R372) -/

theorem modPart_stream {s : State} {n : Nat} {f : Partition → Partition} (h : ∀ p, (f p).streams = p.streams) :
    (s.modPart n f).stream = s.stream := by
  funext p i
  unfold State.modPart
  split
  · rfl
  · rename_i x hx
    simp only [State.stream, look_place]
    split
    · subst_vars; simp [hx, h]
    · rfl

theorem modPart_frame {s : State} {n : Nat} {f : Partition → Partition} (h : ∀ p, (f p).streams = p.streams) :
    (s.modPart n f).frame = s.frame := by
  have hs := modPart_stream (s := s) (n := n) h
  simp only [State.frame, hs]
  unfold State.modPart
  split <;> rfl

theorem charge_frame {s t : State} {part cls n : Nat} (h : s.charge part cls n = some t) : t.frame = s.frame := by
  unfold State.charge at h
  dsimp only at h
  (repeat' split at h) <;> cases h
  · rfl
  · exact modPart_frame fun _ => rfl
  · exact modPart_frame fun _ => rfl

@[simp] theorem addReq_frame (s : State) (r : PoolReq) : (s.addReq r).frame = s.frame := rfl

@[simp] theorem fillSegs_frame (s : State) (xid : Nat) (f : Nat → Bool) (o : BitVec 40) (line : Nat) (bs : List Byte) :
    (s.fillSegs xid f o line bs).frame = s.frame := rfl

@[simp] theorem poolRead_frame (s : State) (r : PoolReq) (bs : List Byte) : (s.poolRead r bs).frame = s.frame := by
  unfold State.poolRead
  split
  · dsimp only; split <;> rfl
  all_goals rfl

@[simp] theorem pickVer_frame (s : State) (cl k : Nat) (sec : Bool) (phase n : Nat) (vs : List Ver) :
    (s.pickVer cl k sec phase n vs).2.frame = s.frame := by
  unfold State.pickVer
  dsimp only
  split
  · rfl
  · rw [apply_ite Prod.snd, frame_ite]
    exact ite_eq_left_iff.2 fun _ => (free_frame _ _).trans (modSq_frame rfl)

@[simp] theorem poolByteAt_frame (s : State) (cl k : Nat) (sec : Bool) (phase n : Nat) (now : Option Byte) :
    (s.poolByteAt cl k sec phase n now).2.frame = s.frame := by
  simp [State.poolByteAt]

@[simp] theorem localBytes_frame (s : State) (r : PoolReq) (gs : List Nat) (a n : Nat) :
    (s.localBytes r gs a n).2.frame = s.frame := by
  induction n generalizing s a with
  | zero => rfl
  | succ n ih =>
    unfold State.localBytes
    dsimp only
    split <;> simp [ih]

theorem takeSeq_frame (s : State) (r : PoolReq) : (s.takeSeq r).2.frame = s.frame := by
  unfold State.takeSeq
  split <;> rfl

@[simp] theorem sendReq_frame (s : State) (r : PoolReq) : (s.sendReq r).frame = s.frame :=
  takeSeq_frame s r

@[simp] theorem sendPart_frame (s : State) (r : PoolReq) (n : Nat) : (s.sendPart r n).frame = s.frame :=
  sendReq_frame _ _

@[simp] theorem readFault_frame (s : State) (r : PoolReq) (m : LineMark) : (s.readFault r m).frame = s.frame :=
  postFault_frame _ _ _ _ _ _

@[simp] theorem trySend_frame (s : State) (r : PoolReq) : (s.trySend r).frame = s.frame := by
  unfold State.trySend
  split
  · rfl
  · dsimp only
    generalize ((r.kind == kRead || r.kind == kGet) && r.right != 15) = read
    generalize hb : (if read = true then s.localBytes r _ _ _ else ([], s)) = p
    have hp : p.2.frame = s.frame := by rw [← hb]; split <;> simp
    generalize (if read = true then r.knows p.1 else r) = q
    split
    · exact readFault_frame s r _
    · split
      · simp [hp]
      · split
        · split
          · simp [charge_frame ‹_›, hp]
          · split
            · rfl
            · split
              · rfl
              · simp [charge_frame ‹_›]
        · rfl

@[simp] theorem pumpPool_frame (s : State) : s.pumpPool.frame = s.frame := by
  unfold State.pumpPool
  exact foldl_frame fun t x => by split <;> simp

@[simp] theorem flushEntry_frame (s : State) (cl : Nat) (w : PoolWb) : (s.flushEntry cl w).frame = s.frame := by
  unfold State.flushEntry
  rw [addReq_frame]
  exact modCl_frame rfl

@[simp] theorem flushPool_frame (s : State) (cl k : Nat) (sec : Bool) : (s.flushPool cl k sec).frame = s.frame := by
  simp [State.flushPool]

@[simp] theorem flushCores_frame (s : State) (c : Nat) (f : Nat → Bool) : (s.flushCores c f).frame = s.frame := by
  simp [State.flushCores]

/-! ## What the frame gives -/

theorem Frame.cpS_eq {s t : State} (h : t.frame = s.frame) : t.cpS = s.cpS := by
  have hc : t.cur = s.cur := congrArg Frame.cur h
  have hs : t.stream = s.stream := congrArg Frame.stream h
  simp only [State.cpS, hc, hs]

theorem Frame.ctx_eq {s t : State} (h : t.frame = s.frame) (c : Nat) : (t.cl c).ctx = (s.cl c).ctx :=
  congrArg (fun f => (f.seat c).ctx) h

theorem Frame.tasks_eq {s t : State} (h : t.frame = s.frame) (c : Nat) : (t.cl c).tasks = (s.cl c).tasks :=
  congrArg (fun f => (f.seat c).tasks) h

theorem Frame.core_eq {s t : State} (h : t.frame = s.frame) (c k : Nat) : (t.core c k).bare = (s.core c k).bare :=
  congrArg (fun f => (f.seat c).core k) h

theorem Frame.desk_eq {s t : State} (h : t.frame = s.frame) : t.desk = s.desk := congrArg Frame.desk h

end Sys2Proof.Machine
end

section
/-! PROOF. What contexts that leave and take clusters, pre-emption and streams change (03 R56 to R60, 21 R342).

The desk of a state, and the holder of each cluster, are followed through the operations that save and load contexts. -/

namespace Sys2Proof.Machine

open Sys2Proof

/-! ## Contexts -/

/-- Contexts alone change. -/
def State.OnlyCtxs (s t : State) : Prop := ∃ l, t = { s with ctxs := l }

theorem State.OnlyCtxs.refl (s : State) : s.OnlyCtxs s := ⟨s.ctxs, rfl⟩

theorem State.OnlyCtxs.trans {s t u : State} (h : s.OnlyCtxs t) (k : t.OnlyCtxs u) : s.OnlyCtxs u := by
  obtain ⟨l, rfl⟩ := h
  obtain ⟨m, rfl⟩ := k
  exact ⟨m, rfl⟩

theorem foldl_onlyCtxs {A : Type} {f : State → A → State} (hf : ∀ (t : State) x, t.OnlyCtxs (f t x)) (l : List A) (s : State) :
    s.OnlyCtxs (l.foldl f s) := by
  induction l generalizing s with
  | nil => exact .refl s
  | cons x r ih => exact (hf s x).trans (ih _)

theorem modCtx_onlyCtxs (s : State) (n : Nat) (f : Context → Context) : s.OnlyCtxs (s.modCtx n f) := by
  unfold State.modCtx
  split
  · exact .refl s
  · exact ⟨_, rfl⟩

theorem preempt_onlyCtxs (s : State) (ctx c : Nat) : s.OnlyCtxs (s.preempt ctx c) := by
  unfold State.preempt
  split
  · exact .refl s
  · exact modCtx_onlyCtxs _ _ _

theorem preemptAll_onlyCtxs (s : State) (ctx : Nat) : s.OnlyCtxs (s.preemptAll ctx) :=
  foldl_onlyCtxs (fun t p => by
    dsimp only
    split
    · exact preempt_onlyCtxs _ _ _
    · exact .refl t) _ _

@[simp] theorem modCl_desk (s : State) (c : Nat) (f : Cluster → Cluster) : (s.modCl c f).desk = s.desk := rfl

theorem look_modCtx (s : State) (n m : Nat) (f : Context → Context) :
    look (s.modCtx n f).ctxs m = if m = n then (look s.ctxs n).map f else look s.ctxs m := by
  unfold State.modCtx
  split
  · rename_i h
    split
    · subst_vars; simp [h]
    · rfl
  · rename_i x h
    simp [look_place, h]

@[simp] theorem modCtx_desk (s : State) (n : Nat) (f : Context → Context) : (s.modCtx n f).desk = s.desk := by
  have hk : (fun m => (look (s.modCtx n f).ctxs m).isSome) = fun m => (look s.ctxs m).isSome := by
    funext m
    rw [look_modCtx]
    split
    · subst_vars; simp
    · rfl
  obtain ⟨l, hl⟩ := modCtx_onlyCtxs s n f
  rw [hl] at hk ⊢
  exact congrArg (Desk.mk s.role s.roles s.darkPoolLayers s.fabric.darkPorts s.mailQueue) hk

@[simp] theorem preempt_desk (s : State) (ctx c : Nat) : (s.preempt ctx c).desk = s.desk := by
  unfold State.preempt
  split
  · rfl
  · exact modCtx_desk _ _ _

/-! ## Holders of clusters -/

/-- The context of each cluster (03 R33). -/
def State.holder (s : State) (c : Nat) : Option Nat := (s.cl c).ctx

theorem frame_holder {s t : State} (h : t.frame = s.frame) : t.holder = s.holder := funext (Frame.ctx_eq h)

theorem holder_of_clusters {s t : State} (h : t.clusters = s.clusters) : t.holder = s.holder := by
  funext c
  simp only [State.holder, State.cl, h]

theorem modCl_holder {s : State} {c : Nat} {f : Cluster → Cluster} (h : (f (s.cl c)).ctx = (s.cl c).ctx) :
    (s.modCl c f).holder = s.holder := by
  funext b
  rw [State.holder, cl_modCl]
  split
  · subst_vars; exact h
  · rfl

/-! ## Parked traffic and graphs (25 R428, 03 R36) -/

@[simp] theorem areaSave_clusters (s : State) (ctx : Nat) : (s.areaSave ctx).clusters = s.clusters := by
  unfold State.areaSave
  split
  · rfl
  · split
    · rfl
    · exact modCtx_clusters _ _ _

@[simp] theorem areaSave_shadow (s : State) (ctx : Nat) : (s.areaSave ctx).shadow = s.shadow := by
  unfold State.areaSave
  split
  · rfl
  · split
    · rfl
    · obtain ⟨l, hl⟩ := modCtx_onlyCtxs s ctx _
      exact (congrArg State.shadow hl).trans rfl

@[simp] theorem areaSave_desk (s : State) (ctx : Nat) : (s.areaSave ctx).desk = s.desk := by
  unfold State.areaSave
  split
  · rfl
  · split
    · rfl
    · exact modCtx_desk _ _ _

@[simp] theorem areaLoad_clusters (s : State) (ctx : Nat) : (s.areaLoad ctx).clusters = s.clusters := by
  unfold State.areaLoad
  split
  · rfl
  · exact modCtx_clusters _ _ _

@[simp] theorem areaLoad_desk (s : State) (ctx : Nat) : (s.areaLoad ctx).desk = s.desk := by
  unfold State.areaLoad
  split
  · rfl
  · exact modCtx_desk _ _ _

@[simp] theorem saveGraphs_desk (s : State) (c : Nat) (f : Nat → GraphSlot → Bool) : (s.saveGraphs c f).desk = s.desk := by
  unfold State.saveGraphs
  exact foldl_keeps State.desk (fun t x => by split <;> rfl) _ _

@[simp] theorem loadGraphs_desk (s : State) (ctx c : Nat) (gs : Tbl GraphSlot) : (s.loadGraphs ctx c gs).desk = s.desk := by
  unfold State.loadGraphs
  dsimp only
  refine Eq.trans (b := (if _ then _ else _ : State).desk) rfl ?_
  split <;> simp

/-! ## A context leaves a cluster (03 R58, R59) -/

@[simp] theorem switchOut_desk (s : State) (c : Nat) (g : Bool) : (s.switchOut c g).desk = s.desk := by
  unfold State.switchOut
  dsimp only
  split
  · rfl
  · split
    · rfl
    · exact areaSave_desk _ _

theorem areaSave_cl (s : State) (ctx : Nat) : (s.areaSave ctx).cl = s.cl := by
  funext c
  simp only [State.cl, areaSave_clusters]

/-- Another cluster stays as it is, and this one has no context. -/
theorem switchOut_holder (s : State) (c b : Nat) (g : Bool) :
    (s.switchOut c g).holder b = if b = c then none else s.holder b := by
  unfold State.switchOut
  dsimp only
  split
  · rename_i h
    split
    · subst_vars; exact h
    · rfl
  · unfold State.holder
    rw [apply_ite State.cl, areaSave_cl, ite_self]
    refine (congrArg Cluster.ctx (cl_setCl _ _ _ _)).trans ?_
    split <;> rfl

/-- What stands of a context in the shadow area as it leaves a cluster: the eager registers and task of each core, and the
tasks (03 R59). -/
theorem switchOut_saved {s : State} {c ctx : Nat} (g : Bool) (h : (s.cl c).ctx = some ctx) :
    ((s.switchOut c g).cl c).tasks = [] ∧ ∃ v ∈ (s.switchOut c g).shadow, v.ctx = ctx ∧ v.cl = c ∧ v.tasks = (s.cl c).tasks ∧
      v.cores = (span 0 8).map (fun k => (k, (s.core c k).e.dropEmu, (s.core c k).task)) := by
  unfold State.switchOut
  dsimp only
  rw [h]
  dsimp only
  constructor
  · rw [apply_ite State.cl, areaSave_cl, ite_self]
    exact congrArg Cluster.tasks ((cl_setCl _ _ _ _).trans (if_pos rfl))
  · rw [apply_ite State.shadow, areaSave_shadow, ite_self]
    exact ⟨_, List.mem_append_right _ (List.mem_singleton_self _), rfl, rfl, rfl, rfl⟩

/-! ## A context takes a cluster (03 R60) -/

@[simp] theorem enterPhase_frame (s : State) (c k : Nat) (sec : Bool) : (s.enterPhase c k sec).frame = s.frame := by
  unfold State.enterPhase
  split
  · exact boundary_frame _ _ _ _ _
  · rfl

theorem enterPhases_frame (s : State) (c : Nat) (l : List Nat) :
    (l.foldl (fun t k => (t.enterPhase c k false).enterPhase c k true) s).frame = s.frame :=
  foldl_frame fun _ _ => (enterPhase_frame _ _ _ _).trans (enterPhase_frame _ _ _ _)

@[simp] theorem switchIn_desk (s : State) (ctx c : Nat) : (s.switchIn ctx c).desk = s.desk := by
  unfold State.switchIn
  split
  · rfl
  · dsimp only
    split
    · exact switchOut_desk _ _ _
    · generalize (s.switchOut c false).shadowOf ctx c = h
      refine Eq.trans ?_ (switchOut_desk s c false)
      generalize s.switchOut c false = u
      cases h with
      | none => rw [areaLoad_desk, modCl_desk]; rfl
      | some h =>
        dsimp only
        split
        · rw [areaLoad_desk, modCl_desk, loadGraphs_desk]; rfl
        · rw [modCtx_desk, Frame.desk_eq (enterPhases_frame _ _ _), areaLoad_desk, modCl_desk, loadGraphs_desk]; rfl

/-- A known context holds the cluster that it takes. -/
theorem switchIn_holder {s : State} {ctx : Nat} (c : Nat) (h : (look s.ctxs ctx).isSome = true) :
    (s.switchIn ctx c).holder c = some ctx := by
  unfold State.switchIn
  split
  · assumption
  · dsimp only
    have hk : (look (s.switchOut c false).ctxs ctx).isSome = true :=
      (congrFun (congrArg Desk.known (switchOut_desk s c false)) ctx).trans h
    generalize (s.switchOut c false) = u at hk
    obtain ⟨x, hx⟩ := Option.isSome_iff_exists.1 hk
    rw [hx]
    dsimp only
    generalize u.shadowOf ctx c = v
    have hfresh (t : State) (e : ClusterE) (f : Nat → CoreE) : (((t.modCl c (fun y =>
        (span 0 8).foldl (fun y k => y.setCo k { y.co k with e := f k }) { y with ctx := some ctx, e := e })).areaLoad ctx).holder c) =
        some ctx := by
      rw [holder_of_clusters (areaLoad_clusters _ _), State.holder, cl_modCl, if_pos rfl]
      exact foldl_keeps Cluster.ctx (by intros; rfl) _ _
    cases v with
    | none => exact hfresh _ _ _
    | some v =>
      dsimp only
      split
      · exact hfresh _ _ _
      · rw [holder_of_clusters (modCtx_clusters _ _ _), frame_holder (enterPhases_frame _ _ _),
          holder_of_clusters (areaLoad_clusters _ _), State.holder, cl_modCl, if_pos rfl]
        exact foldl_keeps Cluster.ctx (by intros; rfl) _ _

/-! ## Streams (21 R342) -/

theorem modStream_stream (s : State) (p i : Nat) (f : Stream → Stream) : (s.modStream p i f).stream p i = (s.stream p i).map f := by
  unfold State.modStream State.modPart State.stream
  split
  · rename_i h
    simp [h]
  · rename_i x h
    simp only [look_place_same, h, Option.bind_some]
    split
    · rename_i hn
      rw [hn]; rfl
    · rename_i t ht
      rw [ht]; simp

theorem modCp_cpS (s : State) (f : Stream → Stream) : (s.modCp f).cpS = s.cpS.map f := by
  have hc : (s.modCp f).cur = s.cur := by unfold State.modCp State.modStream State.modPart; split <;> rfl
  rw [State.cpS, hc]
  exact modStream_stream _ _ _ _

/-- What a waiting launch does to a cluster leaves the stream that asks (21 R348, 03 R58). -/
theorem clearWay_cpS (s : State) (pre : Bool) (c ctx : Nat) : (s.clearWay pre c ctx).cpS = s.cpS := by
  have ha : s.OnlyCtxs (s.askCluster pre c ctx) := by
    unfold State.askCluster
    split
    · exact .refl s
    · split
      · exact preempt_onlyCtxs _ _ _
      · exact .refl s
  have hs : (s.askCluster pre c ctx).cpS = s.cpS := by
    obtain ⟨l, hl⟩ := ha
    rw [hl]; rfl
  unfold State.clearWay
  dsimp only
  split
  · exact hs
  · exact (Frame.cpS_eq (flushCores_frame _ _ _)).trans hs

/-- A stream that is made to wait waits. -/
theorem cpWait_wait {s t : State} (w : CpWait) (ht : t.cpS = s.cpS) (h : s.cpS.isSome = true) :
    (t.cpWait w).cpS.map (fun x => x.wait) = some w := by
  obtain ⟨x, hx⟩ := Option.isSome_iff_exists.1 h
  rw [State.cpWait, modCp_cpS, ht, hx]
  rfl

end Sys2Proof.Machine
end

section
/-! PROOF. Launches, what they wait for, and the ends of tasks (03 R33 to R35, R56 to R59, 21 R348, R357 to R359). -/

namespace Sys2Proof.Machine

open Sys2Proof

/-! ## What a launch waits for (03 R33, R58, 21 R359) -/

theorem canStart_mayTake {s : State} {l : LaunchWait} (h : s.canStart l = true) : s.mayTake l.ctx (l.key s) = true := by
  simp only [State.canStart, Bool.and_eq_true] at h
  obtain ⟨⟨⟨⟨⟨ht, -⟩, -⟩, -⟩, -⟩, -⟩ := h
  exact ht

theorem mayTake_layer {s : State} {ctx c : Nat} (h : s.mayTake ctx c = true) : (s.layerOf c).isSome = true := by
  simp only [State.mayTake, Bool.and_eq_true] at h
  obtain ⟨⟨⟨⟨⟨hl, -⟩, -⟩, -⟩, -⟩, -⟩ := h
  exact hl

/-- A launch that may start where its context has nothing saved: the cluster is to be had, no launch is ahead, and where
the context holds the cluster its cores and engines are free. -/
theorem canStart_iff {s : State} {l : LaunchWait}
    (h : (s.cl (l.key s)).ctx = some l.ctx ∨ s.shadowOf l.ctx (l.key s) = none) :
    s.canStart l = true ↔ s.mayTake l.ctx (l.key s) = true ∧ s.engineAhead l = false ∧
      ((s.cl (l.key s)).ctx = some l.ctx →
        (∀ k ∈ maskCores l.mask, ((s.core (l.key s) k).task.isSome && !(s.core (l.key s) k).e.wasHalted) = false) ∧
        (∀ k ∈ maskCores l.mask, s.coreFree l.ctx (l.key s) k = true) ∧
        (0 < (launchOf l.header).count0 → s.engineBusy (l.key s) 0 = false) ∧
        (0 < (launchOf l.header).count1 → s.engineBusy (l.key s) 1 = false)) := by
  have hs : (if ((s.cl (l.key s)).ctx == some l.ctx) = true then none else s.shadowOf l.ctx (l.key s)) = none := by
    rcases h with h | h
    · simp [h]
    · simp [h]
  unfold State.canStart
  dsimp only
  rw [hs]
  dsimp only
  by_cases hc : (s.cl (l.key s)).ctx = some l.ctx
  · simp [hc, State.core, and_assoc, Nat.pos_iff_ne_zero, or_iff_not_imp_left]
  · simp [hc]

theorem mem_span {a n k : Nat} : k ∈ span a n ↔ a ≤ k ∧ k < a + n := by
  induction n generalizing a with
  | zero => simp [span]
  | succ n ih => rw [span, List.mem_cons, ih]; omega

theorem mem_maskCores {m : BitVec 8} {k : Nat} : k ∈ maskCores m ↔ k < 8 ∧ m.getLsbD k = true := by
  simp [maskCores, mem_span]

theorem coreFree_iff {s : State} {ctx c k : Nat} :
    s.coreFree ctx c k = true ↔ s.coreQuiet c k = true ∧ s.awaits ctx c (fun j => j == k) = false := by
  simp [State.coreFree]

theorem engineAhead_false {s : State} {l : LaunchWait}
    (h : ∀ w ∈ s.waiting, l.asked ≤ w.asked ∨ w.key s ≠ l.key s) : s.engineAhead l = false := by
  rw [State.engineAhead, List.any_eq_false]
  intro w hw
  rcases h w hw with h | h
  · simp [Nat.not_lt.2 h]
  · simp [h]

/-- Nothing of another context runs on a cluster that is free, the context's own, or left by one of which nothing runs. -/
theorem otherRuns_false {s : State} {c ctx : Nat} (h : (s.cl c).ctx = none ∨ (s.cl c).ctx = some ctx ∨
    ∀ p ∈ (s.cl c).cores, p.2.task = none) : s.otherRuns c ctx = false := by
  unfold State.otherRuns
  split
  · rfl
  · rename_i x hx
    rcases h with h | h | h
    · rw [hx] at h; cases h
    · simp_all
    · rw [Bool.and_eq_false_iff, List.any_eq_false]
      exact .inr fun p hp => by simp [h p hp]

theorem otherRuns_true {s : State} {c ctx o : Nat} {p : Nat × Core} (hx : (s.cl c).ctx = some o) (hne : o ≠ ctx)
    (hp : p ∈ (s.cl c).cores) (ht : p.2.task.isSome = true) (hw : p.2.e.wasHalted = false) : s.otherRuns c ctx = true := by
  simp only [State.otherRuns, hx, Bool.and_eq_true, bne_iff_ne]
  exact ⟨hne, List.any_eq_true.2 ⟨p, hp, by simp [ht, hw]⟩⟩

/-- A cluster may be taken where it stands, nothing is changing or hot, and its context leaves it (01 R17, R19, 03 R33, R58,
27 R456). -/
theorem mayTake_true {s : State} {ctx c : Nat} (hl : (s.layerOf c).isSome = true) (hr : s.role = none)
    (hh : s.hotDies = []) (hs : s.shadowOf ctx c = none) (hx : (s.cl c).ctx = none ∨ (s.cl c).ctx = some ctx ∨
      ∃ o, (s.cl c).ctx = some o ∧ (∀ p ∈ (s.cl c).cores, p.2.task = none) ∧ s.clusterQuiet o c = true) :
    s.mayTake ctx c = true := by
  have hd : s.draining c = false := by simp [State.draining, hr]
  have ho : s.otherRuns c ctx = false :=
    otherRuns_false (hx.imp_right (Or.imp_right fun ⟨_, _, h, _⟩ => h))
  have hv : s.vacant c ctx = true := by
    unfold State.vacant
    rcases hx with h | h | ⟨o, h, -, hq⟩
    · simp [h]
    · simp [h]
    · simp [h, hq]
  simp [State.mayTake, hl, hd, ho, hv, hh, State.graphsFit, hs]

theorem taskWaits : TaskWaits := by
  intro l s
  dsimp only
  refine ⟨fun k hk hx ht hw => ?_, fun k hk hx hq => ?_, fun o hx hne ho => ?_, fun n hn hx hb => ?_, fun h => ?_, ?_⟩
  · rw [← Bool.not_eq_true, canStart_iff (.inl hx)]
    rintro ⟨-, -, h⟩
    obtain ⟨hrun, -⟩ := h hx
    have := hrun k (mem_maskCores.2 hk)
    simp [ht, hw] at this
  · rw [← Bool.not_eq_true, canStart_iff (.inl hx)]
    rintro ⟨-, -, h⟩
    obtain ⟨-, hfree, -⟩ := h hx
    exact hq (coreFree_iff.1 (hfree k (mem_maskCores.2 hk)))
  · rw [← Bool.not_eq_true]
    intro h
    have hm := canStart_mayTake h
    simp only [State.mayTake, Bool.and_eq_true, Bool.not_eq_true'] at hm
    obtain ⟨⟨⟨⟨-, hr⟩, hv⟩, -⟩, -⟩ := hm
    rcases ho with ⟨p, hp, ht, hw⟩ | hq
    · exact absurd (otherRuns_true hx hne hp ht hw) (by simp [hr])
    · simp [State.vacant, hx, hne, hq] at hv
  · rw [← Bool.not_eq_true, canStart_iff (.inl hx)]
    rintro ⟨-, -, h⟩
    obtain ⟨-, -, h0, h1⟩ := h hx
    rcases hn with ⟨rfl, hn⟩ | ⟨rfl, hn⟩
    · rw [h0 hn] at hb; cases hb
    · rw [h1 hn] at hb; cases hb
  · rw [← Bool.not_eq_true]
    intro hc
    have hm := canStart_mayTake hc
    simp only [State.mayTake, Bool.and_eq_true, Bool.not_eq_true', List.isEmpty_iff] at hm
    obtain ⟨⟨⟨⟨⟨hl, hd⟩, -⟩, -⟩, -⟩, hh⟩ := hm
    rcases h with h | h | h
    · simp [h] at hl
    · simp [h] at hd
    · exact h hh
  · intro hx hs hl hr hh hw hk he
    refine (canStart_iff (.inr hs)).2 ⟨mayTake_true hl hr hh hs hx, engineAhead_false hw, fun _ => ⟨?_, ?_, ?_, ?_⟩⟩
    · exact fun k h => by simp [(hk k (mem_maskCores.1 h)).1]
    · exact fun k h => coreFree_iff.2 (hk k (mem_maskCores.1 h)).2
    · exact fun h => he 0 (.inl ⟨rfl, h⟩)
    · exact fun h => he 1 (.inr ⟨rfl, h⟩)

/-! ## The start of a task (03 R33, R34) -/

theorem span_nodup (a n : Nat) : (span a n).Nodup := by
  induction n generalizing a with
  | zero => exact List.nodup_nil
  | succ n ih => exact List.nodup_cons.2 ⟨fun h => by have := (mem_span.1 h).1; omega, ih _⟩

theorem maskCores_nodup (m : BitVec 8) : (maskCores m).Nodup := (span_nodup 0 8).filter _

/-- Each core of a list without repetition is changed once. -/
theorem co_foldl_setCo (f : Core → Core) {l : List Nat} (hl : l.Nodup) (x : Cluster) (j : Nat) :
    (l.foldl (fun y k => y.setCo k (f (y.co k))) x).co j = if j ∈ l then f (x.co j) else x.co j := by
  induction l generalizing x with
  | nil => simp
  | cons k r ih =>
    obtain ⟨hk, hr⟩ := List.nodup_cons.1 hl
    rw [List.foldl_cons, ih hr]
    by_cases hj : j = k
    · subst hj; simp [hk]
    · simp [hj]

/-- A core as a launch resets it, with its items (R34). -/
def LaunchWait.reset (l : LaunchWait) (id : Nat) (y : Core) : Core :=
  { y with e := l.items.foldl CoreE.item y.e.clear, latch := [], halted := false, task := some id, secWait := 0, yieldNow := false }

/-- Both sequencers of a core at their first bundles (R34). -/
def LaunchH.begin (h : LaunchH) (cycle : Nat) (w : Core) : Core :=
  { w with e := (w.e.begin false true h.primary w.order cycle).begin true h.sec h.secondary w.order cycle }

theorem itemShared_cores (s : State) (ctx c b : Nat) (q : Quads) : ((s.itemShared ctx c q).cl b).cores = (s.cl b).cores := by
  have of_clusters {t : State} (h : t.clusters = s.clusters) : (t.cl b).cores = (s.cl b).cores := by
    simp only [State.cl, h]
  unfold State.itemShared
  dsimp only
  split
  · rw [cl_modCl]; split
    · subst_vars; rfl
    · rfl
  · exact of_clusters (modCtx_clusters s ctx _)
  · exact of_clusters (modCtx_clusters s ctx _)
  · rfl

/-- A core of the mask after the launch: reset, with both sequencers at their first bundles (R34). -/
theorem startTask_core {s : State} {l : LaunchWait} (h : (look s.ctxs l.ctx).isSome = true) {k : Nat}
    (hk : k ∈ maskCores l.mask) : ∃ id y cycle,
      ((s.startTask l).core (l.key s) k).bare = ((launchOf l.header).begin cycle (l.reset id y)).bare := by
  have hk' : (look (s.switchIn l.ctx (l.key s)).ctxs l.ctx).isNone = false := by
    rw [← Option.not_isSome, Bool.not_eq_false']
    exact (congrFun (congrArg Desk.known (switchIn_desk s l.ctx (l.key s))) l.ctx).trans h
  unfold State.startTask
  dsimp only
  rw [hk', if_neg (by simp)]
  generalize s.switchIn l.ctx (l.key s) = u
  generalize l.key s = c
  refine ⟨u.fresh, u.core c k, u.cycle, ?_⟩
  have hcl (t : State) : ((t.modCtx l.ctx (fun x => { x with state := .running })).core c k) = t.core c k := by
    simp only [State.core, State.cl, modCtx_clusters]
  rw [hcl, Frame.core_eq (enterPhases_frame _ _ _)]
  have hitems (t : State) : ((l.items.foldl (fun t q => t.itemShared l.ctx c q) t).cl c).cores = (t.cl c).cores :=
    foldl_keeps (fun t => (t.cl c).cores) (fun t q => itemShared_cores t l.ctx c c q) _ _
  rw [State.core, cl_modCl, if_pos rfl]
  refine (congrArg Core.bare ((co_foldl_setCo ((launchOf l.header).begin u.cycle) (maskCores_nodup _) _ _).trans
    (if_pos hk))).trans ?_
  rw [cl_modCl, if_pos rfl]
  refine congrArg (fun y => ((launchOf l.header).begin u.cycle y).bare) ?_
  refine (congrArg (fun t => tget {} t k) (hitems _)).trans ?_
  rw [cl_modCl, if_pos rfl]
  exact (co_foldl_setCo (l.reset u.fresh) (maskCores_nodup _) _ _).trans (if_pos hk)

/-! ### What the reset and the items leave (R34, 21 R358) -/

/-- The sequencers and MODE. -/
def CoreE.seqs (e : CoreE) : Seq × Seq × Bool := (e.prim, e.second, e.mode)

theorem wG_seqs (e : CoreE) (n : Nat) (v : Word) : (e.wG n v).seqs = e.seqs := by
  unfold CoreE.wG; split <;> rfl

theorem setView_seqs (e : CoreE) (n : Nat) (v : View) : (e.setView n v).seqs = e.seqs := by
  unfold CoreE.setView
  (repeat' split) <;> rfl

/-- Items are of registers. -/
theorem item_seqs (e : CoreE) (q : Quads) : (e.item q).seqs = e.seqs := by
  unfold CoreE.item
  dsimp only
  split
  · exact wG_seqs _ _ _
  · rfl
  · rfl
  · rfl
  · rfl
  · exact setView_seqs _ _ _
  · rfl
  · rfl

/-- A launched core: its task runs in task mode, from the first bundles, with empty loop stacks (R34). -/
theorem launched_core (h : LaunchH) (cycle id : Nat) (l : LaunchWait) (w : Core) :
    let y := h.begin cycle (l.reset id w)
    y.halted = false ∧ y.task.isSome = true ∧ y.e.mode = false ∧ y.e.prim.running = true ∧ y.e.prim.pc = h.primary ∧
      y.e.prim.loops = [] ∧ y.e.second.running = h.sec ∧ y.e.second.pc = h.secondary ∧ y.e.second.loops = [] ∧
      (l.items = [] → ∀ n, y.e.rG n = 0) := by
  have hs : (l.reset id w).e.seqs = w.e.clear.seqs := foldl_keeps CoreE.seqs item_seqs l.items w.e.clear
  simp only [CoreE.seqs, Prod.mk.injEq] at hs
  obtain ⟨hp, hq, hm⟩ := hs
  refine ⟨rfl, rfl, hm, rfl, rfl, congrArg Seq.loops hp, rfl, rfl, congrArg Seq.loops hq, fun hi n => ?_⟩
  have hg : (h.begin cycle (l.reset id w)).e.g = [] := by
    change (l.items.foldl CoreE.item w.e.clear).g = []
    rw [hi]; rfl
  simp [CoreE.rG, hg]

/-! ## Launch packets (21 R348, R359) -/

theorem launch_gone {s : State} {l : LaunchWait} (h : s.layerOf (l.key s) = none) : s.launch l = s.cpFail 8 := by
  simp [State.launch, State.noCluster, h]

theorem launch_waits {s : State} {l : LaunchWait} (hl : (s.layerOf (l.key s)).isSome = true) (h : s.canStart l = false) :
    s.launch l = (s.askFor l).cpWait (.launch l) := by
  have hn : s.noCluster (l.key s) = false := by rw [State.noCluster, ← Option.not_isSome, hl]; rfl
  simp [State.launch, hn, State.tryStart, h]

theorem launch_starts {s : State} {l : LaunchWait} (h : s.canStart l = true) :
    s.launch l = ((s.startTask l).cpCount).cpDone := by
  have hn : s.noCluster (l.key s) = false := by
    rw [State.noCluster, ← Option.not_isSome, mayTake_layer (canStart_mayTake h)]; rfl
  simp [State.launch, hn, State.tryStart, h]

/-- A launch packet whose record reads well is launched under the number in flight that it takes. -/
theorem launchTask_reads {pre : Bool} {addr : Word} {s : State} {l : LaunchWait}
    (h : let f := s.fillRecord s.cpCtx addr.toNat (fun h => (launchOf h).items)
      f.readLaunch f.cpCtx addr.toNat none pre f.cpOrigin = .ok l) :
    exec (.launchTask pre addr) s =
      .next ((s.fillRecord s.cpCtx addr.toNat (fun h => (launchOf h).items)).tick1.launch l) := by
  change execLaunchTask pre addr s = _
  dsimp only at h
  simp only [execLaunchTask, h]

theorem taskLaunches : TaskLaunches := by
  intro pre addr l part str s
  dsimp only
  generalize hf : s.fillRecord s.cpCtx addr.toNat (fun h => (launchOf h).items) = f
  have hrun (hr : f.readLaunch f.cpCtx addr.toNat none pre f.cpOrigin = .ok l) :
      exec (.launchTask pre addr) s = .next (f.tick1.launch l) := by
    subst hf; exact launchTask_reads hr
  refine ⟨fun e he => ?_, fun hr hl => ?_, fun hr hl hc => ?_, fun hr hc => ?_, fun t ht hw hc => ?_, fun hx k hk hm => ?_⟩
  · change execLaunchTask pre addr s = _
    simp only [execLaunchTask, hf, he]
  · rw [hrun hr, launch_gone (s := f.tick1) hl]
  · refine ⟨_, hrun hr, fun hp => ?_⟩
    rw [launch_waits (s := f.tick1) hl hc]
    exact cpWait_wait (s := f) _ (clearWay_cpS f.tick1 _ _ _) hp
  · rw [hrun hr, launch_starts hc]
  · change execLaunchStart part str s = _
    simp only [execLaunchStart, ht, hw]
    rw [launch_starts (s := s.atStream part str) hc]
  · obtain ⟨id, y, cycle, hy⟩ := startTask_core hx (mem_maskCores.2 ⟨hk, hm⟩)
    generalize (s.startTask l).core (l.key s) k = z at hy
    have hz := launched_core (launchOf l.header) cycle id l y
    dsimp only at hz
    generalize (launchOf l.header).begin cycle (l.reset id y) = w at hy hz
    obtain ⟨h1, h2, h3, h4, h5, h6, h7, h8, h9, h10⟩ := hz
    exact ⟨(congrArg Core.halted hy).trans h1, (congrArg (fun x => x.task.isSome) hy).trans h2,
      (congrArg (fun x => x.e.mode) hy).trans h3, (congrArg (fun x => x.e.prim.running) hy).trans h4,
      (congrArg (fun x => x.e.prim.pc) hy).trans h5, (congrArg (fun x => x.e.prim.loops) hy).trans h6,
      (congrArg (fun x => x.e.second.running) hy).trans h7, (congrArg (fun x => x.e.second.pc) hy).trans h8,
      (congrArg (fun x => x.e.second.loops) hy).trans h9,
      fun hi n => (congrArg (fun x => x.e.rG n) hy).trans (h10 hi n)⟩

end Sys2Proof.Machine
end

section
/-! PROOF. The ends of tasks and the halts of contexts (03 R35, R56 to R59), and the settlement of task execution. -/

namespace Sys2Proof.Machine

open Sys2Proof

/-! ## Tasks end (03 R35) -/

theorem core_of_clusters {s t : State} (h : t.clusters = s.clusters) : t.core = s.core := by
  funext c k
  simp only [State.core, State.cl, h]

theorem modCl_core {s : State} {c : Nat} {f : Cluster → Cluster} (h : (f (s.cl c)).cores = (s.cl c).cores) (b k : Nat) :
    (s.modCl c f).core b k = s.core b k := by
  simp only [State.core, Cluster.co, cl_modCl]
  split
  · subst_vars; rw [h]
  · rfl

@[simp] theorem modStream_clusters (s : State) (p i : Nat) (f : Stream → Stream) : (s.modStream p i f).clusters = s.clusters :=
  modPart_clusters _ _ _

theorem modGraph_core (s : State) (ctx c g : Nat) (f : GraphSlot → GraphSlot) (b k : Nat) :
    (s.modGraph ctx c g f).core b k = s.core b k := by
  unfold State.modGraph
  dsimp only
  split
  · exact modCl_core (f := fun y => { y with graphs := tset {} y.graphs g _ }) rfl b k
  · rfl

theorem recordDone_core (s : State) (t : Task) (b k : Nat) : (s.recordDone t).core b k = s.core b k := by
  unfold State.recordDone
  split
  · exact congrFun (congrFun (core_of_clusters (modStream_clusters _ _ _ _)) b) k
  · exact modGraph_core _ _ _ _ _ _ _
  · rfl

theorem modCtx_stream (s : State) (n : Nat) (f : Context → Context) : (s.modCtx n f).stream = s.stream := by
  obtain ⟨l, h⟩ := modCtx_onlyCtxs s n f
  rw [h]; rfl

theorem modCtx_shadow (s : State) (n : Nat) (f : Context → Context) : (s.modCtx n f).shadow = s.shadow := by
  obtain ⟨l, h⟩ := modCtx_onlyCtxs s n f
  rw [h]

/-- A context that a cluster's halt has answered has no request for that cluster left. -/
theorem modCtx_answered {s : State} {n : Nat} {y : Context} (hy : look s.ctxs n = some y) (f : Context → CtxState) (c : Nat) :
    ∃ z, look (s.modCtx n (fun y => { y with preempt := y.preempt.filter (fun p => p.1 != c), state := f y })).ctxs n = some z ∧
      ∀ p ∈ z.preempt, p.1 ≠ c := by
  refine ⟨{ y with preempt := y.preempt.filter (fun p => p.1 != c), state := f y }, ?_, fun p hp => ?_⟩
  · rw [look_modCtx, if_pos rfl, hy]; rfl
  · have h : p ∈ y.preempt.filter (fun p => p.1 != c) := hp
    simpa using (List.mem_filter.1 h).2

theorem boundaries_frame (s : State) (c : Nat) (l : List Nat) :
    (l.foldl (fun u k => (u.boundary c k false .package).boundary c k true .package) s).frame = s.frame :=
  foldl_frame fun _ _ => (boundary_frame _ _ _ _ _).trans (boundary_frame _ _ _ _ _)

theorem endTask_stream (s : State) (c : Nat) (t : Task) : (s.endTask c t).stream = s.stream := by
  have hs : ((maskCores t.mask).foldl (fun u k => (u.boundary c k false .package).boundary c k true .package) s).stream = s.stream :=
    congrArg Frame.stream (boundaries_frame s c _)
  unfold State.endTask
  dsimp only
  rw [apply_ite State.stream, modCtx_stream, ite_self, apply_ite State.stream, modCtx_stream, ite_self]
  exact hs

/-- The cores of a task that ends are free and halted. -/
theorem endTask_freed (s : State) (c : Nat) (t : Task) {k : Nat} (hk : k ∈ maskCores t.mask) :
    ((s.endTask c t).core c k).task = none ∧ ((s.endTask c t).core c k).halted = true := by
  unfold State.endTask
  dsimp only
  rw [apply_ite State.core, core_of_clusters (modCtx_clusters _ _ _), ite_self, apply_ite State.core,
    core_of_clusters (modCtx_clusters _ _ _), ite_self, State.core, cl_modCl, if_pos rfl]
  have h (x : Cluster) := (co_foldl_setCo (fun y => { y with task := none, halted := true }) (maskCores_nodup t.mask) x k).trans
    (if_pos hk)
  exact ⟨congrArg Core.task (h _), congrArg Core.halted (h _)⟩

/-! ## The watchdog of pre-emption (03 R57) -/

/-- Steps of which each changes one core of a cluster change the cores of a list without repetition once each. -/
theorem core_foldl {c : Nat} {g : State → Nat → State} {F : Core → Core}
    (hg : ∀ t k j, (g t k).core c j = if j = k then F (t.core c k) else t.core c j) {l : List Nat} (hl : l.Nodup) (s : State)
    (j : Nat) : (l.foldl g s).core c j = if j ∈ l then F (s.core c j) else s.core c j := by
  induction l generalizing s with
  | nil => simp
  | cons k r ih =>
    obtain ⟨hk, hr⟩ := List.nodup_cons.1 hl
    rw [List.foldl_cons, ih hr, hg]
    by_cases hj : j = k
    · subst hj; simp [hk]
    · simp [hj]

theorem dropFeeds_e (z : Option Bool) (y : Core) : (Core.dropFeeds z y).e = y.e := by
  unfold Core.dropFeeds
  split <;> rfl

theorem cut_sq (e : CoreE) (cycle : Nat) (z : Bool) : (e.cut cycle).sq z = (e.sq z).cut cycle := by
  cases z <;> rfl

theorem cut_running (q : Seq) (cycle : Nat) : (q.cut cycle).running = false := by
  unfold Seq.cut
  split
  · rfl
  · next h => simpa using h

/-- A sequencer that the watchdog stops stands at its checkpoint. -/
theorem cut_stopped {q : Seq} (cycle : Nat) (h : q.running = true) :
    (q.cut cycle).preempted = true ∧ (q.cut cycle).pc = q.ckpt.pc := by
  rw [Seq.cut, if_pos h]; exact ⟨rfl, rfl⟩

/-- The sequencers of a cluster that the watchdog stops. -/
theorem cutAll_sq (s : State) (c cycle : Nat) {k : Nat} (hk : k < 8) (z : Bool) :
    ((span 0 8).foldl (fun t k => (t.modCore c k (Core.dropFeeds none)).modE c k (fun e => e.cut cycle)) s).sq c k z =
      (s.sq c k z).cut cycle := by
  have hg (t : State) (k j : Nat) : ((t.modCore c k (Core.dropFeeds none)).modE c k (fun e => e.cut cycle)).core c j =
      if j = k then (Core.dropFeeds none (t.core c k)).setE ((t.core c k).e.cut cycle) else t.core c j := by
    rw [core_modE, core_modCore, core_modCore]
    by_cases hj : j = k <;> simp [hj, dropFeeds_e]
  have h := core_foldl (F := fun y => (Core.dropFeeds none y).setE (y.e.cut cycle)) hg (span_nodup 0 8) s k
  rw [if_pos (mem_span.2 ⟨Nat.zero_le _, by omega⟩)] at h
  rw [State.sq, h]
  exact cut_sq _ _ _

/-! ## The halt of a context (03 R58, R59) -/

/-- FLAGS of a core shows what was raised in the cycle. -/
def State.showFlag (s : State) (c k : Nat) : State :=
  s.modE c k (fun e => { e with flags := e.flags ||| e.raised.zeroExtend 64, raised := 0 })

/-- FLAGS of each core shows what was raised in the cycle of the halt. -/
def State.showFlags (s : State) (c : Nat) : State := (span 0 8).foldl (fun t k => t.showFlag c k) s

theorem showFlag_holder (s : State) (c k : Nat) : (s.showFlag c k).holder = s.holder :=
  modCl_holder (f := fun y => y.setCo k ((y.co k).setE { (y.co k).e with flags := (y.co k).e.flags ||| (y.co k).e.raised.zeroExtend 64, raised := 0 })) rfl

theorem showFlags_holder (s : State) (c : Nat) : (s.showFlags c).holder = s.holder :=
  foldl_keeps State.holder (fun t k => showFlag_holder t c k) _ _

theorem showFlag_desk (s : State) (c k : Nat) : (s.showFlag c k).desk = s.desk := rfl

theorem showFlags_desk (s : State) (c : Nat) : (s.showFlags c).desk = s.desk :=
  foldl_keeps State.desk (fun t k => showFlag_desk t c k) _ _

theorem showFlag_tasks (s : State) (c k b : Nat) : ((s.showFlag c k).cl b).tasks = (s.cl b).tasks := by
  refine (congrArg Cluster.tasks (cl_setCl _ _ _ _)).trans ?_
  split
  · subst_vars; rfl
  · rfl

theorem showFlags_tasks (s : State) (c b : Nat) : ((s.showFlags c).cl b).tasks = (s.cl b).tasks :=
  foldl_keeps (fun t : State => (t.cl b).tasks) (fun t k => showFlag_tasks t c k b) _ _

/-- The general registers and predicates of a core. -/
def State.gk (s : State) (c k : Nat) : Tbl Word × Tbl Cap := ((s.core c k).e.g, (s.core c k).e.k)

theorem showFlag_gk (s : State) (c j b k : Nat) : (s.showFlag c j).gk b k = s.gk b k := by
  unfold State.gk State.showFlag
  rw [core_modE]
  split
  · rename_i h; rw [h.1, h.2]; rfl
  · rfl

theorem showFlags_gk (s : State) (c b k : Nat) : (s.showFlags c).gk b k = s.gk b k :=
  foldl_keeps (fun t : State => t.gk b k) (fun t j => showFlag_gk t c j b k) _ _

theorem Frame.gk_eq {s u : State} (hu : u.frame = s.frame) (c k : Nat) : u.gk c k = s.gk c k := by
  have h := congrArg (fun y : Core => (y.e.g, y.e.k)) (Frame.core_eq hu c k)
  exact h

theorem dropEmu_gk (e : CoreE) : e.dropEmu.g = e.g ∧ e.dropEmu.k = e.k := ⟨rfl, rfl⟩

theorem known_of_desk {s t : State} (h : t.desk = s.desk) (n : Nat) : (look t.ctxs n).isSome = (look s.ctxs n).isSome :=
  congrFun (congrArg Desk.known h) n

theorem halted_known {s u : State} (hu : u.frame = s.frame) {ctx : Nat} (c : Nat) {x : Context} (hx : look s.ctxs ctx = some x) :
    (look ((u.showFlags c).switchOut c true).ctxs ctx).isSome = true := by
  rw [known_of_desk (switchOut_desk _ _ _), known_of_desk (showFlags_desk u c), known_of_desk (Frame.desk_eq hu), hx]
  rfl

/-- With all that it has issued over, a context that is asked to leaves its cluster. -/
theorem contextHalt_leaves {s : State} {ctx c : Nat} {x : Context} (hx : look s.ctxs ctx = some x)
    (ha : ∃ p ∈ x.preempt, p.1 = c) (hc : (s.cl c).ctx = some ctx) (hs : ∀ k z, k < 8 → (s.sq c k z).running = false)
    (hq : (s.flushCores c (fun _ => true)).clusterQuiet ctx c = true) :
    ∃ u : State, u.frame = s.frame ∧ ∃ f : Context → CtxState, exec (.contextHalt ctx c) s = .next
      (((u.showFlags c).switchOut c true).modCtx ctx (fun y => { y with preempt := y.preempt.filter (fun p => p.1 != c), state := f y })) := by
  refine ⟨(span 0 8).foldl (fun t k => (t.boundary c k false .package).boundary c k true .package)
    (s.flushCores c (fun _ => true)), (boundaries_frame _ _ _).trans (flushCores_frame _ _ _), ?_⟩
  have hasked : x.preempt.any (fun p => p.1 == c) = true := by simpa using ha
  have hstop : (span 0 8).all (fun k => !((s.cl c).co k).e.prim.running && !((s.cl c).co k).e.second.running) = true := by
    rw [List.all_eq_true]
    intro k hk
    have hk' : k < 8 := by have := mem_span.1 hk; omega
    have h0 : ((s.cl c).co k).e.prim.running = false := hs k false hk'
    have h1 : ((s.cl c).co k).e.second.running = false := hs k true hk'
    simp [h0, h1]
  refine ⟨fun y => if (((((span 0 8).foldl (fun t k => (t.boundary c k false .package).boundary c k true .package)
    (s.flushCores c (fun _ => true))).showFlags c).switchOut c true).clusters.any fun p => p.2.ctx == some ctx) then y.state else .halted, ?_⟩
  change execContextHalt ctx c s = _
  unfold execContextHalt
  dsimp only
  simp only [hx]
  rw [if_neg (by simp [hasked, hc, hstop]), if_neg (by simp [hq])]
  rfl

theorem clusterQuiet_true {s : State} {ctx c : Nat} (hq : ∀ k, k < 8 → s.coreQuiet c k = true)
    (ha : s.awaits ctx c (fun _ => true) = false) (he : s.engineAwaits ctx c = false) (hr : ∀ a ∈ s.arrivals, a.cl ≠ c) :
    s.clusterQuiet ctx c = true := by
  have hall : (span 0 8).all (s.coreQuiet c) = true :=
    List.all_eq_true.2 fun k hk => hq k (by have := mem_span.1 hk; omega)
  have hany : s.arrivals.any (fun a => a.cl == c) = false := by simpa using hr
  simp [State.clusterQuiet, hall, ha, he, hany]

theorem taskEnds : TaskEnds := by
  intro c n ctx t s
  dsimp only
  refine ⟨fun ht hstop hover hq => ?_, fun x at_ hx hp hlate hc => ?_, fun x hx ha hc hs hq hw he hr => ?_⟩
  · have hall : (maskCores t.mask).all (fun k => ((s.cl c).co k).e.prim.over && ((s.cl c).co k).e.second.over) = true :=
      List.all_eq_true.2 fun k hk => hstop k (mem_maskCores.1 hk).1 (mem_maskCores.1 hk).2
    refine ⟨((s.flushCores c (fun k => t.mask.getLsbD k)).endTask c t).recordDone t, ?_, fun k hk hm => ?_, fun p i a x ho hx => ?_⟩
    · change execTaskComplete c n s = _
      simp [execTaskComplete, ht, hall, hover, hq]
    · rw [recordDone_core]
      exact endTask_freed _ c t (mem_maskCores.2 ⟨hk, hm⟩)
    · rw [State.recordDone, ho]
      dsimp only
      rw [State.countDone, modStream_stream, endTask_stream, hx]
      exact ⟨_, rfl, rfl⟩
  · have hany : x.preempt.any (fun p => p.1 == c && decide (p.2 + watchdogTicks ≤ s.tick)) = true :=
      List.any_eq_true.2 ⟨_, hp, Bool.and_eq_true_iff.2 ⟨beq_self_eq_true c, decide_eq_true hlate⟩⟩
    refine ⟨(span 0 8).foldl (fun t k => (t.modCore c k (Core.dropFeeds none)).modE c k (fun e => e.cut s.cycle)) s, ?_,
      fun k z hk => ?_⟩
    · change execPreemptWatchdog ctx c s = _
      simp [execPreemptWatchdog, hx, hany, hc]
    · rw [cutAll_sq s c s.cycle hk]
      exact ⟨cut_running _ _, cut_stopped _⟩
  · obtain ⟨u, hu, f, hf⟩ := contextHalt_leaves hx ha hc hs (clusterQuiet_true hq hw he hr)
    have hctx : ((u.showFlags c).cl c).ctx = some ctx :=
      (congrFun (showFlags_holder u c) c).trans ((Frame.ctx_eq hu c).trans hc)
    have htasks : ((u.showFlags c).cl c).tasks = (s.cl c).tasks := (showFlags_tasks u c c).trans (Frame.tasks_eq hu c)
    have hknown := halted_known hu c hx
    obtain ⟨y, hy⟩ := Option.isSome_iff_exists.1 hknown
    obtain ⟨hno, v, hv, hvc, hvl, hvt, hvk⟩ := switchOut_saved true hctx
    refine ⟨_, v, hf, ?_, ?_, ?_, hvc, hvl, hvt.trans htasks, fun k hk => ?_, ?_⟩
    · refine (congrFun (holder_of_clusters (modCtx_clusters _ _ _)) c).trans ?_
      rw [switchOut_holder, if_pos rfl]
    · simp only [State.cl, modCtx_clusters]
      exact hno
    · rw [modCtx_shadow]; exact hv
    · rw [hvk]
      refine ⟨_, List.mem_map_of_mem (mem_span.2 ⟨Nat.zero_le k, by omega⟩), rfl, ?_⟩
      have hgk : (u.showFlags c).gk c k = s.gk c k := (showFlags_gk u c c k).trans (Frame.gk_eq hu c k)
      obtain ⟨hg, hk'⟩ := Prod.mk.inj hgk
      exact ⟨(dropEmu_gk _).1.trans hg, (dropEmu_gk _).2.trans hk'⟩
    · exact modCtx_answered hy _ c

end Sys2Proof.Machine

open Sys2Proof Sys2Proof.Machine

/-- Settles O46: `taskLaunches`, `taskWaits` and `taskEnds`, its three parts. -/
theorem taskExecution : Obligations.TaskExecution := ⟨taskLaunches, taskWaits, taskEnds⟩

end

section
/-! PROOF. Graph launches, the nodes of graphs and their completion (03 R36 to R39, 21 R360 to R362). -/

namespace Sys2Proof.Machine

open Sys2Proof

/-! ## Slots of a walker -/

theorem tget_graphs (s : State) (c g : Nat) : tget {} (s.cl c).graphs g = s.slot c g := rfl

@[simp] theorem slot_setSlot_same (s : State) (c g : Nat) (x : GraphSlot) : (s.setSlot c g x).slot c g = x := by
  simp [State.slot, State.setSlot]

theorem slot_of_clusters {s t : State} (h : t.clusters = s.clusters) (c g : Nat) : t.slot c g = s.slot c g := by
  simp only [State.slot, State.cl, h]

@[simp] theorem setSlot_stream (s : State) (c g : Nat) (x : GraphSlot) : (s.setSlot c g x).stream = s.stream := rfl

/-- A graph that the slot holds for the context is changed there. -/
theorem modGraph_held {s : State} {ctx c g : Nat} (hl : (s.slot c g).loaded = true) (hc : (s.slot c g).ctx = ctx)
    (f : GraphSlot → GraphSlot) : s.modGraph ctx c g f = s.setSlot c g (f (s.slot c g)) := by
  simp [State.modGraph, hl, hc]

/-- A graph that the slot does not hold is changed where it is saved with its context (03 R59). -/
theorem modGraph_saved {s : State} {ctx c g : Nat} (h : (s.slot c g).loaded = false ∨ (s.slot c g).ctx ≠ ctx)
    (f : GraphSlot → GraphSlot) : s.modGraph ctx c g f = { s with shadow := s.shadow.map (fun h =>
      if h.ctx = ctx ∧ h.cl = c then { h with graphs := h.graphs.map (fun p => if p.1 = g then (p.1, f p.2) else p) } else h) } := by
  rcases h with h | h <;> simp [State.modGraph, h]

theorem at_put (y : GraphSlot) (i j : Nat) (n : NState) : (y.put i n).at_ j = if j = i then n else y.at_ j :=
  tget_tset _ _ _ _ _

@[simp] theorem at_put_same (y : GraphSlot) (i : Nat) (n : NState) : (y.put i n).at_ i = n := by simp [at_put]

/-! ## Settling (03 R37) -/

/-- A graph of which some nodes that had not started have been skipped. -/
structure GraphSlot.Settled (x y : GraphSlot) : Prop where
  rest : ∃ st, y = { x with st := st }
  node : ∀ i, y.at_ i = x.at_ i ∨ x.at_ i = .notStarted ∧ y.at_ i = .skipped

theorem GraphSlot.Settled.refl (x : GraphSlot) : x.Settled x := ⟨⟨x.st, rfl⟩, fun _ => .inl rfl⟩

theorem GraphSlot.Settled.trans {x y z : GraphSlot} (hy : x.Settled y) (hz : y.Settled z) : x.Settled z where
  rest := by
    obtain ⟨a, ha⟩ := hy.rest
    obtain ⟨b, hb⟩ := hz.rest
    exact ⟨b, hb.trans (congrArg (fun w : GraphSlot => { w with st := b }) ha)⟩
  node i := by
    rcases hz.node i with h | ⟨h, h'⟩ <;> rcases hy.node i with k | ⟨k, k'⟩
    · exact .inl (h.trans k)
    · exact .inr ⟨k, h.trans k'⟩
    · exact .inr ⟨k.symm.trans h, h'⟩
    · exact .inr ⟨k, h'⟩

theorem skip_settled {x : GraphSlot} {i : Nat} (h : x.at_ i = .notStarted) : x.Settled (x.put i .skipped) where
  rest := ⟨_, rfl⟩
  node j := by
    rw [at_put]
    split
    · subst_vars; exact .inr ⟨h, rfl⟩
    · exact .inl rfl

theorem ready_notStarted {x : GraphSlot} {i : Nat} (h : x.ready i = true) : x.at_ i = .notStarted := by
  simp only [GraphSlot.ready, Bool.and_eq_true, beq_iff_eq] at h
  obtain ⟨⟨⟨-, hn⟩, -⟩, -⟩ := h
  exact hn

theorem settle_settled (x : GraphSlot) : x.Settled x.settle := by
  unfold GraphSlot.settle
  generalize span 0 x.nodes.length = l
  induction l generalizing x with
  | nil => exact .refl x
  | cons i r ih =>
    refine .trans ?_ (ih _)
    dsimp only
    split
    · rename_i h
      exact skip_settled (ready_notStarted (Bool.and_eq_true_iff.1 h).1)
    · exact .refl x

/-- A node that has started is not touched by settling. -/
theorem settle_at {x : GraphSlot} {i : Nat} (h : x.at_ i ≠ .notStarted) : x.settle.at_ i = x.at_ i := by
  rcases (settle_settled x).node i with hi | ⟨hi, -⟩
  · exact hi
  · exact absurd hi h

/-- Settling is of the nodes' states alone. -/
theorem settle_eq (x : GraphSlot) : ∃ st, x.settle = { x with st := st } := (settle_settled x).rest

theorem settle_truth (x : GraphSlot) : x.settle.truth = x.truth := by obtain ⟨st, h⟩ := settle_eq x; rw [h]
theorem settle_iter (x : GraphSlot) : x.settle.iter = x.iter := by obtain ⟨st, h⟩ := settle_eq x; rw [h]
theorem settle_statusBits (x : GraphSlot) : x.settle.statusBits = x.statusBits := by obtain ⟨st, h⟩ := settle_eq x; rw [h]
theorem settle_running (x : GraphSlot) : x.settle.running = x.running := by obtain ⟨st, h⟩ := settle_eq x; rw [h]
theorem settle_cond (x : GraphSlot) : x.settle.cond = x.cond := by obtain ⟨st, h⟩ := settle_eq x; rw [h]

/-- A graph starts with its condition word, its status and every node reset (03 R36, 21 R362). -/
theorem start_reset (y : GraphSlot) (o : Nat × Nat) (pre : Bool) :
    (y.start o pre).running = true ∧ (y.start o pre).cond = y.cond0 ∧ (y.start o pre).statusBits = 0 ∧
      ∀ i, (y.start o pre).at_ i = .notStarted ∨ (y.start o pre).at_ i = .skipped := by
  unfold GraphSlot.start
  generalize hx : ({ y with
    running := true, cond := y.cond0, st := [], truth := [], iter := [], statusBits := 0, faulted := false, origin := o, pre := pre,
    counted := false, waits := [], doneAt := 0, statusNo := none } : GraphSlot) = x
  refine ⟨(settle_running x).trans ?_, (settle_cond x).trans ?_, (settle_statusBits x).trans ?_, fun i => ?_⟩
  · subst hx; rfl
  · subst hx; rfl
  · subst hx; rfl
  · have h0 : x.at_ i = .notStarted := by subst hx; rfl
    rcases (settle_settled x).node i with h | ⟨-, h⟩
    · exact .inl (h.trans h0)
    · exact .inr h

/-! ## Launches of graphs (21 R361, R362) -/

theorem noCluster_false {s : State} {c : Nat} (h : (s.layerOf c).isSome = true) : s.noCluster c = false := by
  rw [State.noCluster, ← Option.not_isSome, h]; rfl

theorem launchG_gone {s : State} {c : Nat} (h : s.layerOf c = none) (g : Nat) (load : Option (List Quads × List Word))
    (pre : Bool) : s.launchG c g load pre = s.cpFail 8 := by
  simp [State.launchG, State.noCluster, h]

/-- A launch that cannot start its graph now makes its stream wait for it. -/
theorem launchG_waits {s : State} {c g : Nat} {load : Option (List Quads × List Word)} {pre : Bool}
    (hl : (s.layerOf c).isSome = true) (h : s.startGraph s.cpCtx c g load pre (s.cur.part, s.cur.stream) = .ok none)
    (hp : s.cpS.isSome = true) :
    (s.launchG c g load pre).cpS.map (fun x => x.wait) = some (.graph c g load pre) := by
  simp only [State.launchG, noCluster_false hl, h]
  exact cpWait_wait _ (clearWay_cpS s _ _ _) hp

theorem launchG_starts {s t : State} {c g : Nat} {load : Option (List Quads × List Word)} {pre : Bool}
    (hl : (s.layerOf c).isSome = true) (h : s.startGraph s.cpCtx c g load pre (s.cur.part, s.cur.stream) = .ok (some t)) :
    s.launchG c g load pre = t.cpCount.cpDone := by
  simp [State.launchG, noCluster_false hl, h]

theorem launchG_fails {s : State} {c g e : Nat} {load : Option (List Quads × List Word)} {pre : Bool}
    (hl : (s.layerOf c).isSome = true) (h : s.startGraph s.cpCtx c g load pre (s.cur.part, s.cur.stream) = .error e) :
    s.launchG c g load pre = s.cpFail e := by
  simp [State.launchG, noCluster_false hl, h]

section
variable {s t : State} {ctx c g : Nat} {load : Option (List Quads × List Word)} {pre : Bool} {o : Nat × Nat}

/-- No graph starts on a cluster that drains, or while the graphs that the context left cannot come back. -/
theorem startGraph_held (h : s.draining c = true ∨ s.withGraphs ctx c = none) : s.startGraph ctx c g load pre o = .ok none := by
  unfold State.startGraph
  rcases h with h | h
  · simp [h]
  · simp [h]

theorem startGraph_busy (hd : s.draining c = false) (ht : s.withGraphs ctx c = some t)
    (h : (t.slot c g).running = true ∨ pre = true ∧ t.otherRuns c ctx = true) : s.startGraph ctx c g load pre o = .ok none := by
  have hb : ((t.slot c g).running || (pre && t.otherRuns c ctx)) = true := by simpa using h
  simp [State.startGraph, hd, ht, hb]

/-- A graph whose slot is free is loaded from its record and started, if the walker holds its nodes. -/
theorem startGraph_loads (hd : s.draining c = false) (ht : s.withGraphs ctx c = some t)
    (h : ¬((t.slot c g).running = true ∨ pre = true ∧ t.otherRuns c ctx = true)) (ns : List Quads) (w : List Word) :
    s.startGraph ctx c g (some (ns, w)) pre o = if 1024 < (t.cl c).nodesBut (· == g) + ns.length then .error 9
      else .ok (some (t.setSlot c g (({
        loaded := true, ctx := ctx, nodes := ns, cond0 := (graphOf w).cond, status := (graphOf w).status } : GraphSlot).start o pre))) := by
  have hb : ((t.slot c g).running || (pre && t.otherRuns c ctx)) = false := by
    rw [← Bool.not_eq_true]; simpa using h
  simp only [State.startGraph, hd, ht, hb, Bool.false_eq_true, if_false]

/-- A resident graph is started where its slot holds one of the context. -/
theorem startGraph_resident (hd : s.draining c = false) (ht : s.withGraphs ctx c = some t)
    (h : ¬((t.slot c g).running = true ∨ pre = true ∧ t.otherRuns c ctx = true)) :
    s.startGraph ctx c g none pre o = if (t.slot c g).loaded && (t.slot c g).ctx == ctx then
      .ok (some (t.setSlot c g ((t.slot c g).start o pre))) else .error 9 := by
  have hb : ((t.slot c g).running || (pre && t.otherRuns c ctx)) = false := by
    rw [← Bool.not_eq_true]; simpa using h
  simp only [State.startGraph, hd, ht, hb, Bool.false_eq_true, if_false]

end

/-- A launch packet whose record reads well is launched in its slot. -/
theorem execLaunchGraph_reads {pre : Bool} {addr : Word} {s f : State} {a b : Nat} {ns : List Quads} {w : List Word}
    (hf : s.fillRecord s.cpCtx addr.toNat (fun h => (graphOf h).nodes) = f)
    (h : f.readGraph f.cpCtx addr.toNat = .ok (a, b, ns, w)) :
    exec (.launchGraph pre addr) s = .next (f.launchG a b (some (ns, w)) pre) := by
  change execLaunchGraph pre addr s = _
  simp only [execLaunchGraph, hf, h]

theorem execLaunchGraphResident_inside {pre : Bool} {cl : BitVec 16} {g : BitVec 3} {s : State}
    (h : cl.toNat < s.clustersOf s.cur.part) :
    exec (.launchGraphResident pre cl g) s = .next (s.launchG (256 * s.cur.part + cl.toNat) g.toNat none pre) := by
  change execLaunchGraphResident pre cl g s = _
  have hw : s.walker cl = some (256 * s.cur.part + cl.toNat) := if_neg (by omega)
  simp only [execLaunchGraphResident, hw]

theorem resident_iff {x : GraphSlot} {ctx : Nat} : (x.loaded && x.ctx == ctx) = true ↔ x.loaded = true ∧ x.ctx = ctx := by
  rw [Bool.and_eq_true, beq_iff_eq]

theorem not_busy {x : GraphSlot} {pre r : Bool} (hx : x.running = false) (hr : pre = true → r = false) :
    ¬(x.running = true ∨ pre = true ∧ r = true) := by
  rintro (h | ⟨hp, h⟩)
  · rw [hx] at h; cases h
  · rw [hr hp] at h; cases h

theorem graphLaunches : GraphLaunches := by
  intro pre addr cl g s
  dsimp only
  generalize hf : s.fillRecord s.cpCtx addr.toNat (fun h => (graphOf h).nodes) = f
  refine ⟨fun e he => ?_, fun a b ns w hr => ⟨fun hl => ?_, fun hl hd => ⟨_, execLaunchGraph_reads hf hr, ?_⟩⟩,
    fun a b ns w t hr hl hd ht => ⟨fun hb hn => ?_, fun hb hn => ?_, fun hb => ⟨_, execLaunchGraph_reads hf hr, ?_⟩⟩, fun hc => ?_,
    fun hc hl hd t ht hx ho => ⟨fun hn => ?_, fun hn hm => ?_⟩, fun u ctx n h => ?_, fun y => start_reset y _ pre⟩
  · change execLaunchGraph pre addr s = _
    simp only [execLaunchGraph, hf, he]
  · rw [execLaunchGraph_reads hf hr, launchG_gone hl]
  · exact launchG_waits hl (startGraph_held hd)
  · rw [execLaunchGraph_reads hf hr, launchG_starts hl ((startGraph_loads hd ht hb ns w).trans (if_neg (Nat.not_lt.2 hn)))]
  · rw [execLaunchGraph_reads hf hr, launchG_fails hl ((startGraph_loads hd ht hb ns w).trans (if_pos hn))]
  · exact launchG_waits hl (startGraph_busy hd ht hb)
  · change execLaunchGraphResident pre cl g s = _
    have hw : s.walker cl = none := if_pos hc
    simp only [execLaunchGraphResident, hw]
  · rw [execLaunchGraphResident_inside hc, launchG_fails hl ((startGraph_resident hd ht (not_busy hx ho)).trans
      (if_neg (resident_iff.not.2 fun h => hn.elim (Bool.eq_false_iff.1 · h.1) (absurd h.2 ·))))]
  · rw [execLaunchGraphResident_inside hc, launchG_starts hl ((startGraph_resident hd ht (not_busy hx ho)).trans
      (if_pos (resident_iff.2 ⟨hn, hm⟩)))]
    rfl
  · simp only [State.withGraphs, h]

/-! ## Nodes (03 R37, R38) -/

/-- What no step for an element of the list changes, the steps of the list leave. -/
theorem foldl_keeps_of_mem {S A B : Type} (P : S → B) {f : S → A → S} {l : List A} (hf : ∀ t, ∀ x ∈ l, P (f t x) = P t) (s : S) :
    P (l.foldl f s) = P s := by
  induction l generalizing s with
  | nil => rfl
  | cons x r ih =>
    exact (ih (fun t y hy => hf t y (List.mem_cons_of_mem _ hy)) _).trans (hf s x List.mem_cons_self)

/-- The body that an iteration resets leaves a node that is not of it. -/
theorem resetBody_outside {x : GraphSlot} {i j : Nat} (h : j < (nodeAt x.nodes i).first) :
    (x.resetBody i).at_ j = x.at_ j := by
  unfold GraphSlot.resetBody
  refine foldl_keeps_of_mem (fun y : GraphSlot => y.at_ j) (fun y k hk => ?_) x
  have := (mem_span.1 hk).1
  exact (at_put y k j .notStarted).trans (if_neg (by omega))

/-- The status word of a graph: bit 63, and its status bits (21 R362). -/
theorem graphWord_toNat (y : GraphSlot) : y.word.toNat = 2 ^ 63 + y.statusBits.toNat := by
  have h : ∀ b : BitVec 2, (wordN (2 ^ 63) ||| b.zeroExtend 64).toNat = 2 ^ 63 + b.toNat := by decide
  exact h y.statusBits

/-- A task node at its turn, whose record reads well and which may start, runs (03 R33, R37). -/
theorem nodeLaunch_starts {s f : State} {c g i : Nat} {l : LaunchWait} (ht : s.nodeTurn c g i 0 = true)
    (hf : s.fillRecord (s.slot c g).ctx (nodeAt (s.slot c g).nodes i).record (fun h => (launchOf h).items) = f)
    (hl : f.nodeLaunch c g i = .ok l) (hc : f.canStart l = true) :
    exec (.graphNodeLaunch c g i) s = .next ((f.startTask l).modGraph (s.slot c g).ctx c g (fun y =>
      { y.put i .running with waits := y.waits.filter (fun w => w.1 != i) })) := by
  change execGraphNodeLaunch c g i s = _
  simp [execGraphNodeLaunch, ht, hf, hl, State.tryStart, hc]

/-- A task node whose record is refused stops its graph (21 R361). -/
theorem nodeLaunch_fails {s f : State} {c g i e : Nat} (ht : s.nodeTurn c g i 0 = true)
    (hf : s.fillRecord (s.slot c g).ctx (nodeAt (s.slot c g).nodes i).record (fun h => (launchOf h).items) = f)
    (hl : f.nodeLaunch c g i = .error e) :
    exec (.graphNodeLaunch c g i) s = .next (f.setSlot c g { (f.slot c g).put i .completed with
      faulted := true, statusBits := (f.slot c g).statusBits ||| 2, waits := (f.slot c g).waits.filter (fun w => w.1 != i) }) := by
  change execGraphNodeLaunch c g i s = _
  simp [execGraphNodeLaunch, ht, hf, hl]

theorem conditionalNodeEval_turn {s : State} {c g i : Nat} (ht : s.nodeTurn c g i 1 = true) :
    let x := s.slot c g
    exec (.conditionalNodeEval c g i) s = .next (s.setSlot c g ({ x.put i .completed with
      truth := tset false x.truth i (x.cond &&& (nodeAt x.nodes i).m == (nodeAt x.nodes i).v) } : GraphSlot).settle) := by
  change execConditionalNodeEval c g i s = _
  simp [execConditionalNodeEval, ht]

/-- The next iteration of a while node: the body reset, and the node running (03 R38). -/
def GraphSlot.again (x : GraphSlot) (i : Nat) : GraphSlot :=
  let y := (x.put i .running).resetBody i
  { y with iter := tset 0 y.iter i (tget 0 x.iter i + 1) }

theorem whileNodeEval_turn {s : State} {c g i : Nat} (ht : s.nodeTurn c g i 2 = true) :
    let x := s.slot c g
    let n := nodeAt x.nodes i
    exec (.whileNodeEval c g i) s = .next (s.setSlot c g (
      if (x.cond &&& n.m == n.v) && (decide (tget 0 x.iter i < n.limit) || n.limit == 0) then (x.again i).settle
      else ({ x.put i .completed with statusBits := if x.cond &&& n.m == n.v then x.statusBits ||| 1 else x.statusBits } : GraphSlot).settle)) := by
  change execWhileNodeEval c g i s = _
  simp only [execWhileNodeEval, ht, Bool.or_true, Bool.not_true, Bool.false_eq_true, if_false]
  split <;> rfl

/-- A while node whose body lies above it runs again, one iteration on. -/
theorem again_node {x : GraphSlot} {i : Nat} (h : i < (nodeAt x.nodes i).first) :
    (x.again i).settle.at_ i = .running ∧ tget 0 (x.again i).settle.iter i = tget 0 x.iter i + 1 := by
  have hat : (x.again i).at_ i = .running := (resetBody_outside (x := x.put i .running) h).trans (at_put_same x i .running)
  refine ⟨(settle_at (by rw [hat]; decide)).trans hat, ?_⟩
  rw [settle_iter]
  exact tget_tset_same (V := Nat) 0 ((x.put i .running).resetBody i).iter i (tget 0 x.iter i + 1)

/-- A node that has completed in a graph stays so when the graph settles. -/
theorem completed_settle {x y : GraphSlot} {i : Nat} (h : y.st = (x.put i .completed).st) : y.settle.at_ i = .completed := by
  have hy : y.at_ i = .completed := by
    rw [GraphSlot.at_, h]; exact at_put_same x i .completed
  exact (settle_at (by rw [hy]; decide)).trans hy

theorem graphComplete_counts {s : State} {c g : Nat} (ho : (s.slot c g).isOver = true) (h0 : (s.slot c g).status = 0)
    (hn : (s.slot c g).counted = false) :
    exec (.graphComplete c g) s = .next ((s.setSlot c g { s.slot c g with running := false, statusNo := none }).countDone
      (s.slot c g).origin.1 (s.slot c g).origin.2) := by
  change execGraphComplete c g s = _
  simp [execGraphComplete, ho, h0, hn, State.writeStatus]

theorem graphComplete_writes {s m : State} {c g : Nat} (ho : (s.slot c g).isOver = true) (hne : (s.slot c g).status ≠ 0)
    (hw : s.pubWait (s.slot c g).ctx (s.slot c g).status.toNat 8 ((s.slot c g).statusNo.getD s.fresh) = false)
    (hn : (s.slot c g).counted = true)
    (hm : s.writeVa (s.slot c g).ctx (s.slot c g).status.toNat (bytesOf 8 (s.slot c g).word.toNat) = .ok m) :
    exec (.graphComplete c g) s = .next (m.setSlot c g { s.slot c g with running := false, statusNo := none }) := by
  change execGraphComplete c g s = _
  have hs : s.writeStatus (s.slot c g) (s.slot c g).word = m := by rw [State.writeStatus, if_neg hne, hm]
  simp [execGraphComplete, ho, hw, hn, hs]

theorem graphNodes : GraphNodes := by
  intro c g i l u s
  dsimp only
  refine ⟨fun ht hl hc => nodeLaunch_starts ht rfl hl hc, fun t h hy => modGraph_held hy rfl h,
    fun y => ⟨at_put_same y i _, fun j hj => (at_put y i j _).trans (if_neg hj)⟩,
    fun ht e he => ⟨_, nodeLaunch_fails ht rfl he, ?_⟩, fun ht => ⟨_, conditionalNodeEval_turn ht, ?_⟩,
    fun ht hi => ⟨_, whileNodeEval_turn ht, ?_⟩,
    fun ho h0 hn p hp => ⟨_, { p with completed := p.completed + 1 }, graphComplete_counts ho h0 hn, ?_, ?_, rfl⟩,
    fun m ho hne hw hn hm => graphComplete_writes ho hne hw hn (by rw [graphWord_toNat]; exact hm),
    fun hy hc => ?_, fun h => ?_⟩
  · simp only [tget_graphs]
    rw [slot_setSlot_same]
    exact ⟨rfl, rfl⟩
  · simp only [tget_graphs]
    rw [slot_setSlot_same]
    refine ⟨?_, completed_settle rfl⟩
    rw [settle_truth]
    exact (tget_tset_same false (s.slot c g).truth _ _).trans (beq_eq_decide _ _)
  · simp only [tget_graphs]
    rw [slot_setSlot_same]
    refine ⟨fun hh hm => ?_, fun hh hm => ?_, fun hh => ?_⟩
    · rw [if_pos (by simpa using ⟨of_decide_eq_true hh, hm⟩)]
      exact again_node hi
    · rw [if_neg (fun h => hm (by simpa using (Bool.and_eq_true_iff.1 h).2))]
      refine ⟨completed_settle rfl, (settle_statusBits _).trans ?_⟩
      exact if_pos (beq_iff_eq.2 (of_decide_eq_true hh))
    · have hne : ¬ ((s.slot c g).cond &&& (nodeAt (s.slot c g).nodes i).m == (nodeAt (s.slot c g).nodes i).v) = true :=
        fun h => of_decide_eq_false hh (beq_iff_eq.1 h)
      rw [if_neg (fun h => hne (Bool.and_eq_true_iff.1 h).1)]
      exact ⟨completed_settle rfl, (settle_statusBits _).trans (if_neg hne)⟩
  · simp only [tget_graphs]
    rw [State.countDone, slot_of_clusters (modStream_clusters _ _ _ _), slot_setSlot_same]
  · refine (modStream_stream _ _ _ _).trans ?_
    rw [setSlot_stream]
    exact (congrArg _ hp)
  · exact congrArg Host.Outcome.next (modGraph_held hy hc _)
  · refine ⟨_, rfl, ?_, fun v hs hx hl => ?_⟩
    · rw [modGraph_saved h]
    · rw [modGraph_saved h]
      refine List.mem_map.2 ⟨v, hs, ?_⟩
      exact if_pos ⟨hx, hl⟩

end Sys2Proof.Machine

open Sys2Proof Sys2Proof.Machine

/-- Settles O47: `graphLaunches` and `graphNodes`, its two parts. -/
theorem graphExecution : Obligations.GraphExecution := ⟨graphLaunches, graphNodes⟩

end

section
/-! PROOF. The moves of lazy units between their tables and the bank area (03 R59, R60). -/

namespace Sys2Proof.Machine

open Sys2Proof

/-! ## Tables of which a part is picked or replaced -/

theorem tget_filter {V : Type} (d : V) (f : Nat → Bool) (t : Tbl V) (n : Nat) :
    tget d (t.filter (fun p => f p.1)) n = if f n = true then tget d t n else d := by
  induction t with
  | nil => simp
  | cons p r ih =>
    obtain ⟨k, v⟩ := p
    rw [List.filter_cons]
    by_cases hn : n = k
    · subst hn
      split
      · simp [tget]
      · next h => rw [ih]; simp [h]
    · split
      · simp [tget, hn, ih]
      · simp [tget, hn, ih]

/-- Entering the entries of a canonical table, in order, overrides what the table held at their keys. -/
theorem tget_foldl_tins {V : Type} [DecidableEq V] {d : V} {new : Tbl V} (hw : twf d new = true) (t : Tbl V) (n : Nat) :
    tget d (new.foldl (fun a p => tins a p.1 p.2) t) n = if n ∈ new.map (·.1) then tget d new n else tget d t n := by
  induction new generalizing t with
  | nil => rfl
  | cons p r ih =>
    obtain ⟨k, v⟩ := p
    obtain ⟨-, hk, hr⟩ := (twf_cons d k v r).1 hw
    rw [List.foldl_cons, ih hr, tget_tins]
    by_cases hn : n = k
    · subst hn
      have hno : n ∉ r.map (·.1) := fun hm => by
        obtain ⟨p, hp, rfl⟩ := List.mem_map.1 hm
        have := hk p hp; omega
      rw [if_neg hno, if_pos rfl]
      exact ((if_pos List.mem_cons_self).trans (if_pos rfl)).symm
    · have hm : n ∈ ((k, v) :: r : List (Nat × V)).map (·.1) ↔ n ∈ r.map (·.1) := List.mem_cons.trans (or_iff_right hn)
      simp only [hm, tget, if_neg hn]

theorem tget_absent {V : Type} {d : V} {t : Tbl V} {n : Nat} (h : n ∉ t.map (·.1)) : tget d t n = d := by
  induction t with
  | nil => rfl
  | cons p r ih =>
    obtain ⟨k, v⟩ := p
    obtain ⟨hk, hr⟩ := not_or.1 (List.mem_cons.not.1 h)
    rw [tget, if_neg hk, ih hr]

/-- A table with the part under f replaced: the new entries under f, its own elsewhere. -/
theorem tget_swapIn {V : Type} [DecidableEq V] {d : V} {f : Nat → Bool} {new : Tbl V} (hw : twf d new = true)
    (hf : ∀ p ∈ new, f p.1 = true) (t : Tbl V) (n : Nat) :
    tget d (swapIn f t new) n = if f n = true then tget d new n else tget d t n := by
  rw [swapIn, tget_foldl_tins hw, tget_filter d (fun k => !f k)]
  by_cases hm : n ∈ new.map (·.1)
  · obtain ⟨p, hp, rfl⟩ := List.mem_map.1 hm
    rw [if_pos hm, if_pos (hf p hp)]
  · rw [if_neg hm, tget_absent hm]
    cases f n <;> rfl

theorem unitHolds_iff {kind : UnitKind} {i u n : Nat} : unitHolds kind i u n = true ↔ unitHas kind i u n := by
  cases kind <;> exact decide_eq_true_iff

/-! ## What a unit holds, and what a copy of it holds -/

/-- The tables of a kind's units read alike in two states. -/
structure SameUnits (s t : State) (c k : Nat) (kind : UnitKind) : Prop where
  byte : unitByte t c k kind = unitByte s c k kind
  side : unitSide t c k kind = unitSide s c k kind
  full : unitFull t c kind = unitFull s c kind
  cap : unitCap t c kind = unitCap s c kind
  mark : unitMark t c k kind = unitMark s c k kind

/-- A copy holds what a unit holds (03 R59). -/
def CopyOf (s : State) (c k : Nat) (kind : UnitKind) (i : Nat) (b : Banked) : Prop :=
  ∀ n, (unitHas kind i 1 n → tget 0 b.bytes n = unitByte s c k kind n) ∧ (unitHas kind i 4 n → tget 0 b.side n = unitSide s c k kind n) ∧
    (unitHas kind i 16 n → tget false b.fe n = unitFull s c kind n ∧ tget false b.capTag n = unitCap s c kind n) ∧
    (unitHas kind i 64 n → tget none b.marks n = unitMark s c k kind n)

/-- In t a unit holds what a copy holds, and nothing outside the unit has changed since s (03 R60). -/
def UnitTaken (s t : State) (c k : Nat) (kind : UnitKind) (i : Nat) (b : Banked) : Prop :=
  ∀ n, (unitHas kind i 1 n → unitByte t c k kind n = tget 0 b.bytes n) ∧
    (¬ unitHas kind i 1 n → unitByte t c k kind n = unitByte s c k kind n) ∧
    (kind = .bank → unitHas kind i 4 n → unitSide t c k kind n = tget 0 b.side n) ∧
    (¬ unitHas kind i 4 n → unitSide t c k kind n = unitSide s c k kind n) ∧
    (kind = .group → unitHas kind i 16 n → unitFull t c kind n = tget false b.fe n ∧ unitCap t c kind n = tget false b.capTag n) ∧
    (¬ unitHas kind i 16 n → unitFull t c kind n = unitFull s c kind n ∧ unitCap t c kind n = unitCap s c kind n) ∧
    (kind ≠ .bank → unitHas kind i 64 n → unitMark t c k kind n = tget none b.marks n) ∧
    (¬ unitHas kind i 64 n → unitMark t c k kind n = unitMark s c k kind n)

theorem UnitTaken.congr {s s' t t' : State} {c k i : Nat} {kind : UnitKind} {b : Banked} (h : UnitTaken s t c k kind i b)
    (hs : SameUnits s s' c k kind) (ht : SameUnits t t' c k kind) : UnitTaken s' t' c k kind i b := by
  intro n
  rw [hs.byte, hs.side, hs.full, hs.cap, hs.mark, ht.byte, ht.side, ht.full, ht.cap, ht.mark]
  exact h n

theorem unitOut_copyOf (s : State) (ctx c k : Nat) (kind : UnitKind) (i : Nat) :
    CopyOf s c k kind i (s.unitOut ctx c k kind i) := by
  intro n
  have hp {V : Type} (d : V) (u : Nat) (t : Tbl V) (h : unitHas kind i u n) : tget d (pick (unitHolds kind i u) t) n = tget d t n :=
    (tget_filter d _ t n).trans (if_pos (unitHolds_iff.2 h))
  cases kind with
  | bank => exact ⟨fun h => hp _ _ _ h, fun h => hp _ _ _ h, fun _ => ⟨rfl, rfl⟩, fun _ => rfl⟩
  | hot => exact ⟨fun h => hp _ _ _ h, fun _ => rfl, fun _ => ⟨rfl, rfl⟩, fun h => hp _ _ _ h⟩
  | group => exact ⟨fun h => hp _ _ _ h, fun _ => rfl, fun h => ⟨hp _ _ _ h, hp _ _ _ h⟩, fun h => hp _ _ _ h⟩

theorem unitIn_taken (s : State) (c k : Nat) {b : Banked} (hb : CopyFits b) :
    UnitTaken s (s.unitIn c k b.kind b.idx b) c k b.kind b.idx b := by
  obtain ⟨hwb, hws, hwf, hwc, hwm, hkb, hks, hkf, hkc, hkm⟩ := hb
  intro n
  have hin {V : Type} [DecidableEq V] {d : V} {u : Nat} {new : Tbl V} (t : Tbl V) (hw : twf d new = true)
      (hk : ∀ p ∈ new, unitHas b.kind b.idx u p.1) (h : unitHas b.kind b.idx u n) :
      tget d (swapIn (unitHolds b.kind b.idx u) t new) n = tget d new n :=
    (tget_swapIn hw (fun p hp => unitHolds_iff.2 (hk p hp)) t n).trans (if_pos (unitHolds_iff.2 h))
  have hout {V : Type} [DecidableEq V] {d : V} {u : Nat} {new : Tbl V} (t : Tbl V) (hw : twf d new = true)
      (hk : ∀ p ∈ new, unitHas b.kind b.idx u p.1) (h : ¬ unitHas b.kind b.idx u n) :
      tget d (swapIn (unitHolds b.kind b.idx u) t new) n = tget d t n :=
    (tget_swapIn hw (fun p hp => unitHolds_iff.2 (hk p hp)) t n).trans (if_neg (mt unitHolds_iff.1 h))
  unfold State.unitIn
  generalize b.kind = kind at *
  cases kind with
  | bank =>
    refine ⟨fun h => ?_, fun h => ?_, fun _ h => ?_, fun h => ?_, nofun, fun _ => ⟨rfl, rfl⟩, fun h => absurd rfl h, fun _ => rfl⟩
    all_goals simp only [unitByte, unitSide, core_modCore_same]
    · exact hin _ hwb hkb h
    · exact hout _ hwb hkb h
    · exact hin _ hws hks h
    · exact hout _ hws hks h
  | hot =>
    refine ⟨fun h => ?_, fun h => ?_, nofun, fun _ => rfl, nofun, fun _ => ⟨rfl, rfl⟩, fun _ h => ?_, fun h => ?_⟩
    all_goals simp only [unitByte, unitMark, core_modCore_same]
    · exact hin _ hwb hkb h
    · exact hout _ hwb hkb h
    · exact hin _ hwm hkm h
    · exact hout _ hwm hkm h
  | group =>
    refine ⟨fun h => ?_, fun h => ?_, nofun, fun _ => rfl, fun _ h => ?_, fun h => ?_, fun _ h => ?_, fun h => ?_⟩
    all_goals simp only [unitByte, unitFull, unitCap, unitMark, cl_modCl, if_true]
    · exact hin _ hwb hkb h
    · exact hout _ hwb hkb h
    · exact ⟨hin _ hwf hkf h, hin _ hwc hkc h⟩
    · exact ⟨hout _ hwf hkf h, hout _ hwc hkc h⟩
    · exact hin _ hwm hkm h
    · exact hout _ hwm hkm h

theorem sameUnits_of_clusters {s t : State} (h : t.clusters = s.clusters) (c k : Nat) (kind : UnitKind) : SameUnits s t c k kind := by
  have hcl : t.cl = s.cl := by funext b; simp only [State.cl, h]
  have hco : t.core = s.core := core_of_clusters h
  constructor <;> simp only [funext_iff, unitByte, unitSide, unitFull, unitCap, unitMark, hcl, hco, implies_true]

theorem setTag_same (s : State) (c k : Nat) (kind : UnitKind) (i t : Nat) : SameUnits s (s.setTag c k kind i t) c k kind := by
  cases kind <;> constructor <;> funext n <;>
    simp [State.setTag, unitByte, unitSide, unitFull, unitCap, unitMark]

theorem setTag_owner (s : State) (c k : Nat) (kind : UnitKind) (i t : Nat) : unitOwner (s.setTag c k kind i t) c k kind i = t := by
  cases kind <;> simp [State.setTag, unitOwner]

/-! ## The move (03 R60) -/

theorem unitIn_banked (s : State) (c k : Nat) (kind : UnitKind) (i : Nat) (b : Banked) :
    (s.unitIn c k kind i b).banked = s.banked := by cases kind <;> rfl

theorem setTag_banked (s : State) (c k : Nat) (kind : UnitKind) (i t : Nat) : (s.setTag c k kind i t).banked = s.banked := by
  cases kind <;> rfl

theorem modCl_touched {s : State} {c : Nat} {f : Cluster → Cluster} (h : ∀ x, (f x).touched = x.touched) (b : Nat) :
    ((s.modCl c f).cl b).touched = (s.cl b).touched := by
  rw [cl_modCl]
  split
  · subst_vars; exact h _
  · rfl

theorem modCore_touched (s : State) (c k : Nat) (f : Core → Core) (b : Nat) :
    ((s.modCore c k f).cl b).touched = (s.cl b).touched := by
  refine (congrArg Cluster.touched (cl_setCl _ _ _ _)).trans ?_
  split
  · subst_vars; rfl
  · rfl

theorem unitIn_touched (s : State) (c k : Nat) (kind : UnitKind) (i : Nat) (b : Banked) (d : Nat) :
    ((s.unitIn c k kind i b).cl d).touched = (s.cl d).touched := by
  cases kind
  · exact modCore_touched s c k _ d
  · exact modCore_touched s c k _ d
  · unfold State.unitIn; exact modCl_touched (by intros; rfl) d

theorem setTag_touched (s : State) (c k : Nat) (kind : UnitKind) (i t d : Nat) :
    ((s.setTag c k kind i t).cl d).touched = (s.cl d).touched := by
  cases kind
  · exact modCore_touched s c k _ d
  · exact modCore_touched s c k _ d
  · unfold State.setTag; exact modCl_touched (by intros; rfl) d

theorem unitSave_clusters (s : State) (c k : Nat) (kind : UnitKind) (i : Nat) : (s.unitSave c k kind i).clusters = s.clusters := by
  unfold State.unitSave; dsimp only; split <;> rfl

/-- The copy that a context has of a unit in the bank area. -/
def State.copyAt (s : State) (ctx c k : Nat) (kind : UnitKind) (i : Nat) : Option Banked :=
  s.banked.find? (fun b => b.is ctx c k kind i)

/-- The copy that a load takes: the context's, or an empty one. -/
def State.copyFor (s : State) (ctx c k : Nat) (kind : UnitKind) (i : Nat) : Banked :=
  (s.copyAt ctx c k kind i).getD
    { ctx := ctx, part := 0, cl := c, core := k, kind := kind, idx := i, bytes := [], side := [], fe := [], capTag := [], marks := [] }

theorem copyFor_unit (s : State) (ctx c k : Nat) (kind : UnitKind) (i : Nat) :
    (s.copyFor ctx c k kind i).kind = kind ∧ (s.copyFor ctx c k kind i).idx = i := by
  unfold State.copyFor
  cases h : s.copyAt ctx c k kind i with
  | none => exact ⟨rfl, rfl⟩
  | some b =>
    have hb := List.find?_some h
    simp only [Banked.is, Bool.and_eq_true, beq_iff_eq] at hb
    obtain ⟨⟨-, hk⟩, hi⟩ := hb
    exact ⟨hk, hi⟩

theorem copyFor_fits {s : State} {ctx c k : Nat} {kind : UnitKind} {i : Nat}
    (h : ∀ b, s.copyAt ctx c k kind i = some b → CopyFits b) : CopyFits (s.copyFor ctx c k kind i) := by
  unfold State.copyFor
  cases hm : s.copyAt ctx c k kind i with
  | none => exact ⟨rfl, rfl, rfl, rfl, rfl, nofun, nofun, nofun, nofun, nofun⟩
  | some b => exact h b hm

theorem is_other {b : Banked} {ctx o c k : Nat} {kind : UnitKind} {i : Nat} (h : b.is ctx c k kind i = true) (ho : o ≠ ctx) :
    b.is o c k kind i = false := by
  simp only [Banked.is, Bool.and_eq_true, beq_iff_eq] at h
  obtain ⟨⟨⟨⟨hc, -⟩, -⟩, -⟩, -⟩ := h
  rw [← Bool.not_eq_true]
  simp [Banked.is, hc, ho.symm]

theorem unitOut_is (s : State) (o c k : Nat) (kind : UnitKind) (i : Nat) : (s.unitOut o c k kind i).is o c k kind i = true := by
  cases kind <;> simp [State.unitOut, Banked.is]

/-- Writing a unit out under another owner leaves the context's own copy. -/
theorem unitSave_copyAt {s : State} {ctx c k : Nat} {kind : UnitKind} {i : Nat} (h : s.unitTag c k kind i ≠ ctx + 1) :
    (s.unitSave c k kind i).copyAt ctx c k kind i = s.copyAt ctx c k kind i := by
  unfold State.unitSave
  dsimp only
  split
  · rfl
  · have ho : s.unitTag c k kind i - 1 ≠ ctx := by omega
    have hno : (s.unitOut (s.unitTag c k kind i - 1) c k kind i).is ctx c k kind i = false :=
      is_other (unitOut_is ..) ho.symm
    unfold State.copyAt
    dsimp only
    rw [List.find?_append, List.find?_filter]
    have hf (b : Banked) : decide ((!b.is (s.unitTag c k kind i - 1) c k kind i) = true ∧ b.is ctx c k kind i = true) =
        b.is ctx c k kind i := by
      cases hb : b.is ctx c k kind i
      · simp
      · rw [is_other hb ho]; rfl
    have hk : List.find? (fun b => b.is ctx c k kind i) [s.unitOut (s.unitTag c k kind i - 1) c k kind i] = none :=
      List.find?_cons_of_neg (by simp [hno])
    simp only [hf, hk, Option.or_none]

/-- The bank area keeps what is of another owner when a context's copy is loaded. -/
theorem unitLoad_keeps {s : State} {ctx o c k : Nat} {kind : UnitKind} {i : Nat} {b : Banked} (hb : b ∈ s.banked)
    (h : b.is o c k kind i = true) (ho : ctx ≠ o) : b ∈ (s.unitLoad ctx c k kind i).banked := by
  unfold State.unitLoad
  dsimp only
  rw [setTag_banked, unitIn_banked]
  exact List.mem_filter.2 ⟨hb, by rw [is_other h ho]; rfl⟩

/-- A load puts the context's copy in the unit and the context's tag on it. -/
theorem unitLoad_taken {s : State} {ctx c k : Nat} {kind : UnitKind} {i : Nat}
    (h : ∀ b, s.copyAt ctx c k kind i = some b → CopyFits b) :
    UnitTaken s (s.unitLoad ctx c k kind i) c k kind i (s.copyFor ctx c k kind i) := by
  obtain ⟨hk, hi⟩ := copyFor_unit s ctx c k kind i
  have hin := unitIn_taken { s with banked := s.banked.filter (fun b => !b.is ctx c k kind i) } c k (copyFor_fits h)
  rw [hk, hi] at hin
  exact hin.congr ⟨rfl, rfl, rfl, rfl, rfl⟩ (setTag_same _ c k kind i (ctx + 1))

theorem unitLoad_touched (s : State) (ctx c k : Nat) (kind : UnitKind) (i d : Nat) :
    ((s.unitLoad ctx c k kind i).cl d).touched = (s.cl d).touched :=
  (setTag_touched _ _ _ _ _ _ _).trans (unitIn_touched _ _ _ _ _ _ _)

/-- A unit under another tag than the context's is written out under its owner, and the context's copy comes in. -/
theorem unitMove_taken {s : State} {ctx c k : Nat} {kind : UnitKind} {i : Nat} (ho : unitOwner s c k kind i ≠ ctx + 1)
    (h : ∀ b, s.copyAt ctx c k kind i = some b → CopyFits b) :
    UnitTaken s ((s.unitSave c k kind i).unitLoad ctx c k kind i) c k kind i (s.copyFor ctx c k kind i) := by
  have hc := unitSave_copyAt ho
  have hl := unitLoad_taken (s := s.unitSave c k kind i) (fun b hb => h b (hc ▸ hb))
  have he : (s.unitSave c k kind i).copyFor ctx c k kind i = s.copyFor ctx c k kind i := by simp only [State.copyFor, hc]
  rw [he] at hl
  exact hl.congr (sameUnits_of_clusters (unitSave_clusters s c k kind i).symm c k kind) ⟨rfl, rfl, rfl, rfl, rfl⟩

/-- What a unit held under another owner stands in the bank area after the move. -/
theorem unitMove_saved {s : State} {ctx c k : Nat} {kind : UnitKind} {i : Nat} (ho : unitOwner s c k kind i ≠ ctx + 1)
    (h0 : unitOwner s c k kind i ≠ 0) : ∃ b ∈ ((s.unitSave c k kind i).unitLoad ctx c k kind i).banked,
      b.is (unitOwner s c k kind i - 1) c k kind i = true ∧ CopyOf s c k kind i b := by
  refine ⟨s.unitOut (unitOwner s c k kind i - 1) c k kind i, ?_, unitOut_is .., unitOut_copyOf s _ c k kind i⟩
  refine unitLoad_keeps ?_ (unitOut_is ..) (by omega)
  have hs : s.unitSave c k kind i = { s with
      banked := s.banked.filter (fun b => !b.is (unitOwner s c k kind i - 1) c k kind i) ++
        [s.unitOut (unitOwner s c k kind i - 1) c k kind i] } :=
    if_neg h0
  rw [hs]
  exact List.mem_append_right _ (List.mem_singleton_self _)

/-- A touched unit as the mover takes it off the list. -/
def State.untouch (s : State) (c k : Nat) (kind : UnitKind) (i : Nat) : State :=
  s.modCl c (fun x => { x with touched := x.touched.filter (fun t => !(t.1 == k && t.2.1 == kind && t.2.2.1 == i)) })

theorem untouch_touched (s : State) (c k : Nat) (kind : UnitKind) (i : Nat) {z : Nat × UnitKind × Nat × Nat}
    (hz : z ∈ ((s.untouch c k kind i).cl c).touched) : ¬ (z.1 = k ∧ z.2.1 = kind ∧ z.2.2.1 = i) := by
  rw [State.untouch, cl_modCl, if_pos rfl] at hz
  rintro ⟨rfl, rfl, rfl⟩
  have := (List.mem_filter.1 hz).2
  simp at this

theorem untouch_same (s : State) (c k : Nat) (kind : UnitKind) (i : Nat) : SameUnits (s.untouch c k kind i) s c k kind := by
  cases kind <;> constructor <;> funext n <;> simp [State.untouch, unitByte, unitSide, unitFull, unitCap, unitMark, State.core, Cluster.co]

theorem untouch_owner (s : State) (c k : Nat) (kind : UnitKind) (i : Nat) :
    unitOwner (s.untouch c k kind i) c k kind i = unitOwner s c k kind i := by
  cases kind <;> simp [State.untouch, unitOwner, State.core, Cluster.co]

theorem execLazyUnitMove_touched {s : State} {c k i ctx at_ : Nat} {kind : UnitKind} (hc : (s.cl c).ctx = some ctx)
    (ht : (k, kind, i, at_) ∈ (s.cl c).touched) : exec (.lazyUnitMove c k kind i) s = .next (
      if unitOwner s c k kind i = ctx + 1 then s.untouch c k kind i
      else ((s.untouch c k kind i).unitSave c k kind i).unitLoad ctx c k kind i) := by
  change execLazyUnitMove c k kind i s = _
  have hany : (s.cl c).touched.any (fun t => t.1 == k && t.2.1 == kind && t.2.2.1 == i) = true :=
    List.any_eq_true.2 ⟨_, ht, by simp⟩
  have ho : (s.untouch c k kind i).unitTag c k kind i = unitOwner s c k kind i := untouch_owner s c k kind i
  unfold State.untouch at *
  simp only [execLazyUnitMove, hc, hany, ho, tagOf, Bool.not_true, Bool.false_eq_true, if_false]
  split <;> rfl

/-- A unit that bears the context's tag is only taken off the list. -/
theorem untouch_byte (s : State) (c k : Nat) (kind : UnitKind) (i n : Nat) :
    unitByte (s.untouch c k kind i) c k kind n = unitByte s c k kind n :=
  congrFun (untouch_same s c k kind i).byte.symm n

theorem lazyUnitMoves : LazyUnitMoves := by
  intro kind c k i ctx at_ s hc ht
  dsimp only
  refine ⟨_, execLazyUnitMove_touched hc ht, ?_⟩
  have howner := untouch_owner s c k kind i
  by_cases ho : unitOwner s c k kind i = ctx + 1
  · rw [if_pos ho]
    exact ⟨fun z => untouch_touched s c k kind i, howner.trans ho, fun _ n => untouch_byte s c k kind i n,
      fun h => absurd ho h, fun h => absurd ho h⟩
  · rw [if_neg ho]
    have ho' : unitOwner (s.untouch c k kind i) c k kind i ≠ ctx + 1 := howner ▸ ho
    refine ⟨fun z hz => ?_, setTag_owner _ c k kind i _, fun h => absurd h ho, fun _ hb n => ?_, fun _ h0 => ?_⟩
    · rw [unitLoad_touched] at hz
      have hs : (((s.untouch c k kind i).unitSave c k kind i).cl c) = (s.untouch c k kind i).cl c := by
        simp only [State.cl, unitSave_clusters]
      exact untouch_touched s c k kind i (hs ▸ hz)
    · have h := ((unitMove_taken ho' hb).congr (untouch_same s c k kind i) ⟨rfl, rfl, rfl, rfl, rfl⟩) n
      generalize hm : s.banked.find? (fun b => b.ctx == ctx && b.cl == c && b.core == k && b.kind == kind && b.idx == i) = m
      have hc : (s.untouch c k kind i).copyAt ctx c k kind i = m := hm
      rw [State.copyFor, hc] at h
      cases m <;> exact h
    · obtain ⟨b, hb, his, hcopy⟩ := unitMove_saved ho' (howner ▸ h0)
      rw [howner] at his
      simp only [Banked.is, Bool.and_eq_true, beq_iff_eq] at his
      obtain ⟨⟨⟨⟨hx, hcl⟩, hk⟩, hkind⟩, hi⟩ := his
      have hsame := untouch_same s c k kind i
      refine ⟨b, hb, hx, hcl, hk, hkind, hi, fun n => ?_⟩
      rw [hsame.byte, hsame.side, hsame.full, hsame.cap, hsame.mark]
      exact hcopy n

end Sys2Proof.Machine
end

section
/-! PROOF. Yield cycles, drains, budgets, evictions and copy entries (03 R42, 11 R192, 13 R211, R227 to R232). -/

namespace Sys2Proof.Machine

open Sys2Proof

/-! ## What leaves a cluster's held writes -/

/-- The writes that each cluster cache holds. -/
def State.held (s : State) (c : Nat) : List Held := (s.cl c).held

theorem held_of_clusters {s t : State} (h : t.clusters = s.clusters) : t.held = s.held := by
  funext c; simp only [State.held, State.cl, h]

theorem modCl_held {s : State} {c : Nat} {f : Cluster → Cluster} (h : ∀ x, (f x).held = x.held) : (s.modCl c f).held = s.held := by
  funext b
  rw [State.held, cl_modCl]
  split
  · subst_vars; exact h _
  · rfl

theorem modE_held (s : State) (c k : Nat) (f : CoreE → CoreE) : (s.modE c k f).held = s.held := by
  funext b
  refine (congrArg Cluster.held (cl_setCl _ _ _ _)).trans ?_
  split
  · subst_vars; rfl
  · rfl

@[simp] theorem fillLayer_clusters (s : State) (l : Loc) : (s.fillLayer l).clusters = s.clusters := by
  unfold State.fillLayer
  split
  · dsimp only; split <;> rfl
  · rfl

theorem wrHome_held (s : State) (l : Loc) (b : Byte) (i : WrInfo) : (s.wrHome l b i).held = s.held := by
  cases l with
  | phys pa key => rfl
  | layer p off pa => exact held_of_clusters (fillLayer_clusters _ _)
  | scratch c off => exact modCl_held (by intros; rfl)

theorem setMark_held (s : State) (l : Loc) (m : Option LineMark) : (s.setMark l m).held = s.held := by
  cases l with
  | phys pa key => rfl
  | layer p off pa => exact held_of_clusters (fillLayer_clusters _ _)
  | scratch c off => exact modCl_held (by intros; rfl)

theorem poison_held (s : State) (l : Loc) (hop : BitVec 4) : (s.poison l hop).held = s.held := by
  have h := setMark_held s l (some { kind := 2, hop := hop })
  unfold State.poison
  dsimp only
  split <;> exact h

theorem l2Enter_held (s : State) (part pa : Nat) : (s.l2Enter part pa).held = s.held := by
  unfold State.l2Enter
  split
  · rfl
  · dsimp only; split <;> rfl

theorem faultWriters_held (s : State) (cl : Nat) (hs : List Held) (r : TrapRec) : (s.faultWriters cl hs r).held = s.held := by
  unfold State.faultWriters
  refine foldl_keeps State.held (fun t w => ?_) _ _
  unfold State.postFault State.modEOf
  split
  · exact modE_held _ _ _ _
  · rfl

theorem lineHome_held (s : State) (cl line : Nat) (hs : List Held) (vis wide : Option Nat) :
    (s.lineHome cl line hs vis wide).held = s.held :=
  lineHome_keeps State.held wrHome_held l2Enter_held setMark_held poison_held faultWriters_held s cl line hs vis wide

/-- Held writes that no lease delays go home, with those of the same bytes made before them; the others stay. -/
theorem writeHome_held {s : State} (hd : ∀ hs, s.leaseDelays hs = false) (c : Nat) (f : Held → Bool) (vis wide : Option Nat) :
    (s.writeHome c f vis wide).held c =
      (s.held c).filter (fun h => !(s.held c).any (fun g => g.pa == h.pa && decide (h.id ≤ g.id) && f g)) := by
  unfold State.writeHome
  dsimp only
  rw [foldl_keeps State.held (fun t n => lineHome_held _ _ _ _ _ _)]
  have hlate (l : List Nat) (g : Nat → List Held) : l.filter (fun n => s.leaseDelays (g n)) = [] :=
    List.filter_eq_nil_iff.2 fun n _ => by simp [hd]
  rw [hlate, State.held, cl_modCl, if_pos rfl]
  simp only [List.contains_nil, Bool.not_false, Bool.and_true]
  rfl

/-- Without leases granted over its memory, nothing delays what this package's caches write home (11 R207). -/
theorem leaseDelays_false {s : State} (h : s.mem.granted = []) (hs : List Held) : s.leaseDelays hs = false := by
  simp [State.leaseDelays, State.grantHolds, h]

theorem cacheEviction_held {s : State} {c n : Nat} (hg : s.mem.granted = [])
    (hr : ∀ h ∈ (s.cl c).held, h.pa / 64 = n → h.released.isSome = true) :
    ∃ t, exec (.clusterCacheEviction c n) s = .next t ∧ (t.cl c).held = (s.cl c).held.filter (fun h => h.pa / 64 != n) := by
  refine ⟨(s.showHome c s.lateInst true (fun h => h.pa / 64 == n && h.vis.isNone)).writeHome c (fun h => h.pa / 64 == n)
    (some s.lateInst) (some s.lateInst), ?_, ?_⟩
  · change execClusterCacheEviction c n s = _
    have hany : (s.cl c).held.any (fun h => h.pa / 64 == n && h.released.isNone) = false := by
      rw [List.any_eq_false]
      intro h hh
      by_cases hn : h.pa / 64 = n
      · simp [hn, Option.isSome_iff_ne_none.1 (hr h hh hn)]
      · simp [hn]
    simp [execClusterCacheEviction, hany]
  · refine (writeHome_held (s := s.showHome c s.lateInst true _) (leaseDelays_false hg) c _ _ _).trans (List.filter_congr fun h hh => ?_)
    by_cases hn : h.pa / 64 = n
    · have hany : ((s.cl c).held.any fun g => g.pa == h.pa && decide (h.id ≤ g.id) && g.pa / 64 == n) = true :=
        List.any_eq_true.2 ⟨h, hh, by simp [hn]⟩
      simp only [bne, hn, beq_self_eq_true]
      exact congrArg (!·) hany
    · have hany : ((s.cl c).held.any fun g => g.pa == h.pa && decide (h.id ≤ g.id) && g.pa / 64 == n) = false := by
        rw [List.any_eq_false]
        intro g _ h'
        simp only [Bool.and_eq_true, beq_iff_eq] at h'
        obtain ⟨⟨hpa, -⟩, hline⟩ := h'
        exact hn (hpa ▸ hline)
      rw [bne, beq_eq_false_iff_ne.2 hn]
      exact congrArg (!·) hany

/-! ## Events of engines (03 R42, 13 R211, R245) -/

theorem bufferDrain_buf (s : State) (c bank : Nat) : ∃ t, exec (.scratchBufferDrain c bank) s = .next t ∧
    tget [] (t.cl c).buf bank = (tget [] (s.cl c).buf bank).tail ∧
    (∀ b, b ≠ bank → tget [] (t.cl c).buf b = tget [] (s.cl c).buf b) ∧ (t.cl c).scratch = (s.cl c).scratch := by
  refine ⟨_, rfl, ?_, fun b hb => ?_, ?_⟩
  · rw [cl_modCl, if_pos rfl]
    exact (tget_tset_same _ _ _ _).trans List.drop_one
  · rw [cl_modCl, if_pos rfl]
    exact tget_tset_other _ _ _ hb
  · rw [cl_modCl, if_pos rfl]

theorem gputComplete_counts {s : State} {n : Nat} {t : Xfer} (ht : s.xfer n = some t) (hk : t.kind = .gput) (hl : t.lines = [])
    (hc : (s.cl t.cl).ctx = some t.ctx) : ∃ u, exec (.gputComplete n) s = .next u ∧ (∀ x ∈ u.xfers, x.id ≠ n) ∧
      (u.sq t.cl t.core t.sec).puts = (s.sq t.cl t.core t.sec).puts + 1 := by
  refine ⟨(s.dropXfer n).modE t.cl t.core (fun e => e.setSq t.sec { e.sq t.sec with puts := (e.sq t.sec).puts + 1 }), ?_,
    fun x hx => ?_, ?_⟩
  · change execGputComplete n s = _
    have hc' : ((s.dropXfer n).cl t.cl).ctx = some t.ctx := hc
    simp [execGputComplete, ht, hk, hl, State.modEOf, hc']
  · have hx' : x ∈ (s.dropXfer n).xfers := hx
    simpa using (List.mem_filter.1 hx').2
  · rw [State.sq, core_modE_same]
    cases t.sec <;> rfl

theorem engineEvents : EngineEvents := by
  intro c k bank n s
  refine ⟨fun h => if_pos h, fun h => if_neg (by omega), bufferDrain_buf s c bank, fun h => if_neg (by omega), fun h => if_pos h,
    cacheEviction_held, fun t => gputComplete_counts⟩

/-! ## Copy entries (13 R227 to R232) -/

theorem ce_modCe (s : State) (c e : Nat) (f : CopyEng → CopyEng) : ((s.modCe c e f).cl c).e.ce e = f ((s.cl c).e.ce e) := by
  rw [State.modCe, cl_modCl, if_pos rfl]
  unfold ClusterE.setCe ClusterE.ce
  split <;> rfl

theorem fillLayer_xfers (s : State) (l : Loc) : (s.fillLayer l).xfers = s.xfers := by
  unfold State.fillLayer
  split
  · dsimp only; split <;> rfl
  · rfl

theorem fillVa_xfers (s : State) (ctx va n : Nat) : (s.fillVa ctx va n).xfers = s.xfers := by
  refine foldl_keeps State.xfers (fun t l => ?_) _ _
  split
  · rfl
  · exact fillLayer_xfers _ _

theorem numLines_ends (i : Nat) (ls : List (End × List Seg)) : (numLines i ls).map (fun l => (l.dst, l.segs)) = ls := by
  induction ls generalizing i with
  | nil => rfl
  | cons p r ih => exact congrArg (p :: ·) (ih (i + 1))

theorem copyEntryComplete_counts {s : State} {c e : Nat} {y : Xfer} {rest : List Xfer} (hy : s.copies c e = y :: rest)
    (hl : y.lines = []) : ∃ u, exec (.copyEntryComplete c e) s = .next u ∧ u.xfers = s.xfers.filter (fun z => z.id != y.id) ∧
      ((u.cl c).e.ce e).done = ((s.cl c).e.ce e).done + 1 ∧ ((u.cl c).e.ce e).bytes = BitVec.ofNat 32 y.total := by
  refine ⟨(s.dropXfer y.id).modCe c e (fun z => { z with
      done := z.done + 1, bytes := BitVec.ofNat 32 y.total,
      entry := if z.xfer = some y.id then z.entry + 1 else z.entry,
      xfer := if z.xfer = some y.id then none else z.xfer }), ?_, rfl, ?_, ?_⟩
  · change execCopyEntryComplete c e s = _
    simp [execCopyEntryComplete, hy, hl]
  · rw [ce_modCe]; rfl
  · rw [ce_modCe]

section
variable {s f : State} {c e ctx : Nat} {q : Quads}

/-- An armed engine whose entries before have issued their lines reads its next entry, whose page is filled. -/
def EntryRead (s f : State) (c e ctx : Nat) (q : Quads) : Prop :=
  let ce := (s.cl c).e.ce e
  (s.cl c).ctx = some ctx ∧ ce.task.isSome = true ∧ ce.nextEntry < ce.count ∧ ce.stopped = false ∧
    (∀ y ∈ s.copies c e, ∀ l ∈ y.lines, l.sent = true) ∧ s.fillVa ctx (ce.sched.toNat + 32 * ce.nextEntry) 32 = f ∧
    f.engQuads c ctx (ce.sched.toNat + 32 * ce.nextEntry) = .ok q

/-- The transfer of an entry (13 R228, R230). -/
def State.entryXfer (f : State) (c e ctx : Nat) (x : CopyE) (t : TidE) : Xfer :=
  let ls := x.lines t (tget {} (f.core c (f.engineCore c e)).e.k x.cap) c
  { id := f.fresh, kind := .copy, ctx := ctx, part := f.partOfCtx ctx, cl := c, core := f.engineCore c e, sec := false,
    engine := e, phase := f.lateInst, born := f.lateInst, lines := numLines 0 ls,
    total := ((span 0 x.rows).map (fun j => (x.inside t j).total)).foldl (· + ·) 0, notify := none,
    stopped := false, pooled := x.space == 2, capReg := x.cap, pieces := f.piecesOf c ctx (x.space == 2) (numLines 0 ls), fences := [],
    waitCore := none }

theorem entryRead_issued (h : EntryRead s f c e ctx q) : ¬ (((s.cl c).e.ce e).task.isNone ∨
    ((s.cl c).e.ce e).count ≤ ((s.cl c).e.ce e).nextEntry ∨ ((s.cl c).e.ce e).stopped = true ∨
    (s.copies c e).all (fun t => t.lines.all (fun l => l.sent)) = false) := by
  obtain ⟨-, ht, hn, hs, hl, -, -⟩ := h
  have hall : (s.copies c e).all (fun t => t.lines.all (fun l => l.sent)) = true :=
    List.all_eq_true.2 fun y hy => List.all_eq_true.2 (hl y hy)
  rintro (h | h | h | h)
  · rw [Option.isNone_iff_eq_none] at h; rw [h] at ht; cases ht
  · omega
  · rw [hs] at h; cases h
  · rw [hall] at h; cases h

/-- An entry that is not in use ends the schedule. -/
theorem copyEntryStart_unused (h : EntryRead s f c e ctx q) (hv : (copyOf q).valid = false) :
    exec (.copyEntryStart c e) s = .next (f.modCe c e (fun y => y.finish ((s.cl c).e.ce e).nextEntry)) := by
  have hi := entryRead_issued h
  obtain ⟨hc, -, -, -, -, hf, hq⟩ := h
  change execCopyEntryStart c e s = _
  simp only [execCopyEntryStart, hc, if_neg hi, hf, hq, hv]
  rfl

/-- An entry whose stage is not released waits. -/
theorem copyEntryStart_held (h : EntryRead s f c e ctx q) (hv : (copyOf q).valid = true)
    (hg : 2 ^ 31 ≤ ((if e = 0 then (s.cl c).e.stage0 else (s.cl c).e.stage1) - (copyOf q).stage).toNat) :
    exec (.copyEntryStart c e) s = .next f := by
  have hi := entryRead_issued h
  obtain ⟨hc, -, -, -, -, hf, hq⟩ := h
  change execCopyEntryStart c e s = _
  simp only [execCopyEntryStart, hc, if_neg hi, hf, hq, hv, if_pos hg]
  rfl

/-- A well-formed entry whose stage is released starts as a transfer of its lines. -/
theorem copyEntryStart_starts (h : EntryRead s f c e ctx q) (hv : (copyOf q).valid = true)
    (hg : ¬ 2 ^ 31 ≤ ((if e = 0 then (s.cl c).e.stage0 else (s.cl c).e.stage1) - (copyOf q).stage).toNat)
    (hb : (copyOf q).bad (tidOf ((s.cl c).tid (copyOf q).tid)) = none)
    (hp : pastScratch ((copyOf q).lines (tidOf ((s.cl c).tid (copyOf q).tid)) (tget {} (f.core c (f.engineCore c e)).e.k (copyOf q).cap) c) = none) :
    let y := f.entryXfer c e ctx (copyOf q) (tidOf ((s.cl c).tid (copyOf q).tid))
    exec (.copyEntryStart c e) s = .next ((f.addXfer y).modCe c e (fun z => { z with
      entry := BitVec.ofNat 16 ((s.cl c).e.ce e).nextEntry, xfer := some y.id, progress := wordN (copyOf q).addr,
      faultKind := 0, faultReason := 0, faultAddr := 0 })) := by
  have hi := entryRead_issued h
  obtain ⟨hc, -, -, -, -, hf, hq⟩ := h
  change execCopyEntryStart c e s = _
  simp only [execCopyEntryStart, hc, if_neg hi, hf, hq, hv, if_neg hg, hb, hp]
  rfl

end

theorem copyEntries : CopyEntries := by
  intro c e ctx q s
  dsimp only
  rw [← CopyEng.nextEntry]
  refine ⟨fun he hc ht hn hs hsent hq => ?_, fun y rest _ hy hl => copyEntryComplete_counts hy hl⟩
  have h : EntryRead s _ c e ctx q := ⟨hc, ht, hn, hs, hsent, rfl, hq⟩
  refine ⟨fun hv => ⟨_, copyEntryStart_unused h hv, ?_, fillVa_xfers _ _ _ _⟩, fun hv hg => copyEntryStart_held h hv hg,
    fun hv hg hb hp => ⟨_, State.entryXfer _ c e ctx (copyOf q) _, copyEntryStart_starts h hv (Nat.not_le.2 hg) hb hp, ?_, rfl, rfl, rfl, rfl,
      numLines_ends _ _, ?_, ?_⟩⟩
  · rw [ce_modCe]; rfl
  · exact congrArg (· ++ _) (fillVa_xfers _ _ _ _)
  · rw [ce_modCe]
  · rw [ce_modCe]

end Sys2Proof.Machine
end

section
/-! PROOF. Lines that land (13 R211, R216, R218), and the settlement of engine and unit events. -/

namespace Sys2Proof.Machine

open Sys2Proof

/-! ## Bytes and granules of an access -/

theorem writeCells_cells (t : Tbl Byte) (a : Nat) (bs : List Byte) : writeCells t (cells a bs) = writeB t a bs := by
  induction bs generalizing t a with
  | nil => rfl
  | cons b r ih => exact ih _ _

theorem mem_cells {a n : Nat} {bs : List Byte} : n ∈ (cells a bs).map (·.1) ↔ a ≤ n ∧ n < a + bs.length := by
  induction bs generalizing a with
  | nil => simp [cells]
  | cons b r ih =>
    rw [cells, List.map_cons, List.mem_cons, ih, List.length_cons]
    omega

theorem mem_addNew {x n : Nat} {l : List Nat} : n ∈ addNew x l ↔ n = x ∨ n ∈ l := by
  unfold addNew
  split
  · rename_i h
    rw [List.contains_iff_mem] at h
    exact ⟨.inr, fun h' => h'.elim (· ▸ h) id⟩
  · simp [or_comm]

theorem mem_distinct {n : Nat} {l acc : List Nat} : n ∈ distinct l acc ↔ n ∈ l ∨ n ∈ acc := by
  induction l generalizing acc with
  | nil => simp [distinct]
  | cons x r ih => rw [distinct, ih, mem_addNew, List.mem_cons]; tauto

theorem mem_unitsOf {u a n g : Nat} : g ∈ unitsOf u a n ↔ n ≠ 0 ∧ a / u ≤ g ∧ g ≤ (a + n - 1) / u := by
  unfold unitsOf
  split
  · simp_all
  · rw [mem_span]
    have : a / u ≤ (a + n - 1) / u := Nat.div_le_div_right (by omega)
    omega

/-- The granules of bytes from off on. -/
theorem mem_granules {off g : Nat} {bs : List Byte} (h0 : off / 16 ≤ g) (h1 : 16 * g < off + bs.length) (hb : bs ≠ []) :
    g ∈ unitsOf 16 off bs.length ∧ g ∈ granulesOf ((cells off bs).map (fun c => (c.1, 1))) := by
  have hn : bs.length ≠ 0 := by simpa using hb
  refine ⟨mem_unitsOf.2 ⟨hn, h0, by omega⟩, mem_distinct.2 (.inl (List.mem_flatten.2 ⟨unitsOf 16 (max off (16 * g)) 1, ?_, ?_⟩))⟩
  · have hm : max off (16 * g) ∈ (cells off bs).map (·.1) := mem_cells.2 (by omega)
    obtain ⟨p, hp, he⟩ := List.mem_map.1 hm
    rw [List.map_map]
    exact List.mem_map.2 ⟨p, hp, by simp [he]⟩
  · exact mem_unitsOf.2 ⟨by omega, by omega, by omega⟩

/-! ## The landing (13 R216) -/

/-- The bytes of a cluster's scratch, with its full-empty bits and tags. -/
def Cluster.scratchSide (x : Cluster) : Tbl Byte × Tbl Bool × Tbl Bool := (x.scratch, x.fe, x.capTag)

theorem takePorts_scratch (s : State) (ps : List (Nat × Nat × Bool)) (c : Nat) :
    ((s.takePorts ps).cl c).scratchSide = (s.cl c).scratchSide := by
  refine foldl_keeps (fun t : State => (t.cl c).scratchSide) (fun t p => ?_) ps s
  rw [cl_modCl]
  split
  · subst_vars; rfl
  · rfl

theorem finishXfer_clusters (s : State) (n : Nat) : (s.finishXfer n).clusters = s.clusters := by
  unfold State.finishXfer
  (repeat' split) <;> rfl

theorem engPut_scratch (s : State) (c off : Nat) (bs : List Byte) (m : Option LineMark) :
    ((s.engPut c off bs m).cl c).scratchSide = (writeB (s.cl c).scratch off bs, setFE (s.cl c).fe true (unitsOf 16 off bs.length),
      setFE (s.cl c).capTag false (granulesOf ((cells off bs).map (fun c => (c.1, 1))))) := by
  rw [State.engPut, cl_modCl, if_pos rfl, ← writeCells_cells]
  dsimp only
  split <;> rfl

/-- What a line that lands in scratch leaves there. -/
theorem landLine_scratch {s s2 : State} {t : Xfer} {l : Line} {c off : Nat} {bs : List Byte} {m : Option LineMark}
    (hf : s.lineForeign t l = none) (hp : l.isPool = false) (hq : (s.portsOf t l).all s.portFree = true)
    (hr : s.readSegs t true l.segs = .ok (bs, m, s2)) (hd : l.dst = .scratch c off) (hroom : s2.engRoom c off bs.length = true)
    (hm : (s2.cl c).chkMerge (cells off bs) = none) :
    ((s.landLine t l).cl c).scratchSide = (writeB (s2.cl c).scratch off bs, setFE (s2.cl c).fe true (unitsOf 16 off bs.length),
      setFE (s2.cl c).capTag false (granulesOf ((cells off bs).map (fun c => (c.1, 1))))) := by
  have hw : s2.writeEnd t l.dst bs m = .ok (some (s2.engPut c off bs m)) := by
    simp only [State.writeEnd, hd, hroom, hm, Bool.not_true, Bool.false_eq_true, if_false]
  have hside : (s2.engPut c off bs m).moveSide s2 l = s2.engPut c off bs m := by
    simp only [State.moveSide, hd]
  have hland : s.landLine t l = (((s2.engPut c off bs m).takePorts (s.portsOf t l)).lineDone t.id l.idx).finishXfer t.id := by
    simp only [State.landLine, hf, hp, hq, hr, hw, hside, Bool.not_true, Bool.false_eq_true, if_false]
  have hcl : ((s.landLine t l).cl c) = ((s2.engPut c off bs m).takePorts (s.portsOf t l)).cl c := by
    rw [hland]
    simp only [State.cl, finishXfer_clusters]
    rfl
  rw [hcl, takePorts_scratch, engPut_scratch]

/-- A line that waits for nothing and finds budget lands, charged to the copies. -/
theorem lineLanding_charged {s s1 : State} {n i : Nat} {t : Xfer} {l : Line} (ht : s.xfer n = some t)
    (hl : t.lines.find? (fun x => x.idx == i) = some l) (hr : s.lineReady t l = true) (hp : l.isPool = false)
    (hk : t.cls = some clsCopy) (hw : ∀ x ∈ (s.landLine t l).xfers, x.id = n → x.stopped = true ∨ ∀ y ∈ x.lines, y.idx ≠ i)
    (hc : s.charge t.part clsCopy 1 = some s1) : exec (.lineLanding n i) s = .next (s1.landLine t l) := by
  have hwaits : ((s.landLine t l).xfer n).any (fun x => !x.stopped && x.lines.any (fun y => y.idx == i && !y.sent)) = false := by
    cases hx : (s.landLine t l).xfer n with
    | none => rfl
    | some x =>
      have hid : x.id = n := by simpa using List.find?_some hx
      rw [Option.any_some]
      rcases hw x (List.mem_of_find?_eq_some hx) hid with h | h
      · rw [h]; rfl
      · rw [Bool.and_eq_false_iff, List.any_eq_false]
        exact .inr fun y hy => by simp [h y hy]
  change execLineLanding n i s = _
  simp only [execLineLanding, ht, hl, hr, hp, hwaits, hk, Bool.or_self, Bool.false_eq_true, if_false, if_true, hc]

theorem lineLandings : LineLandings := by
  intro n i c off t l s s1 s2 bs m
  refine ⟨lineLanding_charged, fun hb hf hp hq hr hd hroom hm => ?_⟩
  have h := landLine_scratch hf hp hq hr hd hroom hm
  simp only [Cluster.scratchSide, Prod.mk.injEq] at h
  obtain ⟨hs, hfe, htag⟩ := h
  dsimp only
  rw [hs, hfe, htag]
  refine ⟨fun j b hj => tget_writeB _ _ _ _ _ hj, fun a ha => tget_writeB_outside _ _ _ _ ha, fun g h0 h1 => ?_, fun g h0 h1 => ?_⟩
  · rw [setFE_get, if_pos (mem_granules h0 h1 hb).1]
  · rw [setFE_get, if_pos (mem_granules h0 h1 hb).2]

end Sys2Proof.Machine

open Sys2Proof Sys2Proof.Machine

/-- Settles O45: `engineEvents`, `lineLandings`, `copyEntries` and `lazyUnitMoves`, its four parts. -/
theorem engineAndUnitEvents : Obligations.EngineAndUnitEvents := ⟨engineEvents, lineLandings, copyEntries, lazyUnitMoves⟩

end

section
/-! PROOF. Commands of management (27 R443, R448, R452 to R457, 23 R376, R384 to R387). -/

namespace Sys2Proof.Machine

open Sys2Proof

/-! ## The mailbox (27 R457) -/

section
variable {s : State} {i : MailCmd} {bad : Option Nat} {f : State → State}

theorem mailTurn_now (hb : s.boot = .up) (hr : s.role = none) (k : Out) : s.mailTurn i k = k := by
  simp only [State.mailTurn, hb, hr]

theorem mailbox_done (hb : s.boot = .up) (hr : s.role = none) (hbad : bad = none) :
    s.mailbox i bad f = .next ((f s).mailStatus 0) := by
  unfold State.mailbox
  rw [mailTurn_now hb hr, if_neg (by rw [hb]; decide), hbad]

theorem mailbox_answers {n : Nat} (hb : s.boot = .up) (hr : s.role = none) (hbad : bad = some n) :
    s.mailbox i bad f = .next (s.mailStatus n) := by
  unfold State.mailbox
  rw [mailTurn_now hb hr, if_neg (by rw [hb]; decide), hbad]

end

theorem look_remove {V : Type} (l : List (Nat × V)) (n : Nat) : look (l.filter (fun p => p.1 != n)) n = none := by
  induction l with
  | nil => rfl
  | cons p r ih =>
    obtain ⟨k, v⟩ := p
    rw [List.filter_cons]
    split
    · next h => rw [look, if_neg (by simpa using Ne.symm (by simpa using h)), ih]
    · exact ih

/-! ## Tables of contexts (23 R376, 13 R224) -/

section
variable {s : State} {n : Nat} {x : Context}

theorem capSlotWrite_done {slot : Nat} (v : BitVec 128) (tag : Bool) (hb : s.boot = .up) (hr : s.role = none)
    (hx : look s.ctxs n = some x) (hs : slot < 65536) : ∃ t y, exec (.capSlotWrite n slot v tag) s = .next t ∧
      look t.ctxs n = some y ∧ (tag = true → look y.caps slot = some v) ∧ (tag = false → look y.caps slot = none) ∧ y.handles = x.handles := by
  refine ⟨_, { x with caps := if tag then place x.caps slot v else x.caps.filter (fun p => p.1 != slot) },
    (mailbox_done hb hr ?_ : execCapSlotWrite n slot v tag s = _), (look_modCtx _ _ _ _).trans ?_, fun ht => ?_, fun ht => ?_, rfl⟩
  · simp only [refuseIf, hx]
    rw [if_neg (by simp; omega)]; rfl
  · rw [if_pos rfl, hx]; rfl
  · subst ht; exact look_place_same _ _ _
  · subst ht; exact look_remove _ _

theorem dropUnnamed_ctxs (s : State) : s.dropUnnamed.ctxs = s.ctxs := rfl

theorem handleWrite_done {i : Nat} (q0 q1 q2 : Word) (hb : s.boot = .up) (hr : s.role = none) (hx : look s.ctxs n = some x)
    (hi : i < 4096) : ∃ t y, exec (.handleWrite n i q0 q1 q2) s = .next t ∧ look t.ctxs n = some y ∧
      tget {} y.handles i = { q0 := q0, q1 := q1, q2 := q2, q3 := 0 } ∧ ∀ j, j ≠ i → tget {} y.handles j = tget {} x.handles j := by
  refine ⟨_, { x with handles := tset {} x.handles i { q0 := q0, q1 := q1, q2 := q2, q3 := 0 } },
    (mailbox_done hb hr ?_ : execHandleWrite n i q0 q1 q2 s = _), ?_, tget_tset_same _ _ _ _, fun j hj => tget_tset_other _ _ _ hj⟩
  · simp only [refuseIf, hx]
    rw [if_neg (by simp; omega)]; rfl
  · change look (State.dropUnnamed (s.modCtx n _)).ctxs n = _
    rw [dropUnnamed_ctxs, look_modCtx, if_pos rfl, hx]; rfl

end

/-! ## Fences, keys and power (23 R384 to R387, 27 R448, R456) -/

section
variable {s : State} {pkg : BitVec 16} {fence : Word}

theorem fenceAssign_done (hb : s.boot = .up) (hr : s.role = none) (hf : fence ≠ 0) (hp : s.pool.fenced = false) :
    Done (.fenceAssign pkg fence) s { s with pool := { s.pool with pkg := pkg, fence := fence, seq := 0 } } := by
  change execFenceAssign pkg fence s = _
  exact mailbox_done hb hr (by simp only [refuseIf, hp, beq_eq_false_iff_ne.2 hf]; rfl)

theorem fencedStateExit_done (hb : s.boot = .up) (hr : s.role = none) (hf : fence ≠ 0) (hp : s.pool.fenced = true) :
    ∃ t, exec (.fencedStateExit pkg fence) s = .next t ∧ t.pool.fenced = false ∧ t.pool.pkg = pkg ∧
      t.pool.fence = fence ∧ t.pool.seq = 0 ∧ t.pool.reqs = [] ∧ t.pool.lines = [] ∧
      (∀ p ∈ t.clusters, p.2.pwb = []) ∧ ∀ p ∈ t.ctxs, p.2.leases = [] := by
  refine ⟨_, (mailbox_done hb hr ?_ : execFencedStateExit pkg fence s = _), rfl, rfl, rfl, rfl, rfl, rfl,
    fun p hp => ?_, fun p hp => ?_⟩
  · simp only [refuseIf, hp, beq_eq_false_iff_ne.2 hf]; rfl
  · obtain ⟨q, -, rfl⟩ := List.mem_map.1 hp; rfl
  · obtain ⟨q, -, rfl⟩ := List.mem_map.1 hp; rfl

theorem fencedStateExit_answers (hb : s.boot = .up) (hr : s.role = none) (hf : fence ≠ 0) (hp : s.pool.fenced = false) :
    Answered (.fencedStateExit pkg fence) s 1 := by
  change execFencedStateExit pkg fence s = _
  exact mailbox_answers hb hr (by simp only [refuseIf, hp, beq_eq_false_iff_ne.2 hf]; rfl)

theorem keyLoad_done {i : Nat} (key : BitVec 512) (hb : s.boot = .up) (hr : s.role = none) (h0 : 0 < i) (h64 : i < 64) :
    ∃ t, exec (.keyLoad i key) s = .next t ∧ tget 0 t.keys i = key ∧ (∀ j, j ≠ i → tget 0 t.keys j = tget 0 s.keys j) ∧ t.mem = s.mem :=
  ⟨_, (mailbox_done hb hr (if_neg (by simp; omega)) : execKeyLoad i key s = _), tget_tset_same _ _ _ _, fun _ hj => tget_tset_other _ _ _ hj, rfl⟩

end

/-! ## The start of a core (27 R443) -/

theorem rollBoth_seqs (e : CoreE) (z : Option Bool) : (e.rollBoth z).prim = e.prim ∧ (e.rollBoth z).second = e.second := by
  unfold CoreE.rollBoth CoreE.restoreCk CoreE.rollStreams
  constructor <;> (repeat' split) <;> rfl

/-- Each sequencer of a core that restarts outside a trap returns to its checkpoint where it runs (03 R55). -/
theorem restart_sq (e : CoreE) (cycle : Nat) (z : Bool) :
    (e.restart none cycle).sq z = (e.sq z).rollback (e.sq z).running cycle := by
  obtain ⟨hp, hs⟩ := rollBoth_seqs e none
  cases z
  · change (e.rollBoth none).prim.rollback _ _ = _
    rw [hp]
    exact congrArg (e.prim.rollback · cycle) (Bool.or_false _)
  · change (e.rollBoth none).second.rollback _ _ = _
    rw [hs]
    exact congrArg (e.second.rollback · cycle) (Bool.or_false _)

theorem rollback_runs (q : Seq) (b : Bool) (cycle : Nat) :
    (q.rollback b cycle).running = q.running ∧ (q.rollback b cycle).wasRunning = q.wasRunning := by
  unfold Seq.rollback
  split <;> exact ⟨rfl, rfl⟩

theorem wake_runs (q : Seq) : q.wake.running = (q.running || q.wasRunning) := by
  unfold Seq.wake
  split
  · next h => rw [h, Bool.or_true]
  · next h => rw [Bool.eq_false_iff.2 h, Bool.or_false]

theorem wake_wakes {q : Seq} (h : q.wasRunning = true) : q.wake = { q with running := true, wasRunning := false } := if_pos h

/-- A halted core that starts: its sequencers that ran are at their checkpoints. -/
theorem core_start_sq {y : Core} {cycle : Nat} (hh : y.halted = true) (hw : y.e.wasHalted = true) :
    (y.start cycle).halted = false ∧ ∀ z, (y.start cycle).e.sq z = (y.e.sq z).wake.rollback (y.e.sq z).wake.running cycle := by
  have h : y.start cycle = { y with halted := false, e := ({ y.e with prim := y.e.prim.wake, second := y.e.second.wake } : CoreE).restart none cycle } :=
    if_pos (by rw [hh, hw]; rfl)
  rw [h]
  refine ⟨rfl, fun z => (restart_sq _ _ _).trans ?_⟩
  cases z <;> rfl

section
variable {s : State} {c k : Nat}

theorem mgmtStart_malformed (hb : s.boot = .up) (hr : s.role = none) (h : 7 < k ∨ s.clustersOf (c / 256) ≤ c % 256) :
    Answered (.mgmtStart c k) s 2 := by
  change execMgmtStart c k s = _
  unfold execMgmtStart
  exact mailbox_answers hb hr (if_pos (Bool.or_eq_true_iff.2 (h.imp decide_eq_true decide_eq_true)))

/-- Management starts a core of a cluster, which the context that comes back, if one does, may take. -/
theorem mgmtStart_done (hb : s.boot = .up) (hr : s.role = none) (hk : k < 8) (hc : c % 256 < s.clustersOf (c / 256))
    (hm : (s.comesBack c k).any (fun x => !s.mayTake x c) = false) : exec (.mgmtStart c k) s =
      .next (((match s.comesBack c k with | none => s | some x => s.switchIn x c).modCore c k (fun y => y.start s.cycle)).mailStatus 0) := by
  change execMgmtStart c k s = _
  unfold execMgmtStart
  refine mailbox_done hb hr ?_
  simp only [refuseIf, hm]
  rw [if_neg (by simp; omega)]; rfl

theorem mgmtStart_refused (hb : s.boot = .up) (hr : s.role = none) (hk : k < 8) (hc : c % 256 < s.clustersOf (c / 256)) {y : Nat}
    (hy : s.comesBack c k = some y) (hm : s.mayTake y c = false) : Answered (.mgmtStart c k) s 1 := by
  change execMgmtStart c k s = _
  unfold execMgmtStart
  refine mailbox_answers hb hr ?_
  simp only [refuseIf, hy, Option.any_some, hm]
  rw [if_neg (by simp; omega)]; rfl

theorem modCore_holder (s : State) (c k : Nat) (f : Core → Core) : (s.modCore c k f).holder = s.holder :=
  modCl_holder (f := fun y => y.setCo k (f (y.co k))) rfl

theorem modCore_ctx (s : State) (c k n : Nat) (f : Core → Core) (b : Nat) : (((s.modCore c k f).mailStatus n).cl b).ctx = s.holder b :=
  congrFun (modCore_holder s c k f) b

theorem comesBack_none (h : (s.core c k).e.wasHalted = true) : s.comesBack c k = none :=
  if_pos (by rw [h]; rfl)

end

theorem managementCommands : ManagementCommands := by
  intro n slot i c k w v tag q0 q1 q2 fence pkg key x s hb hr
  refine ⟨capSlotWrite_done v tag hb hr, handleWrite_done q0 q1 q2 hb hr, fenceAssign_done hb hr, fencedStateExit_done hb hr,
    fun hp hf => fencedStateExit_answers hb hr hf hp, keyLoad_done key hb hr, fun h0 h1 => ?_, fun h => ?_, fun hx => ?_,
    mgmtStart_malformed hb hr, fun hk hc y hy => ⟨mgmtStart_refused hb hr hk hc hy, fun hm hx => ?_⟩, fun hk hc hh hw hp => ?_⟩
  · change execPowerCapSet w s = _
    exact mailbox_done hb hr (if_neg (by simp; omega))
  · change execPowerCapSet w s = _
    exact mailbox_answers hb hr (if_pos (decide_eq_true h))
  · change execMgmtPreempt n s = _
    exact mailbox_done hb hr (if_neg (by rw [hx]; exact Bool.false_ne_true))
  · refine ⟨_, mgmtStart_done hb hr hk hc (by rw [hy, Option.any_some, hm]; rfl), ?_⟩
    rw [modCore_ctx, hy]
    exact switchIn_holder c hx
  · have hcore : (((match s.comesBack c k with | none => s | some x => s.switchIn x c).modCore c k (fun y => y.start s.cycle)).mailStatus 0).core c k =
        (s.core c k).start s.cycle := by
      rw [comesBack_none hw]
      exact core_modCore_same s c k _
    obtain ⟨hhalt, hsq⟩ := core_start_sq (cycle := s.cycle) hh hw
    refine ⟨_, mgmtStart_done hb hr hk hc (by rw [comesBack_none hw]; rfl), ?_⟩
    simp only [State.sq, hcore, hhalt, hsq, rollback_runs]
    have hwake := wake_wakes hp
    simp only [State.sq] at hwake hp
    refine ⟨trivial, ?_, ?_, ?_, wake_runs _⟩
    · rw [hwake]
    · rw [hwake]
    · rw [hwake]; rfl

end Sys2Proof.Machine
end

section
/-! PROOF. Changes of role map (01 R17 to R22). -/

namespace Sys2Proof.Machine

open Sys2Proof

/-! ## The beginning (01 R17 step 1) -/

theorem changedLayers_eq (old new : List Bool) :
    changedLayers old new = (List.range 6).filter (fun l => old.getD l true != new.getD l true) := rfl

theorem roleBegin_onlyCtxs (s : State) (roles : List Bool) : ∃ (r : RoleChange) (l : List (Nat × Context)),
    r.step = .drain ∧ r.old = s.roles ∧ r.new = roles ∧ r.changed = changedLayers s.roles roles ∧ s.roleBegin roles =
      { s with
        role := some r, ctxs := l
        parts := s.parts.map (fun p => (p.1, { p.2 with held := p.2.held || p.2.layers.any (changedLayers s.roles roles).contains })) } := by
  unfold State.roleBegin
  dsimp only
  generalize hd : (s.parts.map (fun p => if p.2.layers.any (changedLayers s.roles roles).contains then p.2.drains s.roles roles else [])).flatten = drained
  generalize (s.keysOn s.roles drained).filterMap (fun c => match (s.cl c).ctx with
    | none => none
    | some x => if (s.cl c).tasks.isEmpty then none else some (x, c)) = live
  obtain ⟨l, hl⟩ := foldl_onlyCtxs (fun (t : State) (x : Nat × Nat) => preempt_onlyCtxs t x.1 x.2) live
    { s with
      role := some { step := .drain, old := s.roles, new := roles, changed := changedLayers s.roles roles, drained := drained, resume := live }
      parts := s.parts.map (fun p => (p.1, { p.2 with held := p.2.held || p.2.layers.any (changedLayers s.roles roles).contains })) }
  exact ⟨_, l, rfl, rfl, rfl, rfl, hl⟩

theorem roleBad_false {s : State} {roles : List Bool} (ha : roles.any id = true)
    (hp : ∀ p ∈ s.parts, ∃ l ∈ p.2.layers, roles.getD l true = true) : s.roleBad roles = false := by
  rw [State.roleBad, ha, Bool.not_true, Bool.false_or, List.any_eq_false]
  intro p hm
  obtain ⟨l, hl, hr⟩ := hp p hm
  have hmem : l ∈ p.2.compute roles := List.mem_filter.2 ⟨hl, hr⟩
  rw [List.isEmpty_iff]
  exact List.ne_nil_of_mem hmem

section
variable {s : State} {roles : List Bool}

theorem roleMapSet_begins (hb : s.boot = .up) (hn : roles.length = 6) (hr : s.role = none) (hok : s.roleBad roles = false)
    (hc : changedLayers s.roles roles ≠ []) : exec (.roleMapSet roles) s = .next (s.roleBegin roles) := by
  change execRoleMapSet roles s = _
  unfold execRoleMapSet
  rw [mailTurn_now hb hr, if_neg (by rw [hb]; decide), if_neg (by simp [hn]), if_neg (by simp [hok]),
    if_neg (by simpa using hc)]

theorem roleMapSet_illegal (hb : s.boot = .up) (hn : roles.length = 6) (hr : s.role = none) (ha : roles.any id = false) :
    exec (.roleMapSet roles) s = .next ((s.report "illegal role map" 0).mailStatus 1) := by
  change execRoleMapSet roles s = _
  have hbad : s.roleBad roles = true := by rw [State.roleBad, ha]; rfl
  unfold execRoleMapSet
  rw [mailTurn_now hb hr, if_neg (by rw [hb]; decide), if_neg (by simp [hn]), if_pos hbad]

end

theorem roleMapSet_drains {s : State} {roles : List Bool} (hb : s.boot = .up) (hn : roles.length = 6) (hr : s.role = none)
    (ha : roles.any id = true) (hp : ∀ p ∈ s.parts, ∃ l ∈ p.2.layers, roles.getD l true = true)
    (hc : (List.range 6).filter (fun l => s.roles.getD l true != roles.getD l true) ≠ []) :
    ∃ t z, exec (.roleMapSet roles) s = .next t ∧ t.role = some z ∧ z.step = .drain ∧ z.old = s.roles ∧ z.new = roles ∧
      z.changed = (List.range 6).filter (fun l => s.roles.getD l true != roles.getD l true) ∧ t.roles = s.roles ∧
      (∀ m, .status m ∈ t.outbox → .status m ∈ s.outbox) ∧
      ∀ p ∈ t.parts, p.2.layers.any ((List.range 6).filter (fun l => s.roles.getD l true != roles.getD l true)).contains = true → p.2.held = true := by
  rw [← changedLayers_eq] at hc ⊢
  obtain ⟨r, l, hstep, hold, hnew, hch, ht⟩ := roleBegin_onlyCtxs s roles
  refine ⟨_, r, roleMapSet_begins hb hn hr (roleBad_false ha hp) hc, ?_, hstep, hold, hnew, hch, ?_⟩
  · rw [ht]
  · rw [ht]
    refine ⟨rfl, fun _ h => h, fun p hp ha => ?_⟩
    obtain ⟨q, -, rfl⟩ := List.mem_map.1 hp
    exact Bool.or_eq_true_iff.2 (.inr ha)

theorem mailTurn_waits {s : State} {i : MailCmd} {r : RoleChange} (hb : s.boot = .up) (hr : s.role = some r) (k : Out) :
    s.mailTurn i k = .next { s with mailQueue := s.mailQueue ++ [i] } := by
  simp only [State.mailTurn, hb, hr]

/-! ## What the flush leaves (01 R17 step 2, R18, R21) -/

/-- The desk, and who holds each cluster. -/
def State.stand (s : State) : Desk × (Nat → Option Nat) := (s.desk, s.holder)

theorem Frame.stand_eq {s t : State} (h : t.frame = s.frame) : t.stand = s.stand :=
  Prod.ext (Frame.desk_eq h) (frame_holder h)

theorem stand_holder {s t : State} (h : t.stand = s.stand) : t.holder = s.holder := (Prod.mk.inj h).2

theorem stand_desk {s t : State} (h : t.stand = s.stand) : t.desk = s.desk := (Prod.mk.inj h).1

theorem unitSave_stand (s : State) (c k : Nat) (kind : UnitKind) (i : Nat) : (s.unitSave c k kind i).stand = s.stand :=
  Prod.ext (by unfold State.unitSave; dsimp only; split <;> rfl) (holder_of_clusters (unitSave_clusters s c k kind i))

theorem setTag_stand (s : State) (c k : Nat) (kind : UnitKind) (i t : Nat) : (s.setTag c k kind i t).stand = s.stand := by
  cases kind
  · exact Prod.ext rfl (modCore_holder _ _ _ _)
  · exact Prod.ext rfl (modCore_holder _ _ _ _)
  · exact Prod.ext rfl (modCl_holder (f := fun x => { x with groupTag := tset 0 x.groupTag i t }) rfl)

theorem bankAll_stand (s : State) (c : Nat) : (s.bankAll c).stand = s.stand := by
  have hout (k : Nat) (kind : UnitKind) (l : List Nat) (t : State) :
      (l.foldl (fun t i => (t.unitSave c k kind i).setTag c k kind i 0) t).stand = t.stand :=
    foldl_keeps State.stand (fun u i => (setTag_stand _ _ _ _ _ _).trans (unitSave_stand u _ _ _ _)) l t
  have hcore (k : Nat) (t : State) : ((span 0 16).foldl (fun t i => (t.unitSave c k .hot i).setTag c k .hot i 0)
      ((span 0 16).foldl (fun t i => (t.unitSave c k .bank i).setTag c k .bank i 0) t)).stand = t.stand :=
    (hout k .hot (span 0 16) _).trans (hout k .bank (span 0 16) t)
  unfold State.bankAll
  dsimp only
  rw [hout 0 .group (span 0 4)]
  exact foldl_keeps State.stand (fun t k => hcore k t) (span 0 8) s

theorem bankAll_holder (s : State) (c : Nat) : (s.bankAll c).holder = s.holder := stand_holder (bankAll_stand s c)

/-- Each cluster of a list is left by its context, and what stood free stays so. -/
theorem foldl_vacates (l : List Nat) (s : State) {c : Nat} (h : c ∈ l ∨ s.holder c = none) :
    (l.foldl (fun t c => (t.switchOut c true).bankAll c) s).holder c = none := by
  induction l generalizing s with
  | nil => exact h.resolve_left List.not_mem_nil
  | cons b r ih =>
    rw [List.foldl_cons]
    apply ih
    by_cases hr : c ∈ r
    · exact .inl hr
    · right
      rw [bankAll_holder, switchOut_holder]
      split
      · rfl
      · next hne => exact h.elim (fun hm => absurd (List.mem_cons.1 hm) (by simp [hne, hr])) id

theorem tget_map {V : Type} (f : V → V) (d : V) (t : Tbl V) (n : Nat) :
    tget (f d) (t.map (fun p => (p.1, f p.2))) n = f (tget d t n) := by
  induction t with
  | nil => rfl
  | cons p r ih =>
    obtain ⟨k, v⟩ := p
    rw [List.map_cons, tget, tget, ih]
    split <;> rfl

theorem renumber_stand (s : State) (num : Nat → Nat) : (s.renumber num).stand = s.stand := by
  refine Prod.ext rfl (funext fun c => ?_)
  have h := congrArg Cluster.ctx (tget_map (fun x : Cluster => { x with held := x.held.map (fun h => { h with pa := num h.pa }) }) {} s.clusters c)
  exact h

theorem storeBack_stand (s : State) (key frame : Nat) : (s.storeBack key frame).stand = s.stand := by
  have hr (t : State) (num : Nat → Nat) : (t.renumber num).stand = t.stand := renumber_stand t num
  unfold State.storeBack
  dsimp only
  split
  · exact (Frame.stand_eq (setMark_frame _ _ _)).trans (hr _ _)
  · split
    · exact (Frame.stand_eq (setMark_frame _ _ _)).trans (hr _ _)
    · exact (Frame.stand_eq ((report_frame _ _ _).trans (poison_frame _ _ _))).trans (hr _ _)

theorem cacheBack_stand (s : State) (c line : Nat) : (s.cacheBack c line).stand = s.stand := by
  unfold State.cacheBack
  dsimp only
  split
  · exact Frame.stand_eq (writeHome_frame _ _ _ _ _)
  · exact Frame.stand_eq ((report_frame _ _ _).trans (writeHome_frame _ _ _ _ _))

/-- What neither a charge nor a transfer changes, charged transfers leave. -/
theorem chargedEach_stand {A : Type} (part : A → Nat) {f : A → State → State} (hf : ∀ a t, (f a t).stand = t.stand) (l : List A)
    (s : State) : (chargedEach part f l s).stand = s.stand := by
  induction l generalizing s with
  | nil => rfl
  | cons a r ih =>
    rw [chargedEach]
    split
    · exact ih s
    · next hc => exact (ih _).trans ((hf a _).trans (Frame.stand_eq (charge_frame hc)))

theorem flushStep_stand (s : State) (r : RoleChange) : (s.flushStep r).stand = s.stand := by
  unfold State.flushStep
  dsimp only
  rw [chargedEach_stand]
  · rw [chargedEach_stand]
    intro p t
    exact cacheBack_stand t p.1 p.2
  · intro p t
    exact storeBack_stand t p.1 p.2

theorem slicesOut_stand (s : State) (r : RoleChange) : (s.slicesOut r).stand = s.stand :=
  foldl_keeps State.stand (fun t _ => Frame.stand_eq (l2Flush_frame t _ _)) _ _

theorem l2Flush_tlb (s : State) (part : Nat) (l : List Nat) : (s.l2Flush part l).mem.tlb = s.mem.tlb := rfl

theorem slicesOut_tlb (s : State) (r : RoleChange) : (s.slicesOut r).mem.tlb = s.mem.tlb :=
  foldl_keeps (fun t : State => t.mem.tlb) (fun t _ => l2Flush_tlb t _ _) _ _

/-- Translations that clusters hold, but for those of some clusters (01 R17 step 2). -/
def State.tlbBut (s : State) (keys : List Nat) : State :=
  { s with mem := { s.mem with tlb := s.mem.tlb.filter (fun t => !(match t.cl with | none => false | some c => keys.contains c)) } }

theorem tlbBut_stand (s : State) (keys : List Nat) : (s.tlbBut keys).stand = s.stand := rfl

theorem tlbBut_gone {s : State} {keys : List Nat} {c : Nat} (hc : c ∈ keys) {e : TlbEntry} (he : e ∈ (s.tlbBut keys).mem.tlb) :
    e.cl ≠ some c := by
  intro h
  have hf := (List.mem_filter.1 he).2
  rw [h] at hf
  simp [hc] at hf

/-- Clusters that their contexts have left, with their lazy units in the bank area (01 R18). -/
def State.vacated (s : State) (keys : List Nat) : State := keys.foldl (fun t c => (t.switchOut c true).bankAll c) s

/-- The state after step 2 has begun, of a change that stands at r (01 R17). -/
def State.roleFlushed (s : State) (keys : List Nat) (r : RoleChange) : State :=
  ((({ s.vacated keys with role := some r } : State).flushStep r).tlbBut keys).slicesOut r

theorem roleFlushed_stand (s : State) (keys : List Nat) (r : RoleChange) :
    (s.roleFlushed keys r).stand = ({ s.vacated keys with role := some r } : State).stand :=
  (slicesOut_stand _ r).trans ((tlbBut_stand _ keys).trans (flushStep_stand _ r))

theorem roleFlushed_role (s : State) (keys : List Nat) (r : RoleChange) : (s.roleFlushed keys r).role = some r :=
  congrArg Desk.role (stand_desk (roleFlushed_stand s keys r))

theorem roleFlushed_vacant (s : State) {keys : List Nat} (r : RoleChange) {c : Nat} (hc : c ∈ keys) :
    ((s.roleFlushed keys r).cl c).ctx = none :=
  (congrFun (stand_holder (roleFlushed_stand s keys r)) c).trans (foldl_vacates keys s (.inl hc))

theorem roleFlushed_tlb (s : State) {keys : List Nat} (r : RoleChange) {c : Nat} (hc : c ∈ keys) :
    ∀ e ∈ (s.roleFlushed keys r).mem.tlb, e.cl ≠ some c := by
  intro e he
  rw [State.roleFlushed, slicesOut_tlb] at he
  exact tlbBut_gone hc he

/-- Whether something of a drained cluster is still going on (01 R17 step 1). -/
def State.stillBusy (s : State) (c : Nat) : Bool :=
  !(s.cl c).tasks.isEmpty || !(span 0 8).all (s.coreQuiet c) || !(s.cl c).landings.isEmpty || !(s.cl c).pwb.isEmpty

/-- Nothing of a cluster is still going on. -/
def State.AllOver (s : State) (c : Nat) : Prop :=
  (s.cl c).tasks = [] ∧ (∀ k, k < 8 → s.coreQuiet c k = true) ∧ (s.cl c).landings = [] ∧ (s.cl c).pwb = []

theorem stillBusy_false {s : State} {c : Nat} (h : s.AllOver c) : s.stillBusy c = false := by
  obtain ⟨ht, hcore, hl, hp⟩ := h
  have hall : (span 0 8).all (s.coreQuiet c) = true :=
    List.all_eq_true.2 fun k hk => hcore k (by have := mem_span.1 hk; omega)
  simp [State.stillBusy, ht, hall, hl, hp]

theorem execRoleFlush_drained {s : State} {r : RoleChange} (hr : s.role = some r) (hd : r.step = .drain)
    (hq : ∀ c ∈ s.keysOn r.old r.drained, s.stillBusy c = false) :
    exec .roleFlush s = .next (s.roleFlushed (s.keysOn r.old r.drained) { r with step := .flush }) := by
  have hbusy : ¬ (r.step ≠ .drain ∨ (s.keysOn r.old r.drained).any s.stillBusy = true) := by
    rintro (h | h)
    · exact h hd
    · obtain ⟨c, hc, hb⟩ := List.any_eq_true.1 h
      rw [hq c hc] at hb; cases hb
  change execRoleFlush s = _
  unfold execRoleFlush
  rw [hr]
  refine (if_neg hbusy).trans ?_
  unfold State.roleFlushed State.vacated State.tlbBut
  rfl

theorem roleFlush_flushes {s : State} {r : RoleChange} (hr : s.role = some r) (hd : r.step = .drain)
    (hq : ∀ c ∈ s.keysOn r.old r.drained, s.AllOver c) :
    ∃ t, exec .roleFlush s = .next t ∧ t.role = some { r with step := .flush } ∧
      ∀ c ∈ s.keysOn r.old r.drained, (t.cl c).ctx = none ∧ ∀ e ∈ t.mem.tlb, e.cl ≠ some c :=
  ⟨_, execRoleFlush_drained hr hd fun c hc => stillBusy_false (hq c hc), roleFlushed_role _ _ _,
    fun _ hc => ⟨roleFlushed_vacant s _ hc, roleFlushed_tlb s _ hc⟩⟩

/-! ## Dark ports, and the renumbering (01 R17 steps 3 and 4) -/

theorem roleDark_dark {s : State} {r : RoleChange} (hr : s.role = some r) (hf : r.step = .flush) (hc : s.cacheLeft r = [])
    (hs : s.storeLeft r = []) : exec .roleDark s = .next { s with
      role := some { r with step := .dark }, darkPoolLayers := r.changed
      fabric := { s.fabric with darkPorts := (r.changed.map peerPortsOf).flatten } } := by
  change execRoleDark s = _
  simp only [execRoleDark, hr, hc, hs]
  exact if_neg (by simp [hf])

theorem roleReenumerate_numbers {s : State} {r : RoleChange} (hr : s.role = some r) (hd : r.step = .dark)
    (hq : ∀ q ∈ s.pool.reqs, q.sends = 0 ∨ r.changed.contains (q.port / 16) = false) :
    ∃ t, exec .roleReenumerate s = .next t ∧ t.role = some { r with step := .renumber } ∧ t.roles = r.new := by
  have hopen : s.pool.reqs.any (fun q => decide (0 < q.sends) && r.changed.contains (q.port / 16)) = false := by
    rw [List.any_eq_false]
    intro q hm
    rcases hq q hm with h | h
    · rw [h]; simp
    · rw [h, Bool.and_false]; exact Bool.false_ne_true
  have hcond : ¬ (r.step ≠ .dark ∨ s.pool.reqs.any (fun q => decide (0 < q.sends) && r.changed.contains (q.port / 16)) = true) := by
    rw [hopen]; simp [hd]
  refine ⟨?_, ?run, ?role, ?roles⟩
  case run =>
    change execRoleReenumerate s = _
    unfold execRoleReenumerate
    simp only [hr]
    exact if_neg hcond
  case role => rfl
  case roles => rfl

end Sys2Proof.Machine
end

section
/-! PROOF. The end of a change of role map (01 R17 step 5, R18). -/

namespace Sys2Proof.Machine

open Sys2Proof

/-! ## What the relighting leaves of the desk -/

theorem modPart_desk (s : State) (n : Nat) (f : Partition → Partition) : (s.modPart n f).desk = s.desk := by
  unfold State.modPart
  split <;> rfl

theorem divert_desk (s : State) (port : Nat) (p : Packet) : (s.divert port p).desk = s.desk :=
  foldl_keeps State.desk (by intros; rfl) _ _

theorem leave_desk (s : State) (port : Nat) (p : Packet) : (s.leave port p).desk = s.desk := by
  unfold State.leave
  dsimp only
  split
  · exact divert_desk _ _ _
  · rfl

theorem emit_desk (s : State) (r : Route) (p : Packet) : (s.emit r p).desk = s.desk := by
  cases r with
  | lit port => exact leave_desk _ _ _
  | dark port => exact leave_desk _ _ _
  | itself => rfl
  | pending => rfl
  | none => rfl

theorem resumePorts_desk (s : State) (ports : List Nat) : (s.resumePorts ports).desk = s.desk := by
  unfold State.resumePorts
  exact foldl_keeps State.desk (fun t d => emit_desk t _ _) _ _

theorem sendMsi_desk (s : State) (part vector : Nat) : (s.sendMsi part vector).desk = s.desk := by
  unfold State.sendMsi
  split <;> rfl

theorem modGraph_desk (s : State) (ctx c g : Nat) (f : GraphSlot → GraphSlot) : (s.modGraph ctx c g f).desk = s.desk := by
  unfold State.modGraph
  dsimp only
  split <;> rfl

theorem graphLost_desk (s : State) (g : GraphSlot) : (s.graphLost g).desk = s.desk := by
  unfold State.graphLost
  split
  · rfl
  · dsimp only
    refine (Frame.desk_eq (report_frame _ _ _)).trans ?_
    split
    · rfl
    · split
      · exact Frame.desk_eq (writeFails_frame _ _ _)
      · next h => exact Frame.desk_eq (writeVa_frame h)

theorem taskLost_desk (s : State) (t : Task) : (s.taskLost t).desk = s.desk := by
  unfold State.taskLost
  split
  · exact (sendMsi_desk _ _ _).trans (modPart_desk _ _ _)
  · exact (sendMsi_desk _ _ _).trans (modPart_desk _ _ _)
  · exact modGraph_desk _ _ _ _ _

theorem look_map_isSome {V W : Type} (f : V → W) (l : List (Nat × V)) (n : Nat) :
    (look (l.map (fun p => (p.1, f p.2))) n).isSome = (look l n).isSome := by
  induction l with
  | nil => rfl
  | cons p r ih =>
    obtain ⟨k, v⟩ := p
    rw [List.map_cons, look, look]
    split
    · rfl
    · exact ih

theorem dropLost_desk (s : State) : s.dropLost.desk = s.desk := by
  have hgone (t : State) (h : Shadow) :
      (h.graphs.foldl (fun u g => u.graphLost g.2) (h.tasks.foldl State.taskLost t)).desk = t.desk :=
    (foldl_keeps State.desk (fun (u : State) (g : Nat × GraphSlot) => graphLost_desk u g.2) h.graphs _).trans (foldl_keeps State.desk taskLost_desk h.tasks t)
  unfold State.dropLost
  refine (foldl_keeps State.desk hgone _ _).trans ?_
  exact congrArg (Desk.mk s.role s.roles s.darkPoolLayers s.fabric.darkPorts s.mailQueue) (funext fun n =>
    look_map_isSome (fun x : Context => { x with preempt := x.preempt.filter (fun q => !decide (s.clustersOf (q.1 / 256) ≤ q.1 % 256)) }) s.ctxs n)

theorem clearWay_desk (s : State) (pre : Bool) (c ctx : Nat) : (s.clearWay pre c ctx).desk = s.desk := by
  have ha : (s.askCluster pre c ctx).desk = s.desk := by
    unfold State.askCluster
    split
    · rfl
    · split
      · exact preempt_desk _ _ _
      · rfl
  unfold State.clearWay
  dsimp only
  split
  · exact ha
  · exact (Frame.desk_eq (flushCores_frame _ _ _)).trans ha

theorem tryResume_desk (s : State) (x : Nat × Nat) : (s.tryResume x).desk = s.desk := by
  unfold State.tryResume
  dsimp only
  split
  · split <;> rfl
  · split
    · rfl
    · split
      · exact switchIn_desk s x.1 x.2
      · exact clearWay_desk _ _ _ _

/-! ## Step 5 -/

/-- The change ended, before its ports resume (01 R17 step 5). -/
def State.relit (s : State) (r : RoleChange) : State :=
  { s with
    role := none, darkPoolLayers := [], fabric := { s.fabric with darkPorts := [] }
    parts := s.parts.map (fun p => (p.1, { p.2 with held := p.2.held && !p.2.layers.any r.changed.contains })) }

/-- The drained tasks resume in ascending cluster number (01 R18). -/
def State.takeUp (s : State) (xs : List (Nat × Nat)) : State := (s.resumeSoon xs).resumes.foldl State.tryResume (s.resumeSoon xs)

theorem takeUp_desk (s : State) (xs : List (Nat × Nat)) : (s.takeUp xs).desk = s.desk :=
  foldl_keeps State.desk tryResume_desk _ (s.resumeSoon xs)

theorem roleRelight_relights {s : State} {r : RoleChange} (hr : s.role = some r) (hs : r.step = .renumber) :
    ∃ t, exec .roleRelight s = .next t ∧ t.role = none ∧ t.darkPoolLayers = [] ∧ t.fabric.darkPorts = [] ∧
      (∃ pre, t.outbox = pre ++ [.status 0]) ∧ t.mailQueue = [] ∧ ∀ i ∈ s.mailQueue, .mail i ∈ t.agenda := by
  have hd : (((s.relit r).resumePorts s.fabric.darkPorts).dropLost.pumpPool).desk = (s.relit r).desk :=
    (Frame.desk_eq (pumpPool_frame _)).trans ((dropLost_desk _).trans (resumePorts_desk _ _))
  have hrun : exec .roleRelight s = .next (((((s.relit r).resumePorts s.fabric.darkPorts).dropLost.pumpPool.takeUp
      (r.resume.filter ((s.relit r).resumePorts s.fabric.darkPorts).dropLost.pumpPool.halted)).mailStatus 0).mailGo) := by
    change execRoleRelight s = _
    unfold execRoleRelight
    rw [hr]
    refine (if_neg (by simp [hs])).trans ?_
    rfl
  refine ⟨_, hrun, ?_⟩
  generalize ((s.relit r).resumePorts s.fabric.darkPorts).dropLost.pumpPool = u at hd
  have hdesk := (takeUp_desk u (r.resume.filter u.halted)).trans hd
  generalize u.takeUp (r.resume.filter u.halted) = v at hdesk
  have hmail : v.mailQueue = s.mailQueue := congrArg Desk.mail hdesk
  refine ⟨congrArg Desk.role hdesk, congrArg Desk.darkPools hdesk, congrArg Desk.darkPorts hdesk, ⟨v.outbox, rfl⟩, rfl, fun i hi => ?_⟩
  exact List.mem_append_left _ (List.mem_map.2 ⟨i, hmail ▸ hi, rfl⟩)

theorem roleMapChanges : RoleMapChanges := by
  intro n roles r s
  dsimp only
  refine ⟨fun hb hn hr ha hp hc => roleMapSet_drains hb hn hr ha hp hc, fun hb hn hr ha => ⟨_, roleMapSet_illegal hb hn hr ha, hr, ?_⟩,
    fun hb hr => mailTurn_waits hb hr _, fun hr => ⟨fun hd hq => roleFlush_flushes hr hd hq,
      fun hf hc hs => ⟨_, roleDark_dark hr hf hc hs, rfl, rfl, fun l hl p hp => List.mem_flatten.2 ⟨_, List.mem_map_of_mem hl, hp⟩⟩,
      fun hd hq => roleReenumerate_numbers hr hd hq, fun hs => roleRelight_relights hr hs⟩⟩
  exact List.append_assoc _ _ _

end Sys2Proof.Machine
end

section
/-! PROOF. Boot, power and accesses of the host (27 R450 to R456, 25 R422, R423, 21 R342), and the settlement of management and roles. -/

namespace Sys2Proof.Machine

open Sys2Proof

/-! ## Boot (27 R455, 25 R423) -/

section
variable {s : State}

theorem powerOn_up {img : BootImage} {bs : List Byte} (ho : s.boot = .off) (hb : img.bytes = some bs) (he : img.ed25519 = true)
    (hm : img.mldsa = true) (hv : s.fused ≤ img.version) : exec (.powerOn img) s = .next { s with
      gang := 0, window := 0, clock := {}, boot := .up, measure := sha3_384 bs, fused := max s.fused img.fuse, controls := List.replicate 6 true } := by
  have hbad : ¬ ((!img.ed25519 || !img.mldsa || decide (img.version < s.fused)) = true) := by simp [he, hm, hv]
  change execPowerOn img s = _
  unfold execPowerOn
  rw [if_neg (not_not.2 ho), hb]
  exact if_neg hbad

theorem powerOn_recovery {img : BootImage} (ho : s.boot = .off)
    (hbad : img.bytes = none ∨ img.ed25519 = false ∨ img.mldsa = false ∨ img.version < s.fused) :
    exec (.powerOn img) s = .next { s with gang := 0, window := 0, clock := {}, boot := .recovery, controls := [true, false, false, false, false, false] } := by
  change execPowerOn img s = _
  unfold execPowerOn
  rw [if_neg (not_not.2 ho)]
  cases hb : img.bytes with
  | none => rfl
  | some bs =>
    have h : (!img.ed25519 || !img.mldsa || decide (img.version < s.fused)) = true := by
      rcases hbad with h | h | h | h
      · rw [hb] at h; cases h
      · simp [h]
      · simp [h]
      · simp [h]
    exact if_pos h

theorem mailTurn_on {i : MailCmd} (hb : s.boot ≠ .off) (hr : s.role = none) (k : Out) : s.mailTurn i k = k := by
  unfold State.mailTurn
  rw [hr]
  cases h : s.boot with
  | off => exact absurd h hb
  | recovery => rfl
  | up => rfl

/-! ## Power (27 R456) -/

theorem mem_runningOn {q : Nat × Cluster} {x : Nat} (hq : q ∈ s.clusters) (hx : q.2.ctx = some x) (ht : q.2.tasks ≠ []) :
    (x, q.1) ∈ s.runningOn := by
  refine List.mem_filterMap.2 ⟨q, hq, ?_⟩
  rw [hx]
  exact if_neg (by simpa using ht)

theorem thermalTrip_hot {l : Nat} (hl : l ∉ s.hotDies) : ∃ t, exec (.thermalTrip l) s = .next t ∧ t.hotDies = s.hotDies ++ [l] ∧
    t.outbox = s.outbox ++ [.report "110 C" (BitVec.ofNat 64 l)] ∧
    ∀ q ∈ s.clusters, ∀ x, q.2.ctx = some x → q.2.tasks ≠ [] → (x, q.1) ∈ t.tripped := by
  obtain ⟨cs, hcs⟩ := foldl_onlyCtxs (fun (t : State) (p : Nat × Context) => preemptAll_onlyCtxs t p.1) s.ctxs
    (({ s with hotDies := s.hotDies ++ [l], tripped := (s.tripped ++ s.runningOn).eraseDups } : State).report "110 C" l)
  have hrun : exec (.thermalTrip l) s = .next (s.ctxs.foldl (fun t p => t.preemptAll p.1)
      (({ s with hotDies := s.hotDies ++ [l], tripped := (s.tripped ++ s.runningOn).eraseDups } : State).report "110 C" l)) :=
    if_neg (by simpa using hl)
  rw [hcs] at hrun
  exact ⟨_, hrun, rfl, rfl, fun q hq x hx ht => List.mem_eraseDups.2 (List.mem_append_right _ (mem_runningOn hq hx ht))⟩

/-- A place in a list of resumptions is found for each that is to come, and none is lost (01 R18). -/
theorem mem_insertResume {a : List (Nat × Nat)} {x y : Nat × Nat} (h : y = x ∨ y ∈ a) :
    y ∈ (if a.contains x then a else a.takeWhile (fun y => decide (y.2 ≤ x.2)) ++ x :: a.dropWhile (fun y => decide (y.2 ≤ x.2))) := by
  split
  · next hc => exact h.elim (fun e => e ▸ List.contains_iff_mem.1 hc) id
  · rw [List.mem_append, List.mem_cons]
    rcases h with rfl | h
    · exact .inr (.inl rfl)
    · rw [← List.takeWhile_append_dropWhile (p := fun y => decide (y.2 ≤ x.2)) (l := a), List.mem_append] at h
      exact h.imp_right .inr

theorem mem_resumeSoon {xs : List (Nat × Nat)} {y : Nat × Nat} (h : y ∈ xs ∨ y ∈ s.resumes) : y ∈ (s.resumeSoon xs).resumes := by
  unfold State.resumeSoon
  dsimp only
  generalize s.resumes = a at h
  induction xs generalizing a with
  | nil => exact h.resolve_left List.not_mem_nil
  | cons x r ih =>
    rw [List.foldl_cons]
    refine ih _ ?_
    rw [List.mem_cons] at h
    rcases h with (h | h) | h
    · exact .inr (mem_insertResume (.inl h))
    · exact .inl h
    · exact .inr (mem_insertResume (.inr h))

theorem thermalResume_hot {l : Nat} (h : ∃ d ∈ s.hotDies, d ≠ l) :
    exec (.thermalResume l) s = .next { s with hotDies := s.hotDies.filter (fun x => x ≠ l) } := by
  obtain ⟨d, hd, hne⟩ := h
  have hne' : ¬ ((s.hotDies.filter (fun x => x ≠ l)).isEmpty = true) := by
    rw [List.isEmpty_iff]
    exact List.ne_nil_of_mem (List.mem_filter.2 ⟨hd, by simpa using hne⟩)
  exact congrArg Host.Outcome.next (if_neg hne')

theorem thermalResume_cool {l : Nat} (h : ∀ d ∈ s.hotDies, d = l) : ∃ t, exec (.thermalResume l) s = .next t ∧ t.hotDies = [] ∧
    t.tripped = [] ∧ ∀ x ∈ s.tripped, x ∈ t.resumes := by
  have hnil : s.hotDies.filter (fun x => x ≠ l) = [] := List.filter_eq_nil_iff.2 fun d hd => by simp [h d hd]
  have hrun : exec (.thermalResume l) s =
      .next (({ s with hotDies := s.hotDies.filter (fun x => x ≠ l), tripped := [] } : State).resumeSoon s.tripped) :=
    congrArg Host.Outcome.next (if_pos (by rw [hnil]; rfl))
  exact ⟨_, hrun, hnil, rfl, fun x hx => mem_resumeSoon (.inl hx)⟩

end

/-! ## What the host reads (27 R450) -/

theorem homeVers_none {n : Nat} {l : List OldByte} (h : ∀ x ∈ l, x.pa ≠ n) (now : Byte) : homeVers n now l = [] := by
  induction l with
  | nil => rfl
  | cons x r ih =>
    rw [homeVers, if_neg (h x List.mem_cons_self)]
    exact ih fun y hy => h y (List.mem_cons_of_mem _ hy)

theorem valBefore_none {n : Nat} {l : List OldByte} (h : ∀ x ∈ l, x.pa ≠ n) (now : Byte) : valBefore n now l = now := by
  induction l with
  | nil => rfl
  | cons x r ih =>
    rw [valBefore, if_neg (h x List.mem_cons_self)]
    exact ih fun y hy => h y (List.mem_cons_of_mem _ hy)

/-- A byte of a line without a key, with no write of it in the history, is read as it stands. -/
theorem outByte_plain {s : State} {a : Nat} (hc : tget none s.mem.cipher (a / 64) = none) (hh : ∀ h ∈ s.mem.hist, h.pa ≠ a) :
    s.outByte (.phys a) = tget 0 s.mem.phys a := by
  have hhome : s.homeByte (.phys a) = tget 0 s.mem.phys a := if_pos hc
  have hver : s.agentVer none (.phys a) = ([], 0) := by
    simp only [State.agentVer, Loc.num, homeVers_none hh]
    rfl
  rw [State.outByte, State.agentByte, hver]
  exact (valBefore_none hh _).trans hhome

/-- The lines of an access whose bytes carry no mark carry none. -/
theorem unmarked_lines {s : State} {pa n : Nat} (hm : ∀ i, i < n → tget none s.mem.marks ((pa + i) / 64) = none) :
    (unitsOf 64 pa n).findSome? (fun l => (s.markAt (.phys (64 * l))).map (fun m => (64 * l, m))) = none := by
  rw [List.findSome?_eq_none_iff]
  intro l hl
  obtain ⟨hn, h0, h1⟩ := mem_unitsOf.1 hl
  have hd : (pa + (max pa (64 * l) - pa)) / 64 = l := by omega
  have h := hm (max pa (64 * l) - pa) (by omega)
  rw [hd] at h
  have hl' : 64 * l / 64 = l := by omega
  rw [State.markAt, hl', h]
  rfl

/-- Bytes of memory that exists, in unmarked lines without a key. -/
def State.PlainBytes (s : State) (pa n : Nat) : Prop :=
  ∀ i, i < n → physOk (pa + i) = true ∧ tget none s.mem.marks ((pa + i) / 64) = none ∧ tget none s.mem.cipher ((pa + i) / 64) = none

theorem State.PlainBytes.present {s : State} {pa n : Nat} (h : s.PlainBytes pa n) (i : Nat) (hi : i < n) : physOk (pa + i) = true :=
  (h i hi).1

theorem State.PlainBytes.unmarked {s : State} {pa n : Nat} (h : s.PlainBytes pa n) (i : Nat) (hi : i < n) :
    tget none s.mem.marks ((pa + i) / 64) = none := by
  obtain ⟨-, hm, -⟩ := h i hi
  exact hm

theorem State.PlainBytes.unkeyed {s : State} {pa n : Nat} (h : s.PlainBytes pa n) (i : Nat) (hi : i < n) :
    tget none s.mem.cipher ((pa + i) / 64) = none := by
  obtain ⟨-, -, hc⟩ := h i hi
  exact hc

theorem noByte_none {pa n : Nat} (h : ∀ i, i < n → physOk (pa + i) = true) : noByte pa n = none :=
  find_span.2 fun i hi => by rw [h i hi]; rfl

theorem noByte_some {pa n i : Nat} (hi : i < n) (h : physOk (pa + i) = false) :
    ∃ a, noByte pa n = some a ∧ pa ≤ a ∧ a < pa + n ∧ physOk a = false := by
  cases hn : noByte pa n with
  | none =>
    have := find_span.1 hn i hi
    rw [h] at this; cases this
  | some a =>
    obtain ⟨h0, h1⟩ := mem_span.1 (List.mem_of_find?_eq_some hn)
    exact ⟨a, rfl, h0, h1, by simpa using List.find?_some hn⟩

theorem map_span {A : Type} (f : Nat → A) (a n : Nat) : (span a n).map f = (List.range n).map (fun i => f (a + i)) := by
  induction n generalizing a with
  | zero => rfl
  | succ n ih =>
    rw [span, List.map_cons, ih, List.range_succ_eq_map, List.map_cons, List.map_map, Nat.add_zero]
    refine congrArg (f a :: ·) (List.map_congr_left fun i _ => congrArg f ?_)
    omega

section
variable {s : State} {part off n : Nat} {p : Partition}

theorem hostRead_bytes (hp : look s.parts part = some p) (hs : off + n ≤ p.bar2Size)
    (hok : s.PlainBytes (p.bar2 + off) n)
    (hh : ∀ h ∈ s.mem.hist, h.pa < p.bar2 + off ∨ p.bar2 + off + n ≤ h.pa) :
    exec (.hostAccess (.read part off n)) s =
      .next { s with outbox := s.outbox ++ [.hostRead ((List.range n).map (fun i => tget 0 s.mem.phys (p.bar2 + off + i)))] } := by
  have hbytes : (span (p.bar2 + off) n).map (fun a => s.outByte (.phys a)) = (List.range n).map (fun i => tget 0 s.mem.phys (p.bar2 + off + i)) := by
    rw [map_span]
    refine List.map_congr_left fun i hi => ?_
    have hi' := List.mem_range.1 hi
    exact outByte_plain (hok.unkeyed i hi') fun h hm => by have := hh h hm; omega
  change execHostAccess (.read part off n) s = _
  simp only [execHostAccess, hp, if_neg (Nat.not_lt.2 hs), noByte_none hok.present, State.hostRead,
    unmarked_lines hok.unmarked, hbytes]

theorem hostRead_beyond (hp : look s.parts part = some p) (hs : p.bar2Size < off + n) : exec (.hostAccess (.read part off n)) s = .next s := by
  change execHostAccess (.read part off n) s = _
  simp only [execHostAccess, hp, if_pos hs]

theorem hostRead_stops {i : Nat} (hp : look s.parts part = some p) (hi : i < n) (hs : off + n ≤ p.bar2Size)
    (h : physOk (p.bar2 + off + i) = false) : ∃ a, exec (.hostAccess (.read part off n)) s = .fault (.noMemory a) ∧
      p.bar2 + off ≤ a ∧ a < p.bar2 + off + n ∧ physOk a = false := by
  obtain ⟨a, ha, h0, h1, hno⟩ := noByte_some hi h
  refine ⟨a, ?_, h0, h1, hno⟩
  change execHostAccess (.read part off n) s = _
  simp only [execHostAccess, hp, if_neg (Nat.not_lt.2 hs), ha]

end

/-! ## What the host writes (27 R450) -/

theorem wrHome_plain {s : State} {a : Nat} {b : Byte} {i : WrInfo} (hc : tget none s.mem.cipher (a / 64) = none) :
    (s.wrHome (.phys a) b i).mem.phys = tset 0 s.mem.phys a b ∧ (s.wrHome (.phys a) b i).mem.cipher = s.mem.cipher ∧
      (s.wrHome (.phys a) b i).mem.marks = s.mem.marks := by
  let m : Mem := { s.mem with hist := s.mem.hist ++
    [{ pa := a, byte := s.homeByte (.phys a), w := i.w, by_ := i.by_, rel := i.rel, vis := i.vis, wide := i.wide }] }
  have hu : m.under (s.keyVal 0) (a / 64) = m := if_pos hc
  have hw : (s.wrHome (.phys a) b i).mem =
      { m.under (s.keyVal 0) (a / 64) with phys := tset 0 (m.under (s.keyVal 0) (a / 64)).phys a b } := rfl
  rw [hw, hu]
  exact ⟨rfl, rfl, rfl⟩

/-- Bytes written at home, where no line has a key, stand in physical memory; marks stay. -/
theorem wrAll_plain (i : WrInfo) {cs : List (Nat × Byte)} {s : State} (hc : ∀ c ∈ cs, tget none s.mem.cipher (c.1 / 64) = none) :
    (wrAll i (cs.map (fun c => (.phys c.1, c.2))) s).mem.phys = writeCells s.mem.phys cs ∧
      (wrAll i (cs.map (fun c => (.phys c.1, c.2))) s).mem.marks = s.mem.marks := by
  induction cs generalizing s with
  | nil => exact ⟨rfl, rfl⟩
  | cons c r ih =>
    obtain ⟨hp, hci, hm⟩ := wrHome_plain (b := c.2) (i := i) (hc c List.mem_cons_self)
    obtain ⟨hp', hm'⟩ := ih (s := s.wrHome (.phys c.1) c.2 i) fun d hd => by
      rw [hci]; exact hc d (List.mem_cons_of_mem _ hd)
    rw [hp] at hp'
    exact ⟨hp', hm'.trans hm⟩

theorem span_cells (a k : Nat) (bs : List Byte) {f : Nat → Byte} (h : ∀ j, j < bs.length → f (k + j) = bs.getD j 0) :
    (span k bs.length).map (fun i => (Loc.phys (a + i), f i)) = (cells (a + k) bs).map (fun c => (.phys c.1, c.2)) := by
  induction bs generalizing k with
  | nil => rfl
  | cons b r ih =>
    have h0 : f k = b := h 0 (by simp)
    have hr := ih (k + 1) fun j hj => by
      have := h (j + 1) (by simpa using hj)
      rw [show k + 1 + j = k + (j + 1) by omega]; exact this
    rw [List.length_cons, span, List.map_cons, cells, List.map_cons, hr, h0]
    rfl

section
variable {s : State} {part pa : Nat} {bs : List Byte}

/-- The bytes of a host write at their homes, in lines without a key (27 R450). -/
def State.hostPut (s : State) (pa : Nat) (bs : List Byte) : State :=
  (s.wrHomes none ((span 0 bs.length).map (fun i => (.phys (pa + i), bs.getD i 0)))).setMark (.phys pa) none

theorem hostPut_phys (hc : ∀ i, i < bs.length → tget none s.mem.cipher ((pa + i) / 64) = none) :
    (s.hostPut pa bs).mem.phys = writeB s.mem.phys pa bs := by
  have hcs : ∀ c ∈ cells pa bs, tget none s.bump.mem.cipher (c.1 / 64) = none := fun c hm => by
    obtain ⟨h0, h1⟩ := mem_cells.1 (List.mem_map_of_mem hm)
    have := hc (c.1 - pa) (by omega)
    rwa [show pa + (c.1 - pa) = c.1 by omega] at this
  rw [← writeCells_cells]
  refine Eq.trans ?_ (wrAll_plain (s.bump.openWr none) hcs).1
  rw [← Nat.add_zero pa, ← span_cells pa 0 bs (f := fun i => bs.getD i 0) (fun j _ => by rw [Nat.zero_add])]
  rfl

theorem hostLines_nil (s : State) (part pa : Nat) (crc : List (BitVec 32)) (n : Nat) : s.hostLines part pa [] crc n = s := by
  cases n <;> rfl

theorem hostFails_mem (s : State) (part pa : Nat) (m : LineMark) (hop : Nat) :
    (s.hostFails part pa m hop).mem = (s.poison (.phys pa) (BitVec.ofNat 4 hop)).mem := by
  unfold State.hostFails
  dsimp only
  split
  · rw [report_mem, report_mem]
  · rw [ownerFault_mem, report_mem, report_mem]

theorem poison_marks (s : State) (pa : Nat) (hop : BitVec 4) :
    tget none (s.poison (.phys pa) hop).mem.marks (pa / 64) = some { kind := 2, hop := hop } := by
  have h : (s.poison (.phys pa) hop).mem = (s.setMark (.phys pa) (some { kind := 2, hop := hop })).mem := by
    unfold State.poison
    dsimp only
    split <;> rfl
  rw [h]
  change tget none (tset none s.mem.marks (pa / 64) (some { kind := 2, hop := hop })) (pa / 64) = _
  exact tget_tset_same _ _ _ _

/-- A write of part of an unmarked line goes home, or poisons the line where its page's seal needs a CRC that did not come. -/
theorem hostLine_partial {crc : Option (BitVec 32)} (hl : bs.length < 64) (hm : s.markAt (.phys pa) = none) :
    s.hostLine part pa bs crc =
      if (s.sealedAt part pa).isSome ∧ crc ≠ some (sealOf (s.hostMerge pa bs)) then (s.hostPut pa bs).hostFails part pa { kind := 0, hop := 1 } 1
      else s.hostPut pa bs := by
  unfold State.hostLine
  rw [if_pos hl, hm]
  rfl

theorem hostWrite_partial {off : Nat} {p : Partition} {crc : List (BitVec 32)} (hp : look s.parts part = some p)
    (hs : off + bs.length ≤ p.bar2Size) (hok : ∀ i, i < bs.length → physOk (p.bar2 + off + i) = true)
    (hl : (p.bar2 + off) % 64 + bs.length < 64) (hb : bs ≠ []) (hg : s.mem.granted = []) :
    exec (.hostAccess (.write part off bs crc)) s = .next (s.hostLine part (p.bar2 + off) bs crc.head?) := by
  have hgrant : s.grantHolds none (.phys (p.bar2 + off)) bs.length = false := by simp [State.grantHolds, hg]
  have hk : min bs.length (64 - (p.bar2 + off) % 64) = bs.length := by omega
  have hlines : s.hostLines part (p.bar2 + off) bs crc (bs.length / 64 + 2) = s.hostLine part (p.bar2 + off) bs crc.head? := by
    rw [State.hostLines, if_neg (by simpa using hb)]
    dsimp only
    rw [hk, List.take_length, List.drop_length, hostLines_nil]
  change execHostAccess (.write part off bs crc) s = _
  simp only [execHostAccess, hp, if_neg (Nat.not_lt.2 hs), noByte_none hok, State.hostWrite, hgrant, hlines]
  rfl

end

theorem markAt_none {s : State} {pa n : Nat} (h : ∀ i, i < n → tget none s.mem.marks ((pa + i) / 64) = none) (hn : 0 < n) :
    s.markAt (.phys pa) = none := by
  have := h 0 hn
  rwa [Nat.add_zero] at this

/-- A partial write of unmarked lines without a key puts its bytes home on a page without a seal; without a CRC it poisons the
line of a page with one (27 R450). -/
theorem hostWrite_puts {s : State} {part off : Nat} {p : Partition} {bs : List Byte} (crc : List (BitVec 32)) (hp : look s.parts part = some p)
    (hs : off + bs.length ≤ p.bar2Size)
    (hok : s.PlainBytes (p.bar2 + off) bs.length)
    (hl : (p.bar2 + off) % 64 + bs.length < 64) (hb : bs ≠ []) (hg : s.mem.granted = []) :
    (s.sealedAt part (p.bar2 + off) = none → ∃ t, exec (.hostAccess (.write part off bs crc)) s = .next t ∧
      (∀ i b, bs[i]? = some b → tget 0 t.mem.phys (p.bar2 + off + i) = b) ∧
      ∀ a, a < p.bar2 + off ∨ p.bar2 + off + bs.length ≤ a → tget 0 t.mem.phys a = tget 0 s.mem.phys a) ∧
    ((s.sealedAt part (p.bar2 + off)).isSome = true → crc = [] → ∃ t m, exec (.hostAccess (.write part off bs crc)) s = .next t ∧
      tget none t.mem.marks ((p.bar2 + off) / 64) = some m ∧ m.kind = 2) := by
  have hrun := hostWrite_partial (crc := crc) hp hs hok.present hl hb hg
  rw [hostLine_partial (by omega) (markAt_none hok.unmarked (List.length_pos_iff.2 hb))] at hrun
  refine ⟨fun hse => ?_, fun hse hcrc => ?_⟩
  · rw [hse, if_neg (by rintro ⟨h, -⟩; cases h)] at hrun
    have hphys := hostPut_phys hok.unkeyed
    exact ⟨_, hrun, fun i b hi => hphys ▸ tget_writeB _ _ _ _ _ hi, fun a ha => hphys ▸ tget_writeB_outside _ _ _ _ ha⟩
  · rw [if_pos ⟨hse, by rw [hcrc]; exact Option.some_ne_none _ |>.symm⟩] at hrun
    refine ⟨_, { kind := 2, hop := 1 }, hrun, ?_, rfl⟩
    rw [hostFails_mem]
    exact poison_marks _ _ _

/-! ## Registers and vectors (21 R342, 27 R457) -/

theorem streamReg_reply {s : State} {part str : Nat} {z : Stream} (hz : s.stream part str = some z) (reg : Nat) :
    exec (.hostAccess (.streamReg part str reg)) s = .next { s with outbox := s.outbox ++ [.reply (z.regVal reg)] } := by
  change execHostAccess (.streamReg part str reg) s = _
  simp only [execHostAccess, hz]

theorem vectorEnable_msix {s : State} {fn n : Nat} (hf : fn ≤ 6) (hn : n ≤ 2047) (b : Bool) :
    ∃ t, exec (.hostAccess (.vectorEnable fn n b)) s = .next t ∧ ((fn, n) ∈ t.msix ↔ b = true) ∧
      ∀ p, p ≠ (fn, n) → (p ∈ t.msix ↔ p ∈ s.msix) := by
  refine ⟨{ s with msix := s.msix.filter (· ≠ (fn, n)) ++ (if b then [(fn, n)] else []) }, if_neg (by omega), ?_, fun p hp => ?_⟩
  · cases b <;> simp
  · cases b <;> simp [hp]

theorem bootPowerHost : BootPowerHost := by
  intro img bs nonce l part off n str reg crc p z s
  refine ⟨powerOn_up, powerOn_recovery, fun hb hr => mailTurn_on hb hr _, ⟨_, rfl, rfl, rfl, rfl, rfl, rfl, rfl, rfl, rfl, rfl⟩,
    fun hb => ⟨_, if_pos hb, rfl, rfl, rfl⟩, thermalTrip_hot, fun hl => if_pos (by simpa using hl), thermalResume_hot, thermalResume_cool,
    fun hp => ⟨hostRead_bytes hp, fun hs hok hl hb hg => hostWrite_puts crc hp hs hok hl hb hg, hostRead_beyond hp,
      fun i hi hs h => hostRead_stops hp hi hs h⟩,
    fun hz => ⟨_, streamReg_reply hz reg, ?_⟩, fun hb hr => ⟨?_, ?_, fun hn => ?_⟩, fun hf hn b => vectorEnable_msix hf hn b⟩
  · refine ⟨?_, ?_, ?_, ?_, ?_⟩ <;> (rintro rfl; rfl)
  · change s.mailRead _ _ = _
    exact mailTurn_now hb hr _
  · change s.mailRead _ _ = _
    exact mailTurn_now hb hr _
  · change execHostAccess (.peerNumber n) s = _
    unfold execHostAccess
    exact mailbox_done hb hr (if_neg (mt of_decide_eq_true (Nat.not_lt.2 hn)))

end Sys2Proof.Machine

open Sys2Proof Sys2Proof.Machine

/-- Settles O52: `managementCommands`, `roleMapChanges` and `bootPowerHost`, its three parts. -/
theorem managementAndRoles : Obligations.ManagementAndRoles := ⟨managementCommands, roleMapChanges, bootPowerHost⟩

end

section
/-! PROOF. Results in flight and their landing (03 R48, 05 R77, 07 R118, R119), and element writes of rows (15 R259, R260). -/

namespace Sys2Proof.Machine

open Sys2Proof

/-! ## A result put in flight (03 R48) -/

theorem core_pend_other {s : State} {lat : Nat} {ws : List PWrite} {fl : Fl} {c k : Nat} (h : (c, k) ≠ (s.cur.cl, s.cur.core)) :
    (s.pend lat ws fl).core c k = s.core c k := by
  rw [State.pend, core_tick1, State.modHere, core_modCore, if_neg (by simpa using h)]

/-- Nothing of a cluster but its cores changes. -/
theorem cl_pend (s : State) (lat : Nat) (ws : List PWrite) (fl : Fl) (c : Nat) :
    ∃ ys, (s.pend lat ws fl).cl c = { s.cl c with cores := ys } := by
  rw [State.pend, cl_tick1, State.modHere, State.modCore, State.setCore, cl_setCl]
  split
  · subst_vars; exact ⟨_, rfl⟩
  · exact ⟨_, rfl⟩

theorem resultsInFlight : ResultsInFlight := by
  intro lat ws fl s
  refine ⟨here_pend _ _ _ _, fun _ _ => core_pend_other, fun c => ?_, rfl, rfl, rfl, rfl, rfl, rfl, rfl⟩
  obtain ⟨ys, h⟩ := cl_pend s lat ws fl c
  rw [h]
  exact ⟨rfl, rfl, rfl, rfl, rfl⟩

/-! ## A result that lands (07 R118, R119) -/

/-- Writes of one core's own registers and memories, whose landing is `Core.land` there. -/
def PWrite.ownCore : PWrite → Prop
  | .csr _ _ | .stage _ _ | .tid _ _ | .pool _ _ _ _ => False
  | _ => True

theorem landWrite_own {w : PWrite} (h : w.ownCore) (s : State) (c k : Nat) (p : Pend) :
    s.landWrite c k p w = s.modCore c k (fun y => y.land w) := by
  cases w with
  | csr | stage | tid | pool => exact h.elim
  | _ => rfl

theorem core_landWrite_own {w : PWrite} (h : w.ownCore) (s : State) (c k : Nat) (p : Pend) :
    (s.landWrite c k p w).core c k = (s.core c k).land w := by
  rw [landWrite_own h, core_modCore_same]

theorem view_setView (e : CoreE) {n m : Nat} (v : View) (hn : 2 ≤ n) :
    (e.setView n v).view m = if m = n then v else e.view m := by
  have h0 : n ≠ 0 := by omega
  have h1 : n ≠ 1 := by omega
  rw [CoreE.setView, if_neg h0, if_neg h1]
  by_cases hn18 : n < 18
  · rw [if_pos hn18]
    simp only [CoreE.view, tget_tset]
    grind
  · rw [if_neg hn18]
    simp only [CoreE.view, tget_tset]
    grind

theorem tget_writeCells_mem {t : Tbl Byte} {cs : List (Nat × Byte)} (hd : (cs.map (·.1)).Nodup) {q : Nat × Byte} (hq : q ∈ cs) :
    tget 0 (writeCells t cs) q.1 = q.2 := by
  induction cs generalizing t with
  | nil => cases hq
  | cons c r ih =>
    rw [List.map_cons, List.nodup_cons] at hd
    rcases List.mem_cons.1 hq with rfl | hq
    · rw [writeCells, tget_writeCells_outside _ _ _ hd.1, tget_tset_same]
    · exact ih hd.2 hq

/-- A write of g changes no other field of the core's registers. -/
theorem wG_eq (e : CoreE) (n : Nat) (v : Word) : ∃ g, e.wG n v = { e with g := g } := by
  unfold CoreE.wG
  split
  · exact ⟨_, rfl⟩
  · exact ⟨_, rfl⟩

theorem setView_eq (e : CoreE) (n : Nat) (v : View) : ∃ a b tv av, e.setView n v = { e with vBase := a, svBase := b, tv := tv, av := av } := by
  unfold CoreE.setView
  (repeat' split) <;> exact ⟨_, _, _, _, rfl⟩

/-- What a landing leaves of its core: FLAGS, MODE, TRAP.PC and the streams, the g registers where it is none, the arena where it is none. -/
theorem land_frame {w : PWrite} (h : w.ownCore) (y : Core) :
    (y.land w).e.flags = y.e.flags ∧ (y.land w).e.mode = y.e.mode ∧ (y.land w).e.trapPc = y.e.trapPc ∧ (y.land w).e.q = y.e.q ∧
      ((∀ i u, w ≠ .g i u) → (y.land w).e.g = y.e.g) ∧ ((∀ l i, w ≠ .arena l i) → (y.land w).arena = y.arena) := by
  cases w with
  | csr | stage | tid | pool => exact h.elim
  | g n v =>
    obtain ⟨g, hg⟩ := wG_eq y.e n v
    rw [Core.land, hg]
    exact ⟨rfl, rfl, rfl, rfl, fun h => absurd rfl (h _ _), fun _ => rfl⟩
  | view n v =>
    obtain ⟨a, b, tv, av, hv⟩ := setView_eq y.e n v
    rw [Core.land, hv]
    exact ⟨rfl, rfl, rfl, rfl, fun _ => rfl, fun _ => rfl⟩
  | arena => exact ⟨rfl, rfl, rfl, rfl, fun _ => rfl, fun h => absurd rfl (h _ _)⟩
  | _ => exact ⟨rfl, rfl, rfl, rfl, fun _ => rfl, fun _ => rfl⟩

theorem resultsLand : ResultsLand := by
  intro c k p n m v bv ov kv vw bs cl s on set e land
  have hl (w : PWrite) (h : w.ownCore) : land w = (s.core c k).land w := core_landWrite_own h s c k p
  refine ⟨fun h => if_pos h, fun h => ?_, ?_, ?_, ?_, ?_, ?_, ?_, fun h2 _ _ => ?_, fun a ha => ?_, fun hd b hb => ?_, fun w hw => ?_⟩
  · have : s.landPend c k p = (some _, set) := if_neg h
    rw [this]
    exact ⟨rfl, _, rfl, rfl, rfl, rfl⟩
  · rw [hl (.g n v) trivial]; exact rG_wG _ _ _ _
  · rw [hl (.m n v) trivial]; exact tget_tset _ _ _ _ _
  · rw [hl (.b n bv) trivial]; exact tget_tset _ _ _ _ _
  · rw [hl (.o n ov) trivial]; exact tget_tset _ _ _ _ _
  · rw [hl (.p n v) trivial]; exact tget_tset _ _ _ _ _
  · rw [hl (.k n kv) trivial]; exact tget_tset _ _ _ _ _
  · rw [hl (.view n vw) trivial]; exact view_setView _ _ h2
  · rw [hl (.arena bs cl) trivial]; exact tget_writeCells_outside _ _ _ ha
  · rw [hl (.arena bs cl) trivial]; exact tget_writeCells_mem hd hb
  · have ho : w.ownCore := by
      simp only [List.mem_cons, List.not_mem_nil, or_false] at hw
      rcases hw with rfl | rfl | rfl | rfl | rfl | rfl | rfl | rfl <;> trivial
    refine ⟨landWrite_mem _ _ _ _ _, ?_⟩
    rw [hl w ho]
    exact land_frame ho _

/-! ## Element writes of a row (15 R259, R260) -/

theorem writeCells_append (t : Tbl Byte) (a b : List (Nat × Byte)) : writeCells t (a ++ b) = writeCells (writeCells t a) b := by
  induction a generalizing t with
  | nil => rfl
  | cons c r ih => exact ih _

theorem natOf_append (a b : List Byte) : natOf (a ++ b) = natOf a + 256 ^ a.length * natOf b := by
  induction a with
  | nil => simp [natOf]
  | cons x r ih =>
    rw [List.cons_append, natOf, natOf, ih, List.length_cons, Nat.pow_succ]
    ring

theorem natOf_lt (bs : List Byte) : natOf bs < 256 ^ bs.length := by
  induction bs with
  | nil => simp [natOf]
  | cons x r ih =>
    rw [natOf, List.length_cons, Nat.pow_succ]
    have := x.isLt
    omega

theorem readB_append (t : Tbl Byte) (a n m : Nat) : readB t a (n + m) = readB t a n ++ readB t (a + n) m := by
  induction n generalizing a with
  | zero => simp [readB]
  | succ n ih => rw [Nat.succ_add, readB, readB, ih, List.cons_append, Nat.add_right_comm, Nat.add_assoc]

theorem readB_congr {t u : Tbl Byte} {a n : Nat} (h : ∀ i, i < n → tget 0 t (a + i) = tget 0 u (a + i)) : readB t a n = readB u a n := by
  induction n generalizing a with
  | zero => rfl
  | succ n ih =>
    rw [readB, readB, ih fun i hi => by rw [Nat.add_assoc]; exact h (1 + i) (by omega)]
    congr 1
    exact h 0 (by omega)

theorem readB_writeB (t : Tbl Byte) (a : Nat) (bs : List Byte) : readB (writeB t a bs) a bs.length = bs := by
  refine List.ext_getElem? fun i => ?_
  by_cases hi : i < bs.length
  · rw [readB_get _ _ _ _ hi, List.getElem?_eq_getElem hi, tget_writeB _ _ _ _ _ (List.getElem?_eq_getElem hi)]
  · rw [List.getElem?_eq_none (by rw [readB_length]; omega), List.getElem?_eq_none (by omega)]

/-- Element e of whole bytes is what stands in its bytes. -/
theorem elem_readB (t : Tbl Byte) (base : Nat) {n e len : Nat} (h : n * e + n ≤ len) :
    elem (8 * n) (natOf (readB t base len)) e = natOf (readB t (base + n * e) n) := by
  obtain ⟨k, rfl⟩ := Nat.exists_eq_add_of_le h
  have hp : (2 : Nat) ^ (8 * n * e) = 256 ^ (n * e) := by rw [Nat.mul_assoc, Nat.pow_mul]
  have hw : (2 : Nat) ^ (8 * n) = 256 ^ n := by rw [Nat.pow_mul]
  have hlt (a m : Nat) : natOf (readB t a m) < 256 ^ m := by simpa [readB_length] using natOf_lt (readB t a m)
  rw [elem, hp, hw, Nat.add_assoc, readB_append, readB_append, natOf_append, natOf_append, readB_length, readB_length,
    Nat.add_mul_div_left _ _ (Nat.pow_pos (by omega)), Nat.div_eq_of_lt (hlt _ _), Nat.zero_add, Nat.add_mul_mod_self_left,
    Nat.mod_eq_of_lt (hlt _ _)]

/-- One element of n bytes, then the others. -/
theorem writeCells_elemCells (t : Tbl Byte) (base n e v : Nat) (r : List (Nat × Nat)) :
    writeCells t (elemCells base (8 * n) ((e, v) :: r)) =
      writeCells (writeB t (base + n * e) (bytesOf n v)) (elemCells base (8 * n) r) := by
  have hd : e * (8 * n) / 8 = n * e := by
    rw [show e * (8 * n) = 8 * (n * e) by ring]
    exact Nat.mul_div_cancel_left _ (by omega)
  rw [elemCells, writeCells_append, writeCells_cells, hd, Nat.mul_div_cancel_left _ (by omega)]

/-- A byte of none of the elements stays. -/
theorem tget_elemCells_outside {base n : Nat} {l : List (Nat × Nat)} {t : Tbl Byte} {i : Nat}
    (h : ∀ p ∈ l, i < base + n * p.1 ∨ base + n * p.1 + n ≤ i) : tget 0 (writeCells t (elemCells base (8 * n) l)) i = tget 0 t i := by
  induction l generalizing t with
  | nil => rfl
  | cons p r ih =>
    obtain ⟨e, v⟩ := p
    rw [writeCells_elemCells, ih fun q hq => h q (List.mem_cons_of_mem _ hq)]
    refine tget_writeB_outside _ _ _ _ ?_
    rw [bytesOf_length]
    exact h (e, v) List.mem_cons_self

/-- The bytes of another element lie apart. -/
theorem elem_apart {n a b i : Nat} (h : a ≠ b) (hi : i < n) (base : Nat) : base + n * a + i < base + n * b ∨ base + n * b + n ≤ base + n * a + i := by
  rcases Nat.lt_or_gt_of_ne h with h | h
  · have := Nat.mul_le_mul_left n (Nat.succ_le_of_lt h)
    rw [Nat.mul_succ] at this
    omega
  · have := Nat.mul_le_mul_left n (Nat.succ_le_of_lt h)
    rw [Nat.mul_succ] at this
    omega

theorem readB_elemCells_other {base n e : Nat} {l : List (Nat × Nat)} (t : Tbl Byte) (h : e ∉ l.map (·.1)) :
    readB (writeCells t (elemCells base (8 * n) l)) (base + n * e) n = readB t (base + n * e) n := by
  refine readB_congr fun i hi => tget_elemCells_outside fun p hp => elem_apart ?_ hi base
  rintro rfl
  exact h (List.mem_map_of_mem hp)

theorem readB_elemCells_mem {base n : Nat} {l : List (Nat × Nat)} {t : Tbl Byte} (hd : (l.map (·.1)).Nodup) {p : Nat × Nat} (hp : p ∈ l) :
    readB (writeCells t (elemCells base (8 * n) l)) (base + n * p.1) n = bytesOf n p.2 := by
  induction l generalizing t with
  | nil => cases hp
  | cons q r ih =>
    obtain ⟨e, v⟩ := q
    rw [List.map_cons, List.nodup_cons] at hd
    rw [writeCells_elemCells]
    rcases List.mem_cons.1 hp with rfl | hp
    · rw [readB_elemCells_other _ hd.1]
      simpa [bytesOf_length] using readB_writeB t (base + n * e) (bytesOf n v)
    · exact ih hd.2 hp

theorem elementWriteLands : ElementWriteLands := by
  intro t base w l hw hd hl u
  obtain ⟨n, rfl, hn⟩ : ∃ n, w = 8 * n ∧ n ∣ 256 ∧ 2048 / w = 256 / n := by
    rcases hw with rfl | rfl | rfl | rfl
    · exact ⟨1, rfl, by decide, rfl⟩
    · exact ⟨2, rfl, by decide, rfl⟩
    · exact ⟨4, rfl, by decide, rfl⟩
    · exact ⟨8, rfl, by decide, rfl⟩
  obtain ⟨hdvd, hcount⟩ := hn
  have hin {e : Nat} (he : e < 2048 / (8 * n)) : n * e + n ≤ 256 := by
    rw [hcount] at he
    have := Nat.mul_le_mul_left n (Nat.succ_le_of_lt he)
    rwa [Nat.mul_succ, Nat.mul_div_cancel' hdvd] at this
  refine ⟨fun p hp => ?_, fun e he hne => ?_, fun i hi => ?_⟩
  · rw [elem_readB _ _ (hin (hl p hp)), readB_elemCells_mem hd hp, natOf_bytesOf, Nat.pow_mul]
  · rw [elem_readB _ _ (hin he), elem_readB _ _ (hin he), readB_elemCells_other _ hne]
  · refine tget_elemCells_outside fun p hp => ?_
    have := hin (hl p hp)
    omega

end Sys2Proof.Machine

open Sys2Proof Sys2Proof.Machine

/-- Settles O58: `resultsInFlight`, `resultsLand` and `elementWriteLands`, its three parts. -/
theorem resultsInFlightAndLanding : Obligations.ResultsInFlightAndLanding := ⟨resultsInFlight, resultsLand, elementWriteLands⟩

end

section
/-! PROOF. Control registers (05 R78, 27 R440, 17 R283, R284, log entries 1, 17, 34). -/

namespace Sys2Proof.Machine

open Sys2Proof

/-! ## Which registers there are, and who may access them (05 R78) -/

theorem csrExists_iff (s : State) (n : Nat) : csrExists n = true ↔ n ∈ (csrTable s).map (·.1) := by
  simp only [csrExists, csrTable, List.map_append, List.map_map, List.map_cons, List.map_nil, List.mem_append, List.mem_cons,
    List.not_mem_nil, or_false, List.mem_map, List.mem_range, Function.comp_apply, Bool.or_eq_true, Bool.and_eq_true, beq_iff_eq,
    decide_eq_true_eq]
  constructor
  · intro h
    by_cases hr : 8 ≤ n ∧ n < 14
    · exact .inr ⟨n - 8, by omega, by omega⟩
    · exact .inl (by omega)
  · rintro (h | ⟨i, hi, rfl⟩) <;> omega

theorem csrTask_read (n : Nat) : (csrTask n).1 = decide (n ∉ csrHidden) := by
  unfold csrTask csrHidden
  simp only [List.mem_cons, List.not_mem_nil, or_false]
  split
  · simp; omega
  · split <;> simp [*]

theorem csrTask_write (n : Nat) : (csrTask n).2 = decide (n = 0x001 ∨ n = 0x002) := by
  unfold csrTask
  split
  · simp [*]
  · split <;> simp [*]

theorem csrFixed_eq (n : Nat) : csrFixed n = decide (n ∈ csrConst) := by
  rw [Bool.eq_iff_iff, decide_eq_true_iff]
  simp only [csrFixed, csrConst, List.mem_cons, List.not_mem_nil, or_false, Bool.or_eq_true, Bool.and_eq_true, beq_iff_eq, decide_eq_true_eq]
  omega

theorem csrReason_absent {n : Nat} (h : csrExists n = false) (wr mode : Bool) : csrReason wr mode n = some 22 := by
  simp [csrReason, h]

theorem csrReason_read {n : Nat} {mode : Bool} (h : csrExists n = true) (ho : mode = true ∨ n ∉ csrHidden) : csrReason false mode n = none := by
  rcases ho with rfl | ho
  · simp [csrReason, h]
  · simp [csrReason, h, csrTask_read, ho]

theorem csrReason_hidden {n : Nat} (h : n ∈ csrHidden) : csrReason false false n = some 23 := by
  have hx : csrExists n = true := by
    simp only [csrHidden, List.mem_cons, List.not_mem_nil, or_false] at h
    rcases h with rfl | rfl | rfl | rfl | rfl <;> rfl
  simp [csrReason, hx, csrTask_read, h]

theorem csrReason_write {n : Nat} {mode : Bool} (h : csrExists n = true) (hc : n ∉ csrConst) (ho : mode = true ∨ n = 0x001 ∨ n = 0x002) :
    csrReason true mode n = none := by
  rcases ho with rfl | ho
  · simp [csrReason, h, csrFixed_eq, hc]
  · simp [csrReason, h, csrFixed_eq, hc, csrTask_write, ho]

theorem csrReason_const {n : Nat} (h : csrExists n = true) (hc : n ∈ csrConst) : csrReason true true n = some 22 := by
  simp [csrReason, h, csrFixed_eq, hc]

theorem csrReason_task {n : Nat} (h : csrExists n = true) (h1 : n ≠ 0x001) (h2 : n ≠ 0x002) : csrReason true false n = some 23 := by
  simp [csrReason, h, csrTask_write, h1, h2]

theorem csrConst_exists {n : Nat} (h : n ∈ csrConst) : csrExists n = true := by
  simp only [csrConst, List.mem_cons, List.not_mem_nil, or_false] at h
  rcases h with rfl | rfl | rfl | rfl | rfl | rfl | rfl | rfl | rfl | rfl <;> rfl

/-! ## Reads (27 R440, 05 R458) -/

theorem csrRead_index {s : State} {i : Nat} (h : i < 6) : s.csrRead (8 + i) = (s.me.li i).zeroExtend 64 := by
  interval_cases i <;> rfl

theorem csrRead_of_mem {s : State} {n : Nat} {v : Word} (h : (n, v) ∈ csrTable s) : s.csrRead n = v := by
  unfold csrTable at h
  rcases List.mem_append.1 h with h | h
  · simp only [List.mem_cons, List.not_mem_nil, or_false, Prod.mk.injEq] at h
    rcases h with ⟨rfl, rfl⟩ | ⟨rfl, rfl⟩ | ⟨rfl, rfl⟩ | ⟨rfl, rfl⟩ | ⟨rfl, rfl⟩ | ⟨rfl, rfl⟩ | ⟨rfl, rfl⟩ | ⟨rfl, rfl⟩ | ⟨rfl, rfl⟩ |
      ⟨rfl, rfl⟩ | ⟨rfl, rfl⟩ | ⟨rfl, rfl⟩ | ⟨rfl, rfl⟩ | ⟨rfl, rfl⟩ | ⟨rfl, rfl⟩ | ⟨rfl, rfl⟩ | ⟨rfl, rfl⟩ | ⟨rfl, rfl⟩ <;> rfl
  · obtain ⟨i, hi, he⟩ := List.mem_map.1 h
    obtain ⟨rfl, rfl⟩ := Prod.mk.inj he
    rw [List.mem_range] at hi
    rw [csrRead_index hi, Seq.li]
    cases s.me.loops[i]? <;> rfl

theorem csrr_next {s : State} {n : BitVec 12} (d : Reg) (h : csrReason false s.e.mode n.toNat = none) :
    exec (.csrr d n) s = .next (s.wrG d (s.csrRead n.toNat) 2) := by
  change execCsrr d n s = _
  rw [execCsrr, h]
  rfl

theorem csrr_refused {s : State} {n : BitVec 12} {r : Nat} (d : Reg) (h : csrReason false s.e.mode n.toNat = some r) :
    exec (.csrr d n) s = .next (s.raise (s.illegal r)) := by
  change execCsrr d n s = _
  rw [execCsrr, h]
  rfl

theorem toNat_append_mul {m n : Nat} (x : BitVec m) (y : BitVec n) : (x ++ y).toNat = x.toNat * 2 ^ n + y.toNat := by
  rw [BitVec.toNat_append, ← Nat.shiftLeft_add_eq_or_of_lt y.isLt, Nat.shiftLeft_eq]

/-- The fields of PLACE, whose bits lie apart. -/
theorem place_fields (p c k : Nat) (sec : Bool) (hp : p < 8) (hc : c < 256) (hk : k < 8) :
    wordN (2 ^ 32 * p + 2 ^ 16 * c + (if sec then 8 else 0) + k) =
      (0 : BitVec 29) ++ BitVec.ofNat 3 p ++ BitVec.ofNat 16 c ++ (0 : BitVec 12) ++ BitVec.ofBool sec ++ BitVec.ofNat 3 k := by
  refine BitVec.eq_of_toNat_eq ?_
  have hz : (BitVec.ofBool sec).toNat = if sec then 1 else 0 := by cases sec <;> rfl
  have h0 (n : Nat) : (0 : BitVec n).toNat = 0 := by simp
  simp only [toNat_append_mul, hz, h0, wordN, BitVec.toNat_ofNat]
  split <;> omega

theorem controlRegisterReads : ControlRegisterReads := by
  intro d n s bad
  refine ⟨fun v hv ho => ?_, fun h => ?_, fun hn hm => ?_, fun hk x hx hp => ?_⟩
  · have hx : csrExists n.toNat = true := (csrExists_iff s _).2 (List.mem_map_of_mem (f := (·.1)) hv)
    rw [csrr_next d (csrReason_read hx ho), csrRead_of_mem hv]
  · refine csrr_refused d (csrReason_absent ?_ _ _)
    rw [Bool.eq_false_iff, Ne, csrExists_iff s, List.mem_map]
    exact fun ⟨p, hp, he⟩ => h p hp he
  · exact csrr_refused d (by rw [hm, csrReason_hidden hn])
  · have hpart : s.partOfCtx s.hereCtxId = x.part := by
      unfold State.hereCtx State.ctxOf at hx
      unfold State.partOfCtx State.hereCtxId
      cases hc : (s.cl s.cur.cl).ctx with
      | none => rw [hc] at hx; cases hx
      | some i =>
      rw [hc] at hx
      change look s.ctxs i = some x at hx
      simp only [Option.getD_some, hx]
    rw [State.place, hpart]
    exact place_fields _ _ _ _ hp (Nat.mod_lt _ (by omega)) hk

/-! ## Writes at issue (27 R440, 17 R283, R284) -/

theorem spillOk_iff (sp li : Nat) : spillOk sp li = true ↔ sp = 0 ∧ li = 0 ∨ sp % 0x10000 = 0 ∧ li % 0x10000 = 0 ∧ sp + 0x10000 ≤ li ∧
    li - sp ≤ 2 ^ 34 ∧ 0x8000000000 ≤ sp ∧ li ≤ 0xFFFFFFFFFF := by
  simp [spillOk, and_assoc]

theorem stackOk_iff (e : CoreE) (top base : Nat) :
    e.stackOk top base = true ↔ top % 16 = 0 ∧ base % 16 = 0 ∧ top ≤ base ∧ base ≤ e.rsLimit - e.rsSpill := by
  simp only [CoreE.stackOk, Bool.and_eq_true, decide_eq_true_eq, and_assoc]
  rfl

theorem rsWriteOk_iff (e : CoreE) (k v : Nat) : e.rsWriteOk k v = true ↔
    (k = 0x020 → e.stackOk v e.rsBase = true) ∧ (k = 0x021 → e.stackOk e.rsTop v = true) ∧
    (k = 0x022 → spillOk v e.rsLimit = true) ∧ (k = 0x023 → spillOk e.rsSpill v = true) := by
  unfold CoreE.rsWriteOk
  split <;> simp_all

theorem csrWrite_next {s : State} {k : Nat} {d : Reg} (h : csrReason true s.e.mode k = none) (hv : s.e.rsWriteOk k (s.g d).toNat = true) :
    s.csrWrite k d = .next (s.pend 1 [.csr k (s.g d)]) := by
  rw [State.csrWrite, State.chkCsrw, h, hv]
  rfl

theorem csrWrite_refused {s : State} {k r : Nat} (d : Reg) (h : csrReason true s.e.mode k = some r) :
    s.csrWrite k d = .next (s.raise (s.illegal r)) := by
  rw [State.csrWrite, State.chkCsrw, h]
  rfl

theorem csrWrite_breaks {s : State} {k : Nat} {d : Reg} (h : csrReason true s.e.mode k = none) (hv : s.e.rsWriteOk k (s.g d).toNat = false) :
    s.csrWrite k d = .next (s.raise (s.illegal 22)) := by
  rw [State.csrWrite, State.chkCsrw, h, hv]
  rfl

theorem controlRegisterWrites : ControlRegisterWrites := by
  intro d n l s v e bad region stack keeps wr
  have hkeeps (k : Nat) : e.rsWriteOk k v.toNat = true ↔ keeps k := by
    simp only [rsWriteOk_iff, stackOk_iff, spillOk_iff]
    exact Iff.rfl
  have all {i : Instr} {k : Nat} (hi : exec i s = s.csrWrite k d) : wr i k := by
    simp only [wr, hi, ← csrExists_iff]
    refine ⟨fun hx hc ho hk => csrWrite_next (csrReason_write hx hc ho) ((hkeeps k).2 hk), fun hc hm => ?_, fun hx h1 h2 hm => ?_,
      fun hx => ?_, fun hx hc hm hk => ?_⟩
    · exact csrWrite_refused d (by rw [hm, csrReason_const (csrConst_exists hc) hc])
    · exact csrWrite_refused d (by rw [hm, csrReason_task hx h1 h2])
    · exact csrWrite_refused d (csrReason_absent (Bool.eq_false_iff.2 hx) _ _)
    · exact csrWrite_breaks (csrReason_write hx hc (.inl hm)) (Bool.eq_false_iff.2 fun h => hk ((hkeeps k).1 h))
  exact ⟨all rfl, all rfl, all rfl, all rfl, all rfl⟩

/-! ## Landings (27 R440, log entries 17, 34) -/

/-- A csrw of MODE changes bit 10 of TRAP.CAUSE alone. -/
theorem modeBit_bits (t v : Word) (i : Nat) :
    ((t &&& ~~~(0x400 : Word)) ||| ((v &&& 1) <<< 10)).getLsbD i = if i = 10 then v.getLsbD 0 else t.getLsbD i := by
  have h400 : (0x400 : Word) = BitVec.twoPow 64 10 := rfl
  have h1 : (1 : Word) = BitVec.twoPow 64 0 := rfl
  rw [h400, h1]
  by_cases hi : i < 64
  · by_cases h10 : i = 10
    · subst h10; simp
    · by_cases hlt : i < 10
      · simp [hi, h10, hlt]
      · simp [hi, h10, hlt]; omega
  · rw [BitVec.getLsbD_of_ge _ _ (by omega), BitVec.getLsbD_of_ge t i (by omega), if_neg (by omega)]

theorem core_modCl_kept {s : State} {c : Nat} {f : Cluster → Cluster} (h : (f (s.cl c)).cores = (s.cl c).cores) (b k : Nat) :
    (s.modCl c f).core b k = s.core b k := by
  rw [State.core, cl_modCl]
  split
  · subst_vars; exact congrArg (fun t => tget {} t k) h
  · rfl

theorem controlRegisterLandings : ControlRegisterLandings := by
  intro c k v s e sets
  refine ⟨rfl, rfl, rfl, rfl, rfl, rfl, rfl, rfl, rfl, rfl, ⟨_, rfl, ?_, fun i hi => ?_⟩, ?_, fun x i hc hx => ?_, fun hv => ?_, fun hv => ?_⟩
  · exact modeBit_bits e.trapCause v 10
  · exact (modeBit_bits e.trapCause v i).trans (if_neg hi)
  · intro t
    have hcl : t.cl c = { s.cl c with e := { (s.cl c).e with stage0 := v.truncate 32, stage1 := (v >>> 32).truncate 32 } } := by
      change (s.modCl c _).cl c = _
      rw [cl_modCl, if_pos rfl]
    rw [hcl]
    refine ⟨?_, ?_, core_modCl_kept rfl _ _, rfl⟩
    · ext i hi; simp
    · ext i hi; simp
  · intro t
    have ht : t = s.modCtx i (fun x => { x with tidBase := v.truncate 52 }) := by
      change s.modCtx (((s.cl c).ctx).getD 0) _ = _
      rw [hc]
      rfl
    have hb : (v.truncate 52 : BitVec 52) = v.extractLsb' 0 52 := by ext j hj; simp
    refine ⟨?_, fun j hj => ?_, ?_⟩
    · rw [ht, look_modCtx, if_pos rfl, hx, hb]; rfl
    · rw [ht, look_modCtx, if_neg hj]
    · rw [ht, State.modCtx, hx]
  · intro t
    have ht : t = { s with clock := { s.clock with state := v.truncate 2 } } := if_pos hv
    rw [ht]
    refine ⟨?_, rfl⟩
    simp only [BitVec.truncate_eq_setWidth, BitVec.toNat_setWidth]
    omega
  · exact if_neg (by omega)

end Sys2Proof.Machine

open Sys2Proof Sys2Proof.Machine

/-- Settles O38: `controlRegisterReads`, `controlRegisterWrites` and `controlRegisterLandings`, its three parts. -/
theorem controlRegisters : Obligations.ControlRegisters := ⟨controlRegisterReads, controlRegisterWrites, controlRegisterLandings⟩

end

section
/-! PROOF. Pops of the drain queues (19 R333 to R335). -/

namespace Sys2Proof.Machine

open Sys2Proof

theorem chkScratchAll_none {as : List Nat} {n align : Nat} (h : ∀ a ∈ as, ScratchOk a n align) : chkScratchAll as n align = none := by
  have hr : as.find? (fun a => decide (0x400000 < a + n)) = none :=
    List.find?_eq_none.2 fun a ha => by simpa using (h a ha).1
  have ha : as.find? (fun a => decide (a % align ≠ 0)) = none :=
    List.find?_eq_none.2 fun a ha => by simpa using (h a ha).2
  rw [chkScratchAll, hr, ha]
  rfl

section
variable {s : State} {q : BitVec 2}

/-! ## What a pop does -/

theorem dqpop_next (d : Reg) {w : Word} (hw : s.dqHead q.toNat = some w) : exec (.dqpop d q) s = .next ((s.dropHead q.toNat).wrG d w 2) := by
  change execDqpop d q s = _
  rw [execDqpop, hw]

theorem dqst_next (b : Reg) {w : Word} (hw : s.dqHead q.toNat = some w)
    (hok : ∀ y ∈ s.dqstRows w b, ScratchOk y.1 (dqstRb w) 16 ∧ ∀ i, i < dqstRb w → tget false s.here.arenaBad (y.2 + i) = false) :
    exec (.dqst q b) s = .next ((s.dropHead q.toNat).landAt (4 + s.cur.wbeats)
      ((s.dqstRows w b).flatMap (fun y => cells y.1 (readB s.here.arena y.2 (dqstRb w))))) := by
  have hc : firstTrap (chkScratchAll ((s.dqstRows w b).map (·.1)) (dqstRb w) 16 ::
      (s.dqstRows w b).map (fun p => s.chkArena p.2 (dqstRb w))) = none := by
    refine firstTrap_eq_none.2 fun x hx => ?_
    rcases List.mem_cons.1 hx with rfl | hx
    · refine chkScratchAll_none fun a ha => ?_
      obtain ⟨y, hy, rfl⟩ := List.mem_map.1 ha
      exact (hok y hy).1
    · obtain ⟨y, hy, rfl⟩ := List.mem_map.1 hx
      exact (chkArena_eq_none _ _ _).2 (hok y hy).2
  change execDqst q b s = _
  simp only [execDqst, hw, hc, checked_none, List.flatMap_def]

/-! ## The head of a queue, and pops that find none -/

/-- With no earlier pop of the bundle under test the queue stands whole. -/
theorem dqRest_whole {s : State} {q : Nat} (h : q ∉ s.cur.pops) : s.dqRest q = s.queue q := by
  have hp : s.cur.pops.filter (· == q) = [] := List.filter_eq_nil_iff.2 fun x hx he => h (beq_iff_eq.1 he ▸ hx)
  rw [State.dqRest, hp]
  rfl

variable (h : q.toNat ∉ s.cur.pops)
include h

theorem dqHead_pushed {e : DqEntry} {rest : List DqEntry} {w : Word} (hq : s.queue q.toNat = e :: rest) (hw : e.desc = some w)
    (ht : e.at_ < s.cycle) : s.dqHead q.toNat = some w := by
  rw [State.dqHead, dqRest_whole h, hq]
  exact (if_pos ht).trans hw

theorem dqHead_awaited {e : DqEntry} {rest : List DqEntry} (hq : s.queue q.toNat = e :: rest) (hw : e.desc = none ∨ s.cycle ≤ e.at_) :
    s.dqHead q.toNat = none := by
  rw [State.dqHead, dqRest_whole h, hq]
  rcases hw with hw | ht
  · simp only [hw, ite_self]
  · exact if_neg (by omega)

theorem dqHead_empty (hq : s.queue q.toNat = []) : s.dqHead q.toNat = none := by
  rw [State.dqHead, dqRest_whole h, hq]

theorem pop_underflows {i : Instr} {d b : Reg} (hi : i = .dqpop d q ∨ i = .dqst q b) (hq : s.queue q.toNat = []) :
    exec i s = .next (s.raise (s.dqTrap q.toNat 32)) := by
  have hu : s.chkUnder q.toNat = some (s.dqTrap q.toNat 32) := by rw [State.chkUnder, hq]; rfl
  rcases hi with rfl | rfl
  · change execDqpop d q s = _
    rw [execDqpop, dqHead_empty h hq, hu]
    rfl
  · change execDqst q b s = _
    rw [execDqst, dqHead_empty h hq, hu]
    rfl

/-- A pop stalls where the queue holds an entry and its head is not there yet (03 R53). -/
theorem pop_stalls {i : Instr} {d b : Reg} (hi : i = .dqpop d q ∨ i = .dqst q b) (hq : s.queue q.toNat ≠ []) (hn : s.dqHead q.toNat = none) :
    s.opStalls i = true := by
  have hw : (!(s.dqRest q.toNat).isEmpty && (s.dqHead q.toNat).isNone) = true := by
    rw [dqRest_whole h, hn]
    simpa using hq
  rcases hi with rfl | rfl
  · exact (congrArg _ hw).trans (Bool.or_true _)
  · exact (congrArg _ hw).trans (Bool.or_true _)

end

end Sys2Proof.Machine

open Sys2Proof Sys2Proof.Machine

/-- Settles O60, by the head that the queue shows. -/
theorem queuePops : Obligations.QueuePops := by
  intro q d b s h gone
  refine ⟨fun e rest w hq hw ht => ⟨dqpop_next d (dqHead_pushed h hq hw ht), ?_⟩, fun e rest hq hw => ?_,
    fun hq i hi => pop_underflows h hi hq⟩
  · intro tv rb rows hok
    have hrows : rows = s.dqstRows w b := by
      rw [State.dqstRows, map_span]
      simp only [Nat.zero_add]
      rfl
    rw [hrows] at hok ⊢
    exact dqst_next b (dqHead_pushed h hq hw ht) hok
  · have hne : s.queue q.toNat ≠ [] := fun h0 => List.cons_ne_nil _ _ (hq.symm.trans h0)
    have hn := dqHead_awaited h hq hw
    exact ⟨pop_stalls h (d := d) (b := b) (.inl rfl) hne hn, pop_stalls h (d := d) (b := b) (.inr rfl) hne hn⟩

end

section
/-! PROOF. Privilege (27 R438, R439), halts, views and tensor identifiers (27 R441 to R443, 15 R258). -/

namespace Sys2Proof.Machine

open Sys2Proof

/-! ## The return from a trap (27 R438) -/

theorem restoreCk_eq (e : CoreE) (b : Bool) (ck : Ckpt) : e.restoreCk b ck =
    { e with rsTop := if b then ck.rsTop else e.rsTop, mark := if b then ck.mark else e.mark, o := if b then ck.o else e.o } := by
  cases b <;> rfl

/-- A sequencer as `CoreE.leave` brings it back, before TRAP.PC is set on the trapping one. -/
def CoreE.backSeq (e : CoreE) (cycle : Nat) (asked z : Bool) : Seq :=
  let q := e.sq z
  if q.savedRunning then { (q.resumeAt q.saved cycle) with ckpt := q.saved, running := true, bWritten := q.bWritten }
  else
    let r := if z == e.trapSec && q.savedPaused then q.resumeAt q.saved cycle else q
    let p : Seq := { r with ckpt := q.saved, running := false, preempted := q.savedPaused, savedPaused := false }
    if asked then p else p.unpause cycle

/-- The core on its way back, before TRAP.PC is set on the trapping sequencer. -/
def CoreE.backBoth (e : CoreE) (cycle : Nat) (asked : Bool) : CoreE :=
  let b := e.prim.savedRunning || (false == e.trapSec && e.prim.savedPaused)
  { e with
    rsTop := if b then e.prim.saved.rsTop else e.rsTop, mark := if b then e.prim.saved.mark else e.mark
    o := if b then e.prim.saved.o else e.o, mode := e.trapCause.getLsbD 10
    prim := e.backSeq cycle asked false, second := e.backSeq cycle asked true }

theorem backBoth_sq (e : CoreE) (cycle : Nat) (asked z : Bool) : (e.backBoth cycle asked).sq z = e.backSeq cycle asked z := by
  cases z <;> rfl

theorem leave_eq (e : CoreE) (cycle : Nat) (asked : Bool) : e.leave cycle asked = (e.backBoth cycle asked).setSq e.trapSec
    { e.backSeq cycle asked e.trapSec with
      pc := e.trapPc.truncate 52, ckpt := { (e.backSeq cycle asked e.trapSec).ckpt with pc := e.trapPc.truncate 52 } } := by
  rw [← backBoth_sq]
  unfold CoreE.leave
  simp only [restoreCk_eq]
  rfl

theorem leave_sq (e : CoreE) (cycle : Nat) (asked z : Bool) : (e.leave cycle asked).sq z =
    if z = e.trapSec then { e.backSeq cycle asked z with
      pc := e.trapPc.truncate 52, ckpt := { (e.backSeq cycle asked z).ckpt with pc := e.trapPc.truncate 52 } }
    else e.backSeq cycle asked z := by
  rw [leave_eq, setSq_sq, backBoth_sq]
  split
  · subst_vars; rfl
  · rfl

/-- What the return leaves of the core's other registers. -/
theorem leave_regs (e : CoreE) (cycle : Nat) (asked : Bool) :
    let f := e.leave cycle asked
    f.mode = e.trapCause.getLsbD 10 ∧ f.trapCause = e.trapCause ∧ f.trapPc = e.trapPc ∧ f.trapInfo = e.trapInfo ∧ f.trapAddr = e.trapAddr ∧
      f.g = e.g ∧ (e.prim.savedRunning = true → f.rsTop = e.prim.saved.rsTop ∧ f.mark = e.prim.saved.mark ∧ f.o = e.prim.saved.o) := by
  simp only [leave_eq, setSq_mode, setSq_trapCause, setSq_trapPc, setSq_trapInfo, setSq_trapAddr, setSq_g, setSq_rsTop, setSq_mark, setSq_o]
  refine ⟨rfl, rfl, rfl, rfl, rfl, rfl, fun h => ?_⟩
  simp only [CoreE.backBoth, h, Bool.true_or, if_true, and_self]

theorem unpause_running (q : Seq) (cycle : Nat) (h : q.running = false) : (q.unpause cycle).running = q.preempted := by
  unfold Seq.unpause
  split
  · next hp => exact hp.symm
  · next hp => rw [h, Bool.eq_false_iff.2 hp]

theorem backSeq_running (e : CoreE) (cycle : Nat) (asked z : Bool) :
    (e.backSeq cycle asked z).running = ((e.sq z).savedRunning || ((e.sq z).savedPaused && !asked)) := by
  unfold CoreE.backSeq
  dsimp only
  split
  · next h => rw [h]; rfl
  · next h =>
    rw [Bool.eq_false_iff.2 h, Bool.false_or]
    cases asked
    · exact (unpause_running _ _ rfl).trans (Bool.and_true _).symm
    · exact (Bool.and_false _).symm

theorem backSeq_resumed {e : CoreE} {z : Bool} (h : (e.sq z).savedRunning = true) (cycle : Nat) (asked : Bool) :
    e.backSeq cycle asked z = { ((e.sq z).resumeAt (e.sq z).saved cycle) with
      ckpt := (e.sq z).saved, running := true, bWritten := (e.sq z).bWritten } := if_pos h

/-- The engines that go on change no core. -/
theorem resumeEngines_core (s : State) (c k : Nat) : s.resumeEngines.core c k = s.core c k := by
  have one (t : State) (n : Nat) (b : Bool) : (if b then t.modCe s.cur.cl n (fun e => { e with stopped := false }) else t).core c k = t.core c k := by
    split
    · exact core_modCl_kept (s := t) (f := fun x => { x with e := x.e.setCe n { x.e.ce n with stopped := false } }) rfl c k
    · rfl
  have clear (t : State) (l : List Xfer) :
      ({ t.modCl s.cur.cl (fun x => { x with e := x.e.clearSpill s.e }) with xfers := l } : State).core c k = t.core c k :=
    core_modCl_kept (s := t) (f := fun x => { x with e := x.e.clearSpill s.e }) rfl c k
  unfold State.resumeEngines
  exact (clear _ _).trans ((one _ _ _).trans (one _ _ _))

theorem resumeEngines_cur (s : State) : s.resumeEngines.cur = s.cur := by
  have one (t : State) (n : Nat) (b : Bool) (f : CopyEng → CopyEng) : (if b then t.modCe s.cur.cl n f else t).cur = t.cur := by
    split <;> rfl
  unfold State.resumeEngines
  exact (one _ _ _ _).trans (one _ _ _ _)

/-- The state after an eret that passes its checks. -/
def State.returned (s : State) : State :=
  ((s.modHereE (fun e => e.leave s.cycle (s.preemptPending s.cur.cl))).modMe (fun q => { q with taken := true })).resumeEngines

theorem eret_next {s : State} (hm : s.e.mode = true) (ha : s.e.trapPc.toNat % 4 = 0) : exec .eret s = .next s.returned := by
  have hp : s.chkPriv = none := by rw [State.chkPriv, hm]; rfl
  change execEret s = _
  simp only [execEret, hp, ha, ne_eq, not_true_eq_false, decide_false, trapIf_false, firstTrap_none, firstTrap_nil, checked_none, State.returned]

theorem e_modHereE_modMe (s : State) (f : CoreE → CoreE) (g : Seq → Seq) :
    ((s.modHereE f).modMe g).e = (f s.e).setSq s.cur.sec (g ((f s.e).sq s.cur.sec)) := by
  rw [e_modMe, State.me, e_modHereE]
  rfl

theorem returned_e (s : State) : s.returned.e = (s.e.leave s.cycle (s.preemptPending s.cur.cl)).setSq s.cur.sec
    { (s.e.leave s.cycle (s.preemptPending s.cur.cl)).sq s.cur.sec with taken := true } := by
  rw [State.returned, State.e, State.here, resumeEngines_cur, resumeEngines_core]
  exact e_modHereE_modMe _ _ _

theorem trapReturn : TrapReturn := by
  intro s hm ha
  have he := returned_e s
  have hsq (z : Bool) : ∃ b, s.returned.e.sq z = { (s.e.leave s.cycle (s.preemptPending s.cur.cl)).sq z with taken := b } := by
    rw [he, setSq_sq]
    by_cases hz : z = s.cur.sec
    · rw [if_pos hz, ← hz]; exact ⟨_, rfl⟩
    · rw [if_neg hz]; exact ⟨_, rfl⟩
  obtain ⟨hmode, hcause, hpc, hinfo, haddr, hg, hprim⟩ := leave_regs s.e s.cycle (s.preemptPending s.cur.cl)
  refine ⟨s.returned, eret_next hm ha, ?_, fun z => ?_, ?_, ?_, ?_, ?_, ?_, ?_, ?_⟩
  · rw [he, setSq_mode, hmode]
  · obtain ⟨b, hz⟩ := hsq z
    rw [hz, leave_sq]
    refine ⟨?_, fun hr => ?_⟩
    · rw [← backSeq_running s.e s.cycle]
      split <;> rfl
    · rw [backSeq_resumed hr]
      by_cases h : z = s.e.trapSec
      · rw [if_pos h, if_pos h]; exact ⟨rfl, rfl, by ext i hi; simp⟩
      · rw [if_neg h, if_neg h]; exact ⟨rfl, rfl, rfl⟩
  · rw [he, setSq_rsTop, setSq_mark, setSq_o]; exact hprim
  · rw [he, setSq_trapCause, hcause]
  · rw [he, setSq_trapPc, hpc]
  · rw [he, setSq_trapInfo, hinfo]
  · rw [he, setSq_trapAddr, haddr]
  · rw [he, setSq_g, hg]
  · exact (resumeEngines_mem _).trans rfl

/-! ## Privileged ops in task mode (27 R439) -/

theorem chkPriv_task {s : State} (hm : s.e.mode = false) : s.chkPriv = some (s.illegal 23) := by
  rw [State.chkPriv, hm]
  rfl

/-- Its privilege is the first check of each of these ops. -/
theorem privilegedInTaskMode : PrivilegedInTaskMode := by
  intro d a b x y i s hm hi
  have hp := chkPriv_task hm
  rcases hi with rfl | rfl | rfl | rfl | rfl | rfl
  · change execEret s = _
    rw [execEret, hp]; rfl
  · change execHalt s = _
    rw [execHalt, hp]; rfl
  · change execTlbinv d a b s = _
    rw [execTlbinv, hp]; rfl
  · change execCopyx x y d a b s = _
    rw [execCopyx, hp]; rfl
  · change execMload d a b s = _
    rw [execMload, hp]; rfl
  · change execFgrp d a s = _
    rw [execFgrp, hp]; rfl

/-! ## Halts, views and identifiers (27 R441 to R443) -/

theorem halt_stops {s : State} (hm : s.e.mode = true) : ∃ t, exec .halt s = .next t ∧ t.here.halted = true ∧
    (∀ z, (t.e.sq z).running = false ∧ (t.e.sq z).ckpt = (s.e.sq z).ckpt ∧ (t.e.sq z).pc = (s.e.sq z).pc) ∧ t.e.g = s.e.g ∧ t.mem = s.mem := by
  have hp : s.chkPriv = none := by rw [State.chkPriv, hm]; rfl
  have hh : (s.modHere Core.haltNow).here = s.here.haltNow := here_modHere _ _
  refine ⟨s.modHere Core.haltNow, ?_, ?_, fun z => ?_, ?_, rfl⟩
  · change execHalt s = _
    rw [execHalt, hp]
    rfl
  · rw [hh]; rfl
  · rw [State.e, hh]; cases z <;> exact ⟨rfl, rfl, rfl⟩
  · rw [State.e, hh]; rfl

theorem chkEcc_none {s : State} {x n : Nat} (h : EccOk s x n) : s.chkEcc x n = none := by
  refine firstTrap_eq_none.2 fun o ho => ?_
  obtain ⟨l, hl, rfl⟩ := List.mem_map.1 ho
  obtain ⟨hn, h1, h2⟩ := mem_unitsOf.1 hl
  cases hm : tget none s.hereCl.marks l with
  | none => rfl
  | some m => exact trapIf_eq_none.2 (beq_eq_false_iff_ne.2 (h l h1 (by omega) m hm))

theorem chkScratch_none {x n align : Nat} (h : ScratchOk x n align) : chkScratch x n align = none := by
  rw [chkScratch, decide_eq_false (Nat.not_lt.2 h.1), decide_eq_false (not_not.2 h.2)]
  rfl

/-- The words of side storage under a view's rows (07 R122). -/
theorem mem_viewWords {x : Cluster} {u : View} {i j : Nat} (hi : i < u.rows.toNat)
    (hj : j < u.rb (widthOf (tidOf (x.tid u.tid.toNat)).format)) (hb : u.row i + j < 0x40000) : (u.row i + j) / 4 ∈ viewWords x u := by
  refine List.mem_flatten.2 ⟨_, List.mem_map_of_mem (mem_span.2 ⟨Nat.zero_le i, by omega⟩), List.mem_filter.2 ⟨?_, by simp; omega⟩⟩
  exact mem_unitsOf.2 ⟨by omega, by omega, by omega⟩

section
variable {s : State} {w a b : Reg}

theorem vwset_refused (hn : 22 ≤ w.toNat) : exec (.vwset w a b) s = .next (s.raise (s.illegal 22)) := by
  change execVwset w a b s = _
  rw [execVwset, decide_eq_true (show 21 < w.toNat by omega)]
  rfl

theorem vwset_next (hn : w.toNat < 22) (hok : viewOperandsOk w.toNat (s.g a) (s.g b) = true) : exec (.vwset w a b) s =
    .next (if s.e.view w.toNat = storedView w.toNat (viewOf (s.g a) (s.g b)) then s
      else s.pend 1 (s.viewWrites w.toNat (storedView w.toNat (viewOf (s.g a) (s.g b))))) := by
  change execVwset w a b s = _
  rw [execVwset, hok, decide_eq_false (show ¬ 21 < w.toNat by omega)]
  rfl

end

theorem viewOperandsOk_of {n : Nat} {x y : Word} (hx : x.toNat < 2 ^ 18) (hy : y.extractLsb' 8 8 = (0 : BitVec 8))
    (hv : n < 2 → y = 0 ∧ x.toNat % 256 = 0 ∧ x.toNat ≤ 0x3C000) : viewOperandsOk n x y = true := by
  have h1 : bitsOf x 63 18 = 0 := by rw [bitsOf, Nat.div_eq_of_lt hx]; rfl
  have h2 : bitsOf y 15 8 = 0 := by
    have := congrArg BitVec.toNat hy
    rwa [BitVec.extractLsb'_toNat, Nat.shiftRight_eq_div_pow] at this
  have h3 : (decide (2 ≤ n) || (y == 0 && decide (x.toNat % 256 = 0) && decide (x.toNat ≤ 0x3C000))) = true := by
    simpa [Decidable.or_iff_not_imp_left, and_assoc] using hv
  rw [viewOperandsOk, h1, h2, h3]
  rfl

theorem viewOf_eq (x y : Word) : viewOf x y =
    { base := x.extractLsb' 0 18, rows := y.extractLsb' 48 16, cols := y.extractLsb' 32 16, pitch := y.extractLsb' 16 16,
      tid := y.extractLsb' 0 8 } := by
  have cut (m n : Nat) (z : Word) : ((z >>> m).truncate n : BitVec n) = z.extractLsb' m n := by ext i hi; simp
  have low (n : Nat) (z : Word) : (z.truncate n : BitVec n) = z.extractLsb' 0 n := by ext i hi; simp
  simp only [viewOf, cut, low]

theorem tidset_next {s : State} {a b : Reg} (hx : ScratchOk (s.g b).toNat 24 32) (hn : (s.g a).toNat < 256) (he : EccOk s (s.g b).toNat 24) :
    exec (.tidset a b) s = .next ((s.readLines false [((s.g b).toNat, 24)]).pend 2 [.tid (s.g a).toNat
      { q0 := wordOf (s.scr (s.g b).toNat 8), q1 := wordOf (s.scr ((s.g b).toNat + 8) 8), q2 := wordOf (s.scr ((s.g b).toNat + 16) 8), q3 := 0 }]) := by
  change execTidset a b s = _
  simp only [execTidset, decide_eq_false (show ¬ 255 < (s.g a).toNat by omega), chkScratch_none hx, chkEcc_none he, trapIf_false,
    firstTrap_none, firstTrap_nil, checked_none]

theorem tidset_refused {s : State} {a b : Reg} (hn : 256 ≤ (s.g a).toNat) : exec (.tidset a b) s = .next (s.raise (s.fmtFault 0 25)) := by
  change execTidset a b s = _
  rw [execTidset, decide_eq_true (show 255 < (s.g a).toNat by omega)]
  rfl

theorem haltsViewsIdentifiers : HaltsViewsIdentifiers := by
  intro w a b s n x geo v
  refine ⟨halt_stops, fun hn ha hb h2 => ?_, vwset_refused, tidset_next, tidset_refused⟩
  have hv : storedView n (viewOf (s.g a) (s.g b)) = v := by rw [viewOf_eq]; rfl
  have hrun := vwset_next hn (viewOperandsOk_of ha hb h2)
  rw [show w.toNat = n from rfl, hv] at hrun
  refine ⟨fun he => ?_, fun he h18 => ?_, fun he h18 => ?_⟩
  · rw [hrun, if_pos he]
  · rw [hrun, if_neg he, State.viewWrites, if_pos h18]
  · refine ⟨(viewWords s.hereCl (s.e.view n) ++ viewWords s.hereCl v).map (fun w => (w, 0)), ?_, fun p hp => ?_, fun u hu i j hi hj hw => ?_⟩
    · rw [hrun, if_neg he, State.viewWrites, if_neg (by omega)]
    · obtain ⟨-, -, rfl⟩ := List.mem_map.1 hp
      rfl
    · have hm := mem_viewWords (x := s.hereCl) hi hj hw
      rw [List.map_map]
      refine List.mem_map.2 ⟨_, List.mem_append.2 ?_, rfl⟩
      rcases hu with rfl | rfl
      · exact .inl hm
      · exact .inr hm

end Sys2Proof.Machine

open Sys2Proof Sys2Proof.Machine

/-- Settles O39: `trapReturn`, `privilegedInTaskMode` and `haltsViewsIdentifiers`, its three parts. -/
theorem privilegedOps : Obligations.PrivilegedOps := ⟨trapReturn, privilegedInTaskMode, haltsViewsIdentifiers⟩

end

section
/-! PROOF. Taking a trap (27 R433 to R437) and reruns after timing traps (03 R54, R55). -/

namespace Sys2Proof.Machine

open Sys2Proof

/-! ## The registers of a core that a trap brings back (03 R55, 17 R285, 19 R330) -/

theorem rollBoth_eq (e : CoreE) (tr : Option Bool) : ∃ q, e.rollBoth tr = { e with
    q := q, rsTop := if e.rolls tr false then e.prim.ckpt.rsTop else e.rsTop,
    mark := if e.rolls tr false then e.prim.ckpt.mark else e.mark, o := if e.rolls tr false then e.prim.ckpt.o else e.o } := by
  have roll (e : CoreE) (b z : Bool) : ∃ q, e.rollStreams b z = { e with q := q } := by
    cases b
    · exact ⟨_, rfl⟩
    · exact ⟨_, rfl⟩
  obtain ⟨q1, h1⟩ := roll e (e.rolls tr false) false
  obtain ⟨q2, h2⟩ := roll { e with q := q1 } (e.rolls tr true) true
  exact ⟨q2, by rw [CoreE.rollBoth, h1, h2, restoreCk_eq]⟩

theorem rolls_running {e : CoreE} {z : Bool} (h : (e.sq z).running = true) (tr : Option Bool) : e.rolls tr z = true := by
  rw [CoreE.rolls, h, Bool.true_or]

theorem restart_sq_rolls (e : CoreE) (tr : Option Bool) (cycle : Nat) (z : Bool) :
    (e.restart tr cycle).sq z = (e.sq z).rollback (e.rolls tr z) cycle := by
  obtain ⟨hp, hs⟩ := rollBoth_seqs e tr
  cases z
  · change (e.rollBoth tr).prim.rollback _ _ = _
    rw [hp]; rfl
  · change (e.rollBoth tr).second.rollback _ _ = _
    rw [hs]; rfl

theorem rollback_timingRow (q : Seq) (b : Bool) (cycle : Nat) : (q.rollback b cycle).timingRow = q.timingRow := by
  unfold Seq.rollback
  split <;> rfl

theorem restart_regs (e : CoreE) (tr : Option Bool) (cycle : Nat) :
    (e.restart tr cycle).mode = e.mode ∧ (e.restart tr cycle).cntTiming = e.cntTiming ∧ (e.restart tr cycle).g = e.g := by
  obtain ⟨q, h⟩ := rollBoth_eq e tr
  unfold CoreE.restart
  rw [h]
  exact ⟨rfl, rfl, rfl⟩

/-- A sequencer as a trap that enters a handler leaves it, where it is not the trapping one (R436). -/
def Seq.saveNow (q : Seq) : Seq :=
  { q with saved := q.ckpt, savedRunning := q.running, savedPaused := q.preempted, running := false, preempted := false, group := {},
           newGroup := true, bWritten := [], timingRow := 0, priority := false }

theorem enter_sq (e : CoreE) (sec : Bool) (r : TrapRec) (h : BitVec 52) (cycle : Nat) (z : Bool) : (e.enter sec r h cycle).sq z =
    if z = sec then { (e.sq z).saveNow with running := true, pc := h, loops := [], restartNext := true, resumed := false, nextIssue := cycle + 1 }
    else (e.sq z).saveNow := by
  obtain ⟨q, he⟩ := rollBoth_eq e (some sec)
  unfold CoreE.enter
  rw [he]
  cases sec <;> cases z <;> rfl

theorem enter_regs (e : CoreE) (sec : Bool) (r : TrapRec) (h : BitVec 52) (cycle : Nat) :
    let f := e.enter sec r h cycle
    f.mode = true ∧ f.trapInfo = r.info ∧ f.trapAddr = r.addr ∧ f.trapPc = (e.sq sec).ckpt.pc.zeroExtend 64 ∧
      f.trapCause = causeWord r.code sec r.async e.mode ∧ f.trapSec = sec ∧ f.g = e.g ∧ f.m = e.m ∧ f.k = e.k ∧
      (e.prim.running = true → f.rsTop = e.prim.ckpt.rsTop ∧ f.mark = e.prim.ckpt.mark ∧ f.o = e.prim.ckpt.o) := by
  obtain ⟨q, he⟩ := rollBoth_eq e (some sec)
  unfold CoreE.enter
  rw [he]
  refine ⟨rfl, rfl, rfl, rfl, rfl, rfl, ?_, ?_, ?_, fun hr => ?_⟩
  · exact setSq_g _ _ _
  · exact setSq_m _ _ _
  · exact setSq_k _ _ _
  · rw [rolls_running (z := false) hr (some sec)]
    exact ⟨setSq_rsTop _ _ _, setSq_mark _ _ _, setSq_o _ _ _⟩

/-! ## The ways that a trap is taken -/

section
variable {s : State} {c k : Nat} {sec : Bool} {r : TrapRec}

/-- The state at a trap: the core notes its cycle, and a data-integrity fault is reported (27 R435, 01 R27). -/
def State.trapNoted (s : State) (c k : Nat) (r : TrapRec) : State :=
  let t := s.modCore c k (fun y => { y with trapAt := s.cycle + 1 })
  if r.code = codeData then t.report "data-integrity" r.info.toNat else t

theorem trapAt_e : ((s.modCore c k (fun y => { y with trapAt := s.cycle + 1 })).core c k).e = (s.core c k).e := by
  rw [core_modCore_same]

theorem trapNoted_e : ((s.trapNoted c k r).core c k).e = (s.core c k).e := by
  unfold State.trapNoted
  dsimp only
  split
  · exact trapAt_e
  · exact trapAt_e

theorem trapNoted_outbox (h : r.code ≠ codeData) : (s.trapNoted c k r).outbox = s.outbox := by
  rw [State.trapNoted, if_neg h]
  rfl

theorem modCore_ctxOf (s : State) (c k : Nat) (f : Core → Core) (b : Nat) : (s.modCore c k f).ctxOf b = s.ctxOf b := by
  have h : ((s.modCore c k f).cl b).ctx = (s.cl b).ctx := congrFun (modCore_holder s c k f) b
  unfold State.ctxOf
  rw [h]
  rfl

theorem handlerOf_own {x : Context} (hx : s.ctxOf c = some x) (h1 : r.code ≠ codeSvc) (h2 : r.code ≠ codeClockLost) :
    (s.modCore c k (fun y => { y with trapAt := s.cycle + 1 })).handlerOf c r.code = x.handler := by
  rw [State.handlerOf, modCore_ctxOf, hx]
  exact if_neg (not_or.2 ⟨h1, h2⟩)

/-- The core's registers as a trap changes them by f, once no write of feeds is left in flight. -/
theorem e_dropFeeds_modE (t : State) (f : CoreE → CoreE) :
    (((t.modCore c k (Core.dropFeeds (some sec))).modE c k f).core c k).e = f (t.core c k).e := by
  rw [e_modE_same, core_modCore_same, dropFeeds_e]

theorem mem_report {t : State} {m : OutMsg} (h : m ∈ t.outbox) (w : String) (v : Nat) : m ∈ (t.report w v).outbox :=
  List.mem_append_left _ h

theorem mem_report_self (t : State) (w : String) (v : Nat) : .report w (wordN v) ∈ (t.report w v).outbox :=
  List.mem_append_right _ (List.mem_singleton_self _)

/-- A trap in service mode (R437). -/
theorem deliver_double (h1 : r.code ≠ codeTiming) (hm : (s.core c k).e.mode = true) :
    s.deliver c k sec r = ((((((((s.trapNoted c k r).modCore c k Core.haltNow).report "double trap" (causeWord r.code sec r.async true).toNat).report
      "address" r.addr.toNat).report "first cause" (s.core c k).e.trapCause.toNat).report "first pc" (s.core c k).e.trapPc.toNat).report
      "first info" (s.core c k).e.trapInfo.toNat).report "first address" (s.core c k).e.trapAddr.toNat) := by
  unfold State.deliver
  simp only [h1, if_false, false_and, trapAt_e, hm, ne_eq, not_false_eq_true, and_self, if_true]
  rfl

theorem deliver_double_core (h1 : r.code ≠ codeTiming) (hm : (s.core c k).e.mode = true) :
    (s.deliver c k sec r).core c k = ((s.trapNoted c k r).core c k).haltNow := by
  rw [deliver_double h1 hm]
  simp only [core_report, core_modCore_same]

theorem deliver_double_reports (h1 : r.code ≠ codeTiming) (hm : (s.core c k).e.mode = true) :
    .report "double trap" (causeWord r.code sec r.async true) ∈ (s.deliver c k sec r).outbox := by
  have hw : wordN (causeWord r.code sec r.async true).toNat = causeWord r.code sec r.async true :=
    (BitVec.ofNat_toNat _ _).trans (BitVec.setWidth_eq _)
  have h := mem_report_self ((s.trapNoted c k r).modCore c k Core.haltNow) "double trap" (causeWord r.code sec r.async true).toNat
  rw [hw] at h
  rw [deliver_double h1 hm]
  exact mem_report (mem_report (mem_report (mem_report (mem_report h _ _) _ _) _ _) _ _) _ _

/-- A trap taken by the handler of its context (R436). -/
theorem deliver_enters {x : Context} (h1 : r.code ≠ codeTiming) (h2 : r.code ≠ codeEmul) (h3 : r.code ≠ codeSvc) (h4 : r.code ≠ codeClockLost)
    (hx : s.ctxOf c = some x) (hm : (s.core c k).e.mode = false) (hh : x.handler ≠ 0) :
    s.deliver c k sec r = ((s.trapNoted c k r).modCore c k (Core.dropFeeds (some sec))).modE c k (fun e => e.enter sec r x.handler s.cycle) := by
  unfold State.deliver
  simp only [h1, h2, if_false, false_and, trapAt_e, hm, Bool.false_eq_true, handlerOf_own hx h3 h4, hh]
  rfl

/-- A trap of a context without a handler (R436). -/
theorem deliver_unhandled {x : Context} (h1 : r.code ≠ codeTiming) (h2 : r.code ≠ codeEmul) (h3 : r.code ≠ codeSvc) (h4 : r.code ≠ codeClockLost)
    (hx : s.ctxOf c = some x) (hm : (s.core c k).e.mode = false) (hh : x.handler = 0) :
    (s.deliver c k sec r).clusters = ((s.trapNoted c k r).haltCtx (((s.cl c).ctx).getD 0)).clusters := by
  have hc : ((s.modCore c k (fun y => { y with trapAt := s.cycle + 1 })).cl c).ctx = (s.cl c).ctx := congrFun (modCore_holder s c k _) c
  unfold State.deliver
  simp only [h1, h2, h3, h4, if_false, false_and, trapAt_e, hm, Bool.false_eq_true, handlerOf_own hx h3 h4, hh, hc, ne_eq, not_false_eq_true,
    and_self, if_true]
  rfl

/-- A timing trap that reruns both sequencers (03 R55). -/
theorem deliver_reruns (h1 : r.code = codeTiming) (hr : (s.sq c k sec).timingRow < 15) :
    ((s.deliver c k sec r).core c k).e =
      let e := ({ (s.core c k).e with cntTiming := (s.core c k).e.cntTiming + 1 } : CoreE).restart (some sec) s.cycle
      e.setSq sec { (e.sq sec) with timingRow := (s.sq c k sec).timingRow + 1, priority := true } := by
  have hlt : ((s.core c k).e.sq sec).timingRow + 1 < 16 := by
    have : ((s.core c k).e.sq sec).timingRow < 15 := hr
    omega
  unfold State.deliver
  simp only [h1, trapAt_e, hlt, and_self, if_true]
  rw [e_dropFeeds_modE, e_modE_same, trapAt_e]
  rfl

theorem haltCtx_halts {t : State} {n : Nat} {y : Nat × Cluster} (hy : y ∈ (t.haltCtx n).clusters) (hn : y.2.ctx = some n) {z : Nat × Core}
    (hz : z ∈ y.2.cores) : z.2.halted = true := by
  obtain ⟨p, -, rfl⟩ := List.mem_map.1 hy
  by_cases hp : p.2.ctx = some n
  · rw [if_pos hp] at hz
    obtain ⟨w, -, rfl⟩ := List.mem_map.1 hz
    rfl
  · rw [if_neg hp] at hn
    exact absurd hn hp

theorem ctx_of_ctxOf {x : Context} (h : s.ctxOf c = some x) : (s.cl c).ctx = some (((s.cl c).ctx).getD 0) := by
  unfold State.ctxOf at h
  cases hc : (s.cl c).ctx with
  | none => rw [hc] at h; cases h
  | some i => rfl

end

theorem haltNow_sq (y : Core) (z : Bool) : (y.haltNow.e.sq z).running = false ∧ (y.haltNow.e.sq z).ckpt = (y.e.sq z).ckpt := by
  cases z <;> exact ⟨rfl, rfl⟩

theorem trapEntry : TrapEntry := by
  intro c k sec r x s e t f
  refine ⟨fun h1 hm => ?_, fun h1 h2 h3 h4 hx => ⟨fun hm hh => ?_, fun hm hh y hy hc z hz => ?_⟩⟩
  · have hcore : t.core c k = ((s.trapNoted c k r).core c k).haltNow := deliver_double_core h1 hm
    refine ⟨by rw [hcore]; rfl, fun z => ?_, deliver_double_reports h1 hm⟩
    have hz := haltNow_sq ((s.trapNoted c k r).core c k) z
    rw [← hcore, trapNoted_e] at hz
    exact hz
  · have ht : t = _ := deliver_enters (sec := sec) h1 h2 h3 h4 hx hm hh
    have hf : f = e.enter sec r x.handler s.cycle := by
      change (t.core c k).e = _
      rw [ht, e_dropFeeds_modE, trapNoted_e]
    obtain ⟨hmode, hinfo, haddr, hpc, hcause, hsec, hg, hm', hk, hprim⟩ := enter_regs e sec r x.handler s.cycle
    rw [hm] at hcause
    have hsq (z : Bool) := enter_sq e sec r x.handler s.cycle z
    have hme := hsq sec
    rw [if_pos rfl] at hme
    have hother := hsq (!sec)
    rw [if_neg (by cases sec <;> decide)] at hother
    rw [hf]
    refine ⟨hmode, hinfo, haddr, hpc, hcause, hsec, ?_, ?_, ?_, ?_, fun z => ?_, fun z => ?_, hprim, hg, hm', hk, deliver_mem _ _ _ _ _, fun hd => ?_⟩
    · rw [hme]
    · rw [hme]
    · rw [hme]
    · rw [hother]; rfl
    · rw [hsq z]; split <;> exact ⟨rfl, rfl⟩
    · rw [hsq z]; split <;> rfl
    · rw [ht, modE_outbox, modCore_outbox, trapNoted_outbox hd]
  · have hcl : t.clusters = _ := deliver_unhandled (sec := sec) h1 h2 h3 h4 hx hm hh
    rw [hcl] at hy
    exact haltCtx_halts hy (hc.trans (ctx_of_ctxOf hx)) hz

theorem timingReruns : TimingReruns := by
  intro c k sec r s h1 hr t
  let e : CoreE := { (s.core c k).e with cntTiming := (s.core c k).e.cntTiming + 1 }
  have hte : (t.core c k).e = (e.restart (some sec) s.cycle).setSq sec
      { ((e.restart (some sec) s.cycle).sq sec) with timingRow := (s.sq c k sec).timingRow + 1, priority := true } := deliver_reruns h1 hr
  have he (z : Bool) : e.sq z = s.sq c k z := by cases z <;> rfl
  have hsq (z : Bool) : ∃ n p, t.sq c k z = { (s.sq c k z).rollback (e.rolls (some sec) z) s.cycle with timingRow := n, priority := p } := by
    rw [State.sq, hte, setSq_sq]
    by_cases hz : z = sec
    · rw [if_pos hz, ← hz, restart_sq_rolls, he]; exact ⟨_, _, rfl⟩
    · rw [if_neg hz, restart_sq_rolls, he]; exact ⟨_, _, rfl⟩
  obtain ⟨hmode, hcnt, hg⟩ := restart_regs e (some sec) s.cycle
  refine ⟨?_, ?_, fun z hz => ?_, ?_, ?_, deliver_mem _ _ _ _ _⟩
  · rw [hte, setSq_mode, hmode]
  · rw [hte, setSq_cntTiming, hcnt]
  · obtain ⟨n, p, h⟩ := hsq z
    rw [h, rolls_running ((congrArg Seq.running (he z)).trans hz)]
    exact ⟨hz, rfl, rfl⟩
  · rw [State.sq, hte, setSq_sq, if_pos rfl]
  · rw [hte, setSq_g, hg]

end Sys2Proof.Machine

open Sys2Proof Sys2Proof.Machine

/-- Settles O59: `trapEntry` and `timingReruns`, its two parts. -/
theorem trapEntryAndReruns : Obligations.TrapEntryAndReruns := ⟨trapEntry, timingReruns⟩

end

section
/-! PROOF. A step runs what the bytes decode to (03 R41, 05 R62, 19 R325, 21 R343, 27 R435). -/

namespace Sys2Proof.Machine

open Sys2Proof

/-! ## The fetch of a bundle (13 R221) -/

theorem fillLayer_mem_only (s : State) (l : Loc) : ∃ m, s.fillLayer l = { s with mem := m } := by
  cases l with
  | layer p off pa =>
    unfold State.fillLayer
    dsimp only
    split
    · exact ⟨_, rfl⟩
    · exact ⟨_, rfl⟩
  | _ => exact ⟨_, rfl⟩

theorem fillPc_mem_only (s : State) : ∃ m, s.fillPc = { s with mem := m } := by
  unfold State.fillPc State.fillFetch
  split
  · exact ⟨_, rfl⟩
  · exact fillLayer_mem_only _ _

/-- A bundle that passes the checks of R85 is the one at the pc, and its ops are those that its words decode to. -/
theorem prep_decodes {s : State} {p : Prep} (h : s.prep = .ok p) :
    s.fetchBundle s.cur.cl s.hereCtxId s.me.pc.toNat = .ok p.bundle ∧ decodeOps s.e.mode s.me.pc.toNat p.bundle.ops = .ok p.ops := by
  unfold State.prep at h
  dsimp only at h
  split at h
  · cases h
  next b hb =>
    split at h
    · cases h
    next ops hops =>
      split at h
      · cases h
      · split at h
        · cases h
        · cases h
          exact ⟨hb, hops⟩

/-! ## The turn of a sequencer (03 R41, 27 R435) -/

/-- The site of the prepared bundle at the sequencer's pc. -/
def State.atBundle (s : State) (p : Prep) : State :=
  { s with trapped := none, cur := { s.cur with pc := s.me.pc, next := s.me.pc + BitVec.ofNat 52 p.bundle.len, fold := p.bundle.fold, slot := 0 } }

theorem tryIssue_issues {s : State} {p : Prep} (h : s.prep = .ok p) (hs : (s.atBundle p).stalls p = false) :
    s.tryIssue = (s.atBundle p).issueBundle p := by
  rw [State.tryIssue, h]
  exact if_neg (Bool.eq_false_iff.1 hs)

theorem issueBundle_done {v t v' : State} {p : Prep} {b wb : Nat} (hslots : disjoint (slotsOf p.ops) v.here.usedSlots = true)
    (hbanks : disjoint (v.banksOf p.ops) v.here.usedBanks = true) (hc : v.bankCheck p.ops = (b, wb, none)) (heret : ∀ o ∈ p.ops, o.2 ≠ .eret)
    (ht : runOps (p.ops.filter (fun o => !requested o.2))
      ((({ v with cur := { v.cur with beats := b, wbeats := wb } } : State).takeCkpt p.restart).modMe
        (fun q => { q with restartNext := false, newGroup := false, taken := false })) = .next t)
    (hn : t.trapped = none)
    (hv : runOps (p.ops.filter (fun o => requested o.2))
      ((t.giveBeats v.fresh b (v.readLinesOf p.ops)).account p (slotsOf p.ops) (v.banksOf p.ops)) = .next v') :
    v.issueBundle p = .done (.next v'.countBundle) := by
  have he : (p.ops.filter (fun o => !requested o.2)).any (fun o => o.2 == .eret) = false :=
    List.any_eq_false.2 fun o ho h => heret o (List.mem_of_mem_filter ho) (beq_iff_eq.1 h)
  unfold State.issueBundle
  simp only [hslots, hbanks, hc, ht, hn, hv, he, Bool.not_true, Bool.or_self, Bool.false_eq_true, if_false]

theorem issueAct_done {s t : State} {c k : Nat} {sec first : Bool} (hmove : (s.visit c k sec).mayMove = true)
    (hheld : (s.visit c k sec).withheldHere = false) (hpend : (s.visit c k sec).pendingTrap = none)
    (hd : (s.visit c k sec).fillPc.tryIssue = .done (.next t)) : s.issueAct c k sec first = .next ((t.visit c k sec).noteKept false) := by
  unfold State.issueAct
  simp only [hmove, hheld, hpend, hd, Bool.not_true, Bool.false_eq_true, if_false]

theorem mayMove_of {s : State} (hr : s.me.running = true) (hh : s.here.halted = false) (hc : s.hereCtx.isSome = true)
    (hi : s.me.nextIssue ≤ s.cycle) (ht : s.here.trapAt ≠ s.cycle + 1) : s.mayMove = true := by
  rw [State.mayMove, hr, hh, hc, decide_eq_true hi, decide_eq_true ht]
  rfl

theorem pendingTrap_none {s : State} (hc : s.clockTrapHere = false) (hp : s.me.pend = []) : s.pendingTrap = none := by
  rw [State.pendingTrap, hc, hp]
  rfl

/-! ## The turns of a matrix unit and of a stream (19 R325, 21 R343) -/

theorem microAct_runs {s : State} {c k : Nat} {r : Routine} {i : Instr} (hr : (s.visit c k false).here.run = some r) (hc : r.cycles < 2 ^ 22)
    (hi : decodeMicro (tget 0 (s.visit c k false).here.store r.upc) = some i) :
    s.microAct c k = exec i ((s.visit c k false).setRun { r with cycles := r.cycles + 1 }) := by
  unfold State.microAct
  simp only [hr, hi, Nat.not_le.2 hc, if_false]

/-- The turn of a stream that stands at a packet: z is the state once it has read ahead, w once the packet's bytes are there. -/
theorem streamAct_runs {s v z w : State} {c k n : Nat} {t x y : Stream} {i : Instr}
    (hv : ({ s with trapped := none, cur := { part := c, stream := k } } : State) = v) (hz : v.prefetchAhead c k = z) (hw : z.fillPacket y = w)
    (ht : v.cpS = some t) (he : t.error = 0) (hwait : t.wait = .none) (hy : z.cpS = some y) (hx : w.cpS = some x)
    (hn : w.nextPacket x = some (n, .ok i)) (hp : ∀ p, look w.parts c = some p → p.held = false ∨ heldPacket i = false) :
    s.streamAct c k = exec i ((w.modCp (fun t => { t with plen := n })).cpBegin) := by
  unfold State.streamAct
  simp only [hv, hz, ht, he, hwait, hy, hw, hx, hn, Option.bind_some, ne_eq, not_true_eq_false, if_false]
  cases hl : look w.parts c with
  | none => rfl
  | some p => exact if_neg (Bool.eq_false_iff.1 (Bool.and_eq_false_iff.2 (hp p hl)))

theorem step_cons {s : State} {a : Act} {rest : List Act} (h : s.agenda = a :: rest) : step s = ({ s with agenda := rest } : State).act a := by
  rw [step, h]

theorem runOps_cons {s t : State} {i : Instr} {slot : Nat} (h : exec i (s.atSlot slot) = .next t) (r : List (Nat × Instr)) :
    runOps ((slot, i) :: r) s = if t.trapped.isSome then .next t else runOps r t := by
  rw [runOps, h]

end Sys2Proof.Machine

open Sys2Proof Sys2Proof.Machine

/-- Settles O57, one clause for each kind of turn. -/
theorem stepRunsDecoded : Obligations.StepRunsDecoded := by
  intro s rest c k sec i s0 u
  refine ⟨step_cons, fun r ha hr hc hi => (step_cons ha).trans (microAct_runs hr hc hi), ?_, ?_, fun slot r t => ⟨rfl, fun h => runOps_cons h r⟩⟩
  · intro t x n ha v z ht he hw y hy w hx hn hp
    exact (step_cons ha).trans (streamAct_runs rfl rfl rfl ht he hw hy hx hn hp)
  · intro p b wb t v' ha hr hh hc hi ht hw hcl hpd f hprep v hst hsl hbk hbc her w a hrun hnt hreq
    obtain ⟨m, hm⟩ := fillPc_mem_only u
    have hfv : u.fillPc.atBundle p = v := by
      simp only [v, f, hm]
      rfl
    have htry : u.fillPc.tryIssue = v.issueBundle p := by
      have h := tryIssue_issues hprep (s := u.fillPc)
      rw [hfv] at h
      exact h hst
    have hf := prep_decodes hprep
    have hsite : f.cur.cl = c ∧ f.hereCtxId = u.hereCtxId ∧ f.me.pc = u.me.pc ∧ f.e.mode = u.e.mode := by
      simp only [f, hm]
      exact ⟨rfl, rfl, rfl, rfl⟩
    obtain ⟨h1, h2, h3, h4⟩ := hsite
    rw [h1, h2, h3, h4] at hf
    refine ⟨hf.1, hf.2, (step_cons ha).trans (issueAct_done (mayMove_of hr hh hc hi ht) hw (pendingTrap_none hcl hpd) ?_)⟩
    rw [htry]
    exact issueBundle_done hsl hbk hbc her hrun hnt hreq

end

section
/-! SUPPORT. The fields of words built by concatenation (05 R79, R80), and the decoding of one op word in its home slot. -/

namespace Sys2Proof.Encoding

open Sys2Proof

/-! ## Fields of a concatenation

A field of a word is a quotient and a remainder of its value by powers of two; both pass through a concatenation. -/

theorem fieldOf_eq (w : BitVec 32) (hi lo : Nat) : fieldOf w hi lo = w.toNat / 2 ^ lo % 2 ^ (hi + 1 - lo) := by
  rw [fieldOf, BitVec.extractLsb'_toNat, Nat.shiftRight_eq_div_pow]

section Concatenation
variable {m n : Nat} (x : BitVec m) (y : BitVec n)

theorem append_toNat : BitVec.toNat (no_index (x ++ y)) = x.toNat * 2 ^ n + y.toNat := by
  rw [BitVec.toNat_append, ← Nat.shiftLeft_add_eq_or_of_lt y.isLt, Nat.shiftLeft_eq]

theorem append_div {k : Nat} (h : 2 ^ n ∣ k) : BitVec.toNat (no_index (x ++ y)) / k = x.toNat / (k / 2 ^ n) := by
  obtain ⟨c, rfl⟩ := h
  rw [append_toNat, ← Nat.div_div_eq_div_mul, Nat.mul_comm, Nat.mul_add_div (Nat.two_pow_pos n), Nat.div_eq_of_lt y.isLt, Nat.add_zero,
    Nat.mul_div_cancel_left _ (Nat.two_pow_pos n)]

theorem append_mod {k : Nat} (h : k ∣ 2 ^ n) : BitVec.toNat (no_index (x ++ y)) % k = y.toNat % k := by
  rw [append_toNat, Nat.add_mod, Nat.mod_eq_zero_of_dvd (h.mul_left _), Nat.zero_add, Nat.mod_mod]

theorem append_mod_high {k : Nat} (h : 2 ^ n ∣ k) : BitVec.toNat (no_index (x ++ y)) % k = x.toNat % (k / 2 ^ n) * 2 ^ n + y.toNat := by
  obtain ⟨c, rfl⟩ := h
  rw [append_toNat, Nat.mul_div_cancel_left _ (Nat.two_pow_pos n), Nat.mod_mul, Nat.mul_comm, Nat.mul_add_mod,
    Nat.mul_add_div (Nat.two_pow_pos n), Nat.div_eq_of_lt y.isLt, Nat.mod_eq_of_lt y.isLt, Nat.add_zero, Nat.add_comm, Nat.mul_comm]

theorem append_div_mod {k l : Nat} (h : k * l ∣ 2 ^ n) : BitVec.toNat (no_index (x ++ y)) / k % l = y.toNat / k % l := by
  rw [← Nat.mod_mul_right_div_self, append_mod x y h, Nat.mod_mul_right_div_self]

theorem zero_append_toNat (m : Nat) : BitVec.toNat (no_index (0#m ++ y)) = y.toNat := by
  rw [append_toNat, BitVec.toNat_ofNat, Nat.zero_mod, Nat.zero_mul, Nat.zero_add]

theorem append_low_field {hi lo : Nat} (h : hi < n) (hl : lo ≤ hi) :
    BitVec.toNat (no_index (x ++ y)) / 2 ^ lo % 2 ^ (hi + 1 - lo) = y.toNat / 2 ^ lo % 2 ^ (hi + 1 - lo) :=
  append_div_mod x y (by rw [← Nat.pow_add]; exact Nat.pow_dvd_pow 2 (by omega))

/-- The rules for fields of a concatenation, together as `simp` uses them. The widths of the sum are not indexed, since `simp` adds up numerals. -/
theorem append_fields :
    (∀ k, 2 ^ n ∣ k → BitVec.toNat (no_index (x ++ y)) / k = x.toNat / (k / 2 ^ n)) ∧
    (∀ k, k ∣ 2 ^ n → BitVec.toNat (no_index (x ++ y)) % k = y.toNat % k) ∧
    (∀ k, 2 ^ n ∣ k → BitVec.toNat (no_index (x ++ y)) % k = x.toNat % (k / 2 ^ n) * 2 ^ n + y.toNat) ∧
    (∀ k l, k * l ∣ 2 ^ n → BitVec.toNat (no_index (x ++ y)) / k % l = y.toNat / k % l) ∧
    BitVec.setWidth n (no_index (x ++ y)) = y :=
  ⟨fun _ => append_div x y, fun _ => append_mod x y, fun _ => append_mod_high x y, fun _ _ => append_div_mod x y, BitVec.setWidth_append_eq_right⟩

/-- A field at least as wide as its content holds the content, nothing stands above it, and zeros in front change no value. -/
theorem toNat_bounded :
    (∀ k, 2 ^ n ≤ k → y.toNat % k = y.toNat) ∧ (∀ k, 2 ^ n ≤ k → y.toNat / k = 0) ∧ (∀ k, 2 ^ n ≤ k → (y.toNat < k ↔ True)) ∧
    (∀ k, 2 ^ n ≤ k + 1 → (y.toNat ≤ k ↔ True)) ∧
    (∀ m, BitVec.toNat (no_index (0#m ++ y)) = y.toNat) :=
  ⟨fun _ h => Nat.mod_eq_of_lt (y.isLt.trans_le h), fun _ h => Nat.div_eq_of_lt (y.isLt.trans_le h), fun _ h => iff_true_intro (y.isLt.trans_le h),
    fun _ h => iff_true_intro (Nat.le_of_lt_succ (y.isLt.trans_le h)), zero_append_toNat y⟩

theorem toNat_beq {k : Nat} (h : k < 2 ^ n) : (y.toNat == k) = (y == BitVec.ofNat n k) := by
  rw [Bool.eq_iff_iff, beq_iff_eq, beq_iff_eq, ← BitVec.toNat_inj, BitVec.toNat_ofNat, Nat.mod_eq_of_lt h]

theorem toNat_bne {k : Nat} (h : k < 2 ^ n) : (y.toNat != k) = (y != BitVec.ofNat n k) := congrArg not (toNat_beq y h)

end Concatenation

/-! ## The layouts of op words -/

section Layouts
variable (maj d a b : BitVec 6) (f : BitVec 7) (x : BitVec 13) (y : BitVec 25)

@[simp] theorem fieldsR_layR : fieldsR (layR maj d a b f) = ⟨d.toNat, a.toNat, b.toNat, f.toNat⟩ := by
  simp [fieldsR, fieldOf_eq, layR, append_fields, toNat_bounded]

@[simp] theorem majorOf_layR : majorOf (layR maj d a b f) = maj.toNat := by
  simp [majorOf, fieldOf_eq, layR, append_fields, toNat_bounded]

@[simp] theorem majorOf_layImm : majorOf (layImm maj d a x) = maj.toNat := by
  simp [majorOf, fieldOf_eq, layImm, append_fields, toNat_bounded]

@[simp] theorem majorOf_layBody : majorOf (layBody maj y) = maj.toNat := by
  simp [majorOf, fieldOf_eq, layBody, append_fields, toNat_bounded]

/-- The fields that layout R shares with the immediate layout. -/
@[simp] theorem layR_d : fieldOf (layR maj d a b f) 24 19 = d.toNat := congrArg FieldsR.d (fieldsR_layR maj d a b f)
@[simp] theorem layR_a : fieldOf (layR maj d a b f) 18 13 = a.toNat := congrArg FieldsR.a (fieldsR_layR maj d a b f)
@[simp] theorem layR_b : fieldOf (layR maj d a b f) 12 7 = b.toNat := congrArg FieldsR.b (fieldsR_layR maj d a b f)

@[simp] theorem layImm_d : fieldOf (layImm maj d a x) 24 19 = d.toNat := by
  simp [fieldOf_eq, layImm, append_fields, toNat_bounded]

@[simp] theorem layImm_a : fieldOf (layImm maj d a x) 18 13 = a.toNat := by
  simp [fieldOf_eq, layImm, append_fields, toNat_bounded]

variable {f x y}

theorem layR_low {hi lo : Nat} (h : hi < 7) (hl : lo ≤ hi) : fieldOf (layR maj d a b f) hi lo = f.toNat / 2 ^ lo % 2 ^ (hi + 1 - lo) := by
  rw [fieldOf_eq, layR, append_low_field _ _ h hl]

theorem layImm_low {hi lo : Nat} (h : hi < 13) (hl : lo ≤ hi) : fieldOf (layImm maj d a x) hi lo = x.toNat / 2 ^ lo % 2 ^ (hi + 1 - lo) := by
  rw [fieldOf_eq, layImm, append_low_field _ _ h hl]

theorem layBody_low {hi lo : Nat} (h : hi < 25) (hl : lo ≤ hi) : fieldOf (layBody maj y) hi lo = y.toNat / 2 ^ lo % 2 ^ (hi + 1 - lo) := by
  rw [fieldOf_eq, layBody, append_low_field _ _ h hl]

end Layouts

/-! ## Codes -/

@[simp] theorem bit_beq_one (b : Bool) : ((bit b).toNat == 1) = b := by cases b <;> rfl
@[simp] theorem r6_toNat (x : BitVec 6) : r6 x.toNat = x := (BitVec.ofNat_toNat 6 x).trans (BitVec.setWidth_eq x)
@[simp] theorem low3_toNat (x : BitVec 3) : low3 x.toNat = x := (BitVec.ofNat_toNat 3 x).trans (BitVec.setWidth_eq x)

@[simp] theorem rm_ofCode_code (r : Rm) : Rm.ofCode r.code.toNat = some r := by cases r <;> rfl
@[simp] theorem scope_ofCode_code (r : Scope) : Scope.ofCode r.code.toNat = some r := by cases r <;> rfl
@[simp] theorem vTy_ofCode_code (r : VTy) : VTy.ofCode r.code.toNat = r := by cases r <;> rfl
@[simp] theorem rTy_ofCode_code (r : RTy) : RTy.ofCode r.code.toNat = some r := by cases r <;> rfl
@[simp] theorem redOp_ofCode_code (r : RedOp) : RedOp.ofCode r.code.toNat = some r := by cases r <;> rfl

@[simp] theorem withRm_code (r : Rm) (k : Rm → Instr) : withRm true r.code.toNat true k = .ok (k r) := by
  simp [withRm]

@[simp] theorem checks_pass (i : Instr) : checks true true true true i = .ok i := rfl

theorem effS_lent {n : Nat} {v : Imm} (h : okS n v = true) : effS n (immField n v).toNat (lentS n v) = v := eq_of_beq h
theorem effU_lent {n : Nat} {v : Imm} (h : okU n v = true) : effU n (immField n v).toNat (lentU n v) = v := eq_of_beq h

/-! ## Decoding in the home slot (05 R74, R85) -/

theorem slotOk_homeSlot {maj : Nat} (h : maj < 64) (hr : majorReserved maj = false) : slotOk maj (homeSlot maj) = true := by
  decide +revert

theorem isNopWord_of_field {w : BitVec 32} {hi lo : Nat} (h : hi < 31) (hf : fieldOf w hi lo ≠ 0) : isNopWord w = false := by
  rw [isNopWord, beq_eq_false_iff_ne]
  intro h0
  apply hf
  have hz : w.toNat % 2 ^ 31 = 0 := by simpa [fieldOf_eq] using h0
  rw [fieldOf_eq]
  by_cases hl : lo ≤ hi
  · rw [← Nat.mod_mul_right_div_self, ← Nat.pow_add]
    rw [Nat.mod_eq_zero_of_dvd, Nat.zero_div]
    exact (Nat.pow_dvd_pow 2 (by omega)).trans (Nat.dvd_of_mod_eq_zero hz)
  · simp [show hi + 1 - lo = 0 by omega, Nat.mod_one]

/-- The op, where it is well formed, decodes from its word in the home slot of its major, with the lent bits of its immediate. -/
def RoundTrips (i : Instr) : Prop :=
  i.wf = true → decodeOp (homeSlot (majorOf (encodeOp i))) (encodeOp i) (lentOf i) = .ok i

/-- A word that is not the nop word, of a major that is not reserved, is decoded by the body of its major. -/
theorem roundTrips_of_body {i : Instr} {w : BitVec 32} {maj : Nat} (he : encodeOp i = w) (hm : majorOf w = maj) (hn : isNopWord w = false)
    (hr : majorReserved maj = false) (h : i.wf = true → decBody maj (homeSlot maj != slotC) w (lentOf i) = .ok i) : RoundTrips i := by
  intro hw
  have hlt : maj < 64 := hm ▸ BitVec.isLt _
  rw [he, hm, decodeOp]
  simp only [hm, hn, hr, slotOk_homeSlot hlt hr, h hw, Bool.not_true, Bool.false_eq_true, if_false]

/-! One rule for each layout: the word as the encoder lays it out, and what the body of its major reads from it. -/

section Bodies
variable {i : Instr} {maj d a b : BitVec 6} {f : BitVec 7} {x : BitVec 13} {y : BitVec 25}

theorem roundTrips_layR (he : encodeOp i = layR maj d a b f) (h0 : maj.toNat ≠ 0 ∨ f.toNat ≠ 0) (hr : majorReserved maj.toNat = false)
    (h : i.wf = true → decBody maj.toNat (homeSlot maj.toNat != slotC) (layR maj d a b f) (lentOf i) = .ok i) : RoundTrips i := by
  refine roundTrips_of_body he (majorOf_layR ..) ?_ hr h
  obtain h0 | h0 := h0
  · exact isNopWord_of_field (hi := 30) (lo := 25) (by decide) ((majorOf_layR ..).trans_ne h0)
  · exact isNopWord_of_field (hi := 6) (lo := 0) (by decide) ((congrArg FieldsR.f (fieldsR_layR ..)).trans_ne h0)

theorem roundTrips_layImm (he : encodeOp i = layImm maj d a x) (h0 : maj.toNat ≠ 0) (hr : majorReserved maj.toNat = false)
    (h : i.wf = true → decBody maj.toNat (homeSlot maj.toNat != slotC) (layImm maj d a x) (lentOf i) = .ok i) : RoundTrips i :=
  roundTrips_of_body he (majorOf_layImm ..) (isNopWord_of_field (hi := 30) (lo := 25) (by decide) ((majorOf_layImm ..).trans_ne h0)) hr h

theorem roundTrips_layBody (he : encodeOp i = layBody maj y) (h0 : maj.toNat ≠ 0) (hr : majorReserved maj.toNat = false)
    (h : i.wf = true → decBody maj.toNat (homeSlot maj.toNat != slotC) (layBody maj y) (lentOf i) = .ok i) : RoundTrips i :=
  roundTrips_of_body he (majorOf_layBody ..) (isNopWord_of_field (hi := 30) (lo := 25) (by decide) ((majorOf_layBody ..).trans_ne h0)) hr h

end Bodies
end Sys2Proof.Encoding
end

section
/-! PROOF. Decoding gives back every op of a bundle (05 R69 to R85), major by major.

Each op shows its word by its layout, which leaves the body of its major; that body reads the operands back from the fields. What an encoding
asks of an operand (05 R85) is a hypothesis of the op's own lemma. -/

namespace Sys2Proof.Encoding

open Sys2Proof

/-! ## Majors 0x00 to 0x07: control (09) -/

theorem tend_roundTrips : RoundTrips .tend := fun _ => rfl
theorem yieldOp_roundTrips : RoundTrips .yieldOp := fun _ => rfl

theorem major00_roundTrips (t : BitVec 2) (d a b : Reg) : List.Forall RoundTrips [.rdtime d, .xchk a b, .xchkV a b,
    .gwcondSet a, .gwcondClr a, .gwcondIns a b, .pbr t a] := by
  and_intros
  all_goals
    refine roundTrips_layR rfl (.inr (by decide)) rfl fun _ => ?_
    show dec00 _ = _
    simp [dec00, toNat_bounded]

theorem ret_roundTrips (a : Reg) (pop : BitVec 3) : RoundTrips (.ret a pop) := by
  refine roundTrips_layR rfl (.inr (by decide)) rfl fun (h : (pop != 7#3) = true) => ?_
  show dec00 _ = _
  simp [dec00, toNat_bounded, toNat_bne, h]

theorem rdctr_roundTrips (d sel : Reg) : RoundTrips (.rdctr d sel) := by
  refine roundTrips_layR rfl (.inr (by decide)) rfl fun (h : decide (sel.toNat ≤ 6) = true) => ?_
  show dec00 _ = _
  simp [dec00, h]

theorem major01_roundTrips (t : BitVec 2) (imm : Imm) : RoundTrips (.pbri t imm) := by
  refine roundTrips_layBody rfl (by decide) rfl fun h => ?_
  show dec01 _ (lentS 23 imm) = _
  simp [dec01, layBody_low, append_fields, toNat_bounded, effS_lent h]

theorem major02_roundTrips (t : BitVec 2) (cond pop : BitVec 3) (a : Reg) : RoundTrips (.br t cond pop a) := by
  refine roundTrips_layBody rfl (by decide) rfl fun (h : (cond != 7#3 && pop != 7#3 && (cond != 0#3 || a == 0#6)) = true) => ?_
  show dec02 _ = _
  simp only [Bool.and_eq_true] at h
  obtain ⟨⟨hc, hp⟩, ha⟩ := h
  simp [dec02, layBody_low, append_fields, toNat_bounded, toNat_beq, toNat_bne, hc, hp, ha]

theorem major03_roundTrips (t : BitVec 2) (pop : BitVec 3) (d : Reg) : RoundTrips (.brl t pop d) := by
  refine roundTrips_layBody rfl (by decide) rfl fun (h : (pop != 7#3) = true) => ?_
  show dec03 _ = _
  simp [dec03, layBody_low, append_fields, toNat_bounded, toNat_bne, h]

theorem major04_roundTrips (a : Reg) (imm : Imm) : RoundTrips (.loop a imm) := by
  refine roundTrips_layImm rfl (by decide) rfl fun h => ?_
  show dec04 _ (lentU 13 imm) = _
  simp [dec04, layImm_low, toNat_bounded, effU_lent h]

theorem major05_roundTrips (cnt : Imm) (imm : BitVec 13) : RoundTrips (.loopi cnt imm) := by
  refine roundTrips_layBody rfl (by decide) rfl fun h => ?_
  show dec05 _ (lentU 12 cnt) = _
  simp [dec05, layBody_low, append_fields, toNat_bounded, effU_lent h]

theorem major06_roundTrips (code : BitVec 24) : List.Forall RoundTrips [.trap code, .svc code] := by
  and_intros
  all_goals
    refine roundTrips_layBody rfl (by decide) rfl fun _ => ?_
    show dec06 _ = _
    simp [dec06, layBody_low, append_fields, toNat_bounded]

theorem major07_roundTrips (sc : Scope) : List.Forall RoundTrips [.phase sc, .fence sc] := by
  and_intros
  all_goals
    refine roundTrips_layBody rfl (by decide) rfl fun _ => ?_
    show dec07 _ = _
    simp [dec07, layBody_low, append_fields, toNat_bounded]

theorem phaseProbe_roundTrips (sc : Scope) (a b : Reg) : RoundTrips (.phaseProbe sc a b) := by
  refine roundTrips_layBody rfl (by decide) rfl fun (h : (sc == .package || sc == .gang) = true) => ?_
  show dec07 _ = _
  simp [dec07, layBody_low, append_fields, toNat_bounded, h]

/-! ## Majors 0x08 to 0x0E: scalar integers (09) -/

theorem major08_roundTrips (w : Bool) (d a b : Reg) : List.Forall RoundTrips [.add w d a b, .sub w d a b, .and w d a b, .or w d a b, .xor w d a b,
    .shl w d a b, .shr w d a b, .sar w d a b, .rot w d a b, .min w d a b, .max w d a b, .minn w d a b, .maxn w d a b, .seq w d a b, .slt w d a b,
    .sltn w d a b, .clz w d a, .ctz w d a, .popc w d a, .sel w d a b] := by
  and_intros
  all_goals
    refine roundTrips_layR rfl (.inl (by decide)) rfl fun _ => ?_
    show dec08 _ false = _
    cases w <;> simp [dec08, bit]

theorem two_bits (x : BitVec 2) : x = 0#2 ∨ x = 1#2 ∨ x = 2#2 ∨ x = 3#2 := by decide +revert

theorem lea_roundTrips (w : Bool) (sh : BitVec 2) (d a b : Reg) : RoundTrips (.lea w sh d a b) := by
  refine roundTrips_layR rfl (.inl (by decide)) rfl fun _ => ?_
  show dec08 _ false = _
  rcases two_bits sh with rfl | rfl | rfl | rfl <;> cases w <;> simp [dec08, bit]

theorem major09_roundTrips (w : Bool) (d a b : Reg) : List.Forall RoundTrips [.mul w d a b, .mulh w d a b, .mulhn w d a b, .div w d a b, .divn w d a b,
    .rem w d a b, .remn w d a b] := by
  and_intros
  all_goals
    refine roundTrips_layR rfl (.inl (by decide)) rfl fun _ => ?_
    show dec09 _ false = _
    cases w <;> simp [dec09, bit]

theorem major0A_roundTrips (d a : Reg) (imm : Imm) : RoundTrips (.addi d a imm) := by
  refine roundTrips_layImm rfl (by decide) rfl fun h => ?_
  show dec0A _ (lentS 13 imm) false = _
  simp [dec0A, layImm_low, toNat_bounded, effS_lent h]

theorem major0B_roundTrips (d a : Reg) (imm : Imm) : List.Forall RoundTrips [.andi d a imm, .ori d a imm, .xori d a imm] := by
  and_intros
  all_goals
    refine roundTrips_layImm rfl (by decide) rfl fun h => ?_
    show dec0B _ (lentU 11 imm) false = _
    simp [dec0B, layImm_low, append_fields, toNat_bounded, effU_lent h]

theorem major0C_roundTrips (w : Bool) (d a sh : Reg) : List.Forall RoundTrips [.shli w d a sh, .shri w d a sh, .sari w d a sh] := by
  and_intros
  all_goals
    refine roundTrips_layImm rfl (by decide) rfl fun (h : (!w || decide (sh.toNat < 32)) = true) => ?_
    show dec0C _ false = _
    simp [dec0C, layImm_low, append_fields, toNat_bounded, h]

theorem major0D_roundTrips (d a pos len : Reg) : List.Forall RoundTrips [.bfx d a pos len, .bfi d a pos len] := by
  and_intros
  all_goals
    refine roundTrips_layImm rfl (by decide) rfl fun (h : decide (pos.toNat + len.toNat < 64) = true) => ?_
    show dec0D _ false = _
    simp [dec0D, layImm_low, append_fields, toNat_bounded, h]

theorem movi_roundTrips (d : Reg) (imm : Imm) : RoundTrips (.movi d imm) := by
  refine roundTrips_layBody rfl (by decide) rfl fun h => ?_
  show dec0E _ (lentS 17 imm) false = _
  simp [dec0E, layBody_low, append_fields, toNat_bounded, effS_lent h]

theorem movhi_roundTrips (d : Reg) (imm : Imm) : RoundTrips (.movhi d imm) := by
  refine roundTrips_layBody rfl (by decide) rfl fun h => ?_
  show dec0E _ (lentU 17 imm) false = _
  simp [dec0E, layBody_low, append_fields, toNat_bounded, effU_lent h]

/-! ## Majors 0x10 to 0x13: scalar floating point (09) -/

theorem roundTrips_decF {i : Instr} {t : FTy} {d a b : BitVec 6} {f : BitVec 7} (he : encodeOp i = layR t.major d a b f)
    (h : i.wf = true → decF t (layR t.major d a b f) = .ok i) : RoundTrips i := by
  cases t <;> exact roundTrips_layR he (.inl (by decide)) rfl h

theorem scalarFloat_roundTrips (t : FTy) (rm : Rm) (c : BitVec 3) (d a b : Reg) : List.Forall RoundTrips [.fadd t rm d a b, .fsub t rm d a b, .fmul t rm d a b,
    .fdiv t rm d a b, .ffma t rm d a b, .fmin t d a b, .fmax t d a b, .fcmp t c d a b] := by
  and_intros
  all_goals
    refine roundTrips_decF rfl fun _ => ?_
    simp [decF, layR_low, append_fields, toNat_bounded]

theorem scalarUnary_roundTrips (t : FTy) (rm : Rm) (d a : Reg) : List.Forall RoundTrips [.fsqrt t rm d a, .fexp2 t rm d a, .flog2 t rm d a,
    .fexp t rm d a, .flog t rm d a, .fsin t rm d a, .fcos t rm d a, .ftanh t rm d a, .ferf t rm d a, .frcpa t rm d a, .frsqa t rm d a,
    .fclass t d a, .frnd t rm d a] := by
  and_intros
  all_goals
    refine roundTrips_decF rfl fun _ => ?_
    simp [decF, decFU, layR_low, append_fields, toNat_bounded]

theorem decFU_convert {t : FTy} {w : BitVec 32} {n : Nat} (hn : fieldOf w 12 7 = n) (h : 16 ≤ n) : decFU t w =
    if n < 16 || 48 ≤ n then .error 18
    else if n < 32 then
      (if 13 ≤ n - 16 then .error 21 else
        withRm true (fieldOf w 6 4) true (fun r => .fcvt t r (BitVec.ofNat 4 (n - 16)) (r6 (fieldOf w 24 19)) (r6 (fieldOf w 18 13))))
    else if n - 32 < 7 || 10 < n - 32 then .error 21
    else withRm true (fieldOf w 6 4) true (fun r => .fcvtFromInt t r (BitVec.ofNat 4 (n - 32)) (r6 (fieldOf w 24 19)) (r6 (fieldOf w 18 13))) := by
  rw [decFU, hn]
  obtain ⟨k, rfl⟩ := Nat.exists_eq_add_of_le' h
  rfl

theorem decF_unary (t : FTy) (maj d a b : BitVec 6) (rm : BitVec 3) : decF t (layRF maj d a b rm 15) = decFU t (layRF maj d a b rm 15) := by
  simp [decF, layRF, layR_low, append_fields]

theorem fcvt_roundTrips (t : FTy) (rm : Rm) (c : BitVec 4) (d a : Reg) : RoundTrips (.fcvt t rm c d a) := by
  refine roundTrips_decF rfl fun (h : decide (c.toNat < 13) = true) => ?_
  have hc : c.toNat < 13 := of_decide_eq_true h
  have hb : ((0b01 : BitVec 2) ++ c).toNat = c.toNat + 16 := by simp [append_toNat, Nat.add_comm]
  refine (decF_unary ..).trans ((decFU_convert ((layR_b ..).trans hb) (by omega)).trans ?_)
  have h1 : ¬ 32 ≤ c.toNat := by omega
  have h2 : ¬ 13 ≤ c.toNat := by omega
  simp [layR_low, append_fields, toNat_bounded, h1, h2]

theorem fcvtFromInt_roundTrips (t : FTy) (rm : Rm) (c : BitVec 4) (d a : Reg) : RoundTrips (.fcvtFromInt t rm c d a) := by
  refine roundTrips_decF rfl fun (h : (decide (7 ≤ c.toNat) && decide (c.toNat ≤ 10)) = true) => ?_
  simp only [Bool.and_eq_true, decide_eq_true_eq] at h
  obtain ⟨hlo, hhi⟩ := h
  have hb : ((0b10 : BitVec 2) ++ c).toNat = c.toNat + 32 := by simp [append_toNat, Nat.add_comm]
  refine (decF_unary ..).trans ((decFU_convert ((layR_b ..).trans hb) (by omega)).trans ?_)
  have hc : ¬ (c.toNat < 7 ∨ 10 < c.toNat) := by omega
  simp [layR_low, append_fields, toNat_bounded, hc]

/-! ## Majors 0x14 to 0x1F: memory (13) -/

theorem ld_roundTrips (ty : BitVec 3) (wt cl : Bool) (d a : Reg) (imm : Imm) : RoundTrips (.ld ty wt cl d a imm) := by
  refine roundTrips_layImm rfl (by decide) rfl fun (h : (ty != 7#3 && okU 8 imm) = true) => ?_
  show dec14 _ (lentU 8 imm) = _
  obtain ⟨ht, hi⟩ := Bool.and_eq_true_iff.1 h
  simp [dec14, layImm_low, append_fields, toNat_bounded, toNat_bne, ht, effU_lent hi]

theorem st_roundTrips (ty : BitVec 3) (d a : Reg) (imm : Imm) : RoundTrips (.st ty d a imm) := by
  refine roundTrips_layImm rfl (by decide) rfl fun (h : (ty != 7#3 && okU 8 imm) = true) => ?_
  show dec15 _ (lentU 8 imm) = _
  obtain ⟨ht, hi⟩ := Bool.and_eq_true_iff.1 h
  simp [dec15, layImm_low, append_fields, toNat_bounded, toNat_bne, ht, effU_lent hi]

theorem major16_roundTrips (wt cl : Bool) (d a : Reg) (imm : Imm) : List.Forall RoundTrips [.vld wt cl d a imm, .vst d a imm] := by
  and_intros
  all_goals
    refine roundTrips_layImm rfl (by decide) rfl fun h => ?_
    show dec16 _ (lentU 10 imm) = _
    simp [dec16, layImm_low, append_fields, toNat_bounded, effU_lent h]

theorem major17_roundTrips (wt cl : Bool) (d a cnt : Reg) : List.Forall RoundTrips [.vldm wt cl d a cnt, .vstm d a cnt] := by
  and_intros
  all_goals
    refine roundTrips_layImm rfl (by decide) rfl fun (h : decide (d.toNat + cnt.toNat < 64) = true) => ?_
    show dec17 _ = _
    simp [dec17, layImm_low, append_fields, toNat_bounded, h]

theorem major18_roundTrips (wt cl : Bool) (tv : BitVec 4) (a : Reg) (imm : Imm) : List.Forall RoundTrips [.tld wt cl tv a imm, .tst tv a imm] := by
  and_intros
  all_goals
    refine roundTrips_layImm rfl (by decide) rfl fun h => ?_
    show dec18 _ (lentU 10 imm) = _
    simp [dec18, layImm, fieldOf_eq, append_fields, toNat_bounded, effU_lent h]

theorem major19_roundTrips (a b : Reg) : List.Forall RoundTrips [.feset a b, .feclr a b] := by
  and_intros
  all_goals
    refine roundTrips_layR rfl (.inl (by decide)) rfl fun _ => ?_
    show dec19 _ = _
    simp [dec19, layR_low]

theorem atom_roundTrips (i32 : Bool) (op : BitVec 4) (q : BitVec 3) (a b : Reg) : RoundTrips (.atom i32 op q a b) := by
  refine roundTrips_layR rfl (.inl (by decide)) rfl fun (h : (decide (op.toNat < 10) && casOk op.toNat b.toNat) = true) => ?_
  show dec19 _ = _
  obtain ⟨ho, hb⟩ := Bool.and_eq_true_iff.1 h
  cases i32 <;> simp [dec19, layR_low, append_fields, toNat_bounded, bit, ho, hb]

theorem major1A_roundTrips (d a b : Reg) : List.Forall RoundTrips [.gget d a b, .gput d a b] := by
  and_intros
  all_goals
    refine roundTrips_layR rfl (.inl (by decide)) rfl fun _ => ?_
    show dec1A _ = _
    simp [dec1A]

theorem pld_roundTrips (ty q : BitVec 3) (k : BitVec 4) (a : Reg) : RoundTrips (.pld ty q k a) := by
  refine roundTrips_layBody rfl (by decide) rfl fun (h : (ty != 7#3) = true) => ?_
  show dec1B _ = _
  simp [dec1B, layBody_low, z6, append_fields, toNat_bounded, toNat_bne, h]

theorem pst_roundTrips (ty : BitVec 3) (k : BitVec 4) (a b : Reg) : RoundTrips (.pst ty k a b) := by
  refine roundTrips_layBody rfl (by decide) rfl fun (h : (ty != 7#3) = true) => ?_
  show dec1B _ = _
  simp [dec1B, layBody_low, append_fields, toNat_bounded, toNat_bne, h]

theorem patom_roundTrips (op q : BitVec 3) (k : BitVec 4) (a b : Reg) : RoundTrips (.patom op q k a b) := by
  refine roundTrips_layBody rfl (by decide) rfl fun (h : casOk op.toNat b.toNat = true) => ?_
  show dec1B _ = _
  simp [dec1B, layBody_low, append_fields, toNat_bounded, h]

theorem pget_roundTrips (k : BitVec 4) (a b l : Reg) : RoundTrips (.pget k a b l) := by
  refine roundTrips_layBody rfl (by decide) rfl fun _ => ?_
  show dec1B _ = _
  have hl : (l.extractLsb' 3 3).toNat * 8 + (l.extractLsb' 0 3).toNat = l.toNat := by
    rw [BitVec.extractLsb'_toNat, BitVec.extractLsb'_toNat]; omega
  simp [dec1B, layBody_low, append_fields, toNat_bounded, -BitVec.extractLsb'_toNat, hl]

theorem major1C_roundTrips (k : BitVec 4) (a b : Reg) : List.Forall RoundTrips [.lease k a b, .lrel k a b] := by
  and_intros
  all_goals
    refine roundTrips_layBody rfl (by decide) rfl fun _ => ?_
    show dec1C _ = _
    simp [dec1C, layBody_low, z6, append_fields, toNat_bounded]

theorem major1D_roundTrips (k kb : BitVec 4) (a b : Reg) : List.Forall RoundTrips [.capld k a, .capst k a, .capder k kb a b, .capchk k a b] := by
  and_intros
  all_goals
    refine roundTrips_layBody rfl (by decide) rfl fun _ => ?_
    show dec1D _ = _
    simp [dec1D, layBody_low, z6, append_fields, toNat_bounded]

theorem major1E_roundTrips (e : BitVec 1) (q : BitVec 3) (d a : Reg) : List.Forall RoundTrips [.sbind q a, .sunbind q, .sstatVal d q, .sstatQ d q, .sstatCe d e,
    .sstatCf d e, .sstatPut d] := by
  and_intros
  all_goals
    refine roundTrips_layR rfl (.inl (by decide)) rfl fun _ => ?_
    show dec1E _ = _
    simp [dec1E, toNat_bounded]

theorem publish_roundTrips (sc : Scope) (a : Reg) : RoundTrips (.publish sc a) := by
  refine roundTrips_layR rfl (.inl (by decide)) rfl fun h => ?_
  show dec1F _ = _
  cases sc
  case seq => exact absurd h Bool.false_ne_true
  all_goals simp [dec1F, Scope.code]

theorem residency_roundTrips (a b : Reg) : List.Forall RoundTrips [.reshPin a, .reshUnpin a, .reshPrio a b, .evict a, .evictDemote a, .pref a] := by
  and_intros
  all_goals
    refine roundTrips_layR rfl (.inl (by decide)) rfl fun _ => ?_
    show dec1F _ = _
    simp [dec1F]

theorem stage_roundTrips (e : BitVec 1) (n : Reg) : RoundTrips (.stage e n) := by
  refine roundTrips_layR rfl (.inl (by decide)) rfl fun (h : (n != 0#6) = true) => ?_
  show dec1F _ = _
  simp [dec1F, toNat_bounded, toNat_bne, h]

/-! ## Majors 0x20 to 0x2D: vectors (15) -/

theorem vectorFloat_roundTrips (t : Bool) (rm : Rm) (m : BitVec 3) (d a b : Reg) : List.Forall RoundTrips [.vadd t rm m d a b, .vsub t rm m d a b,
    .vmul t rm m d a b, .vfma t rm m d a b, .vfms t rm m d a b, .vdiv t rm m d a b] := by
  and_intros
  all_goals
    refine roundTrips_layR rfl (.inl (by decide)) rfl fun _ => ?_
    show decVF _ _ = _
    simp [decVF, append_fields, toNat_bounded]

theorem major26_roundTrips (t : Bool) (rm : Rm) (m : BitVec 3) (d a : Reg) : List.Forall RoundTrips [.vsqrt t rm m d a, .vrcpa t rm m d a, .vrsqa t rm m d a,
    .vexp2 t rm m d a, .vlog2 t rm m d a, .vexp t rm m d a, .vlog t rm m d a, .vsin t rm m d a, .vcos t rm m d a, .vtanh t rm m d a,
    .verf t rm m d a, .vabs t m d a, .vneg t m d a, .vclass t m d a] := by
  and_intros
  all_goals
    refine roundTrips_layR rfl (.inl (by decide)) rfl fun _ => ?_
    show dec26 _ = _
    simp [dec26, append_fields, toNat_bounded]

theorem major27_roundTrips (m : BitVec 3) (d a b : Reg) : List.Forall RoundTrips [.vaddI32 m d a b, .vsubI32 m d a b, .vmulI32 m d a b, .vmadi m d a b,
    .vand m d a b, .vor m d a b, .vxor m d a b, .vnot m d a, .vshl m d a b, .vshr m d a b, .vsar m d a b, .vabsI32 m d a, .vnegI32 m d a] := by
  and_intros
  all_goals
    refine roundTrips_layR rfl (.inl (by decide)) rfl fun _ => ?_
    show dec27 _ = _
    simp [dec27, append_fields]

theorem major28_roundTrips (ty : VTy) (cond c m : BitVec 3) (d a b : Reg) : List.Forall RoundTrips [.vmin ty m d a b, .vmax ty m d a b, .vcmp ty cond c m a b] := by
  and_intros
  all_goals
    refine roundTrips_layR rfl (.inl (by decide)) rfl fun _ => ?_
    show dec28 _ = _
    simp [dec28, low3, append_fields, toNat_bounded]

theorem vsel_roundTrips (ty : VTy) (m : BitVec 3) (d a b : Reg) : RoundTrips (.vsel ty m d a b) := by
  refine roundTrips_layR rfl (.inl (by decide)) rfl fun (h : (m != 0#3) = true) => ?_
  show dec28 _ = _
  simp [dec28, append_fields, toNat_bounded, toNat_bne, h]

theorem major29_roundTrips (tf ff : BitVec 4) (rm : Rm) (sat : Bool) (d a : Reg) : RoundTrips (.vcvt tf ff rm sat d a) := by
  refine roundTrips_layImm rfl (by decide) rfl fun (h : (decide (tf.toNat < 13) && decide (ff.toNat < 13)) = true) => ?_
  show dec29 _ = _
  simp only [Bool.and_eq_true, decide_eq_true_eq] at h
  obtain ⟨ht, hf⟩ := h
  simp [dec29, layImm_low, append_fields, toNat_bounded, ht, hf]

theorem major2A_roundTrips (w : BitVec 2) (d a b : Reg) : List.Forall RoundTrips [.vbcast w d a, .vperm w d a b, .vshuf w d a b, .vslide w d a b] := by
  and_intros
  all_goals
    refine roundTrips_layR rfl (.inl (by decide)) rfl fun _ => ?_
    show dec2A _ = _
    simp [dec2A, append_fields, toNat_bounded]

theorem vpack_roundTrips (w : BitVec 2) (hi sx : Bool) (d a b : Reg) : List.Forall RoundTrips [.vpack w d a b, .vunpack w hi sx d a] := by
  and_intros
  all_goals
    refine roundTrips_layR rfl (.inl (by decide)) rfl fun (h : (w != 3#2) = true) => ?_
    show dec2A _ = _
    simp [dec2A, append_fields, toNat_bounded, toNat_bne, h]

theorem major2B_roundTrips (op : RedOp) (ty : VTy) (rm : Rm) (m : BitVec 3) (d a : Reg) : List.Forall RoundTrips [.vred op ty rm m d a, .vscan op ty rm m d a] := by
  and_intros
  all_goals
    refine roundTrips_layImm rfl (by decide) rfl fun (h : (redLegal op ty && (redRounds op ty || rm == .ne)) = true) => ?_
    show dec2B _ = _
    obtain ⟨hl, hr⟩ := Bool.and_eq_true_iff.1 h
    have hm : (!redRounds op ty && rm.code.toNat != 0) = false := by
      obtain hr | hr := Bool.or_eq_true_iff.1 hr
      · simp [hr]
      · simp [eq_of_beq hr, Rm.code]
    simp [dec2B, layImm_low, append_fields, toNat_bounded, hl, hm]

theorem major2C_roundTrips (d a b : BitVec 3) (v : Reg) : List.Forall RoundTrips [.vmand d a b, .vmor d a b, .vmnot d a, .vmpopc v a] := by
  and_intros
  all_goals
    refine roundTrips_layR rfl (.inl (by decide)) rfl fun _ => ?_
    show dec2C _ = _
    simp [dec2C, toNat_bounded]

theorem vrng_roundTrips (d a b : Reg) : RoundTrips (.vrng d a b) := by
  refine roundTrips_layR rfl (.inl (by decide)) rfl fun (h : (a.toNat % 2 == 0) = true) => ?_
  show dec2C _ = _
  simp [dec2C, h]

theorem vw2enc_roundTrips (rm : Rm) (m : BitVec 3) (d a b : Reg) : RoundTrips (.vw2enc rm m d a b) := by
  refine roundTrips_layR rfl (.inl (by decide)) rfl fun _ => ?_
  show dec2D _ = _
  simp [dec2D, append_fields, toNat_bounded]

theorem vscale_roundTrips (fmt : BitVec 6) (rm : Rm) (m : BitVec 3) (d a : Reg) : RoundTrips (.vscale fmt rm m d a) := by
  refine roundTrips_layR rfl (.inl (by decide)) rfl fun (h : scaleFmt fmt.toNat = true) => ?_
  show dec2D _ = _
  simp [dec2D, append_fields, toNat_bounded, h]

/-! ## Majors 0x30 to 0x35: reversible ops (17) -/

theorem reversible_roundTrips (t : RTy) (rm : Rm) (d a b : Reg) : List.Forall RoundTrips [.rvmul t rm d a b, .urmul t rm d a b, .rvfma t rm d a b,
    .urfma t rm d a b, .rvadd t rm d a b, .uradd t rm d a b] := by
  and_intros
  all_goals
    refine roundTrips_layR rfl (.inl (by decide)) rfl fun _ => ?_
    show decRv _ _ _ = _
    simp [decRv, append_fields, toNat_bounded]

theorem major33_roundTrips (tf ff : BitVec 4) (rm : Rm) (d a : Reg) : List.Forall RoundTrips [.rvcvt tf ff rm d a, .urcvt tf ff rm d a] := by
  and_intros
  all_goals
    refine roundTrips_layImm rfl (by decide) rfl fun (h : narrows tf.toNat ff.toNat = true) => ?_
    show dec33 _ = _
    simp [dec33, layImm_low, append_fields, toNat_bounded, h]

theorem major34_roundTrips (bf : Bool) (rm : Rm) (d a b : Reg) : List.Forall RoundTrips [.rvrelu bf d a, .urrelu bf d a, .rvscale bf rm d a b,
    .urscale bf rm d a b] := by
  and_intros
  all_goals
    refine roundTrips_layR rfl (.inl (by decide)) rfl fun _ => ?_
    show dec34 _ = _
    simp [dec34, append_fields, toNat_bounded]

theorem drop_roundTrips (bf : Bool) (d a : Reg) (m : BitVec 3) : List.Forall RoundTrips [.rvdrop bf d a m, .urdrop bf d a m] := by
  and_intros
  all_goals
    refine roundTrips_layR rfl (.inl (by decide)) rfl fun (h : (m != 0#3) = true) => ?_
    show dec34 _ = _
    simp [dec34, append_fields, toNat_bounded, toNat_bne, h]

theorem major35_roundTrips (v : BitVec 4) (d a b : Reg) : List.Forall RoundTrips [.pusht v b, .popt v b, .rsmark d a, .rsck a b] := by
  and_intros
  all_goals
    refine roundTrips_layR rfl (.inl (by decide)) rfl fun _ => ?_
    show dec35 _ = _
    simp [dec35, toNat_bounded]

/-! ## Majors 0x38 to 0x3B: the matrix unit (19) -/

theorem major38_roundTrips (ent : BitVec 14) : RoundTrips (.mcall ent) := by
  refine roundTrips_layBody rfl (by decide) rfl fun _ => ?_
  show dec38 _ = _
  simp [dec38, layBody_low, append_fields, toNat_bounded]

theorem major39_roundTrips (p : BitVec 3) (d a b : Reg) : List.Forall RoundTrips [.mparm p a, .mfoffSet p a, .mfoff p a b, .mgath d a b] := by
  and_intros
  all_goals
    refine roundTrips_layR rfl (.inl (by decide)) rfl fun _ => ?_
    show dec39 _ = _
    simp [dec39, low3, append_fields, toNat_bounded]

theorem major3A_roundTrips (q : BitVec 2) (d b : Reg) : List.Forall RoundTrips [.dqpop d q, .dqst q b] := by
  and_intros
  all_goals
    refine roundTrips_layR rfl (.inl (by decide)) rfl fun _ => ?_
    show dec3A _ = _
    simp [dec3A, toNat_bounded]

theorem major3B_roundTrips (v : BitVec 2) (d a b : Reg) : List.Forall RoundTrips [.macst v b, .macld v b, .mload d a b] := by
  and_intros
  all_goals
    refine roundTrips_layR rfl (.inl (by decide)) rfl fun _ => ?_
    show dec3B _ = _
    simp [dec3B, toNat_bounded]

/-! ## Majors 0x3C and 0x3D: the fabric (25) -/

theorem major3C_roundTrips (ntf : Bool) (q : BitVec 2) (k : BitVec 4) (a b : Reg) : List.Forall RoundTrips [.fwr ntf k a b, .freq q k b] := by
  and_intros
  all_goals
    refine roundTrips_layR rfl (.inl (by decide)) rfl fun _ => ?_
    show dec3C _ = _
    simp [dec3C, append_fields, toNat_bounded]

theorem fmc_roundTrips (ntf : Bool) (k : BitVec 4) (a b : Reg) : RoundTrips (.fmc ntf k a b) := by
  refine roundTrips_layR rfl (.inl (by decide)) rfl fun (h : (b.toNat % 2 == 0) = true) => ?_
  show dec3C _ = _
  simp [dec3C, append_fields, toNat_bounded, h]

theorem fatom_roundTrips (op : BitVec 3) (q : BitVec 2) (k : BitVec 4) (a b : Reg) : RoundTrips (.fatom op q k a b) := by
  refine roundTrips_layR rfl (.inl (by decide)) rfl fun (h : casOk op.toNat b.toNat = true) => ?_
  show dec3C _ = _
  simp [dec3C, append_fields, h]

theorem major3D_roundTrips (d a b : Reg) : List.Forall RoundTrips [.fstatOut d, .fstatDone d, .fstatErr d, .fstatPeer d a, .fgrp a b] := by
  and_intros
  all_goals
    refine roundTrips_layR rfl (.inl (by decide)) rfl fun _ => ?_
    show dec3D _ = _
    simp [dec3D]

/-! ## Major 0x3E: privileged ops (27) -/

theorem eret_roundTrips : RoundTrips .eret := fun _ => rfl
theorem halt_roundTrips : RoundTrips .halt := fun _ => rfl

theorem major3E_roundTrips (d a b : Reg) : List.Forall RoundTrips [.tlbinv d a b, .tidset a b] := by
  and_intros
  all_goals
    refine roundTrips_layR rfl (.inl (by decide)) rfl fun _ => ?_
    show dec3E _ = _
    simp [dec3E]

theorem vwset_roundTrips (v a b : Reg) : RoundTrips (.vwset v a b) := by
  refine roundTrips_layR rfl (.inl (by decide)) rfl fun (h : decide (v.toNat ≤ 21) = true) => ?_
  show dec3E _ = _
  simp [dec3E, h]

theorem copyx_roundTrips (ds ss : Space) (d a b : Reg) : RoundTrips (.copyx ds ss d a b) := by
  refine roundTrips_layR rfl (.inl (by decide)) rfl fun _ => ?_
  show dec3E _ = _
  cases ds <;> cases ss <;> simp [dec3E, Space.code, Space.ofCode]

section ControlRegisters
variable (maj d : BitVec 6) (csr : BitVec 12) (f : BitVec 7)

theorem fieldsR_csr : fieldsR (layBody maj (no_index (d ++ csr ++ f))) = ⟨d.toNat, csr.toNat / 64, csr.toNat % 64, f.toNat⟩ := by
  simp [fieldsR, layBody_low, append_fields, toNat_bounded]
  omega

theorem csr_number : fieldOf (layBody maj (no_index (d ++ csr ++ f))) 18 7 = csr.toNat := by
  simp [layBody_low, append_fields, toNat_bounded]

end ControlRegisters

theorem csrr_roundTrips (d : Reg) (csr : BitVec 12) : RoundTrips (.csrr d csr) := by
  refine roundTrips_layBody rfl (by decide) rfl fun (h : csrExists csr.toNat = true) => ?_
  show dec3E _ = _
  simp [dec3E, fieldsR_csr, csr_number, h]

theorem csrwNamed_roundTrips (limit : Bool) (d : Reg) : List.Forall RoundTrips [.csrwFlags d, .csrwMode d, .csrwStage d, .csrwRsSpill limit d] := by
  and_intros
  all_goals
    refine roundTrips_layBody rfl (by decide) rfl fun _ => ?_
    show dec3E _ = _
    cases limit <;> simp [dec3E, fieldsR_csr, csr_number, csrExists]

theorem csrw_roundTrips (d : Reg) (csr : BitVec 12) : RoundTrips (.csrw d csr) := by
  refine roundTrips_layBody rfl (by decide) rfl fun (h : (csrExists csr.toNat && csr != 0x001#12 && csr != 0x070#12 && csr != 0x060#12 &&
    csr != 0x022#12 && csr != 0x023#12) = true) => ?_
  show dec3E _ = _
  simp only [Bool.and_eq_true, bne_iff_ne, BitVec.toNat_ne, BitVec.toNat_ofNat, Nat.reducePow, Nat.reduceMod] at h
  obtain ⟨⟨⟨⟨⟨hx, hf⟩, hm⟩, hs⟩, hb⟩, hl⟩ := h
  simp [dec3E, fieldsR_csr, csr_number, hx]

end Sys2Proof.Encoding
end

section
/-! PROOF. Decoding gives back every well-formed op, micro-op and packet (05 R62 to R85, 19 R325, 21 R346). -/

namespace Sys2Proof.Encoding

open Sys2Proof

/-! ## Every op of a bundle -/

theorem roundTrips_mem {l : List Instr} (h : List.Forall RoundTrips l) {i : Instr} (hi : i ∈ l) : RoundTrips i :=
  List.forall_iff_forall_mem.1 h i hi

/-- Every op of a bundle, by the lemma of its major. Operands that the lemma speaks of and the op does not have are 0. -/
theorem roundTrips_op (i : Instr) (hf : i.form = .op) : RoundTrips i := by
  cases i with
  | nop => exact fun _ => rfl
  | tend => exact tend_roundTrips
  | yieldOp => exact yieldOp_roundTrips
  | ret a pop => exact ret_roundTrips a pop
  | rdtime d => exact roundTrips_mem (major00_roundTrips 0 d 0 0) (by simp)
  | rdctr d sel => exact rdctr_roundTrips d sel
  | xchk a b | xchkV a b | gwcondIns a b => exact roundTrips_mem (major00_roundTrips 0 0 a b) (by simp)
  | gwcondSet a | gwcondClr a => exact roundTrips_mem (major00_roundTrips 0 0 a 0) (by simp)
  | pbr t a => exact roundTrips_mem (major00_roundTrips t 0 a 0) (by simp)
  | pbri t imm => exact major01_roundTrips t imm
  | br t cond pop a => exact major02_roundTrips t cond pop a
  | brl t pop d => exact major03_roundTrips t pop d
  | loop a imm => exact major04_roundTrips a imm
  | loopi cnt imm => exact major05_roundTrips cnt imm
  | trap code | svc code => exact roundTrips_mem (major06_roundTrips code) (by simp)
  | phase sc | fence sc => exact roundTrips_mem (major07_roundTrips sc) (by simp)
  | phaseProbe sc a b => exact phaseProbe_roundTrips sc a b
  | add w d a b | sub w d a b | and w d a b | or w d a b | xor w d a b | shl w d a b | shr w d a b | sar w d a b | rot w d a b
  | min w d a b | max w d a b | minn w d a b | maxn w d a b | seq w d a b | slt w d a b | sltn w d a b | sel w d a b =>
    exact roundTrips_mem (major08_roundTrips w d a b) (by simp)
  | clz w d a | ctz w d a | popc w d a => exact roundTrips_mem (major08_roundTrips w d a 0) (by simp)
  | lea w sh d a b => exact lea_roundTrips w sh d a b
  | mul w d a b | mulh w d a b | mulhn w d a b | div w d a b | divn w d a b | rem w d a b | remn w d a b =>
    exact roundTrips_mem (major09_roundTrips w d a b) (by simp)
  | addi d a imm => exact major0A_roundTrips d a imm
  | andi d a imm | ori d a imm | xori d a imm => exact roundTrips_mem (major0B_roundTrips d a imm) (by simp)
  | shli w d a sh | shri w d a sh | sari w d a sh => exact roundTrips_mem (major0C_roundTrips w d a sh) (by simp)
  | bfx d a pos len | bfi d a pos len => exact roundTrips_mem (major0D_roundTrips d a pos len) (by simp)
  | movi d imm => exact movi_roundTrips d imm
  | movhi d imm => exact movhi_roundTrips d imm
  | fadd t rm d a b | fsub t rm d a b | fmul t rm d a b | fdiv t rm d a b | ffma t rm d a b =>
    exact roundTrips_mem (scalarFloat_roundTrips t rm 0 d a b) (by simp)
  | fmin t d a b | fmax t d a b => exact roundTrips_mem (scalarFloat_roundTrips t .ne 0 d a b) (by simp)
  | fcmp t c d a b => exact roundTrips_mem (scalarFloat_roundTrips t .ne c d a b) (by simp)
  | fsqrt t rm d a | fexp2 t rm d a | flog2 t rm d a | fexp t rm d a | flog t rm d a | fsin t rm d a | fcos t rm d a | ftanh t rm d a
  | ferf t rm d a | frcpa t rm d a | frsqa t rm d a | frnd t rm d a => exact roundTrips_mem (scalarUnary_roundTrips t rm d a) (by simp)
  | fclass t d a => exact roundTrips_mem (scalarUnary_roundTrips t .ne d a) (by simp)
  | fcvt t rm c d a => exact fcvt_roundTrips t rm c d a
  | fcvtFromInt t rm c d a => exact fcvtFromInt_roundTrips t rm c d a
  | ld ty wt cl d a imm => exact ld_roundTrips ty wt cl d a imm
  | st ty d a imm => exact st_roundTrips ty d a imm
  | vld wt cl d a imm => exact roundTrips_mem (major16_roundTrips wt cl d a imm) (by simp)
  | vst d a imm => exact roundTrips_mem (major16_roundTrips false false d a imm) (by simp)
  | vldm wt cl d a cnt => exact roundTrips_mem (major17_roundTrips wt cl d a cnt) (by simp)
  | vstm d a cnt => exact roundTrips_mem (major17_roundTrips false false d a cnt) (by simp)
  | tld wt cl tv a imm => exact roundTrips_mem (major18_roundTrips wt cl tv a imm) (by simp)
  | tst tv a imm => exact roundTrips_mem (major18_roundTrips false false tv a imm) (by simp)
  | feset a b | feclr a b => exact roundTrips_mem (major19_roundTrips a b) (by simp)
  | atom i32 op q a b => exact atom_roundTrips i32 op q a b
  | gget d a b | gput d a b => exact roundTrips_mem (major1A_roundTrips d a b) (by simp)
  | pld ty q k a => exact pld_roundTrips ty q k a
  | pst ty k a b => exact pst_roundTrips ty k a b
  | patom op q k a b => exact patom_roundTrips op q k a b
  | pget k a b l => exact pget_roundTrips k a b l
  | lease k a b | lrel k a b => exact roundTrips_mem (major1C_roundTrips k a b) (by simp)
  | capld k a | capst k a => exact roundTrips_mem (major1D_roundTrips k 0 a 0) (by simp)
  | capder k kb a b => exact roundTrips_mem (major1D_roundTrips k kb a b) (by simp)
  | capchk k a b => exact roundTrips_mem (major1D_roundTrips k 0 a b) (by simp)
  | sbind q a => exact roundTrips_mem (major1E_roundTrips 0 q 0 a) (by simp)
  | sunbind q => exact roundTrips_mem (major1E_roundTrips 0 q 0 0) (by simp)
  | sstatVal d q | sstatQ d q => exact roundTrips_mem (major1E_roundTrips 0 q d 0) (by simp)
  | sstatCe d e | sstatCf d e => exact roundTrips_mem (major1E_roundTrips e 0 d 0) (by simp)
  | sstatPut d => exact roundTrips_mem (major1E_roundTrips 0 0 d 0) (by simp)
  | publish sc a => exact publish_roundTrips sc a
  | reshPin a | reshUnpin a | evict a | evictDemote a | pref a => exact roundTrips_mem (residency_roundTrips a 0) (by simp)
  | reshPrio a b => exact roundTrips_mem (residency_roundTrips a b) (by simp)
  | stage e n => exact stage_roundTrips e n
  | vadd t rm m d a b | vsub t rm m d a b | vmul t rm m d a b | vfma t rm m d a b | vfms t rm m d a b | vdiv t rm m d a b =>
    exact roundTrips_mem (vectorFloat_roundTrips t rm m d a b) (by simp)
  | vsqrt t rm m d a | vrcpa t rm m d a | vrsqa t rm m d a | vexp2 t rm m d a | vlog2 t rm m d a | vexp t rm m d a | vlog t rm m d a
  | vsin t rm m d a | vcos t rm m d a | vtanh t rm m d a | verf t rm m d a => exact roundTrips_mem (major26_roundTrips t rm m d a) (by simp)
  | vabs t m d a | vneg t m d a | vclass t m d a => exact roundTrips_mem (major26_roundTrips t .ne m d a) (by simp)
  | vaddI32 m d a b | vsubI32 m d a b | vmulI32 m d a b | vmadi m d a b | vand m d a b | vor m d a b | vxor m d a b | vshl m d a b
  | vshr m d a b | vsar m d a b => exact roundTrips_mem (major27_roundTrips m d a b) (by simp)
  | vnot m d a | vabsI32 m d a | vnegI32 m d a => exact roundTrips_mem (major27_roundTrips m d a 0) (by simp)
  | vmin ty m d a b | vmax ty m d a b => exact roundTrips_mem (major28_roundTrips ty 0 0 m d a b) (by simp)
  | vcmp ty cond c m a b => exact roundTrips_mem (major28_roundTrips ty cond c m 0 a b) (by simp)
  | vsel ty m d a b => exact vsel_roundTrips ty m d a b
  | vcvt tf ff rm sat d a => exact major29_roundTrips tf ff rm sat d a
  | vpack w d a b => exact roundTrips_mem (vpack_roundTrips w false false d a b) (by simp)
  | vunpack w hi sx d a => exact roundTrips_mem (vpack_roundTrips w hi sx d a 0) (by simp)
  | vbcast w d a => exact roundTrips_mem (major2A_roundTrips w d a 0) (by simp)
  | vperm w d a b | vshuf w d a b | vslide w d a b => exact roundTrips_mem (major2A_roundTrips w d a b) (by simp)
  | vred op ty rm m d a | vscan op ty rm m d a => exact roundTrips_mem (major2B_roundTrips op ty rm m d a) (by simp)
  | vrng d a b => exact vrng_roundTrips d a b
  | vmand d a b | vmor d a b => exact roundTrips_mem (major2C_roundTrips d a b 0) (by simp)
  | vmnot d a => exact roundTrips_mem (major2C_roundTrips d a 0 0) (by simp)
  | vmpopc d a => exact roundTrips_mem (major2C_roundTrips 0 a 0 d) (by simp)
  | vscale fmt rm m d a => exact vscale_roundTrips fmt rm m d a
  | vw2enc rm m d a b => exact vw2enc_roundTrips rm m d a b
  | rvmul t rm d a b | urmul t rm d a b | rvfma t rm d a b | urfma t rm d a b | rvadd t rm d a b | uradd t rm d a b =>
    exact roundTrips_mem (reversible_roundTrips t rm d a b) (by simp)
  | rvcvt tf ff rm d a | urcvt tf ff rm d a => exact roundTrips_mem (major33_roundTrips tf ff rm d a) (by simp)
  | rvrelu bf d a | urrelu bf d a => exact roundTrips_mem (major34_roundTrips bf .ne d a 0) (by simp)
  | rvscale bf rm d a b | urscale bf rm d a b => exact roundTrips_mem (major34_roundTrips bf rm d a b) (by simp)
  | rvdrop bf d a m | urdrop bf d a m => exact roundTrips_mem (drop_roundTrips bf d a m) (by simp)
  | pusht v b | popt v b => exact roundTrips_mem (major35_roundTrips v 0 0 b) (by simp)
  | rsmark d a => exact roundTrips_mem (major35_roundTrips 0 d a 0) (by simp)
  | rsck a b => exact roundTrips_mem (major35_roundTrips 0 0 a b) (by simp)
  | mcall ent => exact major38_roundTrips ent
  | mparm p a | mfoffSet p a => exact roundTrips_mem (major39_roundTrips p 0 a 0) (by simp)
  | mfoff o a l => exact roundTrips_mem (major39_roundTrips o 0 a l) (by simp)
  | mgath n a b => exact roundTrips_mem (major39_roundTrips 0 n a b) (by simp)
  | dqpop d q => exact roundTrips_mem (major3A_roundTrips q d 0) (by simp)
  | dqst q b => exact roundTrips_mem (major3A_roundTrips q 0 b) (by simp)
  | macst v b | macld v b => exact roundTrips_mem (major3B_roundTrips v 0 0 b) (by simp)
  | mload d a b => exact roundTrips_mem (major3B_roundTrips 0 d a b) (by simp)
  | fwr ntf k a b => exact roundTrips_mem (major3C_roundTrips ntf 0 k a b) (by simp)
  | freq q k b => exact roundTrips_mem (major3C_roundTrips false q k 0 b) (by simp)
  | fatom op q k a b => exact fatom_roundTrips op q k a b
  | fmc ntf k a b => exact fmc_roundTrips ntf k a b
  | fstatOut d | fstatDone d | fstatErr d => exact roundTrips_mem (major3D_roundTrips d 0 0) (by simp)
  | fstatPeer d a => exact roundTrips_mem (major3D_roundTrips d a 0) (by simp)
  | fgrp a b => exact roundTrips_mem (major3D_roundTrips 0 a b) (by simp)
  | csrr d csr => exact csrr_roundTrips d csr
  | csrw d csr => exact csrw_roundTrips d csr
  | csrwFlags d | csrwMode d | csrwStage d => exact roundTrips_mem (csrwNamed_roundTrips false d) (by simp)
  | csrwRsSpill limit d => exact roundTrips_mem (csrwNamed_roundTrips limit d) (by simp)
  | eret => exact eret_roundTrips
  | halt => exact halt_roundTrips
  | tlbinv d a b => exact roundTrips_mem (major3E_roundTrips d a b) (by simp)
  | tidset a b => exact roundTrips_mem (major3E_roundTrips 0 a b) (by simp)
  | vwset v a b => exact vwset_roundTrips v a b
  | copyx ds ss d a b => exact copyx_roundTrips ds ss d a b
  | _ => cases hf

/-! ## Micro-ops (19 R325) -/

theorem decodeMicro_encodeMicro (i : Instr) (hf : i.form = .micro) (hw : i.wf = true) : decodeMicro (encodeMicro i) = some i := by
  cases i with
  | unop | uend => rfl
  | uxset | uxadd | uxldp | ubnz | uwait | uwld | umac | uzero | uxmov =>
    simp [encodeMicro, decodeMicro, fieldOf_eq, append_fields, toNat_bounded]
  | ukadd src x imm =>
    have h : (!src || imm == 0#16) = true := hw
    cases src <;> simp_all [encodeMicro, decodeMicro, fieldOf_eq, append_fields, toNat_bounded, bit]
  | uloop last src count =>
    have h : (!src || decide (count.toNat < 4)) = true := hw
    have hc : src = true → count.toNat / 4 % 1024 = 0 := by
      rintro rfl
      rw [Nat.div_eq_of_lt (of_decide_eq_true h)]
    cases src <;> simp_all [encodeMicro, decodeMicro, fieldOf_eq, append_fields, toNat_bounded, bit]
  | _ => cases hf

/-! ## Command packets (21 R346, R347) -/

@[simp] theorem quadOf_words (q : Word) : quadOf (loWord q) (hiWord q) = q := by
  apply BitVec.eq_of_toNat_eq
  simp only [quadOf, loWord, hiWord, append_toNat, BitVec.truncate_eq_setWidth, BitVec.toNat_setWidth, BitVec.toNat_ushiftRight]
  omega

theorem loWord_zero : loWord 0#64 = 0#32 := rfl
theorem hiWord_zero : hiWord 0#64 = 0#32 := rfl
theorem quadOf_zero : quadOf 0#32 0#32 = 0#64 := rfl

/-- The packet decodes from its header and its payload. -/
def PacketDecodes (i : Instr) : Prop := ∃ h ps, encodePacket i = h :: ps ∧ decodePacket h ps = .ok i

theorem packetDecodes_of {i : Instr} {h : BitVec 32} {ps : List (BitVec 32)} (he : encodePacket i = h :: ps) (hd : decodePacket h ps = .ok i) :
    PacketDecodes i := ⟨h, ps, he, hd⟩

theorem packetDecodes_pred (sense : Bool) (span : BitVec 12) (addr mask value : Word) (h : span.toNat ≠ 0) :
    PacketDecodes (.pred sense span addr mask value) := by
  refine packetDecodes_of rfl ?_
  simp [decodePacket, packetHeader, fieldOf_eq, append_fields, toNat_bounded, h]

theorem packetDecodes_loop (span : BitVec 12) (rep : BitVec 32) (h : span.toNat ≠ 0) : PacketDecodes (.loopPacket span rep) := by
  refine packetDecodes_of rfl ?_
  simp [decodePacket, packetHeader, fieldOf_eq, append_fields, toNat_bounded, h]

theorem packetDecodes_writeMemory (addr : Word) (data : List (BitVec 32)) (h0 : 1 ≤ data.length) (h1 : data.length ≤ 2045) :
    PacketDecodes (.writeMemory addr data) := by
  cases data with
  | nil => exact absurd h0 (by decide)
  | cons x ds =>
    have hlen : ds.length < 2045 := h1
    refine packetDecodes_of rfl ?_
    simp [decodePacket, packetHeader, fieldOf_eq, append_fields, hlen]

theorem packetDecodes_budget (cls : BitVec 3) (value : BitVec 24) (h : cls.toNat < 6) : PacketDecodes (.budget cls value) := by
  refine packetDecodes_of rfl ?_
  simp [decodePacket, packetHeader, fieldOf_eq, append_fields, toNat_bounded, h]

theorem packetDecodes_sched (load : Bool) (look : BitVec 4) (step saddr : Word) (scount : BitVec 32) (eaddr : Word) (ecount : BitVec 32)
    (hl : look.toNat ≤ 8) (h : load = true ∨ (saddr = 0 ∧ scount = 0 ∧ eaddr = 0 ∧ ecount = 0)) :
    PacketDecodes (.sched load look step saddr scount eaddr ecount) := by
  refine packetDecodes_of rfl ?_
  obtain rfl | ⟨rfl, rfl, rfl, rfl⟩ := h
  · simp [decodePacket, packetHeader, fieldOf_eq, append_fields, toNat_bounded, bit, hl]
  · cases load <;> simp [decodePacket, packetHeader, fieldOf_eq, append_fields, toNat_bounded, bit, loWord_zero, hiWord_zero, quadOf_zero, Nat.not_lt.2 hl]

theorem packetDecodes_packet (i : Instr) (hf : i.form = .packet) (hw : i.wf = true) : PacketDecodes i := by
  cases i with
  | nopPacket | waitIdle | ffence => exact ⟨_, _, rfl, rfl⟩
  | launchTask | launchGraph | timed | indirect | writeCondWord | waitPacket | event | launchGraphResident =>
    refine packetDecodes_of rfl ?_
    simp [decodePacket, packetHeader, fieldOf_eq, append_fields, toNat_bounded]
  | pred sense span addr mask value => exact packetDecodes_pred sense span addr mask value (BitVec.toNat_ne_iff_ne.2 (bne_iff_ne.1 hw))
  | loopPacket span rep => exact packetDecodes_loop span rep (BitVec.toNat_ne_iff_ne.2 (bne_iff_ne.1 hw))
  | writeMemory addr data =>
    obtain ⟨h0, h1⟩ := Bool.and_eq_true_iff.1 hw
    exact packetDecodes_writeMemory addr data (of_decide_eq_true h0) (of_decide_eq_true h1)
  | sched load look step saddr scount eaddr ecount =>
    obtain ⟨hl, h⟩ := Bool.and_eq_true_iff.1 hw
    exact packetDecodes_sched _ _ _ _ _ _ _ (of_decide_eq_true hl) (by simpa [and_assoc] using h)
  | budget cls value => exact packetDecodes_budget cls value (of_decide_eq_true hw)
  | _ => cases hf

end Sys2Proof.Encoding

open Sys2Proof Sys2Proof.Encoding

/-- Settles O55: `roundTrips_op`, `decodeMicro_encodeMicro` and `packetDecodes_packet`, one for each kind of word. -/
theorem encodeDecodeAgree : Obligations.EncodeDecodeAgree := fun i hw =>
  ⟨fun hf => roundTrips_op i hf hw, fun hf => decodeMicro_encodeMicro i hf hw, fun hf => packetDecodes_packet i hf hw⟩

/-- Settles O56: the words are evaluated. -/
theorem specWordsDecode : Obligations.SpecWordsDecode := by
  refine ⟨?_, rfl, rfl⟩
  decide

end

section
/-! PROOF. What the control ops change (09 R134, R135, R148 to R155): target registers, fences, and updates of a condition word. -/

namespace Sys2Proof.Machine

open Sys2Proof

/-! ## Target registers (R134, R135) -/

theorem three_getElem {i : Nat} (h : 2 ≤ i) (h52 : i < 52) : (3#52)[i] = false := by
  have h3 : Nat.testBit 3 i = false := Nat.testBit_lt_two_pow (calc 3 < 2 ^ 2 := by decide
    _ ≤ 2 ^ i := Nat.pow_le_pow_right (by decide) h)
  rw [← BitVec.getLsbD_eq_getElem, BitVec.getLsbD_ofNat, h3, Bool.and_false]

/-- A register's address loses its two low bits. -/
theorem aligned_eq (x : Word) : x.extractLsb' 2 50 ++ (0 : BitVec 2) = x.truncate 52 &&& ~~~ 3 := by
  refine BitVec.eq_of_getLsbD_eq fun i hi => ?_
  rw [BitVec.getLsbD_append, BitVec.getLsbD_and, BitVec.getLsbD_not, BitVec.getLsbD_extractLsb']
  by_cases h : i < 2
  · have hc : i = 0 ∨ i = 1 := by omega
    rcases hc with rfl | rfl <;> simp
  · have h52 : i < 52 := hi
    have h3 : (3#52)[i] = false := three_getElem (by omega) h52
    have h2 : 2 + (i - 2) = i := by omega
    have h1 : i - 2 < 50 := by omega
    simp [h, h3, h1, h2, h52]

theorem shifted_eq (imm : Imm) : (imm <<< 2).truncate 52 = 4 * imm.truncate 52 := by
  have h4 : (4 : BitVec 52).toNat = 4 := rfl
  apply BitVec.eq_of_toNat_eq
  simp only [BitVec.truncate_eq_setWidth, BitVec.toNat_setWidth, BitVec.toNat_shiftLeft, BitVec.toNat_mul, h4, Nat.shiftLeft_eq]
  omega

theorem prepare_pending (s : State) (t : BitVec 2) (v : BitVec 52) :
    (s.prepare t v).here.pending = s.here.pending ++ [resultAt s 1 [.b t.toNat v]] := by
  have h := here_pend s 1 [.b t.toNat v] 0
  simp only [State.prepare, State.modMe, State.here, modSq_cur, pend_cur, core_modSq_same, setE_pending] at h ⊢
  rw [h]
  rfl

/-! ## Fences (R152) -/

section Fences
variable (s : State) (c j : Nat) (z : Bool) (f : Seq → Seq)

/-- What a cluster holds beside its cores, a change of a sequencer leaves. -/
theorem cl_modSq_other {A : Type} {g : Cluster → A} (hg : ∀ x y, g (Cluster.setCo x j y) = g x) (b : Nat) :
    g ((s.modSq c j z f).cl b) = g (s.cl b) := by
  rw [State.modSq, State.modE, State.modCore, State.setCore, cl_setCl]
  split
  · rename_i h; rw [h, hg]
  · rfl

theorem pending_modSq (b k : Nat) : ((s.modSq c j z f).core b k).pending = (s.core b k).pending := by
  rw [State.modSq, core_modE]
  split
  · rename_i h; obtain ⟨rfl, rfl⟩ := h; rfl
  · rfl

/-- Whether a fence has passed does not rest on a sequencer's own records. -/
theorem fencePassed_modSq (cl k : Nat) (sec : Bool) (n : Nat) (sc : Scope) :
    (s.modSq c j z f).fencePassed cl k sec n sc = s.fencePassed cl k sec n sc := by
  have hctx : ((s.modSq c j z f).cl cl).ctx = (s.cl cl).ctx := cl_modSq_other s c j z f (fun _ _ => rfl) cl
  have hheld : ((s.modSq c j z f).cl cl).held = (s.cl cl).held := cl_modSq_other s c j z f (fun _ _ => rfl) cl
  have hpwb : ((s.modSq c j z f).cl cl).pwb = (s.cl cl).pwb := cl_modSq_other s c j z f (fun _ _ => rfl) cl
  have hpend := pending_modSq s c j z f cl k
  cases sc <;> simp only [State.fencePassed, State.openXfers, State.holdsOf, State.openPool, State.pstFlying, State.openFab,
    modSq_xfers, modSq_pool, modSq_fabric, hctx, hheld, hpwb, hpend]

end Fences

/-- What the frame says of a sequencer. -/
theorem Frame.sq_eq {s t : State} (h : t.frame = s.frame) (c k : Nat) (z : Bool) : (t.sq c k z).bare = (s.sq c k z).bare := by
  rw [State.sq, State.sq, ← bare_sq, ← bare_sq]
  exact congrArg (fun y => y.e.sq z) (Frame.core_eq h c k)

theorem Frame.fences_eq {s t : State} (h : t.frame = s.frame) (c k : Nat) (z : Bool) : (t.sq c k z).fences = (s.sq c k z).fences :=
  congrArg (fun q => q.fences) (Frame.sq_eq h c k z)

theorem Frame.bounds_eq {s t : State} (h : t.frame = s.frame) (c k : Nat) (z : Bool) : (t.sq c k z).bounds = (s.sq c k z).bounds :=
  congrArg (fun q => q.bounds) (Frame.sq_eq h c k z)

theorem fencePush_frame (s : State) (cl k : Nat) (sec : Bool) : (s.fencePush cl k sec).frame = s.frame := by
  unfold State.fencePush
  split
  · rfl
  · split
    · rfl
    · exact writeHome_frame _ _ _ _ _

theorem settleN_of_no_bounds {s : State} {cl k : Nat} {sec : Bool} (hb : (s.sq cl k sec).bounds = []) :
    s.settleN cl k sec (s.sq cl k sec).bounds.length = s := by
  rw [hb]
  rfl

theorem settle_cur {s : State} {cl k : Nat} {sec : Bool} (hb : (s.sq cl k sec).bounds = []) : (s.settle cl k sec).cur = s.cur := by
  simp only [State.settle, settleN_of_no_bounds hb]
  exact congrArg Frame.cur (fencePush_frame s cl k sec)

/-- Where no boundary waits, settling a sequencer drops the fences that have passed, and no others. -/
theorem settle_fences {s : State} {cl k : Nat} {sec : Bool} (hb : (s.sq cl k sec).bounds = []) :
    ((s.settle cl k sec).sq cl k sec).fences =
      (s.sq cl k sec).fences.filter (fun f => !(s.settle cl k sec).fencePassed cl k sec f.1 f.2) := by
  have hf := Frame.fences_eq (fencePush_frame s cl k sec) cl k sec
  simp only [State.settle, settleN_of_no_bounds hb, sq_modSq, if_true, fencePassed_modSq, hf]

/-! Numbers for what is in flight only rise. -/

theorem foldl_fresh {A : Type} {f : State → A → State} (hf : ∀ t x, t.fresh ≤ (f t x).fresh) (l : List A) (s : State) :
    s.fresh ≤ (l.foldl f s).fresh := by
  induction l generalizing s with
  | nil => exact Nat.le_refl _
  | cons x r ih => exact (hf s x).trans (ih _)

@[simp] theorem pickVer_fresh (s : State) (cl k : Nat) (sec : Bool) (phase n : Nat) (vs : List Ver) :
    (s.pickVer cl k sec phase n vs).2.fresh = s.fresh := by
  unfold State.pickVer
  dsimp only
  split
  · rfl
  · rw [apply_ite Prod.snd, apply_ite State.fresh]
    exact ite_self _

@[simp] theorem localBytes_fresh (s : State) (r : PoolReq) (gs : List Nat) (a n : Nat) : (s.localBytes r gs a n).2.fresh = s.fresh := by
  induction n generalizing s a with
  | zero => rfl
  | succ n ih =>
    unfold State.localBytes
    dsimp only
    split <;> simp [ih, State.poolByteAt]

theorem charge_fresh {s t : State} {part cls n : Nat} (h : s.charge part cls n = some t) : t.fresh = s.fresh := by
  have hm (q : Nat) (f : Partition → Partition) : (s.modPart q f).fresh = s.fresh := by unfold State.modPart; split <;> rfl
  unfold State.charge at h
  dsimp only at h
  (repeat' split at h) <;> cases h
  · rfl
  · exact hm _ _
  · exact hm _ _

@[simp] theorem sendReq_fresh (s : State) (r : PoolReq) : (s.sendReq r).fresh = s.fresh := by
  simp only [State.sendReq, State.takeSeq]
  split <;> rfl

theorem sendPart_fresh (s : State) (r : PoolReq) (n : Nat) : s.fresh ≤ (s.sendPart r n).fresh :=
  (Nat.le_succ _).trans (Nat.le_of_eq (congrArg (· + 1) (sendReq_fresh s _).symm))

theorem postFault_fresh (s : State) (ctx c k : Nat) (sec : Bool) (r : TrapRec) : (s.postFault ctx c k sec r).fresh = s.fresh := by
  unfold State.postFault State.modEOf
  split <;> rfl

theorem readFault_fresh (s : State) (r : PoolReq) (m : LineMark) : (s.readFault r m).fresh = s.fresh := postFault_fresh _ _ _ _ _ _

theorem poolRead_fresh {s : State} {n : Nat} (h : n ≤ s.fresh) (r : PoolReq) (bs : List Byte) : n ≤ (s.poolRead r bs).fresh := by
  unfold State.poolRead
  split
  · dsimp only
    split
    · exact Nat.le_succ_of_le h
    · exact h
  all_goals exact h

theorem trySend_fresh (s : State) (r : PoolReq) : s.fresh ≤ (s.trySend r).fresh := by
  unfold State.trySend
  split
  · exact Nat.le_refl _
  · dsimp only
    generalize ((r.kind == kRead || r.kind == kGet) && r.right != 15) = read
    generalize hb : (if read = true then s.localBytes r _ _ _ else ([], s)) = p
    have hp : p.2.fresh = s.fresh := by rw [← hb]; split <;> simp
    generalize (if read = true then r.knows p.1 else r) = q
    split
    · exact (readFault_fresh s r _).ge
    · split
      · refine poolRead_fresh ?_ _ _
        exact hp.ge
      · split
        · split
          · rename_i u hu
            rw [sendReq_fresh, charge_fresh hu, hp]
          · split
            · exact Nat.le_refl _
            · split
              · exact Nat.le_refl _
              · rename_i u hu
                exact (charge_fresh hu).ge.trans (sendPart_fresh _ _ _)
        · exact Nat.le_refl _

theorem flushPool_fresh (s : State) (cl k : Nat) (sec : Bool) : s.fresh ≤ (s.flushPool cl k sec).fresh := by
  unfold State.flushPool State.pumpPool
  refine (foldl_fresh (fun t w => ?_) _ s).trans (foldl_fresh (fun t i => ?_) _ _)
  · exact Nat.le_succ _
  · split
    · exact Nat.le_refl _
    · exact trySend_fresh _ _

/-- The state in which a fence gets its number, after what the sequencer has in the pool write buffer has left. -/
theorem fence_flush {s u : State} {cl k : Nat} {sec : Bool} {sc : Scope} (hu : (if sc = .package ∨ sc = .gang then s.flushPool cl k sec else s) = u) :
    u.frame = s.frame ∧ s.fresh ≤ u.fresh := by
  rw [← hu]
  split
  · exact ⟨flushPool_frame _ _ _ _, flushPool_fresh _ _ _ _⟩
  · exact ⟨rfl, Nat.le_refl _⟩

theorem joinFence_sq (u : State) (cl k : Nat) (sec : Bool) (x : Nat × Scope) :
    (u.modSq cl k sec (fun q => { q with fences := q.fences ++ [x] })).tick1.sq cl k sec =
      { u.sq cl k sec with fences := (u.sq cl k sec).fences ++ [x] } := by
  simp only [State.sq, core_tick1, core_modSq_same, setE_e, setSq_sq, if_true]

/-- A fence joins those of its sequencer under a new number, and those that have passed are done with. -/
theorem startFence_fences {s : State} {cl k : Nat} {sec : Bool} (sc : Scope) (hb : (s.sq cl k sec).bounds = []) :
    ∃ n, s.fresh ≤ n ∧ (s.startFence cl k sec sc).cur = s.cur ∧ ((s.startFence cl k sec sc).sq cl k sec).fences =
      ((s.sq cl k sec).fences ++ [(n, sc)]).filter (fun f => !(s.startFence cl k sec sc).fencePassed cl k sec f.1 f.2) := by
  unfold State.startFence
  generalize hu : (if sc = .package ∨ sc = .gang then s.flushPool cl k sec else s) = u
  obtain ⟨hframe, hfresh⟩ := fence_flush hu
  have hsq := joinFence_sq u cl k sec (u.fresh, sc)
  have hcur : (u.modSq cl k sec (fun q => { q with fences := q.fences ++ [(u.fresh, sc)] })).tick1.cur = s.cur := congrArg Frame.cur hframe
  rw [Frame.fences_eq hframe] at hsq
  dsimp only
  generalize (u.modSq cl k sec (fun q => { q with fences := q.fences ++ [(u.fresh, sc)] })).tick1 = v at hsq hcur
  have hvb : (v.sq cl k sec).bounds = [] := by rw [hsq]; exact (Frame.bounds_eq hframe _ _ _).trans hb
  have hvf : (v.sq cl k sec).fences = (s.sq cl k sec).fences ++ [(u.fresh, sc)] := by rw [hsq]
  exact ⟨u.fresh, hfresh, (settle_cur hvb).trans hcur, (settle_fences hvb).trans (by rw [hvf])⟩

theorem execFence_fences {s : State} (sc : Scope) (hb : s.me.bounds = []) : ∃ n t, exec (.fence sc) s = .next t ∧ s.fresh ≤ n ∧
    t.me.fences = (s.me.fences ++ [(n, sc)]).filter (fun f => !t.fencePassed s.cur.cl s.cur.core s.cur.sec f.1 f.2) := by
  obtain ⟨n, hn, hcur, hf⟩ := startFence_fences sc hb
  refine ⟨n, _, rfl, hn, ?_⟩
  have hme : (s.startFence s.cur.cl s.cur.core s.cur.sec sc).me = (s.startFence s.cur.cl s.cur.core s.cur.sec sc).sq s.cur.cl s.cur.core s.cur.sec := by
    simp only [State.me, State.e, State.here, State.sq, hcur]
  rw [hme]
  exact hf

/-! ## Condition words (R150) -/

theorem gwcond_none {s : State} (h : s.taskGraph = none) (op : CondOp) (v m : Word) : s.gwcond op v m = s := by
  rw [State.gwcond, h]

theorem gwcond_some {s : State} {c g : Nat} (h : s.taskGraph = some (c, g)) (op : CondOp) (v m : Word) :
    s.gwcond op v m = { s with condQueue := s.condQueue ++
      [{ ctx := s.hereCtxId, cl := c, slot := g, src := .gwcond, op := op, value := v, mask := m }] } := by
  rw [State.gwcond, h]

end Sys2Proof.Machine

open Sys2Proof Sys2Proof.Machine

/-- Settles O10, a clause for each op. -/
theorem controlResults : Obligations.ControlResults := by
  intro t imm e n d a b sel sc s
  refine ⟨rfl, ?_, ?_, prepare_pending s t, rfl, execFence_fences sc, rfl, rfl, ?_, ?_⟩
  · exact congrArg (fun v => Host.Outcome.next (s.prepare t v)) (aligned_eq (s.g a))
  · exact congrArg (fun v => Host.Outcome.next (s.prepare t (s.cur.pc + v))) (shifted_eq imm)
  · intro h
    have hg (op : CondOp) (v m : Word) := congrArg (Host.Outcome.next (φ := Fault) (ρ := Refusal)) (gwcond_none h op v m)
    exact ⟨hg .set (s.g a) 0, hg .clr (s.g a) 0, hg .ins (s.g a) (s.g b)⟩
  · intro c g h sent
    have hg (op : CondOp) (v m : Word) := congrArg (Host.Outcome.next (φ := Fault) (ρ := Refusal)) (gwcond_some h op v m)
    exact ⟨hg .set (s.g a) 0, hg .clr (s.g a) 0, hg .ins (s.g a) (s.g b)⟩

end

section
/-! PROOF. Rounding of a magnitude at a quantum (07 R111): what atQuantum, expOf and roundNat give, as rational numbers. -/

namespace Sys2Proof.Machine

open Sys2Proof

/-! ## The exact magnitude -/

/-- The magnitude num / den × 2^e that ROUND is given. -/
def exactMag (num den : Nat) (e : Int) : ℚ := (num : ℚ) / den * (2 : ℚ) ^ e

/-- The two powers by which a quantum is reached, one of which is 1, make the one of their difference. -/
theorem zpow_eq_toNat_div (k : Int) : (2 : ℚ) ^ k = 2 ^ k.toNat / 2 ^ (-k).toNat := by
  obtain ⟨n, rfl | rfl⟩ := k.eq_nat_or_neg <;> simp

/-- Quotient and remainder at a quantum make the exact magnitude. -/
theorem atQuantum_spec {num den : Nat} (e q : Int) (hd : den ≠ 0) :
    (atQuantum num den e q).2.1 < (atQuantum num den e q).2.2 ∧
      exactMag num den e = ((atQuantum num den e q).1 + ((atQuantum num den e q).2.1 : ℚ) / (atQuantum num den e q).2.2) * 2 ^ q := by
  simp only [atQuantum]
  set a := num * 2 ^ (e - q).toNat with ha
  set d := den * 2 ^ (q - e).toNat with hdd
  have hd0 : 0 < d := Nat.mul_pos (Nat.pos_of_ne_zero hd) (Nat.two_pow_pos _)
  refine ⟨Nat.mod_lt _ hd0, ?_⟩
  have hdq : (d : ℚ) ≠ 0 := by exact_mod_cast hd0.ne'
  have hsplit : ((a / d : Nat) : ℚ) + ((a % d : Nat) : ℚ) / d = (a : ℚ) / d := by
    rw [eq_div_iff hdq, add_mul, div_mul_cancel₀ _ hdq]
    exact_mod_cast Nat.div_add_mod' a d
  have hpow : (2 : ℚ) ^ e = 2 ^ (e - q).toNat / 2 ^ (q - e).toNat * 2 ^ q := by
    rw [← neg_sub e q, ← zpow_eq_toNat_div, ← zpow_add₀ two_ne_zero, sub_add_cancel]
  have hden : (den : ℚ) ≠ 0 := by exact_mod_cast hd
  rw [hsplit, exactMag, hpow, ha, hdd]
  push_cast
  field_simp

/-- The comparison by which expOf corrects its first guess. -/
theorem expOf_guess (num den : Nat) (k : Int) :
    (if 0 ≤ k then decide (num < den * 2 ^ k.toNat) else decide (num * 2 ^ (-k).toNat < den)) = decide ((num : ℚ) < den * 2 ^ k) := by
  have hb : (0 : ℚ) < 2 ^ (-k).toNat := by positivity
  have h : (num : ℚ) < den * 2 ^ k ↔ num * 2 ^ (-k).toNat < den * 2 ^ k.toNat := by
    rw [zpow_eq_toNat_div, ← mul_div_assoc, lt_div_iff₀ hb]
    exact_mod_cast Iff.rfl
  split
  · rw [decide_eq_decide, h, show (-k).toNat = 0 by omega, pow_zero, mul_one]
  · rw [decide_eq_decide, h, show k.toNat = 0 by omega, pow_zero, mul_one]

/-- A number lies between the power of its leading bit and the next one. -/
theorem log2_bounds {n : Nat} (h : n ≠ 0) : (2 : ℚ) ^ (Nat.log2 n : Int) ≤ n ∧ (n : ℚ) < 2 ^ ((Nat.log2 n : Int) + 1) := by
  constructor
  · exact_mod_cast Nat.log2_self_le h
  · exact_mod_cast Nat.lt_log2_self

/-- expOf is the exponent of the leading bit. -/
theorem expOf_spec {num den : Nat} (e : Int) (hn : num ≠ 0) (hd : den ≠ 0) :
    (2 : ℚ) ^ expOf num den e ≤ exactMag num den e ∧ exactMag num den e < (2 : ℚ) ^ (expOf num den e + 1) := by
  obtain ⟨hn1, hn2⟩ := log2_bounds hn
  obtain ⟨hd1, hd2⟩ := log2_bounds hd
  have hden : (0 : ℚ) < den := by exact_mod_cast Nat.pos_of_ne_zero hd
  set k : Int := (Nat.log2 num : Int) - Nat.log2 den with hk
  have above : (2 : ℚ) ^ (k - 1) * den ≤ num := calc
    (2 : ℚ) ^ (k - 1) * den ≤ 2 ^ (k - 1) * 2 ^ ((Nat.log2 den : Int) + 1) := by gcongr
    _ = 2 ^ (Nat.log2 num : Int) := by rw [← zpow_add₀ two_ne_zero]; congr 1; omega
    _ ≤ num := hn1
  have below : (num : ℚ) < 2 ^ (k + 1) * den := calc
    (num : ℚ) < 2 ^ ((Nat.log2 num : Int) + 1) := hn2
    _ = 2 ^ (k + 1) * 2 ^ (Nat.log2 den : Int) := by rw [← zpow_add₀ two_ne_zero]; congr 1; omega
    _ ≤ 2 ^ (k + 1) * den := by gcongr
  have bounds : ∀ j : Int, (2 : ℚ) ^ j * den ≤ num → (num : ℚ) < 2 ^ (j + 1) * den →
      (2 : ℚ) ^ (j + e) ≤ exactMag num den e ∧ exactMag num den e < (2 : ℚ) ^ (j + e + 1) := fun j lo hi => by
    rw [add_right_comm, zpow_add₀ two_ne_zero, zpow_add₀ two_ne_zero (j + 1), exactMag, mul_le_mul_iff_left₀ (by positivity),
      mul_lt_mul_iff_left₀ (by positivity), le_div_iff₀ hden, div_lt_iff₀ hden]
    exact ⟨lo, hi⟩
  simp only [expOf, ← hk, expOf_guess, decide_eq_true_eq]
  split
  case isTrue h => exact bounds (k - 1) above (by rwa [sub_add_cancel, mul_comm])
  case isFalse h => exact bounds k (by rwa [mul_comm, ← not_lt]) below

/-! ## Rounding a magnitude -/

/-- A whole number is a rounding of a magnitude under a mode (R111): less than one away, and on the side or at the nearest as the mode says. -/
def RoundsTo (rm : Rm) (neg : Bool) (x : ℚ) (n : Nat) : Prop :=
  |x - n| < 1 ∧ match rm with
    | .ne => 2 * |x - n| ≤ 1 ∧ (2 * |x - n| = 1 → n % 2 = 0)
    | .na => 2 * |x - n| ≤ 1 ∧ (2 * |x - n| = 1 → x ≤ n)
    | .tz => (n : ℚ) ≤ x
    | .up => if neg then (n : ℚ) ≤ x else x ≤ n
    | .dn => if neg then x ≤ n else (n : ℚ) ≤ x
    | .odd => x = n ∨ n % 2 = 1

/-- A whole number is its own rounding. -/
theorem roundsTo_self (rm : Rm) (neg : Bool) (n : Nat) : RoundsTo rm neg n n := by
  cases rm <;> simp [RoundsTo]

/-- roundNat rounds quotient and remainder. -/
theorem roundNat_roundsTo (rm : Rm) (neg : Bool) (n : Nat) {r d : Nat} (h : r < d) :
    RoundsTo rm neg (n + (r : ℚ) / d) (roundNat rm neg n r d) := by
  by_cases hr : r = 0
  · simpa [hr, roundNat] using roundsTo_self rm neg n
  have hd : (0 : ℚ) < d := by exact_mod_cast (by omega : 0 < d)
  set y : ℚ := (r : ℚ) / d with hy
  have y0 : 0 < y := div_pos (by exact_mod_cast Nat.pos_of_ne_zero hr) hd
  have y1 : y < 1 := by rw [hy, div_lt_one hd]; exact_mod_cast h
  have low : |(n : ℚ) + y - n| = y := by rw [add_sub_cancel_left, abs_of_pos y0]
  have high : |(n : ℚ) + y - (n + 1 : Nat)| = 1 - y := by
    rw [abs_of_neg (by push_cast; linarith)]; push_cast; ring
  have half : 2 * r < d ↔ 2 * y < 1 := by
    rw [hy, ← mul_div_assoc, div_lt_one hd]; exact_mod_cast Iff.rfl
  have half' : d < 2 * r ↔ 1 < 2 * y := by
    rw [hy, ← mul_div_assoc, one_lt_div hd]; exact_mod_cast Iff.rfl
  have down (P : Prop) (hp : P) : |(n : ℚ) + y - n| < 1 ∧ P := ⟨low.trans_lt y1, hp⟩
  have up (P : Prop) (hp : P) : |(n : ℚ) + y - (n + 1 : Nat)| < 1 ∧ P := ⟨high.trans_lt (by linarith), hp⟩
  have below : (n : ℚ) ≤ n + y := by linarith
  have above : (n : ℚ) + y ≤ (n + 1 : Nat) := by push_cast; linarith
  cases rm <;> simp only [roundNat, if_neg hr, RoundsTo]
  case ne =>
    rcases lt_trichotomy (2 * y) 1 with hlt | heq | hgt
    · rw [if_pos (half.2 hlt)]
      exact down _ (by rw [low]; exact ⟨hlt.le, fun h => absurd h hlt.ne⟩)
    · rw [if_neg (by rw [half]; exact heq.not_lt), if_neg (by rw [half']; exact heq.not_gt)]
      obtain heven | hodd := Nat.mod_two_eq_zero_or_one n
      · rw [heven, add_zero]
        exact down _ (by rw [low]; exact ⟨heq.le, fun _ => heven⟩)
      · rw [hodd]
        exact up _ (by rw [high]; exact ⟨by linarith, fun _ => by omega⟩)
    · rw [if_neg (by rw [half]; exact hgt.not_gt), if_pos (half'.2 hgt)]
      exact up _ (by rw [high]; exact ⟨by linarith, fun h => absurd h (by linarith)⟩)
  case na =>
    split
    case isTrue hlt => exact down _ (by rw [low]; exact ⟨(half.1 hlt).le, fun h => absurd h (half.1 hlt).ne⟩)
    case isFalse hge => exact up _ (by rw [half] at hge; rw [high]; exact ⟨by linarith, fun _ => above⟩)
  case tz => exact down _ below
  case up =>
    cases neg
    · exact up _ above
    · exact down _ below
  case dn =>
    cases neg
    · exact down _ below
    · exact up _ above
  case odd =>
    split
    · exact up _ (.inr (by omega))
    · exact down _ (.inr (by omega))

section
variable {rm : Rm} {neg : Bool} {x : ℚ} {n : Nat}

/-- A rounding is no more than a whole number that the magnitude is no more than. -/
theorem RoundsTo.le {m : Nat} (h : RoundsTo rm neg x n) (hx : x ≤ m) : n ≤ m := by
  have hn := (abs_lt.1 h.1).1
  exact Nat.lt_succ_iff.1 (by exact_mod_cast (by push_cast; linarith : (n : ℚ) < (m.succ : Nat)))

/-- A rounding is no less than a whole number that the magnitude is no less than. -/
theorem RoundsTo.ge {m : Nat} (h : RoundsTo rm neg x n) (hx : (m : ℚ) ≤ x) : m ≤ n := by
  have hn := (abs_lt.1 h.1).2
  exact Nat.lt_succ_iff.1 (by exact_mod_cast (by push_cast; linarith : (m : ℚ) < (n.succ : Nat)))

/-- Only a whole number is a rounding of a whole number, itself. -/
theorem RoundsTo.eq {m : Nat} (h : RoundsTo rm neg m n) : n = m := le_antisymm (h.le le_rfl) (h.ge le_rfl)

end

/-- The rounding of quotient and remainder is exact just where there is no remainder. -/
theorem roundNat_exact (rm : Rm) (neg : Bool) (n : Nat) {r d : Nat} (h : r < d) :
    ((roundNat rm neg n r d : ℚ) = n + (r : ℚ) / d) ↔ r = 0 := by
  have hd : (0 : ℚ) < d := by exact_mod_cast (by omega : 0 < d)
  constructor
  · intro he
    have y1 : (r : ℚ) / d < 1 := by rw [div_lt_one hd]; exact_mod_cast h
    have hR := roundNat_roundsTo rm neg n h
    have hle : roundNat rm neg n r d < n + 1 := by exact_mod_cast (by rw [he]; push_cast; linarith : (roundNat rm neg n r d : ℚ) < (n + 1 : Nat))
    have hge : n ≤ roundNat rm neg n r d := hR.ge (le_add_of_nonneg_right (by positivity))
    rw [show roundNat rm neg n r d = n by omega, left_eq_add, div_eq_zero_iff] at he
    exact_mod_cast he.resolve_right hd.ne'
  · rintro rfl
    simp [roundNat]

end Sys2Proof.Machine
end

section
/-! PROOF. What ROUND gives in a floating-point format (07 R97 to R99, R111, R112): the significand at the quantum, its encoding and decoding, overflow and flags. -/

namespace Sys2Proof.Machine

open Sys2Proof

/-! ## Formats -/

/-- The largest finite encoding of a format is a normal magnitude below its infinity or NaN. -/
structure FFmt.Ok (f : FFmt) : Prop where
  mb_pos : 1 ≤ f.mb
  normal : 2 ^ f.mb ≤ f.maxFin
  unsigned : f.maxFin < f.signBit
  below_inf : f.hasInf = true → f.maxFin < f.infBits
  below_nan : f.hasNaN = true → f.hasInf = false → f.maxFin + 1 < f.signBit

/-- Formats 0 to 5, 11 and 12 of R96. -/
theorem fmtOf_ok {c : Nat} (h : c < 6 ∨ c = 11 ∨ c = 12) : (fmtOf c).Ok := by
  obtain h | rfl | rfl := h
  · interval_cases c <;> constructor <;> decide
  all_goals constructor <;> decide

/-- Formats 11 and 12 have no NaN, and these and format 4 no infinities (R97). -/
theorem fmtOf_has {c : Nat} (hc : c < 6 ∨ c = 11 ∨ c = 12) :
    (fmtOf c).hasNaN = decide (¬ (c = 11 ∨ c = 12)) ∧ (fmtOf c).hasInf = decide (¬ (c = 11 ∨ c = 12) ∧ c ≠ 4) := by
  obtain h | rfl | rfl := hc
  · interval_cases c <;> decide
  · decide
  · decide

theorem ftyFmt_ok (t : FTy) : (ftyFmt t).Ok := fmtOf_ok (.inl (by cases t <;> decide))

section
variable (f : FFmt) {y : Nat} (neg : Bool)

theorem signBit_eq : f.signBit = 2 ^ f.eb * 2 ^ f.mb := pow_add _ _ _

/-- Sign, exponent and significand of a magnitude below the sign bit with a sign before it. -/
theorem fields_zero_add (h : y < f.signBit) :
    (f.zero neg + y) / f.signBit % 2 = neg.toNat ∧ (f.zero neg + y) / 2 ^ f.mb % 2 ^ f.eb = y / 2 ^ f.mb ∧
      (f.zero neg + y) % 2 ^ f.mb = y % 2 ^ f.mb := by
  have he : y / 2 ^ f.mb < 2 ^ f.eb := Nat.div_lt_of_lt_mul (by rwa [mul_comm, ← signBit_eq])
  have hs : 0 < f.signBit := Nat.two_pow_pos _
  cases neg
  · simp [FFmt.zero, Nat.div_eq_of_lt h, Nat.mod_eq_of_lt he]
  · refine ⟨?_, ?_, ?_⟩
    · simp [FFmt.zero, Nat.add_div_left _ hs, Nat.div_eq_of_lt h]
    · simp [FFmt.zero, signBit_eq, Nat.mul_add_div (Nat.two_pow_pos _), mul_comm (2 ^ f.eb), Nat.mod_eq_of_lt he]
    · simp [FFmt.zero, signBit_eq]

/-- A magnitude up to the largest finite one decodes to a finite value. -/
theorem decode_zero_add (hf : f.Ok) (h : y ≤ f.maxFin) :
    f.decode (f.zero neg + y) = if y / 2 ^ f.mb = 0 then .fin neg (y % 2 ^ f.mb) (f.emin - f.mb)
      else .fin neg (y % 2 ^ f.mb + 2 ^ f.mb) (((y / 2 ^ f.mb : Nat) : Int) - f.bias - f.mb) := by
  obtain ⟨h1, h2, h3⟩ := fields_zero_add f neg (h.trans_lt hf.unsigned)
  have noInf : f.hasInf = true → y / 2 ^ f.mb ≠ 2 ^ f.eb - 1 := fun hi =>
    ((Nat.div_lt_iff_lt_mul (Nat.two_pow_pos _)).2 (h.trans_lt (hf.below_inf hi))).ne
  have noNaN : f.hasNaN = true → f.hasInf = false → y / 2 ^ f.mb = 2 ^ f.eb - 1 → y % 2 ^ f.mb ≠ 2 ^ f.mb - 1 := fun hn hi he hm => by
    have hy := hf.below_nan hn hi
    have := Nat.div_add_mod y (2 ^ f.mb)
    rw [signBit_eq] at hy
    rw [he, hm, Nat.mul_sub, mul_comm (2 ^ f.mb)] at this
    have := Nat.le_mul_of_pos_left (2 ^ f.mb) (Nat.two_pow_pos f.eb)
    omega
  simp only [FFmt.decode, h1, h2, h3]
  rw [if_neg (by simpa using noInf), if_neg (by simpa using fun a b c => noNaN a b c)]
  cases neg <;> simp
end

/-- The encoding of a significand at K quanta's doublings above the least quantum. -/
theorem encodeMag_eq {f : FFmt} {n K : Nat} (h : 2 ^ f.mb ≤ n ∨ K = 0) : f.encodeMag n (f.emin - f.mb + K) = K * 2 ^ f.mb + n := by
  unfold FFmt.encodeMag FFmt.emin
  split
  case isTrue hn => rw [h.resolve_left (by omega)]; simp
  case isFalse => rw [show (1 - (f.bias : Int) - f.mb + K + f.mb + f.bias - 1).toNat = K by omega]

/-- A significand of the format, encoded with a sign, decodes to it; one past the last decodes at the next quantum. -/
theorem decode_encodeMag {f : FFmt} (hf : f.Ok) (neg : Bool) {n K : Nat} (h : 2 ^ f.mb ≤ n ∨ K = 0) (hn : n ≤ 2 ^ (f.mb + 1))
    (hmax : f.encodeMag n (f.emin - f.mb + K) ≤ f.maxFin) :
    f.decode (f.zero neg + f.encodeMag n (f.emin - f.mb + K)) =
      if n = 2 ^ (f.mb + 1) then .fin neg (2 ^ f.mb) (f.emin - f.mb + K + 1) else .fin neg n (f.emin - f.mb + K) := by
  rw [decode_zero_add f neg hf hmax, encodeMag_eq h]
  rw [pow_succ] at hn ⊢
  have hB : 0 < 2 ^ f.mb := Nat.two_pow_pos _
  generalize 2 ^ f.mb = B at *
  have hdiv : (K * B + n) / B = K + n / B := by rw [mul_comm, Nat.mul_add_div hB]
  have hmod : (K * B + n) % B = n % B := by rw [mul_comm, Nat.mul_add_mod]
  rw [hdiv, hmod, FFmt.emin]
  rcases lt_or_ge n B with hlt | hge
  · rw [Nat.div_eq_of_lt hlt, Nat.mod_eq_of_lt hlt, h.resolve_left (by omega), if_pos rfl, if_neg (by omega)]
    simp
  rcases hn.lt_or_eq with hlt | rfl
  · have h1 : n / B = 1 := Nat.div_eq_of_lt_le (by omega) (by omega)
    have h2 : n % B = n - B := by rw [Nat.mod_eq_sub_mod hge, Nat.mod_eq_of_lt (by omega)]
    rw [h1, h2, if_neg (by omega), if_neg hlt.ne]
    congr 1 <;> push_cast <;> omega
  · rw [if_pos rfl, Nat.mul_div_cancel_left _ hB, Nat.mul_mod_right, if_neg (by omega)]
    congr 1 <;> push_cast <;> omega

/-! ## The parts of ROUND -/

/-- The exponent of the quantum that ROUND takes. -/
def FFmt.quantum (f : FFmt) (num den : Nat) (e : Int) : Int := max (expOf num den e - f.mb) (f.emin - f.mb)

/-- num / den × 2^e rounded to a whole number of quanta 2^q. -/
def roundAt (rm : Rm) (neg : Bool) (num den : Nat) (e q : Int) : Nat :=
  roundNat rm neg (atQuantum num den e q).1 (atQuantum num den e q).2.1 (atQuantum num den e q).2.2

/-- The significand that ROUND gives, in quanta. -/
def FFmt.signif (f : FFmt) (rm : Rm) (neg : Bool) (num den : Nat) (e : Int) : Nat := roundAt rm neg num den e (f.quantum num den e)

/-- Whether the significand is not the exact magnitude. -/
def FFmt.inexact (f : FFmt) (num den : Nat) (e : Int) : Bool := decide ((atQuantum num den e (f.quantum num den e)).2.1 ≠ 0)

/-- Whether the result, rounded as if the exponent had no bound, is below the least normal magnitude. -/
def FFmt.tiny (f : FFmt) (rm : Rm) (neg : Bool) (num den : Nat) (e : Int) : Bool :=
  decide (expOf num den e < f.emin) &&
    !(decide (expOf num den e + 1 = f.emin) && decide (roundAt rm neg num den e (expOf num den e - f.mb) = 2 ^ f.p))

/-- The encoding that ROUND gives, without sign. -/
def FFmt.roundMag (f : FFmt) (rm : Rm) (neg : Bool) (num den : Nat) (e : Int) : Nat := f.encodeMag (f.signif rm neg num den e) (f.quantum num den e)

/-- ROUND gives the encoding of its significand, or overflows. -/
theorem round_eq (f : FFmt) (rm : Rm) (sat neg : Bool) {num : Nat} (den : Nat) (e : Int) (h : num ≠ 0) :
    f.round rm sat neg num den e =
      if f.maxFin < f.roundMag rm neg num den e then
        (if sat then (f.zero neg + f.maxFin, flSAT ||| flNX) else (f.overflow rm neg, flOF ||| flNX))
      else (f.zero neg + f.roundMag rm neg num den e,
        flIf (f.inexact num den e) flNX ||| flIf (f.inexact num den e && f.tiny rm neg num den e) flUF) := by
  rw [FFmt.round, if_neg h]
  rfl

section
variable {f : FFmt} {rm : Rm} {neg : Bool} {num den : Nat} {e : Int}

theorem quantum_nat : ∃ K : Nat, f.quantum num den e = f.emin - f.mb + K :=
  ⟨(f.quantum num den e - (f.emin - f.mb)).toNat, by have := le_max_right (expOf num den e - f.mb) (f.emin - f.mb); rw [FFmt.quantum]; omega⟩

/-- The magnitude in quanta. -/
theorem exactMag_at (q : Int) : exactMag num den e = exactMag num den e / 2 ^ q * 2 ^ q := by
  rw [div_mul_cancel₀]; positivity

theorem atQuantum_div (q : Int) (hd : den ≠ 0) :
    exactMag num den e / 2 ^ q = (atQuantum num den e q).1 + ((atQuantum num den e q).2.1 : ℚ) / (atQuantum num den e q).2.2 := by
  rw [div_eq_iff (by positivity), (atQuantum_spec e q hd).2]

theorem roundAt_roundsTo (q : Int) (hd : den ≠ 0) : RoundsTo rm neg (exactMag num den e / 2 ^ q) (roundAt rm neg num den e q) := by
  rw [atQuantum_div q hd]
  exact roundNat_roundsTo rm neg _ (atQuantum_spec e q hd).1

theorem roundAt_exact (q : Int) (hd : den ≠ 0) :
    (roundAt rm neg num den e q : ℚ) = exactMag num den e / 2 ^ q ↔ (atQuantum num den e q).2.1 = 0 := by
  rw [atQuantum_div q hd]
  exact roundNat_exact rm neg _ (atQuantum_spec e q hd).1

theorem signif_roundsTo (hd : den ≠ 0) :
    RoundsTo rm neg (exactMag num den e / 2 ^ f.quantum num den e) (f.signif rm neg num den e) := roundAt_roundsTo _ hd

/-- The magnitude has no more quanta than the format has significands. -/
theorem scaled_lt (hn : num ≠ 0) (hd : den ≠ 0) : exactMag num den e / 2 ^ f.quantum num den e < 2 ^ (f.mb + 1) := by
  rw [div_lt_iff₀ (by positivity)]
  calc exactMag num den e < 2 ^ (expOf num den e + 1) := (expOf_spec e hn hd).2
    _ ≤ 2 ^ ((f.mb + 1 : Nat) + f.quantum num den e) := zpow_le_zpow_right₀ one_le_two (by
        have := le_max_left (expOf num den e - f.mb) (f.emin - f.mb)
        rw [FFmt.quantum]; push_cast; omega)
    _ = _ := by rw [zpow_add₀ two_ne_zero, zpow_natCast]

/-- The magnitude fills the significand, unless the quantum is the least. -/
theorem scaled_ge (hn : num ≠ 0) (hd : den ≠ 0) :
    2 ^ f.mb ≤ exactMag num den e / 2 ^ f.quantum num den e ∨ f.quantum num den e = f.emin - f.mb := by
  rcases le_total (expOf num den e - f.mb) (f.emin - f.mb) with h | h
  · exact .inr (max_eq_right h)
  · left
    rw [FFmt.quantum, max_eq_left h, le_div_iff₀ (by positivity), ← zpow_natCast, ← zpow_add₀ two_ne_zero, add_sub_cancel]
    exact (expOf_spec e hn hd).1

theorem signif_le (hn : num ≠ 0) (hd : den ≠ 0) : f.signif rm neg num den e ≤ 2 ^ (f.mb + 1) :=
  (signif_roundsTo hd).le (by push_cast; exact (scaled_lt hn hd).le)

theorem signif_ge (hn : num ≠ 0) (hd : den ≠ 0) :
    2 ^ f.mb ≤ f.signif rm neg num den e ∨ f.quantum num den e = f.emin - f.mb :=
  (scaled_ge hn hd).imp_left fun h => (signif_roundsTo hd).ge (by push_cast; exact h)

theorem inexact_eq_false (rm : Rm) (neg : Bool) (hd : den ≠ 0) :
    f.inexact num den e = false ↔ (f.signif rm neg num den e : ℚ) = exactMag num den e / 2 ^ f.quantum num den e := by
  rw [FFmt.signif, roundAt_exact _ hd, FFmt.inexact, decide_eq_false_iff_not, not_not]

/-! ## The flags of ROUND -/

theorem round_of_le (h : f.roundMag rm neg num den e ≤ f.maxFin) (hn : num ≠ 0) :
    f.round rm false neg num den e = (f.zero neg + f.roundMag rm neg num den e,
      flIf (f.inexact num den e) flNX ||| flIf (f.inexact num den e && f.tiny rm neg num den e) flUF) := by
  rw [round_eq f rm false neg den e hn, if_neg h.not_gt]

theorem round_of_gt (h : f.maxFin < f.roundMag rm neg num den e) (hn : num ≠ 0) :
    f.round rm false neg num den e = (f.overflow rm neg, flOF ||| flNX) := by
  rw [round_eq f rm false neg den e hn, if_pos h, if_neg Bool.false_ne_true]

/-- The flags of a result that does not overflow. -/
theorem flIf_flags (inexact tiny : Bool) :
    (flIf inexact flNX ||| flIf (inexact && tiny) flUF) &&& flOF = 0 ∧
      ((flIf inexact flNX ||| flIf (inexact && tiny) flUF) &&& flNX = 0 ↔ inexact = false) ∧
      ((flIf inexact flNX ||| flIf (inexact && tiny) flUF) &&& flUF = 0 ↔ (inexact && tiny) = false) := by
  cases inexact <;> cases tiny <;> decide

/-- Overflow is flagged just where the encoding is past the largest finite one. -/
theorem round_OF (hn : num ≠ 0) : (f.round rm false neg num den e).2 &&& flOF = 0 ↔ f.roundMag rm neg num den e ≤ f.maxFin := by
  rcases le_or_gt (f.roundMag rm neg num den e) f.maxFin with h | h
  · simp [round_of_le h hn, flIf_flags, h]
  · rw [round_of_gt h hn]
    exact iff_of_false (by decide : ¬ (flOF ||| flNX) &&& flOF = 0) h.not_ge

/-- Without overflow NX is set just where the significand is not exact. -/
theorem round_NX (hn : num ≠ 0) (h : f.roundMag rm neg num den e ≤ f.maxFin) :
    (f.round rm false neg num den e).2 &&& flNX = 0 ↔ f.inexact num den e = false := by
  rw [round_of_le h hn]
  exact (flIf_flags _ _).2.1

/-- UF is set just for an inexact tiny result that does not overflow. -/
theorem round_UF (hn : num ≠ 0) :
    (f.round rm false neg num den e).2 &&& flUF ≠ 0 ↔
      f.roundMag rm neg num den e ≤ f.maxFin ∧ f.inexact num den e = true ∧ f.tiny rm neg num den e = true := by
  rcases le_or_gt (f.roundMag rm neg num den e) f.maxFin with h | h
  · rw [round_of_le h hn, ne_eq, (flIf_flags _ _).2.2, Bool.not_eq_false, Bool.and_eq_true]
    exact (and_iff_right h).symm
  · rw [round_of_gt h hn]
    exact iff_of_false (by decide : ¬ (flOF ||| flNX) &&& flUF ≠ 0) fun hle => h.not_ge hle.1

/-! ## The finite result -/

/-- How far the result is from the exact magnitude, in quanta. -/
theorem abs_sub_magOf (n : Nat) (q : Int) : |exactMag num den e - magOf n q| = |exactMag num den e / 2 ^ q - n| * 2 ^ q := by
  have h2 : (0 : ℚ) < 2 ^ q := by positivity
  nth_rw 1 [exactMag_at q]
  rw [magOf, ← sub_mul, abs_mul, abs_of_pos h2]

theorem magOf_le (n : Nat) (q : Int) (x : ℚ) : magOf n q ≤ x ↔ (n : ℚ) ≤ x / 2 ^ q := (le_div_iff₀ (by positivity)).symm
theorem le_magOf (n : Nat) (q : Int) (x : ℚ) : x ≤ magOf n q ↔ x / 2 ^ q ≤ n := (div_le_iff₀ (by positivity)).symm
theorem magOf_eq (n : Nat) (q : Int) (x : ℚ) : magOf n q = x ↔ (n : ℚ) = x / 2 ^ q := (eq_div_iff (by positivity)).symm

/-- m × 2^k is n × 2^q as a format holds it: the same, or, for an n one past the last significand, the first of the next quantum. -/
def FFmt.Holds (f : FFmt) (n : Nat) (q : Int) (m : Nat) (k : Int) : Prop :=
  m = n ∧ k = q ∨ n = 2 ^ (f.mb + 1) ∧ m = 2 ^ f.mb ∧ k = q + 1

theorem FFmt.Holds.magOf_eq {n m : Nat} {q k : Int} (h : f.Holds n q m k) : magOf m k = magOf n q := by
  obtain ⟨rfl, rfl⟩ | ⟨rfl, rfl, rfl⟩ := h
  · rfl
  · rw [magOf, magOf, zpow_add_one₀ two_ne_zero]
    push_cast
    ring

/-- m × 2^k is the result of ROUND as its format holds it. -/
def FFmt.Result (f : FFmt) (rm : Rm) (neg : Bool) (num den : Nat) (e : Int) (m : Nat) (k : Int) : Prop :=
  f.Holds (f.signif rm neg num den e) (f.quantum num den e) m k

/-- Without overflow ROUND decodes to the significand in quanta. -/
theorem decode_round (hf : f.Ok) (hn : num ≠ 0) (hd : den ≠ 0) (h : f.roundMag rm neg num den e ≤ f.maxFin) :
    ∃ m k, f.decode (f.round rm false neg num den e).1 = .fin neg m k ∧ f.Result rm neg num den e m k := by
  obtain ⟨K, hK⟩ := quantum_nat (f := f) (num := num) (den := den) (e := e)
  have hK0 : 2 ^ f.mb ≤ f.signif rm neg num den e ∨ K = 0 := (signif_ge hn hd).imp_right fun h => by omega
  rw [round_of_le h hn]
  rw [FFmt.roundMag, hK] at h ⊢
  rw [decode_encodeMag hf neg hK0 (signif_le hn hd) h]
  split
  case isTrue hlast => exact ⟨_, _, rfl, .inr ⟨hlast, rfl, by rw [hK]⟩⟩
  case isFalse => exact ⟨_, _, rfl, .inl ⟨rfl, hK.symm⟩⟩

/-- The largest finite encoding is a significand at its quantum. -/
theorem decode_maxFin (hf : f.Ok) :
    ∃ M K : Nat, 2 ^ f.mb ≤ M ∧ M < 2 ^ (f.mb + 1) ∧ f.maxFin = K * 2 ^ f.mb + M ∧ f.decode f.maxFin = .fin false M (f.emin - f.mb + K) := by
  have hB : 0 < 2 ^ f.mb := Nat.two_pow_pos _
  have hdiv : 1 ≤ f.maxFin / 2 ^ f.mb := (Nat.one_le_div_iff hB).2 hf.normal
  refine ⟨f.maxFin % 2 ^ f.mb + 2 ^ f.mb, f.maxFin / 2 ^ f.mb - 1, by omega, ?_, ?_, ?_⟩
  · have := Nat.mod_lt f.maxFin hB
    omega
  · rw [Nat.sub_mul, one_mul]
    have := Nat.div_add_mod' f.maxFin (2 ^ f.mb)
    have := Nat.mul_le_mul_right (2 ^ f.mb) hdiv
    omega
  · have h := decode_zero_add f false hf le_rfl
    rw [if_neg (by omega)] at h
    rw [show f.zero false + f.maxFin = f.maxFin from Nat.zero_add _] at h
    rw [h, FFmt.emin]
    congr 1
    omega

/-- A magnitude up to the largest finite one does not overflow. -/
theorem roundMag_le (hf : f.Ok) (hn : num ≠ 0) (hd : den ≠ 0) {m : Nat} {k : Int} (hm : f.decode f.maxFin = .fin false m k)
    (h : exactMag num den e ≤ magOf m k) : f.roundMag rm neg num den e ≤ f.maxFin := by
  obtain ⟨M, L, hM1, hM2, hmax, hdec⟩ := decode_maxFin hf
  obtain ⟨rfl, rfl⟩ : M = m ∧ f.emin - f.mb + (L : Int) = k := by
    rw [hdec] at hm; injection hm with _ h1 h2; exact ⟨h1, h2⟩
  obtain ⟨K, hK⟩ := quantum_nat (f := f) (num := num) (den := den) (e := e)
  have hK0 : 2 ^ f.mb ≤ f.signif rm neg num den e ∨ K = 0 := (signif_ge hn hd).imp_right fun h => by omega
  have hle := signif_le (rm := rm) (neg := neg) (e := e) (f := f) hn hd
  rw [FFmt.roundMag, hK, encodeMag_eq hK0, hmax]
  rw [pow_succ] at hle hM2
  rcases lt_trichotomy K L with hlt | rfl | hgt
  · have := Nat.mul_le_mul_right (2 ^ f.mb) (show K + 1 ≤ L from hlt)
    rw [Nat.add_mul, one_mul] at this
    omega
  · rw [magOf, ← hK, ← div_le_iff₀ (by positivity)] at h
    exact Nat.add_le_add_left ((signif_roundsTo hd).le h) _
  · exfalso
    have hge := (scaled_ge (f := f) (e := e) hn hd).resolve_right (by omega)
    rw [le_div_iff₀ (by positivity), hK] at hge
    refine absurd (hge.trans h) (not_le.2 ?_)
    calc magOf M (f.emin - f.mb + L) < (2 ^ (f.mb + 1) : Nat) * 2 ^ (f.emin - f.mb + (L : Int)) := by
          rw [magOf]; gcongr; rw [pow_succ]; exact hM2
      _ = 2 ^ f.mb * 2 ^ (f.emin - f.mb + (L : Int) + 1) := by rw [zpow_add_one₀ two_ne_zero]; push_cast; ring
      _ ≤ 2 ^ f.mb * 2 ^ (f.emin - f.mb + (K : Int)) := mul_le_mul_of_nonneg_left (zpow_le_zpow_right₀ one_le_two (by omega)) (by positivity)

end

end Sys2Proof.Machine
end

section
/-! PROOF. The results of ROUND under each mode, its overflows and its flags (07 R99, R111, R112, R117). -/

namespace Sys2Proof.Machine

open Sys2Proof

section
variable {f : FFmt} {rm : Rm} {neg : Bool} {num den m : Nat} {e k : Int}

/-! ## The error of a result -/

theorem FFmt.Result.error (h : f.Result rm neg num den e m k) :
    |exactMag num den e - magOf m k| =
      |exactMag num den e / 2 ^ f.quantum num den e - f.signif rm neg num den e| * 2 ^ f.quantum num den e := by
  rw [FFmt.Holds.magOf_eq h, abs_sub_magOf]

/-- The quantum of the result is the one at which ROUND took the significand, or twice that. -/
theorem FFmt.Result.quantum (h : f.Result rm neg num den e m k) :
    m = f.signif rm neg num den e ∧ k = f.quantum num den e ∨ (2 : ℚ) ^ k = 2 * 2 ^ f.quantum num den e := by
  obtain h | ⟨-, -, rfl⟩ := h
  · exact .inl h
  · exact .inr (by rw [zpow_add_one₀ two_ne_zero, mul_comm])

theorem FFmt.Result.le (h : f.Result rm neg num den e m k) :
    magOf m k ≤ exactMag num den e ↔ (f.signif rm neg num den e : ℚ) ≤ exactMag num den e / 2 ^ f.quantum num den e := by
  rw [FFmt.Holds.magOf_eq h, magOf_le]

theorem FFmt.Result.ge (h : f.Result rm neg num den e m k) :
    exactMag num den e ≤ magOf m k ↔ exactMag num den e / 2 ^ f.quantum num den e ≤ f.signif rm neg num den e := by
  rw [FFmt.Holds.magOf_eq h, le_magOf]

/-- The result is exact just where the significand is. -/
theorem FFmt.Result.exact (hd : den ≠ 0) (h : f.Result rm neg num den e m k) :
    f.inexact num den e = false ↔ magOf m k = exactMag num den e := by
  rw [FFmt.Holds.magOf_eq h, magOf_eq, inexact_eq_false rm neg hd]

/-- A result is less than a quantum away. -/
theorem FFmt.Result.error_lt (hd : den ≠ 0) (h : f.Result rm neg num den e m k) : |exactMag num den e - magOf m k| < 2 ^ k := by
  have hq : (0 : ℚ) < 2 ^ f.quantum num den e := by positivity
  have hlt := mul_lt_mul_of_pos_right (signif_roundsTo (f := f) (rm := rm) (neg := neg) (e := e) (num := num) hd).1 hq
  rw [h.error]
  obtain ⟨-, rfl⟩ | hk := h.quantum <;> linarith

/-- A result of a nearest mode is within half a quantum, and a tie is one of the significand. -/
theorem FFmt.Result.error_le_half (h : f.Result rm neg num den e m k)
    (near : 2 * |exactMag num den e / 2 ^ f.quantum num den e - f.signif rm neg num den e| ≤ 1) :
    2 * |exactMag num den e - magOf m k| ≤ 2 ^ k ∧ (2 * |exactMag num den e - magOf m k| = 2 ^ k →
      m = f.signif rm neg num den e ∧ 2 * |exactMag num den e / 2 ^ f.quantum num den e - f.signif rm neg num den e| = 1) := by
  have hq : (0 : ℚ) < 2 ^ f.quantum num den e := by positivity
  have hle := mul_le_mul_of_nonneg_right near hq.le
  rw [h.error, ← mul_assoc]
  obtain ⟨hm, rfl⟩ | hk := h.quantum
  · exact ⟨by linarith, fun tie => ⟨hm, (mul_eq_right₀ hq.ne').1 tie⟩⟩
  · exact ⟨by linarith, fun tie => by linarith⟩

end

/-! ## Toward zero and nearest even -/

theorem roundTowardZero : RoundTowardZero := by
  intro c neg num den e hc hn hd f r v h
  have hf : f.Ok := fmtOf_ok hc
  obtain ⟨near, below⟩ := signif_roundsTo (f := f) (rm := .tz) (neg := neg) (num := num) (e := e) hd
  obtain ⟨m, k, hdec, hres⟩ := decode_round hf hn hd ((round_OF hn).1 h)
  refine ⟨m, k, hdec, hres.le.2 below, ?_⟩
  obtain ⟨rfl, rfl⟩ | ⟨hlast, -⟩ := hres
  · have above : exactMag num den e < magOf (f.signif .tz neg num den e + 1) (f.quantum num den e) := by
      rw [magOf, ← div_lt_iff₀ (by positivity)]
      push_cast
      linarith [(abs_lt.1 near).2]
    exact ⟨above, signif_ge hn hd⟩
  · rw [hlast] at below
    exact absurd (below.trans_lt (scaled_lt hn hd)) (by simp)

theorem roundNearestEven : RoundNearestEven := by
  intro c neg num den e hc hn hd f r v h
  have hle := (round_OF hn).1 h
  obtain ⟨m, k, hdec, hres⟩ := decode_round (fmtOf_ok hc) hn hd hle
  obtain ⟨-, near, even⟩ := signif_roundsTo (f := f) (rm := .ne) (neg := neg) (num := num) (e := e) hd
  obtain ⟨half, tie⟩ := hres.error_le_half near
  exact ⟨m, k, hdec, half, fun ht => (tie ht).1 ▸ even (tie ht).2, (round_NX hn hle).trans (hres.exact hd)⟩

/-! ## The other modes, overflow and underflow -/

section
variable {f : FFmt} {rm : Rm} {neg : Bool} {num den m : Nat} {e k : Int}

/-- What R111 says of the side on which a result lies. -/
theorem FFmt.Result.directed (hd : den ≠ 0) (h : f.Result rm neg num den e m k) :
    ((rm = .up ∧ neg = false) ∨ (rm = .dn ∧ neg = true) → exactMag num den e ≤ magOf m k) ∧
      ((rm = .up ∧ neg = true) ∨ (rm = .dn ∧ neg = false) → magOf m k ≤ exactMag num den e) := by
  rw [h.le, h.ge]
  have hr := (signif_roundsTo (f := f) (rm := rm) (neg := neg) (num := num) (e := e) hd).2
  constructor <;> (rintro (⟨rfl, rfl⟩ | ⟨rfl, rfl⟩) <;> simpa using hr)

/-- Nearest away: a tie lies at or beyond the exact magnitude. -/
theorem FFmt.Result.away (hd : den ≠ 0) (h : f.Result .na neg num den e m k) :
    2 * |exactMag num den e - magOf m k| ≤ 2 ^ k ∧ (2 * |exactMag num den e - magOf m k| = 2 ^ k → exactMag num den e ≤ magOf m k) := by
  obtain ⟨-, near, tie⟩ := signif_roundsTo (f := f) (rm := .na) (neg := neg) (num := num) (e := e) hd
  obtain ⟨half, ht⟩ := h.error_le_half near
  exact ⟨half, fun heq => h.ge.2 (tie (ht heq).2)⟩

/-- To odd: an inexact significand is odd, and so is not one past the last. -/
theorem FFmt.Result.odd (hd : den ≠ 0) (h : f.Result .odd neg num den e m k) : magOf m k = exactMag num den e ∨ m % 2 = 1 := by
  obtain ⟨-, hx | hodd⟩ := signif_roundsTo (f := f) (rm := .odd) (neg := neg) (num := num) (e := e) hd
  · exact .inl ((h.exact hd).1 ((inexact_eq_false .odd neg hd).2 hx.symm))
  · obtain ⟨rfl, -⟩ | ⟨hlast, -⟩ := h
    · exact .inr hodd
    · rw [hlast, pow_succ] at hodd
      omega

/-- The result of an overflow (R112): the largest finite value where the mode goes toward zero or the format has no NaN, else infinity, or format 4's NaN. -/
theorem overflow_eq {c : Nat} (hc : c < 6 ∨ c = 11 ∨ c = 12) (rm : Rm) (neg : Bool) :
    (fmtOf c).overflow rm neg = if rm = .tz ∨ rm = .odd ∨ ((rm = .up ∧ neg = true) ∨ (rm = .dn ∧ neg = false)) ∨ c = 11 ∨ c = 12
      then (fmtOf c).zero neg + (fmtOf c).maxFin else if c = 4 then 0x7F else (fmtOf c).inf neg := by
  obtain ⟨hnan, hinf⟩ := fmtOf_has hc
  by_cases h : c = 11 ∨ c = 12
  · simp [FFmt.overflow, hnan, h, FFmt.zero]
  · by_cases h4 : c = 4
    · subst h4
      cases rm <;> cases neg <;> rfl
    · cases rm <;> cases neg <;> simp [FFmt.overflow, hnan, hinf, h, h4, FFmt.zero, FFmt.inf]

/-- The leading bit is below the least normal exponent just where the magnitude is below the least normal one. -/
theorem expOf_lt_emin (hn : num ≠ 0) (hd : den ≠ 0) (j : Int) : expOf num den e < j ↔ exactMag num den e < 2 ^ j := by
  obtain ⟨lo, hi⟩ := expOf_spec e hn hd
  constructor
  · exact fun h => hi.trans_le (zpow_le_zpow_right₀ one_le_two (by omega))
  · exact fun h => (zpow_lt_zpow_iff_right₀ one_lt_two).1 (lo.trans_lt h)

/-- What is below the least normal magnitude does not overflow. -/
theorem roundMag_le_of_subnormal (hf : f.Ok) (hn : num ≠ 0) (hd : den ≠ 0) (h : exactMag num den e ≤ 2 ^ f.emin) :
    f.roundMag rm neg num den e ≤ f.maxFin := by
  obtain ⟨M, K, hM, -, -, hdec⟩ := decode_maxFin hf
  refine roundMag_le hf hn hd hdec (h.trans ?_)
  calc (2 : ℚ) ^ f.emin = (2 ^ f.mb : Nat) * 2 ^ (f.emin - f.mb) := by
        push_cast
        rw [← zpow_natCast, ← zpow_add₀ two_ne_zero, add_sub_cancel]
    _ ≤ magOf M (f.emin - f.mb + K) := by
        rw [magOf]
        gcongr
        · norm_num
        · omega

/-- A magnitude below the least normal one by a quantum is tiny. -/
theorem tiny_of_le (hn : num ≠ 0) (hd : den ≠ 0) (h : exactMag num den e ≤ (2 : ℚ) ^ f.emin - 2 ^ (f.emin - f.mb)) :
    f.tiny rm neg num den e = true := by
  have hlt : exactMag num den e < 2 ^ f.emin := h.trans_lt (sub_lt_self _ (by positivity))
  simp only [FFmt.tiny, Bool.and_eq_true, decide_eq_true_eq, Bool.not_eq_true', Bool.and_eq_false_iff, decide_eq_false_iff_not]
  refine ⟨(expOf_lt_emin hn hd _).2 hlt, or_iff_not_imp_left.2 fun hex => ?_⟩
  rw [not_not] at hex
  have hq : exactMag num den e / 2 ^ (expOf num den e - f.mb) ≤ ((2 ^ f.p - 2 : Nat) : ℚ) := by
    rw [div_le_iff₀ (by positivity), FFmt.p, Nat.cast_sub (Nat.le_self_pow (Nat.succ_ne_zero _) 2)]
    refine h.trans_eq ?_
    rw [← hex, show expOf num den e + 1 - (f.mb : Int) = expOf num den e - f.mb + 1 by ring, zpow_add_one₀ two_ne_zero,
      zpow_add_one₀ two_ne_zero, sub_mul, pow_succ]
    push_cast
    rw [mul_right_comm, ← zpow_natCast, ← zpow_add₀ two_ne_zero, add_sub_cancel]
    ring
  have := (roundAt_roundsTo (rm := rm) (neg := neg) _ hd).le hq
  have := Nat.two_pow_pos f.p
  omega

end

theorem roundOtherModes : RoundOtherModes := by
  intro c rm neg num den e hc hn hd f r v away toward
  have hf : f.Ok := fmtOf_ok hc
  refine ⟨fun h => ?_, fun m k hm hv => (round_OF hn).2 (roundMag_le hf hn hd hm hv), fun h => ?_, fun h => ?_, fun h => ?_, fun h hnx => ?_⟩
  · have hle := (round_OF hn).1 h
    obtain ⟨m, k, hdec, hres⟩ := decode_round hf hn hd hle
    obtain ⟨up, down⟩ := hres.directed hd
    exact ⟨m, k, hdec, (round_NX hn hle).trans (hres.exact hd), hres.error_lt hd, up, down,
      by rintro rfl; exact hres.away hd, by rintro rfl; exact hres.odd hd⟩
  · have hr : r = _ := round_of_gt (not_le.1 (mt (round_OF hn).2 h)) hn
    rw [hr]
    exact ⟨rfl, overflow_eq hc rm neg⟩
  · obtain ⟨hle, hx, -⟩ := (round_UF hn).1 h
    rw [Ne, round_NX hn hle, hx]
    decide
  · by_contra hu
    obtain ⟨-, -, ht⟩ := (round_UF hn).1 hu
    have hlt := of_decide_eq_true (Bool.and_eq_true_iff.1 ht).1
    exact absurd ((expOf_lt_emin hn hd _).1 hlt) (not_lt.2 h)
  · have hle : f.roundMag rm neg num den e ≤ f.maxFin :=
      roundMag_le_of_subnormal hf hn hd (h.trans (sub_le_self _ (by positivity)))
    rw [Ne, round_NX hn hle, Bool.not_eq_false] at hnx
    exact (round_UF hn).2 ⟨hle, hnx, tiny_of_le hn hd h⟩

end Sys2Proof.Machine
end

section
/-! PROOF. NaNs, infinities and zeros as operands of the scalar floating-point ops (07 R114, 09 R170, R175, R178). -/

namespace Sys2Proof.Machine

open Sys2Proof

section
variable (f : FFmt) (rm : Rm) {a b : FVal}

/-- NV of signalling operands (R114). -/
theorem flSN_pair (a b : FVal) : flSN [a, b] = if a = .nan true ∨ b = .nan true then flNV else 0 := by
  have h (v : FVal) : v.isSNaN = decide (v = .nan true) := by
    cases v <;> simp [FVal.isSNaN]
  simp [flSN, flIf, h]

theorem isNaN_flip (a : FVal) : a.flip.isNaN = a.isNaN := by cases a <;> rfl
theorem flSN_flip (a b : FVal) : flSN [a, b.flip] = flSN [a, b] := by cases b <;> rfl

theorem exists_nan (h : a.isNaN = true ∨ b.isNaN = true) : (∃ q, a = .nan q) ∨ ∃ q, b = .nan q := by
  have one (v : FVal) (hv : v.isNaN = true) : ∃ q, v = .nan q := by
    cases v with
    | nan q => exact ⟨q, rfl⟩
    | inf n => cases hv
    | fin n m e => cases hv
  exact h.imp (one a) (one b)

theorem addV_of_nan (h : a.isNaN = true ∨ b.isNaN = true) : f.addV rm a b = (f.nan, flSN [a, b]) := by
  obtain ⟨q, rfl⟩ | ⟨q, rfl⟩ := exists_nan h
  · rfl
  · cases a <;> rfl

theorem mulV_of_nan (h : a.isNaN = true ∨ b.isNaN = true) : f.mulV rm a b = (f.nan, flSN [a, b]) := by
  obtain ⟨q, rfl⟩ | ⟨q, rfl⟩ := exists_nan h
  · rfl
  · cases a <;> rfl

theorem divV_of_nan (h : a.isNaN = true ∨ b.isNaN = true) : f.divV rm a b = (f.nan, flSN [a, b]) := by
  obtain ⟨q, rfl⟩ | ⟨q, rfl⟩ := exists_nan h
  · rfl
  · cases a <;> rfl

end

theorem floatSpecialResults : FloatSpecialResults := by
  intro t rm x y f u v sn
  refine ⟨fun h => ⟨?_, ?_, ?_, ?_⟩, ?_⟩
  · rw [FFmt.add, addV_of_nan f rm h, flSN_pair]
  · rw [FFmt.sub, addV_of_nan f rm (by rwa [isNaN_flip]), flSN_flip, flSN_pair]
  · rw [FFmt.mul, mulV_of_nan f rm h, flSN_pair]
  · rw [FFmt.div, divV_of_nan f rm h, flSN_pair]
  simp only [FFmt.add, FFmt.sub, FFmt.mul, FFmt.div, FFmt.sqrt, u, v]
  refine ⟨fun n hu hv => ?_, fun n hu hv => ?_, fun n m e hu hv => ?_, fun n m e g hu hv => ?_, fun n m k e g hk hu hv => ?_,
    fun n m k e hu hv => ?_, fun k e hk hu => ?_, fun e hu => ?_, fun hu => ?_, fun hu => ?_⟩
  · simp [hu, hv, FFmt.addV]
  · simp [hu, hv, FFmt.addV, FFmt.divV, FVal.flip]
  · simp [hu, hv, FFmt.mulV, FVal.isZero]
  · simp [hu, hv, FFmt.divV]
  · simp [hu, hv, FFmt.divV, hk, FVal.neg, bne]
  · simp [hu, hv, FFmt.divV, FVal.neg]
  · simp [hu, hk]
  · simp [hu]
  · simp [hu]
  · simp [hu]

end Sys2Proof.Machine
end

section
/-! PROOF. Sums, products, quotients, fused forms and square roots are ROUND of the exact result (07 R115, R116, 09 R170, R171, R175). -/

namespace Sys2Proof.Machine

open Sys2Proof

/-! ## Values -/

/-- The factor of a sign. -/
def sgn (n : Bool) : ℚ := if n then -1 else 1

theorem sgn_xor (x y : Bool) : sgn (xor x y) = sgn x * sgn y := by cases x <;> cases y <;> simp [sgn]
theorem sgn_not (x : Bool) : sgn (!x) = -sgn x := by cases x <;> simp [sgn]
theorem sgn_ne_zero (x : Bool) : sgn x ≠ 0 := by cases x <;> simp [sgn]

theorem ratOf_fin (n : Bool) (m : Nat) (e : Int) : ratOf (.fin n m e) = sgn n * magOf m e := rfl

theorem exactMag_one (m : Nat) (e : Int) : exactMag m 1 e = magOf m e := by simp [exactMag, magOf]

theorem exactMag_div (m n : Nat) (d e : Int) : exactMag m n (d - e) = magOf m d / magOf n e := by
  rw [exactMag, magOf, magOf, zpow_sub₀ two_ne_zero, div_mul_div_comm]

theorem magOf_mul (m n : Nat) (d e : Int) : magOf (m * n) (d + e) = magOf m d * magOf n e := by
  rw [magOf, magOf, magOf, zpow_add₀ two_ne_zero]
  push_cast
  ring

theorem magOf_eq_zero {m : Nat} {e : Int} : magOf m e = 0 ↔ m = 0 := by simp [magOf, zpow_ne_zero]

theorem ratOf_eq_zero {n : Bool} {m : Nat} {e : Int} : ratOf (.fin n m e) = 0 ↔ m = 0 := by
  rw [ratOf_fin, mul_eq_zero, or_iff_right (sgn_ne_zero n), magOf_eq_zero]

theorem ratOf_mul (x y : Bool) (m n : Nat) (d e : Int) :
    ratOf (.fin (xor x y) (m * n) (d + e)) = ratOf (.fin x m d) * ratOf (.fin y n e) := by
  simp only [ratOf_fin, sgn_xor, magOf_mul]
  ring

theorem ratOf_flip (v : FVal) : ratOf v.flip = -ratOf v := by
  cases v <;> simp [FVal.flip, ratOf_fin, sgn_not]
  all_goals simp [ratOf]

section
variable (f : FFmt) (rm : Rm)

/-- ROUND of a magnitude with a sign, a zero of that sign where the magnitude is zero. -/
theorem exact_round (sat neg : Bool) (num : Nat) {den : Nat} (e : Int) (hd : den ≠ 0) :
    Exact f rm sat (sgn neg * exactMag num den e) neg (f.round rm sat neg num den e) := by
  refine ⟨fun h => ⟨neg, num, den, e, ?_, hd, rfl, rfl⟩, fun h => ?_⟩
  · rintro rfl
    simp [exactMag] at h
  · have hnum : num = 0 := by simpa [sgn_ne_zero, exactMag, hd, zpow_ne_zero] using h
    rw [FFmt.round, if_pos hnum]
    rfl

theorem exact_round_fin (sat neg : Bool) (m : Nat) (e : Int) :
    Exact f rm sat (ratOf (.fin neg m e)) neg (f.round rm sat neg m 1 e) := by
  rw [ratOf_fin, ← exactMag_one]
  exact exact_round f rm sat neg m e one_ne_zero

/-! ## Sums -/

/-- A finite term as a value. -/
def termVal (t : Term) : ℚ := ratOf (.fin t.1 t.2.1 t.2.2)

theorem minExp_le (e : Int) (ts : List Term) : minExp e ts ≤ e ∧ ∀ t ∈ ts, minExp e ts ≤ t.2.2 := by
  induction ts generalizing e with
  | nil => exact ⟨le_rfl, by simp⟩
  | cons t r ih =>
    obtain ⟨h1, h2⟩ := ih (min e t.2.2)
    exact ⟨h1.trans (min_le_left _ _), List.forall_mem_cons.2 ⟨h1.trans (min_le_right _ _), h2⟩⟩

/-- A term at a quantum that divides it. -/
theorem magOf_shift {e x : Int} (m : Nat) (h : e ≤ x) : ((m * 2 ^ (x - e).toNat : Nat) : ℚ) * 2 ^ e = magOf m x := by
  push_cast
  rw [mul_assoc, ← zpow_natCast, ← zpow_add₀ two_ne_zero, magOf]
  congr 2
  omega

theorem sumAt_spec {e : Int} {ts : List Term} (h : ∀ t ∈ ts, e ≤ t.2.2) : (sumAt e ts : ℚ) * 2 ^ e = (ts.map termVal).sum := by
  induction ts with
  | nil => simp [sumAt]
  | cons t r ih =>
    obtain ⟨n, m, x⟩ := t
    obtain ⟨hx, hr⟩ := List.forall_mem_cons.1 h
    rw [List.map_cons, List.sum_cons, ← ih hr, termVal, ratOf_fin, ← magOf_shift m hx, sumAt]
    cases n <;> simp [sgn] <;> ring

/-- The exact sum of terms is rounded once (R115), with the zeros of R116. -/
theorem exact_sum (ts : List Term) : Exact f rm false (ts.map termVal).sum (zeroSign rm ts) (f.sum rm ts) := by
  have hsum := sumAt_spec (minExp_le 0 ts).2
  rw [← hsum, FFmt.sum]
  set v := sumAt (minExp 0 ts) ts
  by_cases h : v = 0
  · simp [h, Exact, FFmt.zero]
  · rw [if_neg h]
    have hv : (v : ℚ) = sgn (decide (v < 0)) * v.natAbs := by
      rw [Nat.cast_natAbs]
      rcases lt_or_ge v 0 with hn | hp
      · simp [sgn, hn, abs_of_neg hn]
      · simp [sgn, not_lt.2 hp, abs_of_nonneg hp]
    obtain ⟨h1, -⟩ := exact_round f rm false (decide (v < 0)) v.natAbs (minExp 0 ts) one_ne_zero
    rw [exactMag_one, magOf, ← mul_assoc, ← hv] at h1
    exact ⟨h1, fun h0 => absurd h0 (by simp [h, zpow_ne_zero])⟩

/-- The sign of a sum of two terms that is zero: that of both where they are zeros of one sign, else by the mode. -/
theorem zeroSign_pair {x y : Bool} {m n : Nat} {d e : Int} (h : ratOf (.fin x m d) + ratOf (.fin y n e) = 0) :
    zeroSign rm [(x, m, d), (y, n, e)] = if ratOf (.fin x m d) = 0 ∧ x = y then x else decide (rm = .dn) := by
  have hmn : m = 0 ↔ n = 0 := by
    rw [← ratOf_eq_zero (n := x) (e := d), ← ratOf_eq_zero (n := y) (e := e)]
    exact ⟨fun h0 => by rwa [h0, zero_add] at h, fun h0 => by rwa [h0, add_zero] at h⟩
  simp only [ratOf_eq_zero]
  by_cases hm : m = 0
  · simp only [zeroSign, hm, hmn.1 hm]
    cases x <;> cases y <;> simp
    all_goals cases rm <;> rfl
  · simp only [zeroSign, hm]
    simp [hm]
    cases rm <;> rfl

theorem exact_sum_pair (x y : Bool) (m n : Nat) (d e : Int) :
    Exact f rm false (ratOf (.fin x m d) + ratOf (.fin y n e)) (if ratOf (.fin x m d) = 0 ∧ x = y then x else decide (rm = .dn))
      (f.sum rm [(x, m, d), (y, n, e)]) := by
  have h := exact_sum f rm [(x, m, d), (y, n, e)]
  simp only [List.map_cons, List.map_nil, List.sum_cons, List.sum_nil, add_zero, termVal] at h
  exact ⟨h.1, fun h0 => by rw [← zeroSign_pair rm h0]; exact h.2 h0⟩

/-! ## Arithmetic on finite operands -/

variable (x y z : Bool) (m n k : Nat) (d e g : Int)

theorem exact_add : Exact f rm false (ratOf (.fin x m d) + ratOf (.fin y n e))
    (if ratOf (.fin x m d) = 0 ∧ x = y then x else decide (rm = .dn)) (f.addV rm (.fin x m d) (.fin y n e)) :=
  exact_sum_pair f rm x y m n d e

theorem exact_sub : Exact f rm false (ratOf (.fin x m d) - ratOf (.fin y n e))
    (if ratOf (.fin x m d) = 0 ∧ x ≠ y then x else decide (rm = .dn)) (f.addV rm (.fin x m d) (FVal.flip (.fin y n e))) := by
  have h := exact_add f rm x (!y) m n d e
  rw [show FVal.fin (!y) n e = (FVal.fin y n e).flip from rfl, ratOf_flip, ← sub_eq_add_neg] at h
  simpa only [Bool.eq_not] using h

theorem exact_mul : Exact f rm false (ratOf (.fin x m d) * ratOf (.fin y n e)) (x != y) (f.mulV rm (.fin x m d) (.fin y n e)) := by
  rw [← ratOf_mul]
  exact exact_round_fin f rm false (xor x y) (m * n) (d + e)

theorem exact_div (h : ratOf (.fin y n e) ≠ 0) :
    Exact f rm false (ratOf (.fin x m d) / ratOf (.fin y n e)) (x != y) (f.divV rm (.fin x m d) (.fin y n e)) := by
  rw [Ne, ratOf_eq_zero] at h
  have hr := exact_round f rm false (xor x y) m (d - e) h
  rw [exactMag_div, sgn_xor] at hr
  have hs : (sgn y)⁻¹ = sgn y := by cases y <;> norm_num [sgn]
  have hq : ratOf (.fin x m d) / ratOf (.fin y n e) = sgn x * sgn y * (magOf m d / magOf n e) := by
    rw [ratOf_fin, ratOf_fin, mul_div_mul_comm, div_eq_mul_inv (sgn x), hs]
  rw [hq, show f.divV rm (.fin x m d) (.fin y n e) = f.round rm false (xor x y) m n (d - e) from if_neg h]
  exact hr

theorem exact_fma : Exact f rm false (ratOf (.fin x m d) * ratOf (.fin y n e) + ratOf (.fin z k g))
    (if ratOf (.fin x m d) * ratOf (.fin y n e) = 0 ∧ (x != y) = z then z else decide (rm = .dn))
    (f.fmaV rm (.fin x m d) (.fin y n e) (.fin z k g)) := by
  have h := exact_sum_pair f rm (xor x y) z (m * n) k (d + e) g
  rw [ratOf_mul] at h
  refine ⟨h.1, fun h0 => (h.2 h0).trans ?_⟩
  congr 2
  split <;> rename_i hc
  · exact hc.2
  · rfl

/-- The fused form with the first operand's sign inverted subtracts the product (R171). -/
theorem exact_fnma : Exact f rm false (ratOf (.fin z k g) - ratOf (.fin x m d) * ratOf (.fin y n e))
    (if ratOf (.fin x m d) * ratOf (.fin y n e) = 0 ∧ (x == y) = z then z else decide (rm = .dn))
    (f.fmaV rm (FVal.flip (.fin x m d)) (.fin y n e) (.fin z k g)) := by
  have h := exact_fma f rm (!x) y z m n k d e g
  rw [show FVal.fin (!x) m d = (FVal.fin x m d).flip from rfl, ratOf_flip, neg_mul, neg_add_eq_sub] at h
  simpa only [neg_eq_zero, show ((!x) != y) = (x == y) by cases x <;> cases y <;> rfl] using h

end

/-! ## Square roots (R175) -/

theorem sq_magOf_two_mul (j : Nat) (t : Int) : magOf (2 * j) (t - 1) ^ 2 = ((j * j : Nat) : ℚ) * 2 ^ (2 * t) := by
  rw [two_mul t, zpow_add₀ two_ne_zero, magOf, zpow_sub_one₀ two_ne_zero]
  push_cast
  ring

/-- The square of the integer root of a scaled operand, at twice the root's exponent. -/
theorem sqrtDyadic_spec {m : Nat} (e : Int) (hm : m ≠ 0) :
    2 ^ 80 ≤ (sqrtDyadic m e).1 ∧
      ((sqrtDyadic m e).1 % 2 = 0 → magOf (sqrtDyadic m e).1 (sqrtDyadic m e).2 ^ 2 = magOf m e) ∧
      ((sqrtDyadic m e).1 % 2 = 1 → magOf ((sqrtDyadic m e).1 - 1) (sqrtDyadic m e).2 ^ 2 < magOf m e ∧
        magOf m e < magOf ((sqrtDyadic m e).1 + 1) (sqrtDyadic m e).2 ^ 2) := by
  simp only [sqrtDyadic]
  set sh : Nat := 160 + (if (e - 160) % 2 = 0 then 0 else 1) with hsh
  set a := m * 2 ^ sh with ha
  set r := Nat.sqrt a with hr
  have heven : 2 * ((e - sh) / 2) = e - sh := by
    rw [hsh]; split <;> push_cast <;> omega
  have square (j : Nat) : magOf (2 * j) ((e - sh) / 2 - 1) ^ 2 = ((j * j : Nat) : ℚ) * 2 ^ (e - (sh : Int)) := by
    rw [sq_magOf_two_mul, heven]
  have value : magOf m e = (a : ℚ) * 2 ^ (e - (sh : Int)) := by
    rw [magOf, ha, zpow_sub₀ two_ne_zero]
    push_cast
    rw [zpow_natCast]
    field_simp
  have hpos : (0 : ℚ) < 2 ^ (e - (sh : Int)) := by positivity
  have big : 2 ^ 80 ≤ r := Nat.le_sqrt.2 (calc
    2 ^ 80 * 2 ^ 80 = 2 ^ 160 := by norm_num
    _ ≤ 2 ^ sh := Nat.pow_le_pow_right (by norm_num) (by omega)
    _ ≤ a := Nat.le_mul_of_pos_left _ (Nat.pos_of_ne_zero hm))
  refine ⟨by omega, ?_, ?_⟩
  · intro h
    have hx : r * r = a := by by_contra hx; rw [if_neg hx] at h; omega
    rw [if_pos hx, add_zero, square, hx, value]
  · intro h
    have hx : r * r ≠ a := fun hx => by rw [if_pos hx] at h; omega
    rw [if_neg hx, Nat.add_sub_cancel, show 2 * r + 1 + 1 = 2 * (r + 1) by ring, square, square, value,
      mul_lt_mul_iff_left₀ hpos, mul_lt_mul_iff_left₀ hpos]
    exact ⟨by exact_mod_cast (Nat.sqrt_le a).lt_of_ne hx, by exact_mod_cast Nat.lt_succ_sqrt a⟩

/-- The root of a positive operand. -/
theorem sqrt_of_fin (f : FFmt) (rm : Rm) {x m : Nat} {e : Int} (h : f.decode x = .fin false m e) (hm : m ≠ 0) :
    f.sqrt rm x = f.round rm false false (sqrtDyadic m e).1 1 (sqrtDyadic m e).2 := by
  rw [FFmt.sqrt, h]
  exact if_neg hm

end Sys2Proof.Machine
end

section
/-! PROOF. Order, minimum and maximum, comparison and class (07 R114, 09 R172, R173, R178). -/

namespace Sys2Proof.Machine

open Sys2Proof

/-! ## The order of values -/

/-- A signed significand at a quantum that divides it. -/
theorem ratOf_shift {g x : Int} (n : Bool) (m : Nat) (h : g ≤ x) :
    (((if n then -((m * 2 ^ (x - g).toNat : Nat) : Int) else ((m * 2 ^ (x - g).toNat : Nat) : Int) : Int)) : ℚ) * 2 ^ g = ratOf (.fin n m x) := by
  rw [ratOf_fin, ← magOf_shift m h]
  cases n <;> simp [sgn]

theorem ltV_fin (zeros x y : Bool) (m n : Nat) (d e : Int) : ltV zeros (.fin x m d) (.fin y n e) =
    if (zeros && m == 0 && n == 0) = true then x && !y else decide (ratOf (.fin x m d) < ratOf (.fin y n e)) := by
  rw [← ratOf_shift x m (min_le_left d e), ← ratOf_shift y n (min_le_right d e)]
  simp only [mul_lt_mul_iff_left₀ (show (0 : ℚ) < 2 ^ min d e by positivity), Int.cast_lt]
  rfl

theorem isFin_fin (n : Bool) (m : Nat) (e : Int) : isFin (.fin n m e) := ⟨n, m, e, rfl⟩
theorem not_isFin_inf (n : Bool) : ¬ isFin (.inf n) := by rintro ⟨_, _, _, h⟩; cases h

/-- ltV decides the order on values that are not NaN. -/
theorem ltV_iff (zeros : Bool) {u v : FVal} (hu : u.isNaN = false) (hv : v.isNaN = false) : ltV zeros u v = true ↔ Below zeros u v := by
  rw [Below, hu, hv, and_iff_right rfl, and_iff_right rfl]
  cases u with
  | nan => cases hu
  | inf x =>
    cases v with
    | nan => cases hv
    | inf y => cases x <;> cases y <;> simp [ltV, not_isFin_inf]
    | fin y n e => cases x <;> simp [ltV, not_isFin_inf]
  | fin x m d =>
    cases v with
    | nan => cases hv
    | inf y => cases y <;> simp [ltV, not_isFin_inf]
    | fin y n e =>
      rw [ltV_fin]
      simp only [isFin_fin, ratOf_eq_zero, true_and, reduceCtorEq, false_and, or_false, FVal.neg]
      split
      case isTrue h =>
        simp only [Bool.and_eq_true, beq_iff_eq] at h
        obtain ⟨⟨rfl, rfl⟩, rfl⟩ := h
        have h0 (s : Bool) (k : Int) : ratOf (.fin s 0 k) = 0 := ratOf_eq_zero.2 rfl
        simp [h0]
      case isFalse h =>
        simp only [Bool.and_eq_true, beq_iff_eq] at h
        rw [decide_eq_true_eq, or_iff_left]
        rintro ⟨hz, hm, hn, -⟩
        exact h ⟨⟨hz, hm⟩, hn⟩

theorem not_nan_of_below {zeros : Bool} {u v : FVal} (h : Below zeros u v) : u.isNaN = false ∧ v.isNaN = false := ⟨h.1, h.2.1⟩

theorem below_asymm {zeros : Bool} {u v : FVal} (h : Below zeros u v) : ¬ Below zeros v u := by
  obtain ⟨-, -, h⟩ := h
  rintro ⟨-, -, h'⟩
  obtain ⟨fu, fv, h⟩ | ⟨rfl, h⟩ | ⟨rfl, h⟩ := h
  · obtain ⟨-, -, h'⟩ | ⟨rfl, -⟩ | ⟨rfl, -⟩ := h'
    · obtain h | ⟨-, u0, v0, hun, hvn⟩ := h <;> obtain h' | ⟨-, v0', u0', hvn', -⟩ := h'
      · exact absurd h h'.asymm
      · rw [u0', v0'] at h; exact absurd h (lt_irrefl _)
      · rw [u0, v0] at h'; exact absurd h' (lt_irrefl _)
      · rw [hvn] at hvn'; cases hvn'
    · exact not_isFin_inf _ fv
    · exact not_isFin_inf _ fu
  · obtain ⟨-, fu, -⟩ | ⟨rfl, -⟩ | ⟨hu, -⟩ := h'
    · exact not_isFin_inf _ fu
    · exact h rfl
    · cases hu
  · obtain ⟨fv, -⟩ | ⟨hv, -⟩ | ⟨rfl, -⟩ := h'
    · exact not_isFin_inf _ fv
    · cases hv
    · exact h rfl

section
variable (f : FFmt) {x y : Nat}

/-! ## Minimum and maximum -/

theorem minmax_of_not_nan (mx : Bool) (hu : (f.decode x).isNaN = false) (hv : (f.decode y).isNaN = false) :
    f.minmax mx x y = (if ltV true (f.decode x) (f.decode y) == mx then y else x, 0) := by
  have h0 : flSN [f.decode x, f.decode y] = 0 := by
    rw [flSN_pair, if_neg]
    rintro (h | h)
    · rw [h] at hu; cases hu
    · rw [h] at hv; cases hv
  simp only [FFmt.minmax, hu, hv, h0]

/-- The lesser operand comes first in both orders of operands. -/
theorem minmax_of_below (h : Below true (f.decode x) (f.decode y)) :
    f.minmax false x y = (x, 0) ∧ f.minmax false y x = (x, 0) ∧ f.minmax true x y = (y, 0) ∧ f.minmax true y x = (y, 0) := by
  obtain ⟨hu, hv⟩ := not_nan_of_below h
  have h1 := (ltV_iff true hu hv).2 h
  have h2 : ltV true (f.decode y) (f.decode x) = false := by
    rw [← Bool.not_eq_true, ltV_iff true hv hu]; exact below_asymm h
  simp [minmax_of_not_nan, hu, hv, h1, h2]

theorem flSN_comm (a b : FVal) : flSN [a, b] = flSN [b, a] := by
  simp only [flSN_pair, or_comm]

/-- Beside a NaN the other operand is the result, the format's NaN beside another. -/
theorem minmax_of_nan (mx : Bool) (hu : (f.decode x).isNaN = true) :
    f.minmax mx x y = (if (f.decode y).isNaN then f.nan else y, flSN [f.decode x, f.decode y]) ∧
      f.minmax mx y x = (if (f.decode y).isNaN then f.nan else y, flSN [f.decode x, f.decode y]) := by
  rw [flSN_comm (f.decode x)]
  cases hv : (f.decode y).isNaN <;> simp [FFmt.minmax, hu, hv, flSN_comm (f.decode x)]

/-! ## Comparison and class -/

theorem cmp_flags (cc : Nat) : (f.cmp cc x y).2 =
    if ((f.decode x).isNaN || (f.decode y).isNaN) = true ∧ (cc = 1 ∨ cc = 2 ∨ cc = 5 ∨ cc = 6) then flNV else flSN [f.decode x, f.decode y] := by
  have hsn : flSN [f.decode x, f.decode y] = 0 ∨ flSN [f.decode x, f.decode y] = flNV := by
    rw [flSN_pair]; exact (ite_eq_or_eq _ _ _).symm
  have hor : flSN [f.decode x, f.decode y] ||| flNV = flNV := by obtain h | h := hsn <;> rw [h] <;> rfl
  by_cases h : ((f.decode x).isNaN || (f.decode y).isNaN) = true ∧ (cc = 1 ∨ cc = 2 ∨ cc = 5 ∨ cc = 6)
  · rw [if_pos h, ← hor]
    have : (((f.decode x).isNaN || (f.decode y).isNaN) && (cc == 1 || cc == 2 || cc == 5 || cc == 6)) = true := by
      simpa [or_assoc] using h
    simp only [FFmt.cmp, this]
    rfl
  · rw [if_neg h]
    have : (((f.decode x).isNaN || (f.decode y).isNaN) && (cc == 1 || cc == 2 || cc == 5 || cc == 6)) = false := by
      rw [← Bool.not_eq_true]; simpa [or_assoc] using h
    simp only [FFmt.cmp, this]
    exact BitVec.or_zero

/-- The order that cmp asks for, which no NaN takes part in. -/
theorem ltV_and_not_nan (u v : FVal) : (u.isNaN || v.isNaN) = false ∧ ltV false u v = true ↔ Below false u v := by
  rw [Bool.or_eq_false_iff]
  exact ⟨fun ⟨⟨hu, hv⟩, h⟩ => (ltV_iff false hu hv).1 h,
    fun h => ⟨not_nan_of_below h, (ltV_iff false h.1 h.2.1).2 h⟩⟩

/-- The condition of each comparison code, by whether an operand is a NaN and the order of the operands (R173). -/
def cmpCond (nan : Bool) (lt gt : Prop) : Nat → Prop
  | 0 => nan = false ∧ ¬ lt ∧ ¬ gt
  | 1 => lt
  | 2 => nan = false ∧ ¬ gt
  | 3 => nan = true
  | 4 => nan = true ∨ lt ∨ gt
  | 5 => gt
  | 6 => nan = false ∧ ¬ lt
  | _ => nan = false

theorem cmp_iff {cc : Nat} (hc : cc < 8) : (f.cmp cc x y).1 = true ↔
    cmpCond ((f.decode x).isNaN || (f.decode y).isNaN) (Below false (f.decode x) (f.decode y)) (Below false (f.decode y) (f.decode x)) cc := by
  rw [← ltV_and_not_nan (f.decode x), ← ltV_and_not_nan (f.decode y), Bool.or_comm (f.decode y).isNaN]
  cases hn : (f.decode x).isNaN || (f.decode y).isNaN <;> interval_cases cc <;> simp [FFmt.cmp, hn, cmpCond]

end

end Sys2Proof.Machine
end

section
/-! PROOF. Decoded operands, class, and rounding to an integer (07 R97, R111, 09 R178, R179). -/

namespace Sys2Proof.Machine

open Sys2Proof

/-! ## What an encoding of a finite value decodes to -/

/-- Significand and exponent of a decoded finite value: subnormal at the least quantum, or normal above it. -/
theorem decode_fin {f : FFmt} {x m : Nat} {n : Bool} {e : Int} (h : f.decode x = .fin n m e) :
    m < 2 ^ f.mb ∧ e = f.emin - f.mb ∨
      2 ^ f.mb ≤ m ∧ m < 2 ^ (f.mb + 1) ∧ f.emin - f.mb ≤ e ∧ (f.hasInf = true → e + 2 ≤ 2 ^ f.eb - f.bias - f.mb) := by
  have hm := Nat.mod_lt x (Nat.two_pow_pos f.mb)
  have he := Nat.mod_lt (x / 2 ^ f.mb) (Nat.two_pow_pos f.eb)
  have hpow : 2 ^ (f.mb + 1) = 2 * 2 ^ f.mb := pow_succ' 2 f.mb
  simp only [FFmt.decode] at h
  split at h
  · split at h <;> cases h
  rename_i hinf
  split at h
  · cases h
  split at h <;> obtain ⟨-, rfl, rfl⟩ := FVal.fin.inj h
  · exact .inl ⟨hm, rfl⟩
  · rename_i h0
    simp only [Bool.and_eq_true, beq_iff_eq, not_and] at hinf h0
    refine .inr ⟨by omega, by omega, by rw [FFmt.emin]; omega, fun hi => ?_⟩
    have := hinf hi
    have : ((2 ^ f.eb : Nat) : Int) = 2 ^ f.eb := by push_cast; rfl
    omega

/-- The class of a value (R178). -/
theorem cls_eq (f : FFmt) (x : Nat) : f.cls x = match f.decode x with
    | .nan s => if s then 2 ^ 8 else 2 ^ 9
    | .inf n => if n then 2 ^ 0 else 2 ^ 7
    | .fin n m e => if m = 0 then (if n then 2 ^ 3 else 2 ^ 4)
        else if magOf m e < (2 : ℚ) ^ f.emin then (if n then 2 ^ 2 else 2 ^ 5) else (if n then 2 ^ 1 else 2 ^ 6) := by
  rw [FFmt.cls]
  cases h : f.decode x with
  | nan s => rfl
  | inf n => rfl
  | fin n m e =>
    have hleast : (2 : ℚ) ^ f.emin = magOf (2 ^ f.mb) (f.emin - f.mb) := by
      rw [magOf, Nat.cast_pow, Nat.cast_ofNat, ← zpow_natCast, ← zpow_add₀ two_ne_zero, add_sub_cancel]
    have hsub : m < 2 ^ f.mb ↔ magOf m e < (2 : ℚ) ^ f.emin := by
      rw [hleast]
      obtain ⟨hm, rfl⟩ | ⟨hm, -, he, -⟩ := decode_fin h
      · exact iff_of_true hm (by rw [magOf, magOf]; gcongr)
      · refine iff_of_false hm.not_gt (not_lt.2 ?_)
        rw [magOf, magOf]
        exact mul_le_mul (by exact_mod_cast hm) (zpow_le_zpow_right₀ one_le_two he) (by positivity) (by positivity)
    simp only [hsub]
    rfl

/-! ## Rounding to an integer -/

/-- A whole number with a sign. -/
def signedInt (neg : Bool) (n : Nat) : Int := if neg then -(n : Int) else n

theorem cast_signedInt (neg : Bool) (n : Nat) : (signedInt neg n : ℚ) = sgn neg * n := by cases neg <;> simp [signedInt, sgn]

theorem abs_sgn (neg : Bool) : |sgn neg| = 1 := by cases neg <;> simp [sgn]

/-- A rounding of the magnitude, with the value's sign, is the value rounded to an integer (R111). -/
theorem intRounded_of_roundsTo {rm : Rm} {neg : Bool} {x : ℚ} {n : Nat} (hx : 0 ≤ x) (h : RoundsTo rm neg x n) :
    IntRounded rm (sgn neg * x) (signedInt neg n) := by
  obtain ⟨near, mode⟩ := h
  have herr : |sgn neg * x - signedInt neg n| = |x - n| := by
    rw [cast_signedInt, ← mul_sub, abs_mul, abs_sgn, one_mul]
  have hv : |sgn neg * x| = x := by rw [abs_mul, abs_sgn, one_mul, abs_of_nonneg hx]
  have hi : |(signedInt neg n : ℚ)| = n := by rw [cast_signedInt, abs_mul, abs_sgn, one_mul, Nat.abs_cast]
  have hpar : signedInt neg n % 2 = 0 ↔ n % 2 = 0 := by cases neg <;> simp [signedInt] <;> omega
  obtain ⟨lo, hi'⟩ := abs_lt.1 near
  cases rm <;> simp only [IntRounded, herr, hv, hi, hpar]
  case ne => exact mode
  case na => exact ⟨mode.1, fun tie => (mode.2 tie).lt_of_ne fun heq => by norm_num [heq] at tie⟩
  case tz => exact ⟨mode, near⟩
  case up => cases neg <;> simp [sgn, signedInt] at mode ⊢ <;> constructor <;> linarith
  case dn => cases neg <;> simp [sgn, signedInt] at mode ⊢ <;> constructor <;> linarith
  case odd => exact ⟨near, mode.imp (fun heq => by rw [cast_signedInt, heq]) (fun hodd => by omega)⟩

theorem roundInt_eq (rm : Rm) (neg : Bool) (m : Nat) (e : Int) :
    roundInt rm neg m e = (roundAt rm neg m 1 e 0, decide ((atQuantum m 1 e 0).2.1 ≠ 0)) := rfl

/-- roundInt rounds a finite value to an integer, inexact just where it is not the value. -/
theorem roundInt_spec (rm : Rm) (neg : Bool) (m : Nat) (e : Int) :
    IntRounded rm (ratOf (.fin neg m e)) (signedInt neg (roundInt rm neg m e).1) ∧
      ((roundInt rm neg m e).2 = false ↔ (signedInt neg (roundInt rm neg m e).1 : ℚ) = ratOf (.fin neg m e)) := by
  have h := roundAt_roundsTo (rm := rm) (neg := neg) (num := m) (e := e) 0 one_ne_zero
  have hx := roundAt_exact (rm := rm) (neg := neg) (num := m) (e := e) 0 one_ne_zero
  rw [exactMag_one, zpow_zero, div_one] at h hx
  rw [roundInt_eq, ratOf_fin, cast_signedInt, mul_right_inj' (sgn_ne_zero neg), hx, decide_eq_false_iff_not, not_not]
  exact ⟨intRounded_of_roundsTo (by rw [magOf]; positivity) h, Iff.rfl⟩

/-! ## Rounding to an integral value (R179) -/

/-- A magnitude that is a significand of the format at a quantum no less than the least is its own ROUND. -/
theorem magOf_signif_of_eq {f : FFmt} {rm : Rm} {neg : Bool} {num den j : Nat} {e t : Int} (hn : num ≠ 0) (hd : den ≠ 0)
    (h : exactMag num den e = magOf j t) (hj : j < 2 ^ (f.mb + 1)) (ht : f.emin - f.mb ≤ t) :
    magOf (f.signif rm neg num den e) (f.quantum num den e) = exactMag num den e := by
  have hex : expOf num den e < t + (f.mb + 1 : Nat) := by
    rw [expOf_lt_emin hn hd, h, zpow_add₀ two_ne_zero, zpow_natCast, mul_comm, magOf]
    gcongr
    exact_mod_cast hj
  have hq : f.quantum num den e ≤ t := max_le (by push_cast at hex; omega) ht
  have hr := signif_roundsTo (f := f) (rm := rm) (neg := neg) (num := num) (e := e) hd
  have hx : exactMag num den e / 2 ^ f.quantum num den e = (j * 2 ^ (t - f.quantum num den e).toNat : Nat) := by
    rw [h, ← magOf_shift j hq, mul_div_cancel_right₀ _ (by positivity)]
  rw [hx] at hr
  rw [magOf_eq, hr.eq, hx]

/-- The exponent of the quantum of the largest finite values of a format with infinities. -/
def FFmt.top (f : FFmt) : Int := 2 ^ f.eb - 2 - f.bias - f.mb

/-- The largest finite value of a scalar format, and the signs of its exponents. -/
theorem ftyFmt_max (t : FTy) :
    (ftyFmt t).decode (ftyFmt t).maxFin = .fin false (2 ^ ((ftyFmt t).mb + 1) - 1) (ftyFmt t).top ∧
      0 ≤ (ftyFmt t).top ∧ (ftyFmt t).emin - (ftyFmt t).mb ≤ 0 ∧ (ftyFmt t).hasInf = true := by
  cases t <;> decide

/-- A decoded value rounded to an integer has a significand of its format. -/
theorem roundAt_zero_fits {t : FTy} {x m : Nat} {neg n : Bool} {e : Int} (rm : Rm) (h : (ftyFmt t).decode x = .fin n m e) :
    ∃ (j : Nat) (k : Int), (roundAt rm neg m 1 e 0 : ℚ) = magOf j k ∧ j < 2 ^ ((ftyFmt t).mb + 1) ∧ 0 ≤ k ∧
      k ≤ (ftyFmt t).top := by
  obtain ⟨-, hmax, hmin, hinf⟩ := ftyFmt_max t
  have hm : m < 2 ^ ((ftyFmt t).mb + 1) ∧ e ≤ (ftyFmt t).top := by
    obtain ⟨hm, rfl⟩ | ⟨-, hm, -, he⟩ := decode_fin h
    · exact ⟨hm.trans (Nat.pow_lt_pow_right (by norm_num) (by omega)), hmin.trans hmax⟩
    · exact ⟨hm, by have := he hinf; rw [FFmt.top]; omega⟩
  have hr := roundAt_roundsTo (rm := rm) (neg := neg) (num := m) (e := e) 0 one_ne_zero
  rw [exactMag_one, zpow_zero, div_one] at hr
  rcases le_or_gt 0 e with he | he
  · have hi : magOf m e = (m * 2 ^ e.toNat : Nat) := by
      rw [← magOf_shift m he, sub_zero, zpow_zero, mul_one]
    rw [hi] at hr
    exact ⟨m, e, by rw [hr.eq, hi], hm.1, he, hm.2⟩
  · refine ⟨_, 0, (by rw [magOf, zpow_zero, mul_one]), ?_, le_rfl, hmax⟩
    have hle : magOf m e ≤ (2 ^ (ftyFmt t).mb : Nat) := by
      calc magOf m e ≤ (2 ^ ((ftyFmt t).mb + 1) : Nat) * 2 ^ (-1 : Int) := by
            rw [magOf]
            exact mul_le_mul (by exact_mod_cast hm.1.le) (zpow_le_zpow_right₀ one_le_two (by omega)) (by positivity) (by positivity)
        _ = _ := by push_cast; rw [pow_succ, zpow_neg_one, mul_inv_cancel_right₀ two_ne_zero]
    exact (hr.le hle).trans_lt (Nat.pow_lt_pow_right (by norm_num) (by omega))

/-- Rounding to an integral value keeps the sign and gives the integer (R179). -/
theorem decode_rnd {t : FTy} {x m : Nat} {neg : Bool} {e : Int} (rm : Rm) (h : (ftyFmt t).decode x = .fin neg m e) :
    ∃ (m' : Nat) (k : Int), (ftyFmt t).decode ((ftyFmt t).rnd rm x).1 = .fin neg m' k ∧
      ratOf (.fin neg m' k) = signedInt neg (roundInt rm neg m e).1 := by
  obtain ⟨j, k, hval, hj, hk0, hk⟩ := roundAt_zero_fits (neg := neg) rm h
  obtain ⟨hmax, -, hmin, -⟩ := ftyFmt_max t
  have hok := ftyFmt_ok t
  generalize ftyFmt t = f at *
  have hrnd : (f.rnd rm x).1 = (f.round .tz false neg (roundAt rm neg m 1 e 0) 1 0).1 := by rw [FFmt.rnd, h]; rfl
  rw [hrnd, roundInt_eq, cast_signedInt]
  generalize roundAt rm neg m 1 e 0 = n at *
  by_cases hn : n = 0
  · have hz := decode_zero_add f neg hok (Nat.zero_le _)
    rw [if_pos (Nat.zero_div _), Nat.zero_mod] at hz
    rw [FFmt.round, if_pos hn, hn]
    exact ⟨_, _, hz, by rw [ratOf_eq_zero.2 rfl, Nat.cast_zero, mul_zero]⟩
  · have hv : exactMag n 1 0 = magOf j k := by rw [exactMag_one, magOf, zpow_zero, mul_one, hval]
    have hle : f.roundMag .tz neg n 1 0 ≤ f.maxFin := roundMag_le hok hn one_ne_zero hmax (by
      rw [hv, magOf, magOf]
      exact mul_le_mul (by exact_mod_cast Nat.le_sub_one_of_lt hj) (zpow_le_zpow_right₀ one_le_two hk) (by positivity) (by positivity))
    obtain ⟨m', k', hdec, hres⟩ := decode_round hok hn one_ne_zero hle
    refine ⟨m', k', hdec, ?_⟩
    rw [ratOf_fin, FFmt.Holds.magOf_eq hres, magOf_signif_of_eq hn one_ne_zero hv hj (by omega), hv, hval]

end Sys2Proof.Machine
end

section
/-! PROOF. The ops on finite operands, together (07 R114 to R116, 09 R170 to R173, R175, R178, R179). -/

namespace Sys2Proof.Machine

open Sys2Proof

theorem floatExactResults : FloatExactResults := by
  intro t rm x y z f u v w down sn nan
  have hsn : flSN [u, v] = sn := flSN_pair u v
  refine ⟨?_, ?_, minmax_of_below f, fun mx hu => hsn ▸ minmax_of_nan f mx hu, fun cc hc => ⟨hsn ▸ cmp_flags f cc, cmp_iff f hc⟩,
    cls_eq f x, ?_, ?_, ?_⟩
  · rintro ⟨a, m, d, hu⟩ ⟨b, n, e, hv⟩
    simp only [FFmt.add, FFmt.sub, FFmt.mul, FFmt.div, FFmt.fma, show f.decode x = _ from hu, show f.decode y = _ from hv, hu, hv]
    refine ⟨exact_add f rm a b m n d e, exact_sub f rm a b m n d e, exact_mul f rm a b m n d e, exact_div f rm a b m n d e, ?_⟩
    rintro ⟨c, k, g, hw⟩
    simp only [show f.decode z = _ from hw, hw]
    exact ⟨exact_fma f rm a b c m n k d e g, exact_fnma f rm a b c m n k d e g⟩
  · rintro ⟨a, m, e, hu⟩ hpos
    rw [hu] at hpos ⊢
    have hm : m ≠ 0 := fun h => hpos.ne' (ratOf_eq_zero.2 h)
    have ha : a = false := by
      rw [← Bool.not_eq_true]
      rintro rfl
      have : 0 ≤ magOf m e := by rw [magOf]; positivity
      rw [ratOf_fin, sgn, if_pos rfl] at hpos
      linarith
    subst ha
    have hval : ratOf (.fin false m e) = magOf m e := by simp [ratOf_fin, sgn]
    rw [hval]
    exact ⟨_, _, sqrt_of_fin f rm hu hm, sqrtDyadic_spec e hm⟩
  · rintro ⟨a, m, e, hu⟩
    obtain ⟨m', k, hdec, hval⟩ := decode_rnd rm (t := t) hu
    obtain ⟨hint, hexact⟩ := roundInt_spec rm a m e
    rw [hu]
    refine ⟨_, m', k, hint, hdec, hval, ?_⟩
    have hfl : (f.rnd rm x).2 = flIf (roundInt rm a m e).2 flNX := by rw [FFmt.rnd, show f.decode x = _ from hu]
    rw [hfl, flIf]
    simp only [← hexact]
    cases (roundInt rm a m e).2 <;> rfl
  · intro n hu
    rw [FFmt.rnd, show f.decode x = _ from hu]
  · intro q hu
    rw [FFmt.rnd, show f.decode x = _ from hu]
    rfl

end Sys2Proof.Machine
end

section
/-! PROOF. Encoding a value in each format (07 R102, R103, R111 to R113). -/

namespace Sys2Proof.Machine

open Sys2Proof

/-! ## Floating-point formats (R112, R113) -/

theorem encodeFmt_float {c : Nat} (hc : c < 6 ∨ c = 11 ∨ c = 12) (rm : Rm) (sat : Bool) (v : FVal) :
    encodeFmt c rm sat v = (fmtOf c).ofVal rm sat v := by
  obtain h | rfl | rfl := hc
  · interval_cases c <;> rfl
  · rfl
  · rfl

theorem ofVal_inf {c : Nat} (hc : c < 6 ∨ c = 11 ∨ c = 12) (rm : Rm) (sat n : Bool) :
    (fmtOf c).ofVal rm sat (.inf n) = if c = 11 ∨ c = 12 then ((fmtOf c).zero n + (fmtOf c).maxFin, flNV)
      else if sat then ((fmtOf c).zero n + (fmtOf c).maxFin, flSAT) else if c = 4 then (0x7F, flNV) else ((fmtOf c).inf n, 0) := by
  obtain ⟨hnan, hinf⟩ := fmtOf_has hc
  by_cases h : c = 11 ∨ c = 12
  · simp only [FFmt.ofVal, hnan, hinf, h]; rfl
  · by_cases h4 : c = 4
    · subst h4
      cases sat <;> rfl
    · simp [FFmt.ofVal, hinf, h, h4]

theorem ofVal_nan {c : Nat} (hc : c < 6 ∨ c = 11 ∨ c = 12) (rm : Rm) (sat q : Bool) :
    (fmtOf c).ofVal rm sat (.nan q) = if c = 11 ∨ c = 12 then (0, flNV) else ((fmtOf c).nan, if q then flNV else 0) := by
  by_cases h : c = 11 ∨ c = 12 <;> simp [FFmt.ofVal, (fmtOf_has hc).1, h, flIf]

/-! ## Integer formats (R101, R113) -/

/-- The ends of an integer format. -/
def intLo (w : Nat) (signed : Bool) : Int := if signed then -2 ^ (w - 1) else 0
def intHi (w : Nat) (signed : Bool) : Int := if signed then 2 ^ (w - 1) - 1 else 2 ^ w - 1

/-- The bits of an integer and the flag of one past an end. -/
def intBits (w : Nat) (i : Int) : Nat := (BitVec.ofInt w i).toNat
def intPast (sat : Bool) : Fl := if sat then flSAT else flNV

section
variable (w : Nat) (signed : Bool) (rm : Rm) (sat : Bool)

theorem toIntFmt_ends : (if signed then -((2 ^ (w - 1) : Nat) : Int) else 0) = intLo w signed ∧
    (if signed then ((2 ^ (w - 1) - 1 : Nat) : Int) else ((2 ^ w - 1 : Nat) : Int)) = intHi w signed := by
  have h1 := Nat.two_pow_pos (w - 1)
  have h2 := Nat.two_pow_pos w
  constructor
  · rw [intLo]; push_cast; rfl
  · rw [intHi, Nat.cast_sub h1, Nat.cast_sub h2]; push_cast; rfl

theorem intBits_eq (i : Int) : (i % (2 ^ w : Nat)).toNat = intBits w i := (BitVec.toNat_ofInt i).symm

theorem toIntFmt_inf (n : Bool) : toIntFmt w signed rm sat (.inf n) = (intBits w (if n then intLo w signed else intHi w signed), flNV) := by
  simp only [toIntFmt, intBits_eq, (toIntFmt_ends w signed).1, (toIntFmt_ends w signed).2]

/-- A finite value becomes the rounded integer, or the end that it is past. -/
theorem toIntFmt_fin (neg : Bool) (m : Nat) (e : Int) : ∃ i, IntRounded rm (ratOf (.fin neg m e)) i ∧
    toIntFmt w signed rm sat (.fin neg m e) = if i < intLo w signed then (intBits w (intLo w signed), intPast sat)
      else if intHi w signed < i then (intBits w (intHi w signed), intPast sat)
      else (intBits w i, if (i : ℚ) = ratOf (.fin neg m e) then 0 else flNX) := by
  obtain ⟨hint, hexact⟩ := roundInt_spec rm neg m e
  refine ⟨_, hint, ?_⟩
  have hfl : flIf (roundInt rm neg m e).2 flNX = if (signedInt neg (roundInt rm neg m e).1 : ℚ) = ratOf (.fin neg m e) then 0 else flNX := by
    simp only [← hexact]
    cases (roundInt rm neg m e).2 <;> rfl
  rw [← hfl]
  simp only [toIntFmt, intBits_eq, (toIntFmt_ends w signed).1, (toIntFmt_ends w signed).2]
  rfl

end

/-- The integer formats of R96: width and whether they are signed. -/
theorem encodeFmt_int {c : Nat} (h7 : 7 ≤ c) (h10 : c ≤ 10) (rm : Rm) (sat : Bool) (v : FVal) :
    encodeFmt c rm sat v = toIntFmt (if c = 9 then 32 else if c = 8 then 16 else 8) (decide (c ≠ 10)) rm sat v := by
  interval_cases c <;> rfl

theorem intLo_code {c : Nat} (w : Nat) : (if c = 10 then 0 else -2 ^ (w - 1)) = intLo w (decide (c ≠ 10)) := by
  by_cases h : c = 10 <;> simp [intLo, h]

theorem intHi_code {c : Nat} (h7 : 7 ≤ c) (h10 : c ≤ 10) :
    (if c = 10 then 255 else 2 ^ ((if c = 9 then 32 else if c = 8 then 16 else 8) - 1) - 1) =
      intHi (if c = 9 then 32 else if c = 8 then 16 else 8) (decide (c ≠ 10)) := by
  interval_cases c <;> rfl

/-! ## W2P8 (R102, R103) -/

/-- The value of a W2P8 byte. -/
def w2Rat (b : Nat) : ℚ := (w2Val b : ℚ) / 64

/-- A byte is canonical (R103). -/
def W2Canonical (b : Nat) : Prop := b / 16 ≠ 15 ∧ b % 16 ≠ 15

/-- A mode allows a byte's value for an exact value (R103). -/
def W2Allows (rm : Rm) (v w : ℚ) : Prop :=
  match rm with
  | .tz => |w| ≤ |v| ∧ 0 ≤ w * v
  | .odd => |w| ≤ |v| ∧ 0 ≤ w * v
  | .up => v ≤ w
  | .dn => w ≤ v
  | _ => True

theorem w2Term_le (t : Nat) : (w2Term t).natAbs ≤ 64 := by
  have h : 2 ^ (6 - t % 8) ≤ 2 ^ 6 := Nat.pow_le_pow_right (by norm_num) (Nat.sub_le _ _)
  unfold w2Term
  split
  · decide
  · dsimp only
    split
    · rwa [Int.natAbs_neg, Int.natAbs_natCast]
    · rwa [Int.natAbs_natCast]

theorem w2Val_le (x : Nat) : (w2Val x).natAbs ≤ 128 := by
  have h1 := w2Term_le (x / 16 % 16)
  have h2 := w2Term_le (x % 16)
  unfold w2Val
  omega

theorem w2Terms_le (x : Nat) : w2Terms x ≤ 2 := by
  unfold w2Terms
  split <;> split <;> omega

theorem w2Writable_iff {x : Nat} (h : x < 256) : w2Writable x = true ↔ W2Canonical x := by
  rw [w2Writable, W2Canonical, Nat.mod_eq_of_lt (show x / 16 < 16 by omega)]
  simp

/-- The test of a mode in w2Key, on whole numbers. -/
def w2Ok (rm : Rm) (s : Int) (den x : Nat) : Bool :=
  match rm with
  | .tz => decide ((w2Val x * den).natAbs ≤ s.natAbs) && (w2Val x == 0 || decide (w2Val x < 0) == decide (s < 0))
  | .odd => decide ((w2Val x * den).natAbs ≤ s.natAbs) && (w2Val x == 0 || decide (w2Val x < 0) == decide (s < 0))
  | .up => decide (s ≤ w2Val x * den)
  | .dn => decide (w2Val x * den ≤ s)
  | .ne => true
  | .na => true

/-- What w2Key puts below distance and terms: it orders the bytes that are alike in these. -/
def w2Low (rm : Rm) (x : Nat) : Nat :=
  (((match rm with | .ne => (w2Val x).natAbs | .na => 128 - (w2Val x).natAbs | _ => 0) * 8 + x / 16 % 8) * 8 + x % 8) * 2 + x / 128

theorem w2Low_lt (rm : Rm) {x : Nat} (h : x < 256) : w2Low rm x < 2 ^ 15 := by
  have := w2Val_le x
  unfold w2Low
  split <;> omega

theorem w2Key_eq (rm : Rm) (s : Int) (den x : Nat) : w2Key rm s den x =
    if (w2Ok rm s den x && w2Writable x) = true then some (((w2Val x * den - s).natAbs * 4 + w2Terms x) * 2 ^ 15 + w2Low rm x) else none := by
  have h (a m i j k : Nat) : (((a * 256 + m) * 8 + i) * 8 + j) * 2 + k = a * 2 ^ 15 + (((m * 8 + i) * 8 + j) * 2 + k) := by ring
  cases rm <;> simp only [w2Key, h] <;> rfl

section
variable {rm : Rm} {v : ℚ} {s : Int} {den : Nat}

/-- A byte's distance from the exact value s / den, in units of 2^-6 / den. -/
theorem w2_dist (hd : den ≠ 0) (hs : (s : ℚ) = 64 * v * den) (x : Nat) :
    |w2Rat x - v| * (64 * den) = ((w2Val x * den - s).natAbs : Nat) := by
  have hd' : (0 : ℚ) < 64 * den := by positivity
  have h : (((w2Val x * den - s : Int)) : ℚ) = (w2Rat x - v) * (64 * den) := by
    rw [w2Rat]
    push_cast
    rw [hs]
    ring
  rw [Nat.cast_natAbs, Int.cast_abs, h, abs_mul, abs_of_pos hd']

/-- A number no larger than another in magnitude is zero or has its sign just where their product is not negative. -/
theorem same_sign_iff {w v : ℚ} (h : |w| ≤ |v|) : (w = 0 ∨ (w < 0 ↔ v < 0)) ↔ 0 ≤ w * v := by
  by_cases hw : w = 0
  · simp [hw]
  have hv : v ≠ 0 := by rintro rfl; exact hw (by simpa using h)
  rw [or_iff_right hw]
  rcases lt_or_gt_of_ne hw with hw | hw <;> rcases lt_or_gt_of_ne hv with hv | hv
  · exact iff_of_true (iff_of_true hw hv) (mul_pos_of_neg_of_neg hw hv).le
  · exact iff_of_false (fun h => hv.not_gt (h.1 hw)) (mul_neg_of_neg_of_pos hw hv).not_ge
  · exact iff_of_false (fun h => hw.not_gt (h.2 hv)) (mul_neg_of_pos_of_neg hw hv).not_ge
  · exact iff_of_true (iff_of_false hw.not_gt hv.not_gt) (mul_pos hw hv).le

/-- The test on whole numbers is that of the mode. -/
theorem w2Ok_iff (hd : den ≠ 0) (hs : (s : ℚ) = 64 * v * den) (x : Nat) : w2Ok rm s den x = true ↔ W2Allows rm v (w2Rat x) := by
  have hd' : (0 : ℚ) < 64 * den := by positivity
  have hw : ((w2Val x * den : Int) : ℚ) = w2Rat x * (64 * den) := by rw [w2Rat]; push_cast; ring
  have hv : (s : ℚ) = v * (64 * den) := by rw [hs]; ring
  have hle : w2Val x * den ≤ s ↔ w2Rat x ≤ v := by
    rw [← Int.cast_le (R := ℚ), hw, hv, mul_le_mul_iff_left₀ hd']
  have hge : s ≤ w2Val x * den ↔ v ≤ w2Rat x := by
    rw [← Int.cast_le (R := ℚ), hw, hv, mul_le_mul_iff_left₀ hd']
  have habs : (w2Val x * den).natAbs ≤ s.natAbs ↔ |w2Rat x| ≤ |v| := by
    rw [← Nat.cast_le (α := ℚ), Nat.cast_natAbs, Nat.cast_natAbs, Int.cast_abs, Int.cast_abs, hw, hv, abs_mul (w2Rat x), abs_mul v,
      mul_le_mul_iff_left₀ (abs_pos.2 hd'.ne')]
  have hsign : |w2Rat x| ≤ |v| → ((w2Val x == 0 || decide (w2Val x < 0) == decide (s < 0)) = true ↔ 0 ≤ w2Rat x * v) := fun hle => by
    have hx0 : w2Val x = 0 ↔ w2Rat x = 0 := by simp [w2Rat]
    have hxn : w2Val x < 0 ↔ w2Rat x < 0 := by
      rw [w2Rat, div_lt_iff₀ (by norm_num), zero_mul]; exact_mod_cast Iff.rfl
    have hsn : s < 0 ↔ v < 0 := by
      rw [← Int.cast_lt (R := ℚ), hv, Int.cast_zero, mul_neg_iff]
      exact ⟨fun h => (h.resolve_left fun h => by linarith [h.2]).1, fun h => .inr ⟨h, hd'⟩⟩
    simp only [Bool.or_eq_true, beq_iff_eq, decide_eq_decide, hx0, hxn, hsn]
    exact same_sign_iff hle
  cases rm
  case ne => exact iff_of_true rfl trivial
  case na => exact iff_of_true rfl trivial
  case tz => simp only [w2Ok, W2Allows, Bool.and_eq_true, decide_eq_true_eq, habs]; exact and_congr_right hsign
  case odd => simp only [w2Ok, W2Allows, Bool.and_eq_true, decide_eq_true_eq, habs]; exact and_congr_right hsign
  case up => rw [w2Ok, decide_eq_true_eq]; exact hge
  case dn => rw [w2Ok, decide_eq_true_eq]; exact hle

/-- A byte has a key just where it is canonical and the mode allows it. -/
theorem w2Key_some (hd : den ≠ 0) (hs : (s : ℚ) = 64 * v * den) {x : Nat} (hx : x < 256) (h : W2Canonical x) (ha : W2Allows rm v (w2Rat x)) :
    w2Key rm s den x = some (((w2Val x * den - s).natAbs * 4 + w2Terms x) * 2 ^ 15 + w2Low rm x) := by
  rw [w2Key_eq, if_pos]
  rw [Bool.and_eq_true]
  exact ⟨(w2Ok_iff hd hs x).2 ha, (w2Writable_iff hx).2 h⟩

theorem of_w2Key_some (hd : den ≠ 0) (hs : (s : ℚ) = 64 * v * den) {x k : Nat} (hx : x < 256) (h : w2Key rm s den x = some k) :
    W2Canonical x ∧ W2Allows rm v (w2Rat x) ∧ k = ((w2Val x * den - s).natAbs * 4 + w2Terms x) * 2 ^ 15 + w2Low rm x := by
  rw [w2Key_eq] at h
  split at h
  · rename_i hb
    obtain ⟨ho, hw⟩ := Bool.and_eq_true_iff.1 hb
    exact ⟨(w2Writable_iff hx).1 hw, (w2Ok_iff hd hs x).1 ho, (Option.some.inj h).symm⟩
  · cases h

/-! ## The least key -/

theorem w2Pick_cons (rm : Rm) (s : Int) (den x : Nat) (l : List Nat) (best : Option (Nat × Nat)) :
    ∃ best', w2Pick rm s den (x :: l) best = w2Pick rm s den l best' ∧
      (best' = best ∨ ∃ k, w2Key rm s den x = some k ∧ best' = some (k, x)) ∧
      (∀ p, best = some p → ∃ q, best' = some q ∧ q.1 ≤ p.1) ∧ (∀ k, w2Key rm s den x = some k → ∃ q, best' = some q ∧ q.1 ≤ k) := by
  cases hk : w2Key rm s den x with
  | none => exact ⟨best, by simp only [w2Pick, hk], .inl rfl, fun p hp => ⟨p, hp, le_rfl⟩, by simp⟩
  | some k =>
    cases best with
    | none => exact ⟨_, by simp only [w2Pick, hk], .inr ⟨k, rfl, rfl⟩, by simp, fun k' h => ⟨_, rfl, (Option.some.inj h).le⟩⟩
    | some p =>
      obtain ⟨k0, x0⟩ := p
      refine ⟨if k < k0 then some (k, x) else some (k0, x0), by simp only [w2Pick, hk], ?_⟩
      split
      · exact ⟨.inr ⟨k, rfl, rfl⟩, fun q hq => ⟨_, rfl, by cases hq; omega⟩, fun k' h => ⟨_, rfl, (Option.some.inj h).le⟩⟩
      · exact ⟨.inl rfl, fun q hq => ⟨_, rfl, by cases hq; rfl⟩, fun k' h => ⟨_, rfl, by cases h; omega⟩⟩

/-- w2Pick gives a byte of the list, or what it began with, of the least key. -/
theorem w2Pick_least (rm : Rm) (s : Int) (den : Nat) (l : List Nat) (best : Option (Nat × Nat)) :
    (∀ p, w2Pick rm s den l best = some p → best = some p ∨ p.2 ∈ l ∧ w2Key rm s den p.2 = some p.1) ∧
      (∀ p, best = some p → ∃ q, w2Pick rm s den l best = some q ∧ q.1 ≤ p.1) ∧
      (∀ x ∈ l, ∀ k, w2Key rm s den x = some k → ∃ q, w2Pick rm s den l best = some q ∧ q.1 ≤ k) := by
  induction l generalizing best with
  | nil => exact ⟨fun p h => .inl h, fun p h => ⟨p, h, le_rfl⟩, by simp⟩
  | cons x l ih =>
    obtain ⟨best', hpick, hfrom, hold, hnew⟩ := w2Pick_cons rm s den x l best
    obtain ⟨ih1, ih2, ih3⟩ := ih best'
    rw [hpick]
    refine ⟨fun p hp => ?_, fun p hp => ?_, fun y hy k hk => ?_⟩
    · obtain h | ⟨hmem, hkey⟩ := ih1 p hp
      · obtain hb | ⟨k, hk, hb⟩ := hfrom
        · exact .inl (hb ▸ h)
        · rw [h] at hb
          cases hb
          exact .inr ⟨List.mem_cons_self, hk⟩
      · exact .inr ⟨List.mem_cons_of_mem _ hmem, hkey⟩
    · obtain ⟨q, hq, hle⟩ := hold p hp
      obtain ⟨q', hq', hle'⟩ := ih2 q hq
      exact ⟨q', hq', hle'.trans hle⟩
    · obtain rfl | hy := List.mem_cons.1 hy
      · obtain ⟨q, hq, hle⟩ := hnew k hk
        obtain ⟨q', hq', hle'⟩ := ih2 q hq
        exact ⟨q', hq', hle'.trans hle⟩
      · exact ih3 y hy k hk

end

/-! ## The byte of a value -/

/-- A value in units of 2^-6: numerator with its sign, and denominator. -/
def w2Num (neg : Bool) (m : Nat) (e : Int) : Int := if neg then -((m * 2 ^ (e + 6).toNat : Nat) : Int) else ((m * 2 ^ (e + 6).toNat : Nat) : Int)
def w2Den (e : Int) : Nat := 2 ^ (-(e + 6)).toNat

theorem w2Den_ne_zero (e : Int) : w2Den e ≠ 0 := (Nat.two_pow_pos _).ne'

theorem w2Num_eq (neg : Bool) (m : Nat) (e : Int) : (w2Num neg m e : ℚ) = 64 * ratOf (.fin neg m e) * w2Den e := by
  have h : ((m * 2 ^ (e + 6).toNat : Nat) : ℚ) = 64 * magOf m e * w2Den e := by
    have hp : (2 : ℚ) ^ (e + 6) = 64 * 2 ^ e := by rw [zpow_add₀ two_ne_zero, mul_comm]; norm_num
    rw [zpow_eq_toNat_div, div_eq_iff (by positivity)] at hp
    rw [w2Den, magOf]
    push_cast
    rw [hp]
    ring
  rw [ratOf_fin, w2Num]
  cases neg
  · rw [if_neg Bool.false_ne_true, Int.cast_natCast, h, sgn, if_neg Bool.false_ne_true, one_mul]
  · rw [if_pos rfl, Int.cast_neg, Int.cast_natCast, h, sgn, if_pos rfl]; ring

theorem w2Encode_fin (rm : Rm) (neg : Bool) (m : Nat) (e : Int) : w2Encode rm (.fin neg m e) =
    if 2 < |ratOf (.fin neg m e)| then (if neg then 0x88 else 0x00, flSAT ||| flNX)
    else match w2Pick rm (w2Num neg m e) (w2Den e) (List.range 256) none with
      | none => (0x77, 0)
      | some (_, x) => (x, flIf (w2Val x * (w2Den e : Int) != w2Num neg m e) flNX) := by
  have habs : (w2Num neg m e).natAbs = m * 2 ^ (e + 6).toNat := by
    cases neg
    · exact Int.natAbs_natCast _
    · exact (Int.natAbs_neg _).trans (Int.natAbs_natCast _)
  have hd : (0 : ℚ) < w2Den e := by exact_mod_cast Nat.pos_of_ne_zero (w2Den_ne_zero e)
  have hbig : 128 * w2Den e < m * 2 ^ (e + 6).toNat ↔ 2 < |ratOf (.fin neg m e)| := by
    rw [← habs, ← Nat.cast_lt (α := ℚ), Nat.cast_natAbs, Int.cast_abs, w2Num_eq, abs_mul, abs_mul, abs_of_pos hd, abs_of_pos (by norm_num : (0 : ℚ) < 64)]
    push_cast
    rw [show (128 : ℚ) * w2Den e = 64 * 2 * w2Den e by ring, mul_lt_mul_iff_left₀ hd, mul_lt_mul_iff_right₀ (by norm_num)]
  simp only [← hbig]
  rfl

theorem w2Rat_ends : w2Rat 0x00 = 2 ∧ w2Rat 0x88 = -2 ∧ w2Rat 0x77 = 0 := by
  have h : w2Val 0x00 = 128 ∧ w2Val 0x88 = -128 ∧ w2Val 0x77 = 0 := by decide
  simp only [w2Rat, h]
  norm_num

/-- Each mode allows a byte for a value within −2 and 2. -/
theorem exists_w2Allows (rm : Rm) {v : ℚ} (h : |v| ≤ 2) : ∃ x, x < 256 ∧ W2Canonical x ∧ W2Allows rm v (w2Rat x) := by
  obtain ⟨lo, hi⟩ := abs_le.1 h
  obtain ⟨top, bottom, zero⟩ := w2Rat_ends
  cases rm
  case ne => exact ⟨0x00, by norm_num, ⟨by decide, by decide⟩, trivial⟩
  case na => exact ⟨0x00, by norm_num, ⟨by decide, by decide⟩, trivial⟩
  case tz => exact ⟨0x77, by norm_num, ⟨by decide, by decide⟩, by simp [W2Allows, zero]⟩
  case odd => exact ⟨0x77, by norm_num, ⟨by decide, by decide⟩, by simp [W2Allows, zero]⟩
  case up => exact ⟨0x00, by norm_num, ⟨by decide, by decide⟩, by simpa [W2Allows, top] using hi⟩
  case dn => exact ⟨0x88, by norm_num, ⟨by decide, by decide⟩, by simpa [W2Allows, bottom] using lo⟩

/-- Within −2 and 2 the byte is canonical and allowed, as near as any such byte, and of the fewest terms among the nearest (R103). -/
theorem w2Encode_within (rm : Rm) {neg : Bool} {m : Nat} {e : Int} (h : |ratOf (.fin neg m e)| ≤ 2) :
    ∃ x, w2Encode rm (.fin neg m e) = (x, if w2Rat x = ratOf (.fin neg m e) then 0 else flNX) ∧
      x < 256 ∧ W2Canonical x ∧ W2Allows rm (ratOf (.fin neg m e)) (w2Rat x) ∧
      ∀ b, b < 256 → W2Canonical b → W2Allows rm (ratOf (.fin neg m e)) (w2Rat b) →
        |w2Rat x - ratOf (.fin neg m e)| ≤ |w2Rat b - ratOf (.fin neg m e)| ∧
          (|w2Rat x - ratOf (.fin neg m e)| = |w2Rat b - ratOf (.fin neg m e)| → w2Terms x ≤ w2Terms b) := by
  have hd := w2Den_ne_zero e
  have hs := w2Num_eq neg m e
  rw [w2Encode_fin, if_neg h.not_gt]
  generalize ratOf (.fin neg m e) = v at *
  generalize w2Num neg m e = s at *
  generalize w2Den e = den at *
  have hpos : (0 : ℚ) < 64 * den := by positivity
  obtain ⟨origin, -, least⟩ := w2Pick_least rm s den (List.range 256) none
  obtain ⟨a, ha, hca, haa⟩ := exists_w2Allows rm h
  obtain ⟨⟨k, x⟩, hpick, -⟩ := least a (List.mem_range.2 ha) _ (w2Key_some hd hs ha hca haa)
  obtain ⟨hmem, hkey⟩ := (origin _ hpick).resolve_left (by simp)
  have hx : x < 256 := List.mem_range.1 hmem
  obtain ⟨hcx, hax, rfl⟩ := of_w2Key_some (k := k) hd hs hx hkey
  have hexact : w2Val x * (den : Int) = s ↔ w2Rat x = v := by
    have := w2_dist hd hs x
    rw [← sub_eq_zero, ← Int.natAbs_eq_zero, ← Nat.cast_eq_zero (R := ℚ), ← this, mul_eq_zero, or_iff_left hpos.ne', abs_eq_zero, sub_eq_zero]
  refine ⟨x, ?_, hx, hcx, hax, fun b hb hcb hab => ?_⟩
  · rw [hpick]
    simp only [← hexact]
    by_cases he : w2Val x * (den : Int) = s <;> simp [he, flIf]
  · obtain ⟨q, hq, hle⟩ := least b (List.mem_range.2 hb) _ (w2Key_some hd hs hb hcb hab)
    rw [hpick] at hq
    obtain rfl := Option.some.inj hq
    have := w2Low_lt rm hx
    have := w2Low_lt rm hb
    have := w2Terms_le x
    have := w2Terms_le b
    have hdx := w2_dist hd hs x
    have hdb := w2_dist hd hs b
    rw [← mul_le_mul_iff_left₀ hpos, ← mul_left_inj' hpos.ne', hdx, hdb, Nat.cast_le, Nat.cast_inj]
    omega

/-! ## Every format -/

theorem floatEncodings : FloatEncodings := by
  intro c rm sat v _ r
  refine ⟨fun hc => ?_, fun h7 h10 => ?_, ?_⟩
  · have hr : r = (fmtOf c).ofVal rm sat v := encodeFmt_float hc rm sat v
    rw [hr]
    refine ⟨?_, ?_, ?_⟩
    · rintro ⟨n, m, e, rfl⟩
      exact exact_round_fin _ rm sat n m e
    · rintro n rfl
      exact ofVal_inf hc rm sat n
    · rintro q rfl
      exact ofVal_nan hc rm sat q
  · intro w lo hi bits past
    have hr : r = toIntFmt w (decide (c ≠ 10)) rm sat v := encodeFmt_int h7 h10 rm sat v
    have hlo : lo = intLo w (decide (c ≠ 10)) := intLo_code w
    have hhi : hi = intHi w (decide (c ≠ 10)) := intHi_code h7 h10
    rw [hr, hlo, hhi]
    refine ⟨?_, ?_, ?_⟩
    · rintro ⟨n, m, e, rfl⟩
      exact toIntFmt_fin _ _ rm sat n m e
    · rintro n rfl
      exact toIntFmt_inf _ _ rm sat n
    · rintro q rfl
      rfl
  · rintro rfl
    refine ⟨?_, ?_, ?_, ?_⟩
    · rintro ⟨n, m, e, rfl⟩ h
      obtain ⟨x, hx, hlt, ⟨hhi, hlo⟩, hallow, hleast⟩ := w2Encode_within rm h
      have hr : r = _ := hx
      rw [hr]
      refine ⟨⟨hlt, hhi, hlo, ?_⟩, rfl, fun b hb => ?_⟩
      · cases rm <;> exact hallow
      · obtain ⟨hb, h1, h2, ha⟩ := hb
        exact hleast b hb ⟨h1, h2⟩ (by cases rm <;> exact ha)
    · rintro ⟨n, m, e, rfl⟩ h
      exact (w2Encode_fin rm n m e).trans (if_pos h)
    · rintro n rfl
      rfl
    · rintro q rfl
      rfl

end Sys2Proof.Machine
end

section
/-! PROOF. Emulated conversions (07 R110, 09 R180, 15 R270), and the settlement of floating-point rounding. -/

namespace Sys2Proof.Machine

open Sys2Proof

/-! ## An emulated op (R110) -/

/-- The recorded effects of the op at this site. -/
def State.Recorded (s : State) (ws : List PWrite) (fl : Fl) : Prop :=
  ∃ r, s.me.emu = some r ∧ r.pc = s.cur.pc ∧ look r.effects s.cur.slot = some (ws, fl)

section
variable (s : State) (lat : Nat) (ws : List PWrite) (fl : Fl)

/-- The record's effects where it has some for this op. -/
theorem emulate_recorded {ws' : List PWrite} {fl' : Fl} (h : s.Recorded ws' fl') : s.emulate lat ws fl = .next (s.pend lat ws' fl') := by
  obtain ⟨r, he, hpc, hl⟩ := h
  simp only [State.emulate, he, hpc, if_true, hl]

/-- Without them the trap, with the effects put on record. -/
theorem emulate_unrecorded (h : ¬ ∃ ws' fl', s.Recorded ws' fl') :
    ∃ u x y, s.emulate lat ws fl = .next u ∧ u.trapped = some x ∧ x.code = codeEmul ∧ u.me.emu = some y ∧
      y.pc = s.cur.pc ∧ look y.effects s.cur.slot = some (ws, fl) := by
  cases he : s.me.emu with
  | none =>
    simp only [State.emulate, he]
    exact ⟨_, _, _, rfl, rfl, rfl, by rw [me_modMe], rfl, look_place_same _ _ _⟩
  | some r =>
    by_cases hpc : r.pc = s.cur.pc
    · have hl : look r.effects s.cur.slot = none := by
        cases hl : look r.effects s.cur.slot with
        | none => rfl
        | some p => exact absurd ⟨p.1, p.2, r, he, hpc, hl⟩ h
      simp only [State.emulate, he, hpc, if_true, hl]
      exact ⟨_, _, _, rfl, rfl, rfl, by rw [me_modMe], rfl, look_place_same _ _ _⟩
    · simp only [State.emulate, he, hpc, if_false]
      exact ⟨_, _, _, rfl, rfl, rfl, by rw [me_modMe], rfl, look_place_same _ _ _⟩

end

/-! ## Scalar conversions (R180) -/

theorem bits_ftyFmt (t : FTy) : (ftyFmt t).bits = fWidth t := by cases t <;> rfl

theorem decodeFmt_fOp (t : FTy) (s : State) (a : Reg) :
    decodeFmt (ftyCode t) (s.fOp t a) = (ftyFmt t).decode ((s.g a).toNat % 2 ^ fWidth t) := by
  have h (x : Nat) : decodeFmt (ftyCode t) x = (ftyFmt t).decode (x % 2 ^ fWidth t) := by
    rw [← bits_ftyFmt]; cases t <;> rfl
  rw [h, State.fOp, bits_ftyFmt, Nat.mod_mod]

theorem exec_fcvt_emulated {t : FTy} {rm : Rm} {c : BitVec 4} (hc : c.toNat = 11 ∨ c.toNat = 12) (d a : Reg) (s : State) :
    exec (.fcvt t rm c d a) s =
      s.emulate 4 [.g d.toNat (BitVec.ofNat 64 (encodeFmt c.toNat rm false ((ftyFmt t).decode ((s.g a).toNat % 2 ^ fWidth t))).1)]
        (encodeFmt c.toNat rm false ((ftyFmt t).decode ((s.g a).toNat % 2 ^ fWidth t))).2 := by
  have he : emulatedFmt c.toNat = true := by obtain h | h := hc <;> rw [h] <;> rfl
  rw [← decodeFmt_fOp]
  exact if_pos he

/-! ## Vector conversions (R270) -/

theorem span_eq_range' (a n : Nat) : span a n = List.range' a n := by
  induction n generalizing a with
  | zero => rfl
  | succ n ih => rw [span, ih, List.range'_succ]

/-- An element of a row that is packed. -/
theorem elem_packRow (w : Nat) (l : List Nat) (e : Nat) : elem w (packRow w l) e = l.getD e 0 % 2 ^ w := by
  induction l generalizing e with
  | nil => simp [elem, packRow]
  | cons x r ih =>
    cases e with
    | zero => simp [elem, packRow]
    | succ e =>
      have hx : (x % 2 ^ w + 2 ^ w * packRow w r) / 2 ^ w = packRow w r := by
        rw [Nat.add_mul_div_left _ _ (Nat.two_pow_pos w), Nat.div_eq_of_lt (Nat.mod_lt _ (Nat.two_pow_pos w)), zero_add]
      rw [List.getD_cons_succ, ← ih, elem, packRow, show w * (e + 1) = w + w * e by ring, pow_add, ← Nat.div_div_eq_div_mul, hx, elem]

/-- The elements of a converted row: the leading ones converted, the rest zero. -/
theorem elem_convertRow (tf ff : Nat) (rm : Rm) (sat : Bool) (row e : Nat) :
    elem (widthOf tf) (convertRow tf ff rm sat row).1 e =
      if e < 2048 / max (widthOf ff) (widthOf tf) then (convertElem tf ff rm sat (elem (widthOf ff) row e)).1 % 2 ^ widthOf tf else 0 := by
  simp only [convertRow, elem_packRow, List.map_map, span_eq_range', List.getD_eq_getElem?_getD, List.getElem?_map]
  split
  case isTrue h => simp [h]
  case isFalse h => rw [List.getElem?_eq_none (by simpa using h)]; rfl

/-- A conversion reads no more than its row. -/
theorem chkArena_convert {s : State} {a : Reg} (h : RowOk s a) (tf ff : Nat) : s.chkArena (s.rowAt a.toNat) (convertBytes tf ff) = none := by
  have hpos : 0 < widthOf ff := by unfold widthOf; split <;> norm_num
  have hle : convertBytes tf ff ≤ 256 := by
    have h1 : 2048 / max (widthOf ff) (widthOf tf) * widthOf ff ≤ 2048 :=
      (Nat.mul_le_mul_right _ (Nat.div_le_div_left (le_max_left _ _) hpos)).trans (Nat.div_mul_le_self _ _)
    exact Nat.div_le_of_le_mul h1
  rw [chkArena_eq_none]
  exact fun i hi => h i (hi.trans_le hle)

theorem exec_vcvt_emulated {tf ff : BitVec 4} {s : State} {a : Reg} (hrow : RowOk s a) (ht : tf.toNat < 13) (hf : ff.toNat < 13)
    (h : 10 < tf.toNat ∨ 10 < ff.toNat) (rm : Rm) (sat : Bool) (d : Reg) :
    exec (.vcvt tf ff rm sat d a) s =
      s.emulate 4 [s.arenaW (rowCells (s.rowAt d.toNat) (convertRow tf.toNat ff.toNat rm sat (s.rowVal a.toNat)).1)]
        (convertRow tf.toNat ff.toNat rm sat (s.rowVal a.toNat)).2 := by
  have he : (emulatedFmt tf.toNat || emulatedFmt ff.toNat) = true := by
    simp only [emulatedFmt, Bool.or_eq_true, beq_iff_eq]
    omega
  show execVcvt tf ff rm sat d a s = _
  rw [execVcvt, chkArena_convert hrow]
  exact if_pos he

theorem emulatedConversions : EmulatedConversions := by
  intro t rm sat c tf ff d a s hrow got traps
  have completes (i : Instr) (ws : List PWrite) (fl : Fl) (he : exec i s = s.emulate 4 ws fl) (ws' : List PWrite) (fl' : Fl)
      (h : got ws' fl') : exec i s = .next (s.pend 4 ws' fl') := he.trans (emulate_recorded s 4 ws fl h)
  have raises (i : Instr) (ws : List PWrite) (fl : Fl) (he : exec i s = s.emulate 4 ws fl) (h : ¬ ∃ ws' fl', got ws' fl') :
      traps i ws fl := by
    simp only [traps, he]
    exact emulate_unrecorded s 4 ws fl h
  refine ⟨fun hc => ?_, fun ht hf h => ?_⟩
  · have he := exec_fcvt_emulated (t := t) (rm := rm) hc d a s
    exact ⟨completes _ _ _ he, raises _ _ _ he⟩
  · have he := exec_vcvt_emulated hrow ht hf h rm sat d
    exact ⟨completes _ _ _ he, fun hnone => ⟨_, _, raises _ _ _ he hnone, fun e _ => elem_convertRow _ _ rm sat _ e⟩⟩

end Sys2Proof.Machine

open Sys2Proof Sys2Proof.Machine

/-- Settles O8: `floatSpecialResults`, `roundTowardZero`, `roundNearestEven`, `roundOtherModes`, `floatExactResults`, `floatEncodings` and `emulatedConversions`, its seven parts. -/
theorem floatRounding : Obligations.FloatRounding :=
  ⟨floatSpecialResults, roundTowardZero, roundNearestEven, roundOtherModes, floatExactResults, floatEncodings, emulatedConversions⟩

end

section
/-! PROOF. Bit counts, products, quotients and remainders of the scalar integer ops (09 R158 to R161, R167). -/

namespace Sys2Proof.Machine

open Sys2Proof

/-! ## An op at a width (R158) -/

theorem alu_eq (w : Bool) (f : (n : Nat) → BitVec n → BitVec n → BitVec n) (a b : Word) :
    alu w f a b = (f (if w then 32 else 64) (a.truncate _) (b.truncate _)).signExtend 64 := by
  cases w with
  | false =>
    change f 64 a b = (f 64 (a.setWidth 64) (b.setWidth 64)).signExtend 64
    rw [BitVec.setWidth_eq, BitVec.setWidth_eq, BitVec.signExtend_eq]
  | true => rfl

section
variable {s : State} {d : Reg} {x y : Word} {f : (n : Nat) → BitVec n → BitVec n → BitVec n} {lat : Nat}

theorem wrG_full {r : Word} (h : f 64 x y = r) :
    Host.Outcome.next (s.wrG d (alu false f x y) lat) = (.next (s.wrG d r lat) : Out) := by rw [← h]; rfl

theorem wrG_half {r : BitVec 32} (h : f 32 (x.extractLsb' 0 32) (y.extractLsb' 0 32) = r) :
    Host.Outcome.next (s.wrG d (alu true f x y) lat) = (.next (s.wrG d (r.signExtend 64) lat) : Out) := by rw [← h]; rfl

end

/-- A count of bits keeps its value at width 64. -/
theorem alu_count {f : Nat → Nat → Nat} (hf : ∀ n x, f n x ≤ n) (w : Bool) (a b : Word) :
    alu w (fun n x _ => BitVec.ofNat n (f n x.toNat)) a b =
      BitVec.ofNat 64 (f (if w then 32 else 64) (a.toNat % 2 ^ (if w then 32 else 64))) := by
  cases w with
  | false => simp [alu, Nat.mod_eq_of_lt a.isLt]
  | true =>
    have h := hf 32 (a.toNat % 2 ^ 32)
    have hm : (BitVec.ofNat 32 (f 32 (a.toNat % 2 ^ 32))).msb = false := by
      rw [BitVec.msb_eq_false_iff_two_mul_lt, BitVec.toNat_ofNat]
      omega
    simp only [alu, if_true, BitVec.truncate_eq_setWidth, BitVec.toNat_setWidth]
    rw [BitVec.signExtend_eq_setWidth_of_msb_false hm]
    apply BitVec.eq_of_toNat_eq
    simp only [BitVec.toNat_setWidth, BitVec.toNat_ofNat]
    omega

/-! ## Counts (R159) -/

theorem leading_zeros {n x : Nat} (hx : x < 2 ^ n) : let c := if x = 0 then n else n - 1 - Nat.log2 x
    c ≤ n ∧ x < 2 ^ (n - c) ∧ (c < n → 2 ^ (n - 1 - c) ≤ x) := by
  intro c
  by_cases h0 : x = 0
  · have hc : c = n := if_pos h0
    exact ⟨hc.le, by rw [h0]; exact Nat.two_pow_pos _, fun h => absurd hc h.ne⟩
  · have hc : c = n - 1 - Nat.log2 x := if_neg h0
    have hl : Nat.log2 x < n := (Nat.log2_lt h0).2 hx
    refine ⟨by omega, ?_, fun _ => ?_⟩
    · rw [show n - c = Nat.log2 x + 1 by omega]; exact Nat.lt_log2_self
    · rw [show n - 1 - c = Nat.log2 x by omega]; exact Nat.log2_self_le h0

theorem ctzFrom_spec (x k : Nat) :
    ctzFrom x k ≤ k ∧ x % 2 ^ ctzFrom x k = 0 ∧ (ctzFrom x k < k → x.testBit (ctzFrom x k) = true) := by
  induction k generalizing x with
  | zero => exact ⟨Nat.le_refl _, Nat.mod_one _, fun h => absurd h (Nat.lt_irrefl _)⟩
  | succ k ih =>
    obtain ⟨hle, hmod, hbit⟩ := ih (x / 2)
    unfold ctzFrom
    by_cases h : x % 2 = 1
    · rw [if_pos h]
      exact ⟨Nat.zero_le _, Nat.mod_one _, fun _ => by rw [Nat.testBit_zero, h]; rfl⟩
    · rw [if_neg h, Nat.add_comm 1]
      refine ⟨by omega, ?_, fun hlt => ?_⟩
      · rw [Nat.pow_succ', Nat.mod_mul, hmod]; omega
      · rw [Nat.testBit_succ]; exact hbit (by omega)

theorem popFrom_eq (x k : Nat) : popFrom x k = ((List.range k).filter x.testBit).length := by
  induction k generalizing x with
  | zero => rfl
  | succ k ih =>
    have hshift : ((List.range k).filter (x.testBit ∘ Nat.succ)) = (List.range k).filter (x / 2).testBit :=
      List.filter_congr fun i _ => Nat.testBit_succ x i
    rw [popFrom, ih, List.range_succ_eq_map, List.filter_cons, List.filter_map, hshift, Nat.testBit_zero]
    obtain h | h := Nat.mod_two_eq_zero_or_one x <;> simp [h, Nat.add_comm]

theorem popFrom_le (x k : Nat) : popFrom x k ≤ k := by
  rw [popFrom_eq]
  exact (List.length_filter_le _ _).trans (List.length_range).le

/-! ## Products (R160) -/

theorem mul_low (x y : Word) : x.extractLsb' 0 32 * y.extractLsb' 0 32 = BitVec.ofNat 32 (x.toNat * y.toNat) := by
  apply BitVec.eq_of_toNat_eq
  rw [BitVec.toNat_mul, BitVec.extractLsb'_toNat, BitVec.extractLsb'_toNat, BitVec.toNat_ofNat, Nat.shiftRight_zero, Nat.shiftRight_zero,
    ← Nat.mul_mod]

/-- The bits of an integer from n on, k of them. -/
theorem ofInt_high (n k : Nat) (z : Int) : (BitVec.ofInt (n + k) z >>> n).truncate k = BitVec.ofInt k (z / (2 ^ n : Nat)) := by
  have hn : ((2 ^ n : Nat) : Int) ≠ 0 := by exact_mod_cast (Nat.two_pow_pos n).ne'
  obtain ⟨m, hm⟩ := Int.eq_ofNat_of_zero_le (Int.emod_nonneg z (b := (2 ^ (n + k) : Nat)) (by exact_mod_cast (Nat.two_pow_pos _).ne'))
  have hz : z / (2 ^ n : Nat) = ((m / 2 ^ n : Nat) : Int) + (2 ^ k : Nat) * (z / (2 ^ (n + k) : Nat)) := by
    conv_lhs => rw [← Int.emod_add_mul_ediv z (2 ^ (n + k) : Nat), hm, Nat.pow_add, Nat.cast_mul, mul_assoc, Int.add_mul_ediv_left _ _ hn]
    rw [Nat.pow_add, Nat.cast_mul, Int.natCast_ediv]
  apply BitVec.eq_of_toNat_eq
  rw [BitVec.truncate_eq_setWidth, BitVec.toNat_setWidth, BitVec.toNat_ushiftRight, BitVec.toNat_ofInt, BitVec.toNat_ofInt, hm, hz,
    Int.add_mul_emod_self_left, Nat.shiftRight_eq_div_pow, ← Int.natCast_emod, Int.toNat_natCast, Int.toNat_natCast]

theorem aluMulh_eq (n : Nat) (x y : BitVec n) :
    aluMulh n x y = ((x.signExtend (n + n) * y.signExtend (n + n)) >>> n).truncate n := by
  change _ = ((BitVec.ofInt (n + n) x.toInt * BitVec.ofInt (n + n) y.toInt) >>> n).truncate n
  rw [← BitVec.ofInt_mul, ofInt_high]
  rfl

theorem aluMulhn_eq (n : Nat) (x y : BitVec n) :
    aluMulhn n x y = ((x.zeroExtend (n + n) * y.zeroExtend (n + n)) >>> n).truncate n := by
  have hlt : x.toNat * y.toNat < 2 ^ (n + n) := by
    rw [Nat.pow_add]
    exact Nat.mul_lt_mul'' x.isLt y.isLt
  have hx (v : BitVec n) : v.toNat % 2 ^ (n + n) = v.toNat := Nat.mod_eq_of_lt (v.isLt.trans_le (Nat.pow_le_pow_right Nat.two_pos (Nat.le_add_left n n)))
  apply BitVec.eq_of_toNat_eq
  simp [aluMulhn, hx, Nat.mod_eq_of_lt hlt, Nat.shiftRight_eq_div_pow]

/-! ## Quotients and remainders (R160, R161) -/

theorem ofInt_tdiv {n : Nat} (x y : BitVec n) : BitVec.ofInt n (x.toInt.tdiv y.toInt) = x.sdiv y := by
  apply BitVec.eq_of_toInt_eq
  rw [BitVec.toInt_ofInt, BitVec.toInt_sdiv]

theorem ofInt_tmod {n : Nat} (x y : BitVec n) : BitVec.ofInt n (x.toInt.tmod y.toInt) = x.srem y := by
  rw [← BitVec.toInt_srem, BitVec.ofInt_toInt]

theorem mul_tmod_nonneg (a b : Int) : 0 ≤ a * a.tmod b := by
  obtain h | h := Int.le_total 0 a
  · exact Int.mul_nonneg h (Int.tmod_nonneg b h)
  · have hr := Int.tmod_nonneg b (Int.neg_nonneg_of_nonpos h)
    rw [Int.neg_tmod] at hr
    exact Int.mul_nonneg_of_nonpos_of_nonpos h (by omega)

theorem allOnes_ne_zero {n : Nat} (hn : 0 < n) : BitVec.allOnes n ≠ 0 := fun h => by
  have hb := congrArg (fun v => BitVec.getLsbD v 0) h
  simp [hn.ne'] at hb

theorem aluDiv_overflow {n : Nat} (hn : 0 < n) : aluDiv n (BitVec.intMin n) (BitVec.allOnes n) = BitVec.intMin n := by
  rw [aluDiv, if_neg (allOnes_ne_zero hn), ofInt_tdiv, ← BitVec.neg_one_eq_allOnes, BitVec.intMin_sdiv_neg_one]

theorem aluRem_overflow {n : Nat} (hn : 0 < n) (x : BitVec n) : aluRem n x (BitVec.allOnes n) = 0 := by
  rw [aluRem, if_neg (allOnes_ne_zero hn), BitVec.toInt_allOnes, if_pos hn, Int.tmod_neg, Int.tmod_one]
  rfl

theorem div_rem_spec {n : Nat} {x y : BitVec n} (h0 : y ≠ 0) (ho : ¬ (x = BitVec.intMin n ∧ y = BitVec.allOnes n)) :
    x.toInt = (aluDiv n x y).toInt * y.toInt + (aluRem n x y).toInt ∧
      (aluRem n x y).toInt.natAbs < y.toInt.natAbs ∧ 0 ≤ x.toInt * (aluRem n x y).toInt := by
  have hq : (aluDiv n x y).toInt = x.toInt.tdiv y.toInt := by
    rw [aluDiv, if_neg h0, ofInt_tdiv]
    refine BitVec.toInt_sdiv_of_ne_or_ne x y ?_
    rw [BitVec.neg_one_eq_allOnes]
    exact not_and_or.1 ho
  have hr : (aluRem n x y).toInt = x.toInt.tmod y.toInt := by rw [aluRem, if_neg h0, ofInt_tmod, BitVec.toInt_srem]
  have hy : y.toInt ≠ 0 := fun h => h0 (BitVec.eq_of_toInt_eq (h.trans BitVec.toInt_zero.symm))
  rw [hq, hr, Int.natAbs_tmod]
  exact ⟨(Int.tdiv_mul_add_tmod _ _).symm, Nat.mod_lt _ (Int.natAbs_pos.2 hy), mul_tmod_nonneg _ _⟩

/-! ## The ops -/

theorem scalarBitCounts : ScalarBitCounts := by
  intro w d a s n x
  have hx : x < 2 ^ n := Nat.mod_lt _ (Nat.two_pow_pos n)
  have written (f : Nat → Nat → Nat) (hf : ∀ k y, f k y ≤ k) :
      s.wrG d (alu w (fun k y _ => BitVec.ofNat k (f k y.toNat)) (s.g a) 0) 1 = s.wrG d (BitVec.ofNat 64 (f n x)) 1 := by
    rw [alu_count hf]
  refine ⟨?_, ?_, ?_⟩
  · obtain ⟨hle, hlt, hge⟩ := leading_zeros hx
    refine ⟨_, hle, hlt, hge, congrArg Host.Outcome.next (written (fun k y => if y = 0 then k else k - 1 - Nat.log2 y) fun k y => ?_)⟩
    split <;> omega
  · obtain ⟨hle, hmod, hbit⟩ := ctzFrom_spec x n
    exact ⟨_, hle, hmod, hbit, congrArg Host.Outcome.next (written (fun k y => ctzFrom y k) fun k y => (ctzFrom_spec y k).1)⟩
  · have hbits : popFrom x n = ((List.range n).filter (fun i => (s.g a).getLsbD i)).length := by
      rw [popFrom_eq]
      refine congrArg List.length (List.filter_congr fun i hi => ?_)
      rw [Nat.testBit_mod_two_pow, decide_eq_true (List.mem_range.1 hi), Bool.true_and]
      rfl
    rw [← hbits]
    exact congrArg Host.Outcome.next (written (fun k y => popFrom y k) fun k y => popFrom_le y k)

theorem scalarProducts : ScalarProducts := by
  intro d a b s x y u v q h
  exact ⟨wrG_full (f := aluMul) BitVec.mul_def, wrG_half (f := aluMul) (mul_low x y), wrG_full (aluMulh_eq 64 x y), wrG_half (aluMulh_eq 32 u v),
    wrG_full (aluMulhn_eq 64 x y), wrG_half (aluMulhn_eq 32 u v)⟩

theorem scalarDivision : ScalarDivision := by
  intro w d a b s n lat x y q
  have hn : 0 < n := by cases w <;> decide
  have done (f : (n : Nat) → BitVec n → BitVec n → BitVec n) {r : BitVec n} (hr : f n x y = r) :
      Host.Outcome.next (s.wrG d (alu w f (s.g a) (s.g b)) (latDivInt w)) = (.next (s.wrG d (r.signExtend 64) lat) : Out) := by
    rw [alu_eq, ← hr]; rfl
  refine ⟨fun h0 => ⟨done aluDiv (if_pos h0), done aluDivn (if_pos h0), done aluRem (if_pos h0), done aluRemn (if_pos h0)⟩,
    fun h0 => ⟨done aluDivn (if_neg h0), done aluRemn (if_neg h0)⟩, fun ⟨hx, hy⟩ => ⟨done aluDiv ?_, done aluRem ?_⟩,
    fun h0 ho => ⟨_, _, done aluDiv rfl, done aluRem rfl, div_rem_spec h0 ho⟩⟩
  · rw [hx, hy, aluDiv_overflow hn]
  · rw [hy, aluRem_overflow hn]

end Sys2Proof.Machine

open Sys2Proof Sys2Proof.Machine

/-- Settles O3: `scalarBitCounts`, `scalarProducts` and `scalarDivision`, its three parts. -/
theorem scalarCountsAndProducts : Obligations.ScalarCountsAndProducts := ⟨scalarBitCounts, scalarProducts, scalarDivision⟩

end

section
/-! PROOF. Results of the scalar integer ops of major 0x08 and of the immediates and bit fields (09 R158, R159, R162 to R167). -/

namespace Sys2Proof.Machine

open Sys2Proof

/-! ## Operations at a width (R159) -/

/-- Of two operands with equal keys either choice is the same. -/
theorem ite_le_eq_ite_lt {A B : Type} [LinearOrder B] {u v : B} {c d : A} (h : u = v → c = d) :
    (if u ≤ v then c else d) = if u < v then c else d := by
  obtain hlt | heq | hgt := lt_trichotomy u v
  · rw [if_pos hlt.le, if_pos hlt]
  · rw [h heq, ite_self, ite_self]
  · rw [if_neg hgt.not_ge, if_neg hgt.not_gt]

section
variable (n : Nat) (a b : BitVec n)

theorem aluMin_eq : aluMin n a b = if a.slt b then a else b := by
  simp only [BitVec.slt_iff_toInt_lt]
  exact ite_le_eq_ite_lt BitVec.eq_of_toInt_eq

theorem aluMax_eq : aluMax n a b = if a.slt b then b else a := by
  simp only [BitVec.slt_iff_toInt_lt]
  exact ite_le_eq_ite_lt fun h => (BitVec.eq_of_toInt_eq h).symm

theorem aluMinn_eq : aluMinn n a b = if a.ult b then a else b := by
  simp only [BitVec.ult_iff_lt, BitVec.lt_def]
  exact ite_le_eq_ite_lt BitVec.eq_of_toNat_eq

theorem aluMaxn_eq : aluMaxn n a b = if a.ult b then b else a := by
  simp only [BitVec.ult_iff_lt, BitVec.lt_def]
  exact ite_le_eq_ite_lt fun h => (BitVec.eq_of_toNat_eq h).symm

theorem aluBool_eq (c : Prop) [Decidable c] : aluBool n (decide c) = if c then 1 else 0 := by
  by_cases h : c
  · rw [decide_eq_true h, if_pos h]; rfl
  · rw [decide_eq_false h, if_neg h]; rfl

theorem aluSeq_eq : aluSeq n a b = if a = b then 1 else 0 := aluBool_eq n (a = b)

theorem aluSlt_eq : aluSlt n a b = if a.slt b then 1 else 0 := by
  simp only [BitVec.slt_iff_toInt_lt]
  exact aluBool_eq n (a.toInt < b.toInt)

theorem aluSltn_eq : aluSltn n a b = if a.ult b then 1 else 0 := by
  simp only [BitVec.ult_iff_lt, BitVec.lt_def]
  exact aluBool_eq n (a.toNat < b.toNat)

theorem aluRot_eq : aluRot n a b = a <<< (b.toNat % n) ||| a >>> (n - b.toNat % n) := by
  rw [aluRot, BitVec.rotateLeft_def, Nat.mod_mod]

theorem shiftLeft_eq_mul_pow (k : Nat) : b <<< k = b * 2 ^ k := by
  apply BitVec.eq_of_toNat_eq
  have h2 : (2 : BitVec n).toNat = 2 % 2 ^ n := BitVec.toNat_ofNat 2 n
  rw [BitVec.toNat_shiftLeft, BitVec.toNat_mul, BitVec.toNat_pow, h2, ← Nat.pow_mod, Nat.mul_mod_mod, Nat.shiftLeft_eq]

end

/-- A count taken from the low half is that of the whole (R158). -/
theorem low_mod (y : Word) : (y.extractLsb' 0 32).toNat % 32 = y.toNat % 32 := by
  rw [BitVec.extractLsb'_toNat, Nat.shiftRight_zero]
  omega

/-! ## Bit fields (R165) -/

theorem lowOnes_getLsbD (len : Reg) {i : Nat} (hi : i < 64) : (lowOnes len).getLsbD i = decide (i ≤ len.toNat) := by
  rw [lowOnes, wordN, BitVec.getLsbD_ofNat, Nat.testBit_two_pow_sub_one, decide_eq_true hi, Bool.true_and]
  exact decide_eq_decide.2 Nat.lt_succ_iff

theorem bfx_bits (x : Word) (pos len : Reg) {i : Nat} (hi : i < 64) :
    ((x >>> pos.toNat) &&& lowOnes len).getLsbD i = (decide (i ≤ len.toNat) && x.getLsbD (pos.toNat + i)) := by
  rw [BitVec.getLsbD_and, lowOnes_getLsbD len hi, BitVec.getLsbD_ushiftRight, Bool.and_comm]

theorem bfi_bits (x y : Word) (pos len : Reg) {i : Nat} (hi : i < 64) :
    let m := lowOnes len <<< pos.toNat
    ((y &&& ~~~m) ||| ((x <<< pos.toNat) &&& m)).getLsbD i =
      if pos.toNat ≤ i ∧ i ≤ pos.toNat + len.toNat then x.getLsbD (i - pos.toNat) else y.getLsbD i := by
  intro m
  have hm : m.getLsbD i = decide (pos.toNat ≤ i ∧ i ≤ pos.toNat + len.toNat) := by
    rw [BitVec.getLsbD_shiftLeft, lowOnes_getLsbD len (by omega), decide_eq_true hi, Bool.true_and, ← decide_not, ← Bool.decide_and]
    exact decide_eq_decide.2 (by omega)
  rw [BitVec.getLsbD_or, BitVec.getLsbD_and, BitVec.getLsbD_and, BitVec.getLsbD_not, hm, BitVec.getLsbD_shiftLeft]
  by_cases h : pos.toNat ≤ i ∧ i ≤ pos.toNat + len.toNat <;> simp [h, hi]

end Sys2Proof.Machine

open Sys2Proof Sys2Proof.Machine

/-- Settles O1, a clause for each op at each width. -/
theorem scalarIntegerResults : Obligations.ScalarIntegerResults := by
  intro d a b s x y u v q h
  have hv : v.toNat % 32 = y.toNat % 32 := low_mod y
  refine ⟨wrG_full rfl, wrG_half rfl, wrG_full rfl, wrG_half rfl, wrG_full rfl, wrG_half rfl, wrG_full rfl, wrG_half rfl, wrG_full rfl,
    wrG_half rfl, wrG_full rfl, wrG_half (congrArg (u <<< ·) hv), wrG_full rfl, wrG_half (congrArg (u >>> ·) hv), wrG_full rfl,
    wrG_half (congrArg u.sshiftRight hv), wrG_full (aluRot_eq 64 x y), wrG_half ((aluRot_eq 32 u v).trans (by rw [hv])),
    wrG_full (aluMin_eq 64 x y), wrG_half (aluMin_eq 32 u v), wrG_full (aluMax_eq 64 x y), wrG_half (aluMax_eq 32 u v),
    wrG_full (aluMinn_eq 64 x y), wrG_half (aluMinn_eq 32 u v), wrG_full (aluMaxn_eq 64 x y), wrG_half (aluMaxn_eq 32 u v),
    wrG_full (aluSeq_eq 64 x y), wrG_half (aluSeq_eq 32 u v), wrG_full (aluSlt_eq 64 x y), wrG_half (aluSlt_eq 32 u v),
    wrG_full (aluSltn_eq 64 x y), wrG_half (aluSltn_eq 32 u v), wrG_full ?_, wrG_half rfl,
    fun k => ⟨wrG_full (congrArg (x + ·) (shiftLeft_eq_mul_pow 64 y k.toNat)), wrG_half (congrArg (u + ·) (shiftLeft_eq_mul_pow 32 v k.toNat))⟩⟩
  rw [BitVec.truncate_eq_setWidth, BitVec.setWidth_eq]

/-- Settles O2, a clause for each op, and `bfx_bits` and `bfi_bits` for the bit fields. -/
theorem scalarImmediates : Obligations.ScalarImmediates := by
  intro d a pos len imm s x u q
  exact ⟨rfl, rfl, rfl, rfl, wrG_full rfl, wrG_half rfl, wrG_full rfl, wrG_half rfl, wrG_full rfl, wrG_half rfl, rfl, rfl,
    fun _ => ⟨⟨_, rfl, fun _ => bfx_bits x pos len⟩, ⟨_, rfl, fun _ => bfi_bits x (s.g d) pos len⟩⟩⟩

end

section
/-! PROOF. Results of the scalar floating-point ops (09 R169 to R182). -/

namespace Sys2Proof.Machine

open Sys2Proof

theorem fOp_eq (s : State) (t : FTy) (r : Reg) : s.fOp t r = (s.g r).toNat % 2 ^ fWidth t := by rw [State.fOp, bits_ftyFmt]

/-- A result of a floating-point op, written zero-extended with its flags (R169). -/
theorem fRes_eq {s : State} {d : Reg} {lat lat' : Nat} {r r' : Nat × Fl} (hl : lat = lat') (hr : r = r') :
    Host.Outcome.next (s.fRes d lat r) = (.next (s.wrG d (BitVec.ofNat 64 r'.1) lat' r'.2) : Out) := by rw [hl, hr]; rfl

/-! ## Conversions (R180, R181) -/

theorem fcvtWord_zeroExtends {c : Nat} (hc : c ≤ 6 ∨ c = 10) (x : Nat) : fcvtWord c x = BitVec.ofNat 64 x := by
  obtain h | rfl := hc
  · interval_cases c <;> rfl
  · rfl

theorem fcvtWord_signExtends {c : Nat} (hc : c = 7 ∨ c = 8 ∨ c = 9) (x : Nat) : fcvtWord c x = BitVec.ofInt 64 (sextN (widthOf c) x) := by
  obtain rfl | rfl | rfl := hc <;> rfl

theorem exec_fcvt_plain {c : BitVec 4} (hc : c.toNat ≤ 10) {word : Nat → Word} (hw : ∀ x, fcvtWord c.toNat x = word x) (t : FTy) (rm : Rm)
    (d a : Reg) (s : State) : exec (.fcvt t rm c d a) s =
      let r := encodeFmt c.toNat rm false ((ftyFmt t).decode ((s.g a).toNat % 2 ^ fWidth t))
      .next (s.wrG d (word r.1) 4 r.2) := by
  have he : ¬ emulatedFmt c.toNat = true := by
    simp only [emulatedFmt, Bool.or_eq_true, beq_iff_eq]
    omega
  dsimp only
  rw [← decodeFmt_fOp, ← hw]
  exact if_neg he

theorem decodeFmt_int {c : Nat} (h7 : 7 ≤ c) (h10 : c ≤ 10) (x : Nat) : decodeFmt c x = ofIntFmt (widthOf c) (decide (c < 10)) x := by
  interval_cases c <;> rfl

end Sys2Proof.Machine

open Sys2Proof Sys2Proof.Machine

/-- Settles O4, a clause for each op. -/
theorem scalarFloatResults : Obligations.ScalarFloatResults := by
  intro t rm cc c d a b s f x y z slow deep q
  have hx : s.fOp t a = x := fOp_eq s t a
  have hy : s.fOp t b = y := fOp_eq s t b
  have hz : s.fOp t d = z := fOp_eq s t d
  have hslow : latDiv t = slow := by cases t <;> rfl
  have hdeep : latTrans t = deep := by cases t <;> rfl
  have hxy {A : Type} (op : Nat → Nat → A) : op (s.fOp t a) (s.fOp t b) = op x y := congrArg₂ op hx hy
  exact ⟨fRes_eq rfl (hxy (f.add rm)), fRes_eq rfl (hxy (f.sub rm)), fRes_eq rfl (hxy (f.mul rm)), fRes_eq hslow (hxy (f.div rm)),
    fRes_eq rfl ((hxy fun u v => f.fma rm u v (s.fOp t d)).trans (congrArg (f.fma rm x y) hz)),
    fRes_eq rfl (hxy (f.minmax false)), fRes_eq rfl (hxy (f.minmax true)),
    fRes_eq rfl (hxy fun u v => ((f.cmp cc.toNat u v).1.toNat, (f.cmp cc.toNat u v).2)), fRes_eq hslow (congrArg (f.sqrt rm) hx),
    fRes_eq hdeep (congrArg (f.trans .exp2 rm) hx), fRes_eq hdeep (congrArg (f.trans .log2 rm) hx),
    fRes_eq hdeep (congrArg (f.trans .exp rm) hx), fRes_eq hdeep (congrArg (f.trans .log rm) hx),
    fRes_eq hdeep (congrArg (f.trans .sin rm) hx), fRes_eq hdeep (congrArg (f.trans .cos rm) hx),
    fRes_eq hdeep (congrArg (f.trans .tanh rm) hx), fRes_eq hdeep (congrArg (f.trans .erf rm) hx),
    fRes_eq rfl (congrArg f.rcpa hx), fRes_eq rfl (congrArg f.rsqa hx), fRes_eq rfl (congrArg (fun u => (f.cls u, (0 : Fl))) hx),
    fRes_eq rfl (congrArg (f.rnd rm) hx),
    fun hc => exec_fcvt_plain (by omega) (fcvtWord_zeroExtends hc) t rm d a s,
    fun hc => exec_fcvt_plain (by omega) (fcvtWord_signExtends hc) t rm d a s,
    fun ⟨h7, h10⟩ => fRes_eq rfl (congrArg (f.ofVal rm false) (decodeFmt_int h7 h10 _))⟩

end

section
/-! PROOF. Branches with their exit check, and loops (09 R136 to R144). -/

namespace Sys2Proof.Machine

open Sys2Proof

/-! ## The exit check (R139) -/

theorem inBody_iff (l : LoopEntry) (t : BitVec 52) : l.inBody t = true ↔ l.first.toNat ≤ t.toNat ∧ t.toNat ≤ l.last.toNat := by
  simp [LoopEntry.inBody]

theorem exitCheck_eq_none {s : State} {t : BitVec 52} {n : Nat} : s.exitCheck t n = none ↔ ExitOk s t n := by
  unfold State.exitCheck ExitOk
  cases s.me.loops with
  | nil => simp [trapIf_eq_none]
  | cons l r => simp [trapIf_eq_none, ← inBody_iff, and_assoc]

theorem exitCheck_of_not {s : State} {t : BitVec 52} {n : Nat} (h : ¬ ExitOk s t n) :
    s.exitCheck t n = some (trapR codeIllegal 24 s.cur.pc.toNat) := by
  have hbad := mt exitCheck_eq_none.1 h
  unfold State.exitCheck at hbad ⊢
  dsimp only at hbad ⊢
  rw [trapIf_eq_none, Bool.not_eq_false] at hbad
  rw [hbad]
  rfl

/-! ## Conditions and branches (R136 to R138, R140) -/

theorem brHolds_iff (cond : BitVec 3) (x : Word) : brHolds cond x.toInt = true ↔ condHolds cond x := by
  have hzero : x.toInt = 0 ↔ x = 0 := by
    rw [← BitVec.toInt_zero (w := 64), BitVec.toInt_inj]; rfl
  have hmsb : x.msb = decide (x.toInt < 0) := BitVec.msb_eq_toInt
  unfold brHolds condHolds
  generalize cond.toNat = n
  match n with
  | 0 => simp
  | 1 => simp [hzero]
  | 2 => simp [hzero]
  | 3 => simp [hmsb]
  | 4 => simp [hmsb]
  | 5 => simp only [hmsb, ← hzero, decide_eq_true_eq, decide_eq_false_iff_not, ne_eq]; omega
  | 6 => simp only [hmsb, ← hzero, decide_eq_true_eq]; omega
  | _ + 7 => simp

theorem branchResults : BranchResults := by
  intro t cond pop a d s tgt w cost back
  have legal (u : BitVec 52) (h : ExitOk s u pop.toNat) (k : State → State) : s.checked (s.exitCheck u pop.toNat) k = .next (k s) := by
    rw [exitCheck_eq_none.2 h]; rfl
  have illegal (u : BitVec 52) (h : ¬ ExitOk s u pop.toNat) (k : State → State) :
      s.checked (s.exitCheck u pop.toNat) k = .next (s.raise (trapR codeIllegal 24 s.cur.pc.toNat)) := by
    rw [exitCheck_of_not h]; rfl
  have taken (h : condHolds cond (s.g a)) : exec (.br t cond pop a) s =
      s.checked (s.exitCheck tgt pop.toNat) (fun s => s.redirect (s.b t.toNat) pop.toNat (s.brCost t)) := if_pos ((brHolds_iff _ _).2 h)
  have linked : exec (.brl t pop d) s = s.checked (s.exitCheck tgt pop.toNat) (fun s =>
      (s.wrG d (s.cur.next.zeroExtend 64) 1).redirect (s.b t.toNat) pop.toNat (s.brCost t)) := rfl
  have returned : exec (.ret a pop) s = s.checked (firstTrap [trapIf (decide (back.toNat % 4 ≠ 0)) (s.illegal 22),
      s.exitCheck back pop.toNat]) (fun s => s.redirect back pop.toNat 4) := rfl
  have aligned (h : back.toNat % 4 = 0) : exec (.ret a pop) s = s.checked (s.exitCheck back pop.toNat) (fun s => s.redirect back pop.toNat 4) := by
    rw [returned, decide_eq_false (not_not.2 h)]
    cases s.exitCheck back pop.toNat <;> rfl
  refine ⟨fun h => if_neg (mt (brHolds_iff _ _).1 h), fun h hex => (taken h).trans (legal _ hex _), fun hex => linked.trans (legal _ hex _),
    fun h hex => (aligned h).trans (legal _ hex _), fun hex => ⟨fun h => (taken h).trans (illegal _ hex _), linked.trans (illegal _ hex _)⟩,
    fun h hex => (aligned h).trans (illegal _ hex _), fun h => ?_⟩
  rw [returned, decide_eq_true h]
  rfl

/-! ## Loops (R142 to R144) -/

/-- A body that may be pushed: it ends at or after its start and within the address space, the stack has room, and the
top entry's body holds its end (R144). -/
def BodyOk (s : State) (last : Nat) : Prop :=
  s.cur.next.toNat ≤ last ∧ last < 2 ^ 52 ∧ s.me.loops.length < 6 ∧ ∀ l, s.me.loops.head? = some l → last ≤ l.last.toNat

theorem ofNat_end {last : Nat} (h : last < 2 ^ 52) : BitVec.ofNat 52 (min last (2 ^ 52 - 1)) = BitVec.ofNat 52 last := by
  rw [Nat.min_eq_left (by omega)]

/-- The checks of a push pass. -/
theorem loopPush_eq {s : State} {last : Nat} (c : Nat) (h : BodyOk s last) : s.loopPush last c = .next (
    if c = 0 then (s.fillFetch s.cur.cl s.hereCtxId (BitVec.ofNat 52 last).toNat).modMe (fun q => { q with
      pc := s.afterLast (BitVec.ofNat 52 last), taken := true, nextIssue := s.cycle + 1 + s.cur.fold })
    else s.modMe (fun q => { q with loops :=
      { first := s.cur.next, last := BitVec.ofNat 52 last, count := BitVec.ofNat 32 c, index := 0 } :: q.loops })) := by
  obtain ⟨hnext, hspace, hroom, htop⟩ := h
  have hend : (BitVec.ofNat 52 last).toNat = last := by rw [BitVec.toNat_ofNat, Nat.mod_eq_of_lt hspace]
  unfold State.loopPush
  dsimp only
  rw [ofNat_end hspace, hend, decide_eq_false (Nat.not_lt.2 hnext), decide_eq_false (Nat.not_le.2 hroom), trapIf_false, trapIf_false, firstTrap_none,
    firstTrap_none, checked_next]
  cases hl : s.me.loops with
  | nil => rfl
  | cons l r =>
    have hin : l.last.toNat < last ↔ False := iff_false_intro (Nat.not_lt.2 (htop l (by rw [hl]; rfl)))
    simp only [hin, decide_false]
    rfl

theorem fillFetch_frame (s : State) (cl ctx va : Nat) : (s.fillFetch cl ctx va).frame = s.frame := by
  unfold State.fillFetch
  split
  · rfl
  · exact fillLayer_frame _ _

theorem Frame.loops_eq {s t : State} (h : t.frame = s.frame) : t.me.loops = s.me.loops := by
  have hcur : t.cur = s.cur := congrArg Frame.cur h
  change (t.sq t.cur.cl t.cur.core t.cur.sec).loops = _
  rw [hcur]
  exact congrArg (fun q => q.loops) (Frame.sq_eq h _ _ _)

theorem loopResults : LoopResults := by
  intro a cnt imm im s x c ok pushed l1 l2
  have push {last n : Nat} (h : ok last) (hn : n ≠ 0) : s.loopPush last n = .next (pushed last n) := by
    rw [loopPush_eq n h, if_neg hn]
  have skip {last n : Nat} (h : ok last) (hn : n = 0) : ∃ t, s.loopPush last n = .next t ∧ t.me.loops = s.me.loops := by
    rw [loopPush_eq n h, if_pos hn]
    exact ⟨_, rfl, by rw [me_modMe]; exact Frame.loops_eq (fillFetch_frame _ _ _ _)⟩
  refine ⟨push, push, skip, skip, fun h => ?_⟩
  change s.loopPush l2 cnt.toNat = _
  unfold State.loopPush
  dsimp only
  rw [decide_eq_true h]
  rfl

end Sys2Proof.Machine

open Sys2Proof Sys2Proof.Machine

/-- Settles O14: `branchResults` and `loopResults`, its two parts. -/
theorem branchesAndLoops : Obligations.BranchesAndLoops := ⟨branchResults, loopResults⟩

end

section
/-! PROOF. Duplicate comparisons and requested traps, delivered to a handler (09 R147, R156, R157, 27 R433, R436). -/

namespace Sys2Proof.Machine

open Sys2Proof

/-! ## Traps that a handler takes (27 R433, R436) -/

theorem causeWord_code (code : BitVec 8) (sec async mode : Bool) : (causeWord code sec async mode).extractLsb' 0 8 = code := by
  rw [← BitVec.setWidth_eq_extractLsb' (by decide)]
  exact BitVec.setWidth_append_eq_right

theorem haltCtx_cur (s : State) (n : Nat) : (s.haltCtx n).cur = s.cur := rfl

theorem deliver_cur (s : State) (c k : Nat) (sec : Bool) (r : TrapRec) : (s.deliver c k sec r).cur = s.cur := by
  simp only [State.deliver, apply_ite State.cur, modE_cur, report_cur, modCore_cur, haltCtx_cur, ite_self]

/-- A trap that the handler of the context takes (27 R433, R436). -/
def TrapRec.own (r : TrapRec) : Prop := r.code ≠ codeTiming ∧ r.code ≠ codeEmul ∧ r.code ≠ codeSvc ∧ r.code ≠ codeClockLost

theorem own_dup (n addr : Nat) : (trapR codeDup n addr).own := by
  change codeDup ≠ codeTiming ∧ codeDup ≠ codeEmul ∧ codeDup ≠ codeSvc ∧ codeDup ≠ codeClockLost
  decide

theorem own_trap (n addr : Nat) : (trapR codeTrap n addr).own := by
  change codeTrap ≠ codeTiming ∧ codeTrap ≠ codeEmul ∧ codeTrap ≠ codeSvc ∧ codeTrap ≠ codeClockLost
  decide

section
variable {s : State} {c k : Nat} {sec : Bool} {r : TrapRec} {x : Context}

theorem deliver_own_e (hr : r.own) (hx : s.ctxOf c = some x) (hm : (s.core c k).e.mode = false) (hh : x.handler ≠ 0) :
    ((s.deliver c k sec r).core c k).e = (s.core c k).e.enter sec r x.handler s.cycle := by
  obtain ⟨h1, h2, h3, h4⟩ := hr
  rw [deliver_enters h1 h2 h3 h4 hx hm hh, e_dropFeeds_modE, trapNoted_e]

/-- A service call is taken by the service handler of the partition (27 R433). -/
theorem deliver_service_e {p : Partition} (hr : r.code = codeSvc) (hx : s.ctxOf c = some x) (hp : look s.parts x.part = some p)
    (hm : (s.core c k).e.mode = false) : ((s.deliver c k sec r).core c k).e = (s.core c k).e.enter sec r p.service s.cycle := by
  have hsvc : (s.modCore c k (fun y => { y with trapAt := s.cycle + 1 })).handlerOf c codeSvc = p.service := by
    rw [State.handlerOf, modCore_ctxOf, hx]
    dsimp only
    rw [if_pos (Or.inl rfl), modCore_parts, hp]
  have h1 : codeSvc ≠ codeTiming := by decide
  have h2 : codeSvc ≠ codeEmul := by decide
  have h5 : codeSvc ≠ codeData := by decide
  have hd : s.deliver c k sec r = ((s.trapNoted c k r).modCore c k (Core.dropFeeds (some sec))).modE c k
      (fun e => e.enter sec r p.service s.cycle) := by
    unfold State.deliver State.trapNoted
    simp only [hr, h1, h2, h5, if_false, false_and, trapAt_e, hm, Bool.false_eq_true, hsvc, ne_eq, not_true, and_false]
    rfl
  rw [hd, e_dropFeeds_modE, trapNoted_e]

/-- What a core and its trapping sequencer show once a handler has taken a trap. -/
theorem enter_shows {t : State} {e : CoreE} {h : BitVec 52} {cycle : Nat} (he : t.e = e.enter t.cur.sec r h cycle) :
    t.e.mode = true ∧ t.me.pc = h ∧ t.me.running = true ∧ t.e.trapInfo = r.info ∧ t.e.trapAddr = r.addr ∧
      t.e.trapPc = (e.sq t.cur.sec).ckpt.pc.zeroExtend 64 ∧ t.e.trapCause.extractLsb' 0 8 = r.code := by
  obtain ⟨hmode, hinfo, haddr, hpc, hcause, -⟩ := enter_regs e t.cur.sec r h cycle
  have hme := enter_sq e t.cur.sec r h cycle t.cur.sec
  rw [if_pos rfl, ← he] at hme
  rw [← he] at hmode hinfo haddr hpc hcause
  change t.me = _ at hme
  refine ⟨hmode, ?_, ?_, hinfo, haddr, hpc, ?_⟩
  · rw [hme]
  · rw [hme]
  · rw [hcause, causeWord_code]

end

/-- A trap at issue that the context's handler takes. -/
theorem raise_e {s : State} {r : TrapRec} {x : Context} (hr : r.own) (hx : s.hereCtx = some x) (hm : s.e.mode = false) (hh : x.handler ≠ 0) :
    (s.raise r).e = s.e.enter (s.raise r).cur.sec r x.handler s.cycle := by
  have hcur : (s.raise r).cur = s.cur := deliver_cur _ _ _ _ _
  change ((s.raise r).core (s.raise r).cur.cl (s.raise r).cur.core).e = _
  rw [hcur]
  exact deliver_own_e hr hx hm hh

/-! ## Duplicate comparisons (R156, R157) -/

theorem firstDiff_self (l : List Byte) : firstDiff l l = none := by
  induction l with
  | nil => rfl
  | cons b r ih => rw [firstDiff, if_pos rfl, ih]; rfl

/-- The lowest byte that differs. -/
theorem firstDiff_eq_some {i : Nat} {x y : List Byte} {u v : Byte} (hu : x[i]? = some u) (hv : y[i]? = some v) (huv : u ≠ v)
    (hb : ∀ j, j < i → x[j]? = y[j]?) : firstDiff x y = some i := by
  induction i generalizing x y with
  | zero =>
    cases x with
    | nil => cases hu
    | cons a p =>
      cases y with
      | nil => cases hv
      | cons b q =>
        obtain rfl : a = u := Option.some.inj hu
        obtain rfl : b = v := Option.some.inj hv
        rw [firstDiff, if_neg huv]
  | succ i ih =>
    cases x with
    | nil => cases hu
    | cons a p =>
      cases y with
      | nil => cases hv
      | cons b q =>
        obtain rfl : a = b := Option.some.inj (hb 0 (Nat.succ_pos i))
        rw [firstDiff, if_pos rfl, ih hu hv fun j hj => hb (j + 1) (Nat.succ_lt_succ hj)]
        rfl

theorem bytesOf_get {n i : Nat} (h : i < n) (x : Nat) : (bytesOf n x)[i]? = some (BitVec.ofNat 8 (x / 256 ^ i)) := by
  induction n generalizing x i with
  | zero => exact absurd h (Nat.not_lt_zero i)
  | succ n ih =>
    cases i with
    | zero => rw [Nat.pow_zero, Nat.div_one]; rfl
    | succ i => rw [Nat.pow_succ', ← Nat.div_div_eq_div_mul]; exact ih (Nat.lt_of_succ_lt_succ h) (x / 256)

/-- A byte of a register. -/
theorem bytesOf_reg {i : Nat} (h : i < 8) (x : Word) : (bytesOf 8 x.toNat)[i]? = some (x.extractLsb' (8 * i) 8) := by
  rw [bytesOf_get h, show 256 ^ i = 2 ^ (8 * i) by rw [Nat.pow_mul], ← Nat.shiftRight_eq_div_pow]
  rfl

theorem xchk_differs {s : State} {a b : Reg} {i : Nat} (hi : i < 8) (hd : (s.g a).extractLsb' (8 * i) 8 ≠ (s.g b).extractLsb' (8 * i) 8)
    (hb : ∀ j, j < i → (s.g a).extractLsb' (8 * j) 8 = (s.g b).extractLsb' (8 * j) 8) :
    exec (.xchk a b) s = .next (s.raise (trapR codeDup i s.cur.pc.toNat)) := by
  have hf : firstDiff (bytesOf 8 (s.g a).toNat) (bytesOf 8 (s.g b).toNat) = some i :=
    firstDiff_eq_some (bytesOf_reg hi _) (bytesOf_reg hi _) hd fun j hj => by
      rw [bytesOf_reg (hj.trans hi), bytesOf_reg (hj.trans hi), hb j hj]
  change s.checked (s.dupTrap 0 _ _) id = _
  rw [State.dupTrap, hf, Nat.zero_mul]
  exact congrArg (fun n => Host.Outcome.next (s.raise (trapR codeDup n s.cur.pc.toNat))) (Nat.zero_add i)

/-- Where neither row has an uncorrectable error, xchk.v compares their bytes. -/
theorem execXchkV_readable {s : State} {a b : Reg} (hx : s.chkArena (s.e.vBase.toNat + 256 * a.toNat) 256 = none)
    (hy : s.chkArena (s.e.svBase.toNat + 256 * b.toNat) 256 = none) :
    exec (.xchkV a b) s = s.checked (s.dupTrap 1 (readB s.here.arena (s.e.vBase.toNat + 256 * a.toNat) 256)
      (readB s.here.arena (s.e.svBase.toNat + 256 * b.toNat) 256)) id := by
  change execXchkV a b s = _
  unfold execXchkV
  dsimp only
  rw [hx, hy, firstTrap_none, firstTrap_none]
  cases s.dupTrap 1 _ _ <;> rfl

theorem readB_eq_of_bytes {t : Tbl Byte} {x y n : Nat} (h : ∀ j, j < n → tget 0 t (x + j) = tget 0 t (y + j)) : readB t x n = readB t y n := by
  refine List.ext_getElem? fun j => ?_
  by_cases hj : j < n
  · rw [readB_get t x n j hj, readB_get t y n j hj, h j hj]
  · rw [List.getElem?_eq_none (by rw [readB_length]; omega), List.getElem?_eq_none (by rw [readB_length]; omega)]

/-! ## Requested traps (R147) -/

/-- The core as a requested trap finds it: the checkpoint of its sequencer at the bundle at which fetch continues. -/
def CoreE.requested (e : CoreE) (sec : Bool) (ord : Nat) : CoreE :=
  let f := e.checkpoint sec (e.sq sec).pc ord
  f.setSq sec { f.sq sec with restartNext := true }

theorem requested_mode (e : CoreE) (sec : Bool) (ord : Nat) : (e.requested sec ord).mode = e.mode := by cases sec <;> rfl

theorem requested_ckpt (e : CoreE) (sec : Bool) (ord : Nat) : ((e.requested sec ord).sq sec).ckpt.pc = (e.sq sec).pc := by cases sec <;> rfl

/-- The state in which a requested trap is taken. -/
def State.requesting (s : State) : State :=
  (s.modHereE (fun e => e.checkpoint s.cur.sec (e.sq s.cur.sec).pc s.ord)).modMe (fun q => { q with restartNext := true })

theorem requesting_e (s : State) : (s.requesting.core s.cur.cl s.cur.core).e = s.e.requested s.cur.sec s.ord := by
  change s.requesting.e = _
  rw [State.requesting, e_modMe, State.me, e_modHereE]
  rfl

theorem modHereE_ctxOf (s : State) (f : CoreE → CoreE) (c : Nat) : (s.modHereE f).ctxOf c = s.ctxOf c := modCore_ctxOf _ _ _ _ _

theorem modMe_ctxOf (s : State) (f : Seq → Seq) (c : Nat) : (s.modMe f).ctxOf c = s.ctxOf c := modHereE_ctxOf s _ c

theorem requesting_ctxOf (s : State) (c : Nat) : s.requesting.ctxOf c = s.ctxOf c := by
  rw [State.requesting, modMe_ctxOf, modHereE_ctxOf]

/-- A requested trap that a handler takes. -/
theorem request_shows {s : State} {r : TrapRec} {h : BitVec 52}
    (hd : ((s.requesting.deliver s.cur.cl s.cur.core s.cur.sec r).core s.cur.cl s.cur.core).e =
      (s.requesting.core s.cur.cl s.cur.core).e.enter s.cur.sec r h s.requesting.cycle) :
    let t := s.request r
    t.e.mode = true ∧ t.me.pc = h ∧ t.me.running = true ∧ t.e.trapInfo = r.info ∧ t.e.trapAddr = r.addr ∧
      t.e.trapPc = s.me.pc.zeroExtend 64 ∧ t.e.trapCause.extractLsb' 0 8 = r.code := by
  intro t
  have hcur : t.cur = s.cur := deliver_cur _ _ _ _ _
  have he : t.e = (s.e.requested s.cur.sec s.ord).enter t.cur.sec r h s.requesting.cycle := by
    change (t.core t.cur.cl t.cur.core).e = _
    rw [hcur, ← requesting_e]
    exact hd
  have hshown := enter_shows he
  rw [hcur, requested_ckpt] at hshown
  exact hshown

end Sys2Proof.Machine

open Sys2Proof Sys2Proof.Machine

/-- Settles O11: the comparisons by `firstDiff`, the mismatch by the entry of the context's handler. -/
theorem duplicateChecks : Obligations.DuplicateChecks := by
  intro a b s i x y readable byte gbyte
  have rows (h : readable) := execXchkV_readable (a := a) (b := b) ((chkArena_eq_none s x 256).2 fun j hj => (h j hj).1)
    ((chkArena_eq_none s y 256).2 fun j hj => (h j hj).2)
  refine ⟨fun h => ?_, fun hr h => (rows hr).trans ?_, xchk_differs, fun hr hi hd hb => (rows hr).trans ?_, fun c n hc hh hm => ?_⟩
  · change s.checked (s.dupTrap 0 _ _) id = _
    rw [h, State.dupTrap, firstDiff_self]
    rfl
  · rw [State.dupTrap, readB_eq_of_bytes h, firstDiff_self]
    rfl
  · have hf : firstDiff (readB s.here.arena x 256) (readB s.here.arena y 256) = some i :=
      firstDiff_eq_some (readB_get _ _ _ _ hi) (readB_get _ _ _ _ hi) hd fun j hj => by
        rw [readB_get _ _ _ _ (hj.trans hi), readB_get _ _ _ _ (hj.trans hi)]
        exact congrArg some (hb j hj)
    rw [State.dupTrap, hf]
    rfl
  · obtain ⟨hmode, hpc, hrun, hinfo, -, -, hcause⟩ := enter_shows (raise_e (own_dup n s.cur.pc.toNat) hc hm hh)
    exact ⟨hmode, hrun, hpc, hinfo, hcause⟩

/-- Settles O12: `request_shows`, with the handler of the context and the service handler of its partition. -/
theorem trapAndServiceCalls : Obligations.TrapAndServiceCalls := by
  intro code s x p hm hx hh hp
  have hctx : s.requesting.ctxOf s.cur.cl = some x := (requesting_ctxOf s _).trans hx
  have hmode : (s.requesting.core s.cur.cl s.cur.core).e.mode = false := by rw [requesting_e, requested_mode]; exact hm
  have hinfo : (trapR codeTrap code.toNat s.pcN).info = code.zeroExtend 64 := BitVec.ofNat_toNat 64 _
  have haddr : (trapR codeTrap code.toNat s.pcN).addr = s.cur.pc.zeroExtend 64 := BitVec.ofNat_toNat 64 _
  obtain ⟨tm, tpc, tr, ti, ta, tk, tc⟩ := request_shows (deliver_own_e (sec := s.cur.sec) (own_trap code.toNat s.pcN) hctx hmode hh)
  obtain ⟨um, upc, ur, ui, ua, uk, uc⟩ :=
    request_shows (deliver_service_e (sec := s.cur.sec) (r := trapR codeSvc code.toNat s.pcN) rfl hctx hp hmode)
  exact ⟨_, _, rfl, rfl, tm, um, tpc, upc, tr, ur, ti.trans hinfo, ui.trans hinfo, ta.trans haddr, ua.trans haddr, tk, uk, tc, uc⟩

end

section
/-! PROOF. The end of a sequencer's task stream, and yields (09 R145, R146, 03 R35, R56, R57). -/

namespace Sys2Proof.Machine

open Sys2Proof

/-- The first number of a span that a test names. -/
theorem find_span_some {f : Nat → Bool} {a n i : Nat} (hi : i < n) (h : f (a + i) = true) (hb : ∀ j, j < i → f (a + j) = false) :
    (span a n).find? f = some (a + i) := by
  rw [span_eq_range', List.find?_range'_eq_some]
  refine ⟨h, List.mem_range'_1.2 (by omega), fun j ha hj => ?_⟩
  have hbj := hb (j - a) (by omega)
  rw [Nat.add_sub_cancel' ha] at hbj
  rw [hbj]
  rfl

/-! ## Ends (R145, 03 R35) -/

theorem drainLeft_none {e : CoreE} (h : ∀ q, q < 4 → tget [] e.dq q = []) : e.drainLeft = none :=
  find_span.2 fun q hq => by rw [Nat.zero_add, h q hq]; rfl

theorem drainLeft_some {e : CoreE} {q : Nat} (hq : q < 4) (h : tget [] e.dq q ≠ []) (hb : ∀ p, p < q → tget [] e.dq p = []) :
    e.drainLeft = some q := by
  refine (find_span_some hq ?_ fun p hp => ?_).trans (congrArg some (Nat.zero_add q))
  · simpa [Nat.zero_add] using h
  · rw [Nat.zero_add, hb p hp]; rfl

theorem otherStopped_iff (s : State) :
    s.otherStopped = true ↔ (s.e.sq (!s.cur.sec)).running = false ∧ (s.e.sq (!s.cur.sec)).preempted = false := by
  simp [State.otherStopped]

theorem tendResults : TendResults := by
  intro s other stop last
  have ends (h : last) : exec .tend s = s.checked (s.e.drainLeft.map (fun q => trapR codeQueue (q * 256 + 35) s.pcN))
      (fun s => (s.modHereE CoreE.unbindAll).modMe Seq.stop) := if_pos ((otherStopped_iff s).2 h)
  refine ⟨fun h => if_neg (mt (otherStopped_iff s).1 h), fun h hdq => (ends h).trans ?_, fun q h hq hd hb => (ends h).trans ?_⟩
  · rw [drainLeft_none hdq]; rfl
  · rw [drainLeft_some hq hd hb]; rfl

/-! ## Yields (R146, 03 R56, R57) -/

theorem yieldResults : YieldResults := by
  intro s s1
  have turn (h : s.preemptPending s.cur.cl = false) : exec .yieldOp s =
      if !s.cur.sec && s.e.second.running then .next (s1.modHere (fun y => { y with yieldNow := true, secWait := 0 })) else .next s1 :=
    if_neg (by rw [h]; exact Bool.false_ne_true)
  refine ⟨rfl, rfl, fun h => if_pos h, fun h hsec hrun => (turn h).trans ?_, fun h hor => (turn h).trans ?_⟩
  · rw [hsec, hrun]; rfl
  · refine if_neg ?_
    obtain hsec | hrun := hor
    · simp [hsec]
    · simp [hrun]

end Sys2Proof.Machine

open Sys2Proof Sys2Proof.Machine

/-- Settles O15: `tendResults` and `yieldResults`, its two parts. -/
theorem tendAndYield : Obligations.TendAndYield := ⟨tendResults, yieldResults⟩

end

section
/-! PROOF. What a landing that is performed at its banks changes of its cluster, and nothing else (11 R195, 13 R211, R218, R239, R240). -/

namespace Sys2Proof.Machine

open Sys2Proof

/-! ## The units that single bytes touch (R210) -/

/-- The aligned units of a write given byte by byte. -/
theorem mem_distinct_units {u g : Nat} {cs : List (Nat × Byte)} :
    g ∈ distinct (((cs.map (fun c => (c.1, 1))).map (fun p => unitsOf u p.1 p.2)).flatten) [] ↔ ∃ c ∈ cs, c.1 / u = g := by
  have hunit (a : Nat) : g ∈ unitsOf u a 1 ↔ a / u = g := by
    rw [mem_unitsOf, Nat.add_sub_cancel, ← le_antisymm_iff]
    exact and_iff_right Nat.one_ne_zero
  simp only [mem_distinct, List.not_mem_nil, or_false, List.mem_flatten, List.mem_map, exists_exists_and_eq_and, hunit]

theorem mem_linesOf_bytes {n : Nat} {cs : List (Nat × Byte)} : n ∈ linesOf (cs.map (fun c => (c.1, 1))) ↔ ∃ c ∈ cs, c.1 / 64 = n :=
  mem_distinct_units

theorem mem_granulesOf_bytes {g : Nat} {cs : List (Nat × Byte)} : g ∈ granulesOf (cs.map (fun c => (c.1, 1))) ↔ ∃ c ∈ cs, c.1 / 16 = g :=
  mem_distinct_units

/-- A line is covered when each of its bytes is written. -/
theorem covered_eq_line {cs : List (Nat × Byte)} {n : Nat} : covered cs n = 64 ↔ ∀ i, i < 64 → 64 * n + i ∈ cs.map (·.1) := by
  have hlen : (span (n * 64) 64).length = 64 := by rw [span_eq_range', List.length_range']
  have hmem (a : Nat) : (cs.any (fun c => c.1 == a)) = true ↔ a ∈ cs.map (·.1) := by simp
  refine (Iff.of_eq (congrArg _ hlen.symm)).trans (List.length_filter_eq_length_iff.trans ?_)
  simp only [hmem, mem_span]
  refine ⟨fun h i hi => h _ (by omega), fun h a ha => ?_⟩
  rw [show a = 64 * n + (a - 64 * n) by omega]
  exact h _ (by omega)

/-! ## The tables that a landing writes -/

/-- Lines that lose their marks (01 R28). -/
theorem tget_unmark (ls : List Nat) (t : Tbl (Option LineMark)) (n : Nat) :
    tget none (ls.foldl (fun t l => tset none t l none) t) n = if n ∈ ls then none else tget none t n := by
  induction ls generalizing t with
  | nil => rfl
  | cons x r ih =>
    rw [List.foldl_cons, ih, tget_tset]
    by_cases hr : n ∈ r <;> by_cases hx : n = x <;> simp [hr, hx]

/-- The write buffers of the banks after lines have entered them (R211). -/
theorem mem_bufAdd {ls : List Nat} {t : Tbl (List Nat)} {b n : Nat} :
    n ∈ tget [] (bufAdd t ls) b ↔ n ∈ tget [] t b ∨ (n % 32 = b ∧ n ∈ ls) := by
  induction ls generalizing t with
  | nil => simp [bufAdd]
  | cons x r ih =>
    have henter : n ∈ tget [] (tset [] t (bankOf x) (addNew x (tget [] t (bankOf x)))) b ↔ n ∈ tget [] t b ∨ (n % 32 = b ∧ n = x) := by
      rw [tget_tset]
      split
      · subst_vars
        rw [mem_addNew, or_comm]
        exact or_congr_right ⟨fun h => ⟨h ▸ rfl, h⟩, And.right⟩
      · rename_i hb
        exact (or_iff_left fun ⟨hn, hx⟩ => hb (hx ▸ hn.symm)).symm
    rw [bufAdd, ih, henter, List.mem_cons]
    tauto

/-! ## The landing -/

section
variable {x y : Cluster} {l : Landing} (ha : l.atomic = none) (h : x.tryLand l = .ok y)
include ha

theorem cellsIn_plain (x : Cluster) : l.cellsIn x = l.bytes := by rw [Landing.cellsIn, ha]

include h

/-- The cluster that a landing without an atomic leaves. -/
theorem tryLand_eq : y = { x.put l.bytes with
    fe := setFE (setFE x.fe false l.setEmpty) true l.setFull
    capTag := l.tagSet.elim (x.put l.bytes).capTag (fun g => tset false (x.put l.bytes).capTag g true) } := by
  simp only [Cluster.tryLand, cellsIn_plain ha] at h
  split at h
  · cases h
  · split at h
    · cases h
    · injection h with h
      rw [← h]
      cases l.tagSet <;> rfl

/-- The tag that a landing sets, those that its bytes clear (R218), and the others. -/
theorem tryLand_tag (g : Nat) : tget false y.capTag g =
    if l.tagSet = some g then true else if g ∈ granulesOf (l.bytes.map (fun c => (c.1, 1))) then false else tget false x.capTag g := by
  rw [tryLand_eq ha h, ← setFE_get]
  cases l.tagSet with
  | none => rfl
  | some n =>
    simp only [Option.elim_some, tget_tset, Option.some.injEq, eq_comm (a := g)]
    rfl

/-- The marks of lines written whole go (01 R28). -/
theorem tryLand_mark (n : Nat) : tget none y.marks n = if covered l.bytes n = 64 then none else tget none x.marks n := by
  have hline : n ∈ (linesOf (l.bytes.map (fun c => (c.1, 1)))).filter (fun m => covered l.bytes m == 64) ↔ covered l.bytes n = 64 := by
    rw [List.mem_filter, beq_iff_eq, mem_linesOf_bytes, and_iff_right_iff_imp, covered_eq_line]
    intro hw
    obtain ⟨c, hc, he⟩ := List.mem_map.1 (hw 0 (by decide))
    exact ⟨c, hc, by omega⟩
  rw [tryLand_eq ha h, ← if_congr hline rfl rfl]
  exact tget_unmark _ _ _

theorem tryLand_buf (b n : Nat) : n ∈ tget [] y.buf b ↔ n ∈ tget [] x.buf b ∨ (n % 32 = b ∧ ∃ c ∈ l.bytes, c.1 / 64 = n) := by
  rw [tryLand_eq ha h, ← mem_linesOf_bytes]
  exact mem_bufAdd

end

end Sys2Proof.Machine

open Sys2Proof Sys2Proof.Machine

/-- Settles O18: the bytes and full-empty bits by `tryLand_ok`, then `tryLand_tag`, `tryLand_mark`, `tryLand_buf` and the frame by `tryLand_eq`. -/
theorem landingWrites : Obligations.LandingWrites := by
  intro x y l ha h
  obtain ⟨houtside, hscratch, hfe, -, -, -⟩ := tryLand_ok h
  rw [cellsIn_plain ha] at houtside hscratch
  have tag (g : Nat) := tryLand_tag ha h g
  refine ⟨houtside, fun hd c hc => hscratch ▸ tget_writeCells_mem hd hc, fun c hc hg => ?_, fun g hg => ?_, fun g hg hc => ?_, hfe,
    fun n hn => ?_, fun n i hi hn => ?_, tryLand_buf ha h, ?_⟩
  · rw [tag, if_neg hg, if_pos (mem_granulesOf_bytes.2 ⟨c, hc, rfl⟩)]
  · rw [tag, if_pos hg]
  · rw [tag, if_neg hg, if_neg fun hm => by obtain ⟨c, hcm, he⟩ := mem_granulesOf_bytes.1 hm; exact hc c hcm he]
  · rw [tryLand_mark ha h, if_pos (covered_eq_line.2 hn)]
  · rw [tryLand_mark ha h, if_neg fun hw => hn (covered_eq_line.1 hw i hi)]
  · rw [tryLand_eq ha h]
    rfl

end

section
/-! PROOF. Pool accesses: their checks, what each op does when they pass, and reads served in the package (13 R247 to R249, 23 R371, R383). -/

namespace Sys2Proof.Machine

open Sys2Proof

/-! ## The checks of a pool op (R234, R242, R247, R385) -/

theorem capCheck_none {k off n right : Nat} {c : Cap} (h : CapOk c off n right) (hk : c.kind = 0) : capCheck k c off n right (some 0) = none := by
  obtain ⟨htag, hright, hlen⟩ := h
  have hr : c.right right = true := hright
  have hl : ¬c.len < off + n := Nat.not_lt.2 hlen
  simp [capCheck, htag, hk, hr, hl]

section
variable {s : State} {k off n right align : Nat} (kind : Nat)

theorem chkPool_none (h : PoolOk s (s.k k) off n right align) : s.chkPool k off n right kind align = none := by
  obtain ⟨hfence, hcap, hkind, halign⟩ := h
  simp [State.chkPool, hfence, capCheck_none hcap hkind, halign]

theorem chkPool_fenced (h : s.pool.fenced = true) :
    s.chkPool k off n right kind align = some (trapR codeFence (kind * 256 + 6) ((s.k k).addr off)) := by
  rw [State.chkPool, h]
  rfl

end

theorem chkSlot_none {s : State} {q : Nat} (h : s.e.bound q = true → (s.e.stream q).length < 32) : s.chkSlot q = none := by
  rw [State.chkSlot, trapIf_eq_none, State.canReserve]
  simpa [imp_iff_not_or] using h

/-! ## The slot of a pool read or atomic (R242) -/

theorem reserve_fst (s : State) (q : Nat) : (s.reserve q).1 = if s.e.bound q then some s.fresh else none := by
  rw [reserve_eq]; split <;> rfl

theorem reserve_pool (s : State) (q : Nat) : (s.reserve q).2.pool = s.pool := by
  rw [reserve_eq]; split <;> rfl

/-! ## The ops (R247, R248) -/

/-- The request of a patom (R248, R386). -/
def State.patomReq (s : State) (op q : BitVec 3) (k : BitVec 4) (a b : Reg) : PoolReq :=
  let c := s.k k.toNat
  { (s.reserve q.toNat).2.newReq kAtomic 2 c.object (c.addr (s.g a).toNat) 0 (.atomSlot q.toNat (s.reserve q.toNat).1) with
    seq := (s.reserve q.toNat).2.pool.seq, op := op.zeroExtend 4, arg0 := s.g b, arg1 := if op = 5 then s.gNext b else 0 }

section
variable {ty q op : BitVec 3} {k : BitVec 4} {a b : Reg} {s : State}

theorem pld_passes (hp : PoolOk s (s.k k.toNat) (s.g a).toNat (tyBytes ty) 0 (tyBytes ty))
    (hroom : s.e.bound q.toNat = true → (s.e.stream q.toNat).length < 32) :
    let c := s.k k.toNat
    let w := tyBytes ty
    let x := c.addr (s.g a).toNat
    let r := (s.reserve q.toNat).2
    let dest : PoolDest := match (s.reserve q.toNat).1 with | none => .none | some i => .slot q.toNat i x ty
    exec (.pld ty q k a) s = .next (if x % 64 + w ≤ 64 then (r.askLine c.object x w dest).pumpPool
      else ((r.askLine c.object x (64 - x % 64) dest).askLine c.object ((x / 64 + 1) * 64 % 2 ^ 48) (w - (64 - x % 64)) dest).pumpPool) := by
  intro c w x r dest
  change execPld ty q k a s = _
  rw [execPld, chkPool_none 0 hp, chkSlot_none hroom]
  change Host.Outcome.next (State.pumpPool (if min w (64 - x % 64) = w then r.askLine c.object x (min w (64 - x % 64)) dest
    else (r.askLine c.object x (min w (64 - x % 64)) dest).askLine c.object _ (w - min w (64 - x % 64)) dest)) = _
  have hmod : x % 64 < 64 := Nat.mod_lt _ (by decide)
  by_cases hfit : x % 64 + w ≤ 64
  · rw [if_pos hfit, Nat.min_eq_left (by omega), if_pos rfl]
  · rw [if_neg hfit, Nat.min_eq_right (by omega), if_neg (by omega)]

theorem patom_passes (hp : PoolOk s (s.k k.toNat) (s.g a).toNat 8 2 8)
    (hroom : s.e.bound q.toNat = true → (s.e.stream q.toNat).length < 32) :
    let r := (s.reserve q.toNat).2
    exec (.patom op q k a b) s =
      .next (({ r with pool := { r.pool with seq := r.pool.seq + 1 } } : State).addReq (s.patomReq op q k a b)).pumpPool := by
  intro r
  change execPatom op q k a b s = _
  rw [execPatom, chkPool_none 2 hp, chkSlot_none hroom]
  rfl

theorem pst_passes (hp : PoolOk s (s.k k.toNat) (s.g a).toNat (tyBytes ty) 1 (tyBytes ty)) :
    exec (.pst ty k a b) s = .next (s.pend 3 ((lineCuts ((s.k k.toNat).addr (s.g a).toNat) (bytesOf (tyBytes ty) (s.g b).toNat)).map
      (fun p => .pool (s.k k.toNat).object p.1 p.2 s.pool.fence))) := by
  change execPst ty k a b s = _
  rw [execPst, chkPool_none 1 hp]
  rfl

end

/-- The low bytes of a word, least significant first (00 R5). -/
theorem bytesOf_toNat {w : Nat} (n : Nat) (x : BitVec w) : bytesOf n x.toNat = (List.range n).map (fun i => x.extractLsb' (8 * i) 8) := by
  refine List.ext_getElem? fun i => ?_
  by_cases hi : i < n
  · rw [bytesOf_get hi, List.getElem?_map, List.getElem?_range hi, show 256 ^ i = 2 ^ (8 * i) by rw [Nat.pow_mul], ← Nat.shiftRight_eq_div_pow]
    rfl
  · rw [List.getElem?_eq_none (by rw [bytesOf_length]; omega), List.getElem?_eq_none (by simpa using hi)]

/-- Bytes at a pool address stand in one line, or in two. -/
theorem lineCuts_eq (a : Nat) (bs : List Byte) : lineCuts a bs =
    if a % 64 + bs.length ≤ 64 then [(a, bs)] else [(a, bs.take (64 - a % 64)), ((a / 64 + 1) * 64 % 2 ^ 48, bs.drop (64 - a % 64))] := by
  have hmod : a % 64 < 64 := Nat.mod_lt _ (by decide)
  exact if_congr (by omega) rfl rfl

/-! ## The lines of a pget (R249, log entry 50) -/

/-- A line of a pget: the 64 bytes of scratch from scr on, from those of the capability's object at off. -/
def pgetLine (cl : Nat) (c : Cap) (off scr idx : Nat) : Line :=
  { idx := idx, dst := .scratch cl scr, sent := true
    segs := if c.addr off % 64 = 0 then [.src (.pool c off) 64]
      else [.src (.pool c off) (64 - c.addr off % 64), .src (.pool c (off + (64 - c.addr off % 64))) (c.addr off % 64)] }

theorem pgetLines_eq_map (cl : Nat) (c : Cap) (off scr idx n : Nat) :
    pgetLines cl c off scr idx n = (List.range n).map (fun i => pgetLine cl c (off + 64 * i) (scr + 64 * i) (idx + i)) := by
  induction n generalizing off scr idx with
  | zero => rfl
  | succ n ih =>
    have hmod : c.addr off % 64 < 64 := Nat.mod_lt _ (by decide)
    have hsegs : (if 64 - c.addr off % 64 = 64 then [Seg.src (.pool c off) 64]
        else [.src (.pool c off) (64 - c.addr off % 64), .src (.pool c (off + (64 - c.addr off % 64))) (64 - (64 - c.addr off % 64))]) =
        (pgetLine cl c off scr idx).segs := by
      rw [Nat.sub_sub_self hmod.le]
      exact if_congr (by omega) rfl rfl
    rw [List.range_succ_eq_map, List.map_cons, List.map_map, pgetLines, ih]
    refine congrArg₂ List.cons ?_ (List.map_congr_left fun i _ => ?_)
    · rw [hsegs]; rfl
    · simp only [Function.comp_apply, Nat.mul_succ, Nat.succ_eq_add_one, Nat.add_assoc, Nat.add_comm 64, Nat.add_comm 1]

/-- The lines of one pget start at the same place of a line of the pool, as 64 divides the size of its address space. -/
theorem addr_line_offset (c : Cap) (off i : Nat) : c.addr (off + 64 * i) % 64 = c.addr off % 64 := by
  rw [Cap.addr, Cap.addr, Nat.mod_mod_of_dvd _ (by decide), Nat.mod_mod_of_dvd _ (by decide), ← Nat.add_assoc, Nat.add_mul_mod_self_left]

/-- Where the lines of a pget go. -/
theorem pgetLines_places (cl : Nat) (c : Cap) (off scr n : Nat) :
    (pgetLines cl c off scr 0 n).map (fun y => (y.idx, y.dst)) = (List.range n).map (fun i => (i, End.scratch cl (scr + 64 * i))) := by
  rw [pgetLines_eq_map, List.map_map]
  refine List.map_congr_left fun i _ => ?_
  rw [Function.comp_apply, Nat.zero_add]
  rfl

/-- What each line of a pget reads: one line of the pool, or two. -/
theorem pgetLines_segs {cl off scr n : Nat} {c : Cap} {y : Line} (hy : y ∈ pgetLines cl c off scr 0 n) : y.segs =
    if c.addr off % 64 = 0 then [.src (.pool c (off + 64 * y.idx)) 64]
    else [.src (.pool c (off + 64 * y.idx)) (64 - c.addr off % 64),
      .src (.pool c (off + 64 * y.idx + (64 - c.addr off % 64))) (c.addr off % 64)] := by
  rw [pgetLines_eq_map] at hy
  obtain ⟨i, -, rfl⟩ := List.mem_map.1 hy
  rw [Nat.zero_add, ← addr_line_offset c off i]
  rfl

/-- A pget reads nothing but its capability's object. -/
theorem pgetLines_cap {cl off scr idx n : Nat} {c : Cap} {y : Line} (hy : y ∈ pgetLines cl c off scr idx n) {p : Cap × Nat × Nat}
    (hp : p ∈ y.poolPieces) : p.1 = c := by
  rw [pgetLines_eq_map] at hy
  obtain ⟨i, -, rfl⟩ := List.mem_map.1 hy
  have hsegs (g : Seg) (hg : g ∈ (pgetLine cl c (off + 64 * i) (scr + 64 * i) (idx + i)).segs) : ∃ o m, g = .src (.pool c o) m := by
    unfold pgetLine at hg
    dsimp only at hg
    split at hg
    · exact ⟨_, _, List.mem_singleton.1 hg⟩
    · obtain hg | hg := List.mem_pair.1 hg <;> exact ⟨_, _, hg⟩
  obtain ⟨g, hg, he⟩ := List.mem_filterMap.1 hp
  obtain ⟨o, m, rfl⟩ := hsegs g hg
  cases he
  rfl

theorem addNew_nodup {x : Nat} {l : List Nat} (h : l.Nodup) : (addNew x l).Nodup := by
  unfold addNew
  split
  · exact h
  · rename_i hx
    rw [List.contains_iff_mem] at hx
    exact List.nodup_append.2 ⟨h, List.nodup_singleton x, fun _ ha _ hb e => hx (List.mem_singleton.1 hb ▸ e ▸ ha)⟩

theorem distinct_nodup {l acc : List Nat} (h : acc.Nodup) : (distinct l acc).Nodup := by
  induction l generalizing acc with
  | nil => exact h
  | cons x r ih => exact ih (addNew_nodup h)

theorem poolLines_nodup (ps : List (Cap × Nat × Nat)) : (poolLines ps).Nodup := distinct_nodup List.nodup_nil

/-- The gets of some lines ask for each line of the pool that a piece of one of them is in. -/
theorem mem_poolLines {ls : List Line} {g : Nat} : g ∈ poolLines (ls.map Line.poolPieces).flatten ↔
    ∃ y ∈ ls, ∃ p ∈ y.poolPieces, g = p.1.addr p.2.1 / 64 := by
  simp only [poolLines, mem_distinct, List.not_mem_nil, or_false, List.mem_map, List.mem_flatten, exists_exists_and_eq_and]
  constructor
  · rintro ⟨p, ⟨y, hy, hp⟩, rfl⟩
    exact ⟨y, hy, p, hp, rfl⟩
  · rintro ⟨y, hy, p, hp, rfl⟩
    exact ⟨p, ⟨y, hy, hp⟩, rfl⟩

theorem mem_poolLines_pget {cl off scr idx n g : Nat} {c : Cap} :
    g ∈ poolLines ((pgetLines cl c off scr idx n).map Line.poolPieces).flatten ↔
      ∃ y ∈ pgetLines cl c off scr idx n, ∃ p ∈ y.poolPieces, g = c.addr p.2.1 / 64 := by
  rw [mem_poolLines]
  refine exists_congr fun y => and_congr_right fun hy => exists_congr fun p => and_congr_right fun hp => ?_
  rw [pgetLines_cap hy hp]

section
variable {k : BitVec 4} {a b l : Reg} {s : State}

/-- What is left of the checks of a pget once its length and its range of scratch are good. -/
theorem pget_sized (hn : (s.g l).toNat ≠ 0) (hlines : (s.g l).toNat % 64 = 0) (hmax : (s.g l).toNat ≤ 0x100000)
    (hscr : ScratchOk (s.g b).toNat (s.g l).toNat 64) :
    exec (.pget k a b l) s = s.checked (s.chkPool k.toNat (s.g a).toNat (s.g l).toNat 3 3 64) (fun t =>
      let ls := pgetLines t.cur.cl (t.k k.toNat) (s.g a).toNat (s.g b).toNat 0 ((s.g l).toNat / 64)
      let ps := (ls.map Line.poolPieces).flatten
      ((t.addXfer (t.xferOf .pget ls (s.g l).toNat)).askLines (t.k k.toNat).object t.fresh ps (poolLines ps)).pumpPool) := by
  have hlen : decide ((s.g l).toNat % 64 ≠ 0 ∨ 0x100000 < (s.g l).toNat) = false := by simp [hlines, hmax]
  change execPget k a b l s = _
  rw [execPget, if_neg hn, chkScratch_none hscr, hlen, trapIf_false, firstTrap_none, firstTrap_none]
  cases s.chkPool k.toNat (s.g a).toNat (s.g l).toNat 3 3 64 <;> rfl

end

theorem poolOps : PoolOps := by
  intro ty q op k a b l s w off n c x next room slot r bytes
  refine ⟨fun hp hroom => ?_, fun hp => ?_, fun hp hroom => ⟨s.patomReq op q k a b, ?_, rfl, ?_, ?_, rfl, rfl, rfl, fun h => if_pos h, ?_, ?_⟩,
    fun h => if_pos h, fun hn hlines hmax hscr => ⟨fun hp => ?_, fun hf => ?_⟩, fun hf => ⟨?_, ?_, ?_⟩⟩
  · intro dest
    have h := pld_passes hp hroom
    rw [reserve_fst] at h
    exact h
  · rw [pst_passes hp, lineCuts_eq, apply_ite (List.map _), bytesOf_length, bytesOf_toNat]
    rfl
  · rw [patom_passes hp hroom, reserve_pool]
  · exact congrArg PoolSide.seq (reserve_pool s q.toNat)
  · exact BitVec.toNat_setWidth_of_le (by decide)
  · exact congrArg (PoolDest.atomSlot q.toNat) (reserve_fst s q.toNat)
  · exact congrArg PoolSide.fence (reserve_pool s q.toNat)
  · refine ⟨pgetLines s.cur.cl c off (s.g b).toNat 0 (n / 64), poolLines _, ?_, pgetLines_places _ _ _ _ _, fun y => pgetLines_segs,
      poolLines_nodup _, fun g => mem_poolLines_pget⟩
    rw [pget_sized hn hlines hmax hscr, chkPool_none 3 hp]
    rfl
  · rw [pget_sized hn hlines hmax hscr, chkPool_fenced 3 hf]
    rfl
  · change execPld ty q k a s = _
    rw [execPld, chkPool_fenced 0 hf]
    rfl
  · change execPst ty k a b s = _
    rw [execPst, chkPool_fenced 1 hf]
    rfl
  · change execPatom op q k a b s = _
    rw [execPatom, chkPool_fenced 2 hf]
    rfl

/-! ## Reads served in the package (23 R371, R383, 11 R205) -/

@[simp] theorem localBytes_outbox (s : State) (r : PoolReq) (gs : List Nat) (a n : Nat) : (s.localBytes r gs a n).2.outbox = s.outbox := by
  have hpick (s : State) (cl k : Nat) (sec : Bool) (phase m : Nat) (vs : List Ver) : (s.pickVer cl k sec phase m vs).2.outbox = s.outbox := by
    unfold State.pickVer
    dsimp only
    split
    · rfl
    · rw [apply_ite Prod.snd, apply_ite State.outbox]
      exact ite_self _
  induction n generalizing s a with
  | zero => rfl
  | succ n ih =>
    unfold State.localBytes
    dsimp only
    split <;> simp [ih, State.poolByteAt, hpick]

theorem postFault_outbox (s : State) (ctx c k : Nat) (sec : Bool) (r : TrapRec) : (s.postFault ctx c k sec r).outbox = s.outbox := by
  unfold State.postFault State.modEOf
  split <;> rfl

theorem poolRead_outbox (s : State) (r : PoolReq) (bs : List Byte) : (s.poolRead r bs).outbox = s.outbox := by
  unfold State.poolRead
  split
  · dsimp only; split <;> rfl
  all_goals rfl

/-- A read that has come makes no request. -/
theorem poolRead_ids (s : State) (r : PoolReq) (bs : List Byte) : (s.poolRead r bs).pool.reqs.map (·.id) = s.pool.reqs.map (·.id) := by
  unfold State.poolRead
  split
  · dsimp only
    split
    · rfl
    · rw [List.map_map]
      refine List.map_congr_left fun x _ => ?_
      rw [Function.comp_apply]
      split <;> rfl
  all_goals rfl

/-- What a read that finds all its bytes in the package comes to: the fault of a marked copy (01 R28), or its value. -/
theorem trySend_served {r : PoolReq} {s : State} (hf : s.pool.fenced = false) (hs : r.sends = 0) (hk : r.kind = kRead) (hr : r.right ≠ 15)
    (ho : s.ordered r = true) (hall : (s.localBytes r (s.grants r.object r.need.1 r.need.2) r.need.1 r.need.2).1.all Option.isSome = true) :
    let p := s.localBytes r (s.grants r.object r.need.1 r.need.2) r.need.1 r.need.2
    let rest (t : State) := t.pool.reqs.filter (fun x => x.id != r.id)
    s.trySend r = match s.copyMark r with
      | some m => { s.readFault r m with pool := { s.pool with reqs := rest s } }
      | none => ({ p.2 with pool := { p.2.pool with reqs := rest p.2 } } : State).poolRead (r.knows p.1) ((r.knows p.1).merge []) := by
  intro p rest
  have hread : ((r.kind == kRead || r.kind == kGet) && r.right != 15) = true := by simpa [hk] using hr
  have hgo : (s.pool.fenced || decide (0 < r.sends) || !s.ordered r) = false := by simp [hf, hs, ho]
  rw [State.trySend, hgo]
  simp only [hread, hall, Bool.false_eq_true, Bool.and_self, if_true, if_false]
  cases s.copyMark r <;> rfl

theorem poolReadServedHere : PoolReadServedHere := by
  intro r s hf hs hk hr ho hall
  rw [trySend_served hf hs hk hr ho hall]
  dsimp only
  split
  · refine ⟨postFault_outbox _ _ _ _ _ _, fun x hx => ?_⟩
    simpa using (List.mem_filter.1 hx).2
  · refine ⟨(poolRead_outbox _ _ _).trans (localBytes_outbox _ _ _ _ _), fun x hx => ?_⟩
    have hid := List.mem_map_of_mem (f := (·.id)) hx
    rw [poolRead_ids] at hid
    obtain ⟨y, hy, he⟩ := List.mem_map.1 hid
    rw [← he]
    simpa using (List.mem_filter.1 hy).2

end Sys2Proof.Machine

open Sys2Proof Sys2Proof.Machine

/-- Settles O24: `poolOps` and `poolReadServedHere`, its two parts. -/
theorem poolAccesses : Obligations.PoolAccesses := ⟨poolOps, poolReadServedHere⟩

end

section
/-! SUPPORT. Checks of scratch accesses at issue (13 R215, R216, R233, R239), and bytes laid out from an address on (00 R5). -/

namespace Sys2Proof.Machine

open Sys2Proof

/-! ## Bytes from an address on -/

theorem readB_eq_map (t : Tbl Byte) (a n : Nat) : readB t a n = (List.range n).map (fun i => tget 0 t (a + i)) := by
  refine List.ext_getElem? fun i => ?_
  by_cases hi : i < n
  · rw [readB_get _ _ _ _ hi, List.getElem?_map, List.getElem?_range hi]; rfl
  · rw [List.getElem?_eq_none (by rw [readB_length]; omega), List.getElem?_eq_none (by simpa using hi)]

theorem cells_map_range (a n : Nat) (f : Nat → Byte) : cells a ((List.range n).map f) = (List.range n).map (fun i => (a + i, f i)) := by
  induction n generalizing a f with
  | zero => rfl
  | succ n ih =>
    rw [List.range_succ_eq_map, List.map_cons, List.map_cons, List.map_map, List.map_map, cells, ih]
    simp only [Function.comp_def, Nat.add_zero, Nat.succ_eq_add_one, Nat.add_assoc, Nat.add_comm 1]

theorem cells_readB (a : Nat) (t : Tbl Byte) (b n : Nat) : cells a (readB t b n) = (List.range n).map (fun i => (a + i, tget 0 t (b + i))) := by
  rw [readB_eq_map, cells_map_range]

theorem cells_bytesOf (a n : Nat) {w : Nat} (x : BitVec w) :
    cells a (bytesOf n x.toNat) = (List.range n).map (fun i => (a + i, x.extractLsb' (8 * i) 8)) := by
  rw [bytesOf_toNat, cells_map_range]

/-- A bit of a number is a bit of one of its bytes. -/
theorem natOf_testBit (bs : List Byte) (i : Nat) : (natOf bs).testBit i = (bs.getD (i / 8) 0).getLsbD (i % 8) := by
  induction bs generalizing i with
  | nil => simp [natOf]
  | cons b r ih =>
    rw [natOf, Nat.add_comm, show 256 = 2 ^ 8 from rfl, Nat.testBit_two_pow_mul_add _ b.isLt]
    split
    · rename_i h
      rw [Nat.div_eq_of_lt h, Nat.mod_eq_of_lt h]
      rfl
    · rw [ih, show i / 8 = (i - 8) / 8 + 1 by omega, show i % 8 = (i - 8) % 8 by omega]
      rfl

/-! ## Checks -/

theorem mem_linesOf {as : List (Nat × Nat)} {l : Nat} : l ∈ linesOf as ↔ ∃ p ∈ as, l ∈ unitsOf 64 p.1 p.2 := by
  simp only [linesOf, mem_distinct, List.not_mem_nil, or_false, List.mem_flatten, List.mem_map, exists_exists_and_eq_and]

theorem mem_granulesOf {as : List (Nat × Nat)} {g : Nat} : g ∈ granulesOf as ↔ ∃ p ∈ as, g ∈ unitsOf 16 p.1 p.2 := by
  simp only [granulesOf, mem_distinct, List.not_mem_nil, or_false, List.mem_flatten, List.mem_map, exists_exists_and_eq_and]

/-- A unit that an access touches begins before the access ends. -/
theorem mem_unitsOf_bounds {u a n g : Nat} (hu : 0 < u) (h : g ∈ unitsOf u a n) : a / u ≤ g ∧ u * g < a + n := by
  obtain ⟨hn, hlo, hhi⟩ := mem_unitsOf.1 h
  refine ⟨hlo, ?_⟩
  have := (Nat.le_div_iff_mul_le hu).1 hhi
  rw [Nat.mul_comm]
  omega

section
variable {s : State} {wait clear : Bool} {as : List (Nat × Nat)}

theorem chkSeals_none (h : ∀ p ∈ as, SealsOk s p.1 p.2) : s.chkSeals as = none := by
  refine firstTrap_eq_none.2 fun o ho => ?_
  obtain ⟨l, hl, rfl⟩ := List.mem_map.1 ho
  obtain ⟨p, hp, hu⟩ := mem_linesOf.1 hl
  obtain ⟨h1, h2⟩ := mem_unitsOf_bounds (by decide) hu
  rw [h p hp l h1 h2]
  rfl

theorem chkClear_none (h : ∀ p ∈ as, ClearOk s wait clear p.1 p.2) : s.chkClear wait clear as = none := by
  cases clear with
  | false => rfl
  | true =>
    cases wait with
    | true => rfl
    | false =>
      have hfull (g : Nat) (hg : g ∈ granulesOf as) : s.hereCl.full g = true := by
        obtain ⟨p, hp, hu⟩ := mem_granulesOf.1 hg
        obtain ⟨h1, h2⟩ := mem_unitsOf_bounds (by decide) hu
        obtain hn | hn | hn := h p hp
        · cases hn
        · cases hn
        · exact hn g h1 h2
      -- No granule is empty, so none is found as the lowest empty one.
      refine (congrArg (Option.map _) ?_ : _ = Option.map _ none)
      exact foldl_keeps_of_mem (fun m : Option Nat => m) (fun m g hg => by rw [hfull g hg]; rfl) none

theorem chkRead_none (h : ∀ p ∈ as, SealsOk s p.1 p.2 ∧ ClearOk s wait clear p.1 p.2) : s.chkRead wait clear as = none := by
  rw [State.chkRead, chkClear_none fun p hp => (h p hp).2, chkSeals_none fun p hp => (h p hp).1]
  rfl

end

end Sys2Proof.Machine
end

section
/-! PROOF. Scalar and row loads and stores of scratch, and full-empty changes (13 R233, R235, R236, R240, R257). -/

namespace Sys2Proof.Machine

open Sys2Proof

/-! ## Scalars (05 R82, R235) -/

theorem tyBytes_bounds (ty : BitVec 3) : 0 < tyBytes ty ∧ tyBytes ty ≤ 8 :=
  ⟨Nat.two_pow_pos _, Nat.pow_le_pow_right (by decide) (show ty.toNat / 2 ≤ 3 by have := ty.isLt; omega)⟩

/-- The bits of a scalar from memory: its bytes, then for a signed type its sign. -/
theorem extendTy_getLsbD {ty : BitVec 3} {bs : List Byte} (hl : bs.length = tyBytes ty) {i : Nat} (hi : i < 64) :
    (extendTy ty (natOf bs)).getLsbD i = if i < 8 * tyBytes ty then (bs.getD (i / 8) 0).getLsbD (i % 8)
      else decide (ty.toNat % 2 = 0) && (bs.getD (tyBytes ty - 1) 0).msb := by
  obtain ⟨h0, h8⟩ := tyBytes_bounds ty
  by_cases hs : ty.toNat % 2 = 0
  · have hx : extendTy ty (natOf bs) = (BitVec.ofNat (8 * tyBytes ty) (natOf bs)).signExtend 64 := if_pos (by simpa [tySigned] using hs)
    have hmsb : (BitVec.ofNat (8 * tyBytes ty) (natOf bs)).msb = (bs.getD (tyBytes ty - 1) 0).msb := by
      rw [BitVec.msb_eq_getLsbD_last, BitVec.msb_eq_getLsbD_last, BitVec.getLsbD_ofNat, natOf_testBit,
        decide_eq_true (show 8 * tyBytes ty - 1 < 8 * tyBytes ty by omega), Bool.true_and,
        show (8 * tyBytes ty - 1) / 8 = tyBytes ty - 1 by omega, show (8 * tyBytes ty - 1) % 8 = 8 - 1 by omega]
    rw [hx, BitVec.getLsbD_signExtend, decide_eq_true hi, Bool.true_and, hmsb, decide_eq_true hs, Bool.true_and]
    split
    · rename_i h
      rw [BitVec.getLsbD_ofNat, natOf_testBit, decide_eq_true h, Bool.true_and]
    · rfl
  · have hx : extendTy ty (natOf bs) = BitVec.ofNat 64 (natOf bs) := if_neg (by simpa [tySigned] using hs)
    rw [hx, BitVec.getLsbD_ofNat, natOf_testBit, decide_eq_true hi, Bool.true_and, decide_eq_false hs, Bool.false_and]
    split
    · rfl
    · rw [List.getD_eq_default _ _ (by omega)]
      exact BitVec.getLsbD_zero

/-! ## Loads and stores (R235, R236) -/

section
variable {ty : BitVec 3} {wait clear : Bool} {d a b : Reg} {imm : Imm} {s : State}

theorem ld_passes (hx : ScratchOk (s.ldAddr ty a imm) (tyBytes ty) (tyBytes ty))
    (hr : SealsOk s (s.ldAddr ty a imm) (tyBytes ty) ∧ ClearOk s wait clear (s.ldAddr ty a imm) (tyBytes ty)) :
    exec (.ld ty wait clear d a imm) s = .next ((s.readLines clear [(s.ldAddr ty a imm, tyBytes ty)]).wrG d
      (extendTy ty (natOf (s.scr (s.ldAddr ty a imm) (tyBytes ty)))) 5) := by
  change execLd ty wait clear d a imm s = _
  rw [execLd, chkScratch_none hx, chkRead_none fun p hp => List.mem_singleton.1 hp ▸ hr]
  rfl

/-- A scalar load that fails its check of the address traps, whatever its lines hold. -/
theorem ld_traps {r : TrapRec} (h : chkScratch (s.ldAddr ty a imm) (tyBytes ty) (tyBytes ty) = some r) :
    exec (.ld ty wait clear d a imm) s = .next (s.raise r) := by
  change execLd ty wait clear d a imm s = _
  rw [execLd, h]
  rfl

theorem vld_passes (hx : ScratchOk (s.vldAddr a imm) 256 16)
    (hr : SealsOk s (s.vldAddr a imm) 256 ∧ ClearOk s wait clear (s.vldAddr a imm) 256) :
    exec (.vld wait clear d a imm) s = .next ((s.readLines clear [(s.vldAddr a imm, 256)]).pend 6
      [s.arenaW (cells (s.rowAt d.toNat) (s.scr (s.vldAddr a imm) 256))]) := by
  change execVld wait clear d a imm s = _
  rw [execVld, chkScratch_none hx, chkRead_none fun p hp => List.mem_singleton.1 hp ▸ hr]
  rfl

theorem st_passes (hx : ScratchOk (s.ldAddr ty a imm) (tyBytes ty) (tyBytes ty)) : exec (.st ty d a imm) s =
    .next (s.landAt 3 (cells (s.ldAddr ty a imm) (bytesOf (tyBytes ty) (s.g d).toNat))) := by
  change execSt ty d a imm s = _
  rw [execSt, chkScratch_none hx]
  rfl

theorem vst_passes (hx : ScratchOk (s.vldAddr a imm) 256 16) (hd : RowOk s d) : exec (.vst d a imm) s =
    .next (s.landAt 3 (cells (s.vldAddr a imm) (readB s.here.arena (s.rowAt d.toNat) 256))) := by
  change execVst d a imm s = _
  rw [execVst, chkScratch_none hx, (chkArena_eq_none _ _ _).2 hd]
  rfl

/-! ## Full-empty bits (R240) -/

theorem chkRange_none {x n : Nat} (hx : ScratchOk x n 16) (h16 : n % 16 = 0) (hmin : 16 ≤ n) (hmax : n ≤ 0x10000) : chkRange x n = none := by
  rw [chkRange, chkScratch_none hx, decide_eq_false (by omega)]
  rfl

/-- The granules of whole granules. -/
theorem unitsOf_granules {x n : Nat} (hx : x % 16 = 0) (hn : n % 16 = 0) : unitsOf 16 x n = (List.range (n / 16)).map (fun i => x / 16 + i) := by
  unfold unitsOf
  split
  · subst_vars; rfl
  · rw [show (x + n - 1) / 16 + 1 - x / 16 = n / 16 by omega, ← List.map_id (span _ _), map_span]
    rfl

end

theorem chkScratch_range {x n align : Nat} (h : 0x400000 < x + n) : chkScratch x n align = some (pageFault 4 x) := by
  rw [chkScratch, decide_eq_true h]
  rfl

theorem chkScratch_misaligned {x n align : Nat} (h : x + n ≤ 0x400000) (ha : x % align ≠ 0) : chkScratch x n align = some (pageFault 5 x) := by
  rw [chkScratch, decide_eq_false (Nat.not_lt.2 h), decide_eq_true ha]
  rfl

theorem scratchLoads : ScratchLoads := by
  intro ty wait clear d a imm s w x y byte
  refine ⟨fun hx hs hc => ⟨_, ld_passes hx ⟨hs, hc⟩, fun i hi => ?_⟩, fun hy hs hc => ?_, fun h => ld_traps (chkScratch_range h),
    fun h ha => ld_traps (chkScratch_misaligned h ha)⟩
  · have hbyte (j : Nat) (hj : j < w) : (s.scr x w).getD j 0 = byte (x + j) := by
      rw [List.getD_eq_getElem?_getD]
      exact congrArg (Option.getD · 0) (readB_get _ _ _ _ hj)
    have hw : 0 < w := (tyBytes_bounds ty).1
    have hbits := extendTy_getLsbD (ty := ty) (bs := s.scr x w) (readB_length _ _ _) hi
    refine hbits.trans ?_
    change (if i < 8 * w then _ else _ && ((s.scr x w).getD (w - 1) 0).msb) = _
    rw [hbyte (w - 1) (Nat.sub_lt hw Nat.one_pos), ← Nat.add_sub_assoc hw]
    split
    · rw [hbyte _ (by omega)]
    · rfl
  · have h := vld_passes (d := d) hy ⟨hs, hc⟩
    rw [State.scr, cells_readB] at h
    exact h

theorem scratchStores : ScratchStores := by
  intro ty d a b imm s w x y z n gs
  refine ⟨fun hx => ?_, fun hy hd => ?_, fun hz h16 hmin hmax => ?_⟩
  · rw [st_passes hx, cells_bytesOf]
    rfl
  · rw [vst_passes hy hd, cells_readB]
    rfl
  · have hg : gs = unitsOf 16 z n := (unitsOf_granules hz.2 h16).symm
    change execFeset a b s = _ ∧ execFeclr a b s = _
    rw [execFeset, execFeclr, chkRange_none hz h16 hmin hmax, hg]
    exact ⟨rfl, rfl⟩

end Sys2Proof.Machine

open Sys2Proof Sys2Proof.Machine

/-- Settles O22: `scratchLoads` and `scratchStores`, its two parts. -/
theorem scratchLoadsAndStores : Obligations.ScratchLoadsAndStores := ⟨scratchLoads, scratchStores⟩

end

section
/-! PROOF. Strided and tile moves between scratch and rows (13 R213, R237, R238). -/

namespace Sys2Proof.Machine

open Sys2Proof

/-! ## Strided moves (R237) -/

/-- Lanes and rows of a strided move of n rows, lane by lane. -/
def laneRows (n : Nat) : List (Nat × Nat) := (List.range 64).flatMap (fun l => (List.range n).map (fun j => (l, j)))

theorem colAddrs_eq (base pitch n : Nat) :
    colAddrs base pitch n = (laneRows n).map (fun e => (base + 64 * pitch * e.1 + 4 * e.2, e.1, e.2)) := by
  simp only [colAddrs, laneRows, map_span, List.map_flatMap, List.map_map, ← List.flatMap_def, Nat.zero_add, Function.comp_def]

section
variable {wait clear : Bool} {d a cnt : Reg} {s : State}

theorem chkCols_none (hd : d.toNat + cntOf cnt ≤ 64) (ha : ∀ e ∈ s.cols a cnt, ScratchOk e.1 4 4) : s.chkCols d a cnt = none := by
  rw [State.chkCols, decide_eq_false (Nat.not_lt.2 hd), chkScratchAll_none (List.forall_mem_map.2 ha)]
  rfl

theorem vldm_passes (hc : s.chkCols d a cnt = none)
    (hr : ∀ e ∈ s.cols a cnt, SealsOk s e.1 4 ∧ ClearOk s wait clear e.1 4) :
    exec (.vldm wait clear d a cnt) s = .next ((s.readLines clear ((s.cols a cnt).map (fun e => (e.1, 4)))).pend (8 + s.cur.beats)
      [s.arenaW ((s.cols a cnt).flatMap (fun e => cells (s.rowAt (d.toNat + e.2.2) + 4 * e.2.1) (s.scr e.1 4)))] 0
      ((s.cols a cnt).map (fun e => .arena e.1 (s.rowAt (d.toNat + e.2.2) + 4 * e.2.1) 4))) := by
  change execVldm wait clear d a cnt s = _
  rw [execVldm, hc, chkRead_none (List.forall_mem_map.2 hr), List.flatMap_def]
  rfl

theorem vstm_passes (hc : s.chkCols d a cnt = none) (hd : d.toNat + cntOf cnt ≤ 64)
    (hr : ∀ r : Reg, d.toNat ≤ r.toNat → r.toNat < d.toNat + cntOf cnt → RowOk s r) :
    exec (.vstm d a cnt) s = .next (s.landAt (4 + s.cur.wbeats)
      ((s.cols a cnt).flatMap (fun e => cells e.1 (readB s.here.arena (s.rowAt (d.toNat + e.2.2) + 4 * e.2.1) 4)))) := by
  have hrows : s.chkRows (span d.toNat (cntOf cnt)) = none := by
    refine (chkRows_eq_none _ _).2 fun r hm i hi => ?_
    obtain ⟨h1, h2⟩ := mem_span.1 hm
    have he : (BitVec.ofNat 6 r).toNat = r := Nat.mod_eq_of_lt (by omega)
    have h := hr (BitVec.ofNat 6 r) (by omega) (by omega) i hi
    rwa [he] at h
  change execVstm d a cnt s = _
  rw [execVstm, hc, hrows, List.flatMap_def]
  rfl

end

/-! ## Tile moves (R238) -/

section
variable {wait clear : Bool} {tv : BitVec 4} {a : Reg} {imm : Imm} {s : State} {v : View}

/-- A well-formed entry and a view within its limits pass (07 R108). -/
theorem chkView_none (hb : (tidOf (s.tid v.tid.toNat)).bad = 0) (hf : v.fits (tidOf (s.tid v.tid.toNat)) = true) : s.chkView v = none := by
  rw [State.chkView, State.chkTid, hb, hf]
  rfl

theorem tileRows_eq (s : State) (v : View) (x : Nat) : s.tileRows v x =
    (List.range v.rows.toNat).map (fun i => (v.row i, x + 64 * (tidOf (s.tid v.tid.toNat)).pitch * i)) := by
  rw [State.tileRows, map_span]
  simp only [Nat.zero_add]

theorem chkTile_none (hv : s.chkView (s.tileView tv) = none)
    (hx : ∀ p ∈ s.tileRows (s.tileView tv) (s.tldAddr a imm), ScratchOk p.2 (s.tileRb (s.tileView tv)) 64) : s.chkTile tv a imm = none := by
  rw [State.chkTile, hv, chkScratchAll_none (List.forall_mem_map.2 hx)]
  rfl

theorem tld_passes (hc : s.chkTile tv a imm = none)
    (hr : ∀ p ∈ s.tileRows (s.tileView tv) (s.tldAddr a imm),
      SealsOk s p.2 (s.tileRb (s.tileView tv)) ∧ ClearOk s wait clear p.2 (s.tileRb (s.tileView tv))) :
    let rb := s.tileRb (s.tileView tv)
    let rows := s.tileRows (s.tileView tv) (s.tldAddr a imm)
    exec (.tld wait clear tv a imm) s = .next ((s.readLines clear (rows.map (fun p => (p.2, rb)))).pend (8 + s.cur.beats)
      [s.arenaW (rows.flatMap (fun p => cells p.1 (s.scr p.2 rb)))] 0 (rows.map (fun p => .arena p.2 p.1 rb))) := by
  intro rb rows
  change execTld wait clear tv a imm s = _
  rw [execTld, hc, chkRead_none (List.forall_mem_map.2 hr), List.flatMap_def]
  rfl

theorem tst_passes (hc : s.chkTile tv a imm = none)
    (hr : ∀ p ∈ s.tileRows (s.tileView tv) (s.tldAddr a imm), s.chkArena p.1 (s.tileRb (s.tileView tv)) = none) :
    exec (.tst tv a imm) s = .next (s.landAt (4 + s.cur.wbeats) ((s.tileRows (s.tileView tv) (s.tldAddr a imm)).flatMap
      (fun p => cells p.2 (readB s.here.arena p.1 (s.tileRb (s.tileView tv)))))) := by
  have hall : firstTrap ([s.chkTile tv a imm] ++ (s.tileRows (s.tileView tv) (s.tldAddr a imm)).map
      (fun p => s.chkArena p.1 (s.tileRb (s.tileView tv)))) = none :=
    firstTrap_eq_none.2 (List.forall_mem_append.2 ⟨List.forall_mem_singleton.2 hc, List.forall_mem_map.2 hr⟩)
  change execTst tv a imm s = _
  simp only [execTst, hall, checked_none, List.flatMap_def]

end

end Sys2Proof.Machine

open Sys2Proof Sys2Proof.Machine

/-- Settles O16: the addresses of each move in the model's order, then `vldm_passes`, `vstm_passes`, `tld_passes` and `tst_passes`. -/
theorem stridedAndTileMoves : Obligations.StridedAndTileMoves := by
  intro wait clear d a cnt tv imm s n at_ es as v t rb rows ts good
  have hcols : s.cols a cnt = es.map (fun e => (at_ e.1 e.2, e.1, e.2)) := colAddrs_eq _ _ _
  have hrows : s.tileRows (s.tileView tv) (s.tldAddr a imm) = rows := tileRows_eq _ _ _
  refine ⟨fun hd ha => ?_, fun hb hf hx => ?_⟩
  · have hc : s.chkCols d a cnt = none := by
      refine chkCols_none hd ?_
      rw [hcols]
      exact List.forall_mem_map.2 (List.forall_mem_map.1 ha)
    refine ⟨fun hr => ?_, fun hr => ?_⟩
    · have h := vldm_passes (wait := wait) (clear := clear) hc (by
        rw [hcols]
        exact List.forall_mem_map.2 (List.forall_mem_map.1 hr))
      rw [hcols, List.map_map, List.map_map, List.flatMap_map] at h
      exact h
    · have h := vstm_passes hc hd hr
      rw [hcols, List.flatMap_map] at h
      exact h
  · have hc : s.chkTile tv a imm = none := chkTile_none (chkView_none hb hf) (by rw [hrows]; exact hx)
    refine ⟨fun hr => ?_, fun hr => ?_⟩
    · have h := tld_passes (wait := wait) (clear := clear) hc (by
        rw [hrows]
        exact List.forall_mem_map.1 hr)
      rw [hrows] at h
      exact h
    · have h := tst_passes hc (by
        rw [hrows]
        exact fun p hp => (chkArena_eq_none _ _ _).2 (hr p hp))
      rw [hrows] at h
      exact h

end

section
/-! PROOF. Scratch atomics at issue and at their bank (13 R241), and the binding, status and consumption of return streams (13 R242 to R244). -/

namespace Sys2Proof.Machine

open Sys2Proof

/-! ## Atomics (R241) -/

/-- The atomic that atom sends to its bank. -/
def State.bankAtomic (s : State) (i32 : Bool) (op : BitVec 4) (q : BitVec 3) (a b : Reg) : BankAtomic :=
  { a := (s.g a).toNat, n := if i32 then 4 else 8, op := op, b := s.g b, c := s.g (b + 1), core := s.cur.core, q := q.toNat,
    slot := (s.reserve q.toNat).1 }

theorem atom_passes {i32 : Bool} {op : BitVec 4} {q : BitVec 3} {a b : Reg} {s : State}
    (hx : ScratchOk (s.g a).toNat (if i32 then 4 else 8) (if i32 then 4 else 8))
    (hroom : s.e.bound q.toNat = true → (s.e.stream q.toNat).length < 32) :
    exec (.atom i32 op q a b) s = .next ((s.reserve q.toNat).2.landAt 4 [] none [] [] (some (s.bankAtomic i32 op q a b))) := by
  change execAtom i32 op q a b s = _
  rw [execAtom, chkScratch_none hx, chkSlot_none hroom]
  rfl

/-- Where an atomic is performed its cells hold the value of its operation, or it writes none. -/
theorem cellsIn_atomic {d : Landing} {t : BankAtomic} (h : d.atomic = some t) (y : Cluster) : d.cellsIn y =
    match atomicWrites t.op.toNat t.n (natOf (readB y.scratch t.a t.n)) (t.b.toNat % 2 ^ (8 * t.n)) (t.c.toNat % 2 ^ (8 * t.n)) with
    | none => []
    | some v => cells t.a (bytesOf t.n v) := by
  rw [Landing.cellsIn, h]
  rfl

/-! ## Streams bound and unbound (R243) -/

/-- Unbinding leaves no slot of its stream. -/
@[simp] theorem stream_unbind (e : CoreE) (q p : Nat) : (e.unbind q).stream p = if p = q then [] else e.stream p :=
  tget_tset [] e.q q p []

@[simp] theorem bound_unbind (e : CoreE) (q p : Nat) : (e.unbind q).bound p = if p = q then false else e.bound p := by
  rw [Bool.eq_iff_iff]
  simp only [CoreE.bound, CoreE.unbind, List.contains_iff_mem, List.mem_filter, decide_eq_true_eq]
  split <;> simp_all

/-- The streams after qD is bound as an empty one. -/
theorem sbind_next {q : BitVec 3} {a : Reg} {s : State} (h : bitsOf (s.g a) 63 62 = 0) : exec (.sbind q a) s =
    .next (s.modHereE (fun e => { e.unbind q.toNat with qBound := (e.unbind q.toNat).qBound ++ [q.toNat] })) := by
  change execSbind q a s = _
  rw [execSbind, decide_eq_false (not_not.2 h)]
  rfl

theorem bound_append (e : CoreE) (q p : Nat) : ({ e with qBound := e.qBound ++ [q] } : CoreE).bound p = (e.bound p || p == q) := by
  rw [Bool.eq_iff_iff]
  simp [CoreE.bound]

/-! ## Status (R244) -/

/-- The head of a stream, once landed, is taken where there is room among the slots consumed (R242). -/
theorem sstatVal_next {d : Reg} {q : BitVec 3} {s : State} {i : Nat} {v : Word}
    (hv : (headSlot (s.e.stream q.toNat)).bind (fun x => x.val.map (fun v => (x.id, v))) = some (i, v)) (hb : s.e.bound q.toNat = true)
    (hroom : usedSlots (s.e.stream q.toNat) < 16) : exec (.sstatVal d q) s =
    .next ((s.modHereE (fun e => e.setStream q.toNat (useSlot i s.cur.sec s.ord (e.stream q.toNat)))).wrG d v 2) := by
  change execSstatVal d q s = _
  simp only [execSstatVal, hv, hb, decide_eq_false (show ¬16 < usedSlots (s.e.stream q.toNat) + 1 by omega)]
  rfl

/-- The status word of a stream: bound, slots consumed, slots landed and not consumed. -/
theorem sstatQ_word (b : Bool) (used landed : Nat) : wordN ((if b then 2 ^ 63 else 0) + used * 256 + landed) =
    (if b then (1 : Word) <<< 63 else 0) + BitVec.ofNat 64 (256 * used + landed) := by
  rw [wordN, Nat.add_assoc, BitVec.ofNat_add, Nat.mul_comm]
  cases b <;> rfl

end Sys2Proof.Machine

open Sys2Proof Sys2Proof.Machine

/-- Settles O17: `atom_passes` at issue and `cellsIn_atomic` at the bank. -/
theorem scratchAtomics : Obligations.ScratchAtomics := by
  intro i32 op q a b s n x hx hroom
  exact ⟨s.bankAtomic i32 op q a b, atom_passes hx hroom, reserve_fst s q.toNat, rfl, rfl, fun y d hd => cellsIn_atomic hd y⟩

/-- Settles O19: what binding and unbinding leave of each stream, and the word of each status op. -/
theorem returnStreams : Obligations.ReturnStreams := by
  intro q e d a s l c
  refine ⟨fun h => ⟨_, sbind_next h, ?_, ?_, fun p hp => ?_⟩, ⟨_, rfl, ?_, ?_, fun p hp => ?_⟩, fun i v hv hb hroom => sstatVal_next hv hb hroom,
    ?_, rfl, rfl, rfl⟩
  · rw [e_modHereE, bound_append, beq_self_eq_true, Bool.or_true]
  · rw [e_modHereE]
    exact (stream_unbind _ _ _).trans (if_pos rfl)
  · rw [e_modHereE, bound_append, bound_unbind, if_neg hp, beq_eq_false_iff_ne.2 hp, Bool.or_false]
    exact ⟨(stream_unbind _ _ _).trans (if_neg hp), rfl⟩
  · rw [e_modHereE, bound_unbind, if_pos rfl]
  · rw [e_modHereE, stream_unbind, if_pos rfl]
  · rw [e_modHereE, stream_unbind, bound_unbind, if_neg hp, if_neg hp]
    exact ⟨rfl, rfl⟩
  · rw [← sstatQ_word]
    rfl

end

section
/-! PROOF. Global transfers and the pieces into which they are cut (13 R227, R245). -/

namespace Sys2Proof.Machine

open Sys2Proof

/-! ## Pieces (R227) -/

/-- Pieces from off on that follow one another for n bytes, each within a line at a and at b. -/
structure Tiles (a b off n : Nat) (ps : List (Nat × Nat)) : Prop where
  covers : ∀ i, off ≤ i → i < off + n → ∃ p ∈ ps, p.1 ≤ i ∧ i < p.1 + p.2
  within : ∀ p ∈ ps, 0 < p.2 ∧ off ≤ p.1 ∧ p.1 + p.2 ≤ off + n ∧
    (a + p.1) / 64 = (a + p.1 + p.2 - 1) / 64 ∧ (b + p.1) / 64 = (b + p.1 + p.2 - 1) / 64
  apart : ps.Pairwise (fun p q => p.1 + p.2 ≤ q.1)

theorem Tiles.nil (a b off : Nat) : Tiles a b off 0 [] :=
  ⟨fun i h1 h2 => by omega, fun p hp => absurd hp List.not_mem_nil, .nil⟩

/-- A first piece of k bytes that ends before either line does, then the rest. -/
theorem Tiles.cons {a b off n k : Nat} {ps : List (Nat × Nat)} (hk : 0 < k) (hn : k ≤ n) (ha : k ≤ 64 - (a + off) % 64)
    (hb : k ≤ 64 - (b + off) % 64) (h : Tiles a b (off + k) (n - k) ps) : Tiles a b off n ((off, k) :: ps) where
  covers i h1 h2 := by
    by_cases hi : i < off + k
    · exact ⟨_, List.mem_cons_self, h1, hi⟩
    · obtain ⟨p, hp, hi⟩ := h.covers i (by omega) (by omega)
      exact ⟨p, List.mem_cons_of_mem _ hp, hi⟩
  within p hp := by
    obtain rfl | hp := List.mem_cons.1 hp
    · exact ⟨hk, le_rfl, by dsimp only; omega, by dsimp only; omega, by dsimp only; omega⟩
    · obtain ⟨h1, h2, h3, h4⟩ := h.within p hp
      exact ⟨h1, by omega, by omega, h4⟩
  apart := List.pairwise_cons.2 ⟨fun p hp => (h.within p hp).2.1, h.apart⟩

/-- The ends of lines that n bytes from x on pass: a cut is made at each. -/
def lineEnds (x n : Nat) : Nat := (x + n - 1) / 64 - x / 64

/-- What a first piece within its line leaves of the ends: one less where it reaches the end of its line. -/
theorem lineEnds_rest {x n k : Nat} (hk : k ≤ 64 - x % 64) (hn : k < n) :
    lineEnds (x + k) (n - k) + (if k = 64 - x % 64 then 1 else 0) = lineEnds x n := by
  unfold lineEnds
  split <;> omega

theorem min_min_spec (n x y : Nat) :
    min n (min x y) ≤ n ∧ min n (min x y) ≤ x ∧ min n (min x y) ≤ y ∧ (min n (min x y) = n ∨ min n (min x y) = x ∨ min n (min x y) = y) := by
  omega

/-- A count of cuts above the ends of lines at either address cuts all n bytes. -/
theorem cutLines_tiles {a b f off n : Nat} (hf : lineEnds (a + off) n + lineEnds (b + off) n < f) : Tiles a b off n (cutLines a b f off n) := by
  induction f generalizing off n with
  | zero => exact absurd hf (Nat.not_lt_zero _)
  | succ f ih =>
    rw [cutLines]
    split
    · subst_vars; exact .nil a b off
    · rename_i hn
      obtain ⟨hkn, hka, hkb, hmin⟩ := min_min_spec n (64 - (a + off) % 64) (64 - (b + off) % 64)
      generalize min n (min _ _) = k at *
      have hk : 0 < k := by omega
      refine .cons hk hkn hka hkb ?_
      by_cases hlast : k = n
      · rw [hlast, Nat.sub_self]
        cases f <;> exact .nil a b _
      · have ha := lineEnds_rest hka (lt_of_le_of_ne hkn hlast)
        have hb := lineEnds_rest hkb (lt_of_le_of_ne hkn hlast)
        refine ih ?_
        rw [← Nat.add_assoc, ← Nat.add_assoc]
        split at ha <;> split at hb <;> omega

theorem cuts_tiles (a b n : Nat) : Tiles a b 0 n (cuts a b n) :=
  cutLines_tiles (by simp only [lineEnds]; omega)

theorem transferPieces : TransferPieces := by
  intro a b n
  obtain ⟨hcov, hin, hap⟩ := cuts_tiles a b n
  refine ⟨fun i hi => hcov i (Nat.zero_le i) (by omega), fun p hp => ?_, hap⟩
  obtain ⟨h1, -, h3, h4⟩ := hin p hp
  exact ⟨h1, by omega, h4⟩

/-! ## gget and gput (R245) -/

theorem tlbFill_cur (s : State) (cl : Option Nat) (ctx va : Nat) : (s.tlbFill cl ctx va).cur = s.cur := by
  unfold State.tlbFill; split <;> rfl

/-- The pieces of a transfer, each of one source; the lines are those of the state with its translation held. -/
theorem globLines_ends (s : State) (cl : Option Nat) (ctx page scr va n : Nat) (put : Bool) :
    ((s.tlbFill cl ctx page).globLines scr va n put).map (fun l => (l.dst, l.segs)) = (cuts scr va n).map (fun p =>
      let x : End := .scratch s.cur.cl (scr + p.1)
      let y : End := .glob (va + p.1)
      if put then (y, [Seg.src x p.2]) else (x, [Seg.src y p.2])) := by
  rw [State.globLines, numLines_ends, tlbFill_cur]

section
variable {d a b : Reg} {s : State}

theorem chkGlobal_none {scr va n : Nat} {acc : Access} {lf : Leaf} (hs : ScratchOk scr n 16) (h16 : n % 16 = 0) (hmax : n ≤ 0x100000)
    (hva : va % 16 = 0) (hx : s.xlate (some s.cur.cl) s.hereCtxId va acc = .ok lf) : s.chkGlobal scr va n acc = none := by
  rw [State.chkGlobal, chkScratch_none hs, decide_eq_false (show ¬(n % 16 ≠ 0 ∨ 0x100000 < n) by omega), decide_eq_false (not_not.2 hva), hx]
  rfl

theorem gget_passes (hn : (s.g b).toNat ≠ 0) (hc : s.chkGlobal (s.g d).toNat (s.g a).toNat (s.g b).toNat .read = none) :
    let s1 := s.tlbFill (some s.cur.cl) s.hereCtxId (s.g a).toNat
    exec (.gget d a b) s =
      .next (s1.addXfer (s1.xferOf .gget (s1.globLines (s.g d).toNat (s.g a).toNat (s.g b).toNat false) (s.g b).toNat)) := by
  change execGget d a b s = _
  rw [execGget, if_neg hn, hc]
  rfl

theorem gput_passes (hn : (s.g b).toNat ≠ 0) (hc : s.chkGlobal (s.g a).toNat (s.g d).toNat (s.g b).toNat .write = none) :
    let s1 := s.tlbFill (some s.cur.cl) s.hereCtxId (s.g d).toNat
    exec (.gput d a b) s =
      .next (s1.addXfer (s1.xferOf .gput (s1.globLines (s.g a).toNat (s.g d).toNat (s.g b).toNat true) (s.g b).toNat)) := by
  change execGput d a b s = _
  rw [execGput, if_neg hn, hc]
  rfl

end

theorem globalTransfers : GlobalTransfers := by
  intro d a b s lf n start
  refine ⟨fun hn => ⟨if_pos hn, if_pos hn⟩, fun hn h16 hmax hs hva hx => ?_, fun hn h16 hmax hs hva hx => ?_⟩
  · refine ⟨_, gget_passes hn (chkGlobal_none hs h16 hmax hva hx), _, rfl, globLines_ends _ _ _ _ _ _ _ _⟩
  · refine ⟨_, gput_passes hn (chkGlobal_none hs h16 hmax hva hx), _, rfl, globLines_ends _ _ _ _ _ _ _ _⟩

end Sys2Proof.Machine

open Sys2Proof Sys2Proof.Machine

/-- Settles O23: `globalTransfers` and `transferPieces`, its two parts. -/
theorem globalCopies : Obligations.GlobalCopies := ⟨globalTransfers, transferPieces⟩

end

section
/-! PROOF. Capabilities loaded, stored, derived and checked (13 R234, R251 to R253, 23 R373). -/

namespace Sys2Proof.Machine

open Sys2Proof

/-! ## Loads and stores of capabilities (R251) -/

section
variable {k kb : BitVec 4} {a b : Reg} {s : State}

theorem capld_passes (hx : ScratchOk (s.g a).toNat 16 16) (ht : tget false s.hereCl.capTag ((s.g a).toNat / 16) = true)
    (hs : SealsOk s (s.g a).toNat 16) : exec (.capld k a) s = .next ((s.readLines false [((s.g a).toNat, 16)]).pend 5
      [.k k.toNat { bits := BitVec.ofNat 128 (natOf (s.scr (s.g a).toNat 16)), tag := true }]) := by
  change execCapld k a s = _
  rw [execCapld, chkScratch_none hx, ht, chkSeals_none fun p hp => List.mem_singleton.1 hp ▸ hs]
  rfl

theorem capst_passes (hx : ScratchOk (s.g a).toNat 16 16) (ht : (s.k k.toNat).tag = true) : exec (.capst k a) s =
    .next (s.landAt 3 (cells (s.g a).toNat (bytesOf 16 (s.k k.toNat).bits.toNat)) (some ((s.g a).toNat / 16))) := by
  change execCapst k a s = _
  rw [execCapst, chkScratch_none hx, ht]
  rfl

/-! ## Derivation (R252) -/

/-- What capder makes of a parent: its object, the rights that both have, the new base and length. -/
def Cap.derive (p : Cap) (off : Nat) (rights : BitVec 8) (len : BitVec 32) : Cap :=
  { bits := p.object ++ (p.bits.extractLsb' 80 8 &&& rights) ++ BitVec.ofNat 48 (p.base + off) ++ len, tag := true }

theorem capder_passes (ht : (s.k kb.toNat).tag = true) (hr : (s.k kb.toNat).right 5 = true) (ha : (s.g a).toNat % 256 = 0)
    (hl : bitsOf (s.g b) 31 0 ≠ 0) (hin : (s.g a).toNat + 256 * bitsOf (s.g b) 31 0 ≤ (s.k kb.toNat).len) :
    exec (.capder k kb a b) s = .next (s.pend 2 [.k k.toNat
      ((s.k kb.toNat).derive (s.g a).toNat ((s.g b).extractLsb' 32 8) ((s.g b).truncate 32))]) := by
  change execCapder k kb a b s = _
  rw [execCapder, ht, hr, decide_eq_false (by omega)]
  rfl

section
variable (p : Cap) (off : Nat) (rights : BitVec 8) (len : BitVec 32)

theorem derive_object : (p.derive off rights len).bits.extractLsb' 88 40 = p.bits.extractLsb' 88 40 := by
  change (p.object ++ (p.bits.extractLsb' 80 8 &&& rights) ++ BitVec.ofNat 48 (p.base + off) ++ len).extractLsb' 88 40 = p.object
  rw [BitVec.extractLsb'_append_eq_of_le (by decide), BitVec.extractLsb'_append_eq_of_le (by decide), BitVec.extractLsb'_append_eq_of_le (by decide)]
  exact BitVec.extractLsb'_eq_self

theorem derive_rights : (p.derive off rights len).bits.extractLsb' 80 8 = (p.bits.extractLsb' 80 8 &&& rights) := by
  change (p.object ++ (p.bits.extractLsb' 80 8 &&& rights) ++ BitVec.ofNat 48 (p.base + off) ++ len).extractLsb' 80 8 = _
  rw [BitVec.extractLsb'_append_eq_of_le (by decide), BitVec.extractLsb'_append_eq_of_le (by decide),
    BitVec.extractLsb'_append_eq_of_add_le (by decide)]
  exact BitVec.extractLsb'_eq_self

theorem derive_base : (p.derive off rights len).bits.extractLsb' 32 48 = p.bits.extractLsb' 32 48 + BitVec.ofNat 48 off := by
  change (p.object ++ (p.bits.extractLsb' 80 8 &&& rights) ++ BitVec.ofNat 48 (p.base + off) ++ len).extractLsb' 32 48 = _
  rw [BitVec.extractLsb'_append_eq_of_le (by decide), BitVec.extractLsb'_append_eq_of_add_le (by decide), BitVec.extractLsb'_eq_self,
    BitVec.ofNat_add, Cap.base, BitVec.ofNat_toNat, BitVec.setWidth_eq]

theorem derive_len : (p.derive off rights len).bits.extractLsb' 0 32 = len := by
  change (p.object ++ (p.bits.extractLsb' 80 8 &&& rights) ++ BitVec.ofNat 48 (p.base + off) ++ len).extractLsb' 0 32 = _
  rw [BitVec.extractLsb'_append_eq_of_add_le (by decide)]
  exact BitVec.extractLsb'_eq_self

end

/-! ## Checks of rights (R253) -/

/-- A field of a word, and a bit of it. -/
theorem bitsOf_bit {w : Word} {hi lo r : Nat} (h : lo + r ≤ hi) : bitsOf w hi lo / 2 ^ r % 2 = 1 ↔ w.getLsbD (lo + r) = true := by
  rw [bitsOf, BitVec.getLsbD, ← decide_eq_true_iff (p := _ = 1), ← Nat.testBit_eq_decide_div_mod_eq, Nat.testBit_mod_two_pow,
    decide_eq_true (show r < hi + 1 - lo by omega), Bool.true_and, Nat.testBit_div_two_pow, Nat.add_comm]

/-- CAPCHECK of a capability that passes, whatever kind of object it names (R234). -/
theorem capCheck_any {j off n right : Nat} {c : Cap} (h : CapOk c off n right) : capCheck j c off n right none = none := by
  obtain ⟨htag, hright, hlen⟩ := h
  have hr : c.right right = true := hright
  have hl : ¬c.len < off + n := Nat.not_lt.2 hlen
  simp [capCheck, htag, hr, hl]

theorem capCheck_lacks {j off n right : Nat} {c : Cap} (ht : c.tag = true) (hr : c.right right = false) :
    capCheck j c off n right none = some (capTrap j 2 off) := by
  rw [capCheck, ht, hr]
  rfl

/-- The first of some numbered checks that fails. -/
theorem firstTrap_span {f : Nat → Option TrapRec} {a n i : Nat} {r : TrapRec} (hi : i < n) (h : f (a + i) = some r)
    (hb : ∀ j, j < i → f (a + j) = none) : firstTrap ((span a n).map f) = some r := by
  induction n generalizing a i with
  | zero => exact absurd hi (Nat.not_lt_zero i)
  | succ n ih =>
    rw [span, List.map_cons]
    cases i with
    | zero => rw [show f a = some r from h, firstTrap_some]
    | succ i =>
      rw [show f a = none from hb 0 (Nat.succ_pos i), firstTrap_none]
      refine ih (i := i) (by omega) ?_ fun j hj => ?_
      · rw [Nat.add_assoc, Nat.add_comm 1]; exact h
      · rw [Nat.add_assoc, Nat.add_comm 1]; exact hb (j + 1) (by omega)

/-- The check of one right that capchk asks for. -/
def State.chkRight (s : State) (k : BitVec 4) (a b : Reg) (r : Nat) : Option TrapRec :=
  if (s.g b).getLsbD (56 + r) = true then capCheck k.toNat (s.k k.toNat) (s.g a).toNat ((s.g b).truncate 48 : BitVec 48).toNat r none else none

theorem capchk_eq (s : State) (k : BitVec 4) (a b : Reg) :
    exec (.capchk k a b) s = s.checked (firstTrap ((span 0 8).map (s.chkRight k a b))) id := by
  have hchecks : (span 0 8).map (fun r => if bitsOf (s.g b) 63 56 / 2 ^ r % 2 = 1 then
      capCheck k.toNat (s.k k.toNat) (s.g a).toNat (bitsOf (s.g b) 47 0) r none else none) = (span 0 8).map (s.chkRight k a b) := by
    refine List.map_congr_left fun r hr => ?_
    have hlen : bitsOf (s.g b) 47 0 = ((s.g b).truncate 48 : BitVec 48).toNat := by
      rw [bitsOf, Nat.pow_zero, Nat.div_one]
      exact (BitVec.toNat_setWidth _ _).symm
    rw [State.chkRight, hlen]
    exact if_congr (bitsOf_bit (by have := mem_span.1 hr; omega)) rfl rfl
  change execCapchk k a b s = _
  rw [execCapchk, hchecks]

end

end Sys2Proof.Machine

open Sys2Proof Sys2Proof.Machine

/-- Settles O20: `capld_passes`, `capst_passes`, `capder_passes` with the fields of the derived capability, and `capchk_eq`. -/
theorem capabilityResults : Obligations.CapabilityResults := by
  intro k kb a b s x c p len n
  have hlen : bitsOf (s.g b) 31 0 = len.toNat := by
    rw [bitsOf, Nat.pow_zero, Nat.div_one]
    exact (BitVec.toNat_setWidth _ _).symm
  refine ⟨fun hx ht hs => capld_passes hx ht hs, fun hx ht => ?_, fun ht hr ha hl hin => ?_, fun h => ?_, fun r hr8 ht hr hb hl => ?_⟩
  · rw [capst_passes hx ht, cells_bytesOf]
  · refine ⟨p.derive x ((s.g b).extractLsb' 32 8) len, capder_passes ht hr ha ?_ ?_, rfl, derive_object _ _ _ _, derive_rights _ _ _ _,
      derive_base _ _ _ _, derive_len _ _ _ _⟩
    · rw [hlen]
      exact fun h0 => hl (BitVec.eq_of_toNat_eq h0)
    · rw [hlen]
      exact hin
  · rw [capchk_eq, firstTrap_eq_none.2 (List.forall_mem_map.2 fun r hr => ?_)]
    · rfl
    · rw [State.chkRight]
      split
      · exact capCheck_any (h r (by have := mem_span.1 hr; omega) ‹_›)
      · rfl
  · rw [capchk_eq, firstTrap_span (i := r) hr8 (r := capTrap k.toNat 2 x)]
    · rfl
    · rw [Nat.zero_add, State.chkRight, if_pos hr]
      exact capCheck_lacks ht hl
    · intro j hj
      rw [Nat.zero_add, State.chkRight, if_neg (by rw [hb j hj]; decide)]

end

section
/-! PROOF. Requests of publication, and residency ops on the range of a handle (13 R224, R225, R255, R256). -/

namespace Sys2Proof.Machine

open Sys2Proof

/-! ## The context at the site of an instruction -/

/-- A context that runs on the cluster of the site, by its number. -/
theorem hereCtx_eq {s : State} {x : Context} (h : s.hereCtx = some x) : (s.cl s.cur.cl).ctx = some s.hereCtxId ∧ look s.ctxs s.hereCtxId = some x := by
  unfold State.hereCtx State.ctxOf at h
  split at h
  · cases h
  · rename_i n hn
    rw [State.hereCtxId, hn]
    exact ⟨rfl, h⟩

/-- A change of the context of the site is found there. -/
theorem hereCtx_modCtx {s : State} {x : Context} (h : s.hereCtx = some x) (f : Context → Context) :
    (s.modCtx s.hereCtxId f).hereCtx = some (f x) := by
  obtain ⟨hc, hl⟩ := hereCtx_eq h
  have hm : s.modCtx s.hereCtxId f = { s with ctxs := place s.ctxs s.hereCtxId (f x) } := by rw [State.modCtx, hl]
  have hctx : ((s.modCtx s.hereCtxId f).cl s.cur.cl).ctx = some s.hereCtxId := by rw [hm]; exact hc
  have hcur : (s.modCtx s.hereCtxId f).cur = s.cur := by rw [hm]
  rw [State.hereCtx, State.ctxOf, hcur, hctx]
  change look (s.modCtx s.hereCtxId f).ctxs s.hereCtxId = _
  rw [look_modCtx, if_pos rfl, hl]
  rfl

/-! ## Publication (R255) -/

/-- The request that publish makes for a buffer. -/
def State.pubReq (s : State) (sc : Scope) (a : Reg) : PubReq :=
  { ctx := s.hereCtxId, idx := (s.g a).toNat, scope := sc, cl := s.cur.cl, asked := s.fresh, tp := none, token := false }

section
variable {sc : Scope} {a b : Reg} {s : State} {x : Context} (hx : s.hereCtx = some x)
include hx

theorem publish_passes (hi : (s.g a).toNat < 64) (hv : bitOf (tget ({} : Quads) x.pubs (s.g a).toNat).q0 63 = true) :
    exec (.publish sc a) s = .next ({ s with pubReqs := s.pubReqs ++ [s.pubReq sc a] } : State).tick1 := by
  change execPublish sc a s = _
  simp only [execPublish, hx, hv, decide_eq_false (show ¬63 < (s.g a).toNat by omega)]
  rfl

/-! ## Residency (R224, R225, R256) -/

theorem handle_eq (i : Nat) : s.handle i = handleOf (tget {} x.handles i) := by rw [State.handle, hx]

theorem chkHandle_none (hi : (s.g a).toNat < 4096) (hv : (handleOf (tget {} x.handles (s.g a).toNat)).valid = true) : s.chkHandle a = none := by
  rw [State.chkHandle, handle_eq hx, hv, decide_eq_false (Nat.not_le.2 hi)]
  rfl

/-- An op on the range of a valid handle: the range is found, or entered absent. -/
theorem onRange_passes (hi : (s.g a).toNat < 4096) (hv : (handleOf (tget {} x.handles (s.g a).toNat)).valid = true) (f : Nat → State → State) :
    let r := s.rangeOf (s.partOfCtx s.hereCtxId) (handleOf (tget {} x.handles (s.g a).toNat))
    s.onRange a f = .next (f r.1 r.2) := by
  rw [← handle_eq hx, State.onRange, chkHandle_none hx hi hv]
  rfl

end

/-- Entering a range leaves the context of the site. -/
theorem rangeOf_hereCtxId (s : State) (part : Nat) (h : HandleE) : (s.rangeOf part h).2.hereCtxId = s.hereCtxId := by
  unfold State.rangeOf
  split <;> rfl

theorem bitsOf_eq_extract (w : Word) (hi lo : Nat) : bitsOf w hi lo = (w.extractLsb' lo (hi + 1 - lo)).toNat := by
  rw [bitsOf, BitVec.extractLsb'_toNat, Nat.shiftRight_eq_div_pow]

/-- A priority of four bits put into an entry is read back (R224). -/
theorem prio_set (q : Quads) (v : Word) :
    (handleOf { q with q0 := (q.q0 &&& ~~~wordN (15 * 2 ^ 58)) ||| ((v &&& 15) <<< 58) }).prio = bitsOf v 3 0 := by
  change bitsOf ((q.q0 &&& ~~~wordN (15 * 2 ^ 58)) ||| ((v &&& 15) <<< 58)) 61 58 = bitsOf v 3 0
  rw [bitsOf_eq_extract, bitsOf_eq_extract]
  refine congrArg BitVec.toNat (BitVec.eq_of_getLsbD_eq fun i hi => ?_)
  have hbits (i : Nat) (hi : i < 4) : (wordN (15 * 2 ^ 58)).getLsbD (58 + i) = true ∧ (15 : Word).getLsbD i = true := by
    decide +revert
  obtain ⟨hmask, h15⟩ := hbits i hi
  rw [BitVec.getLsbD_extractLsb', BitVec.getLsbD_extractLsb', BitVec.getLsbD_or, BitVec.getLsbD_and, BitVec.getLsbD_not, BitVec.getLsbD_shiftLeft,
    hmask, Nat.add_sub_cancel_left, BitVec.getLsbD_and, h15, Nat.zero_add]
  have h64 : 58 + i < 64 := by omega
  simp [h64]

theorem reshPrio_passes {a b : Reg} {s : State} {x : Context} (hx : s.hereCtx = some x) (hi : (s.g a).toNat < 4096)
    (hv : (handleOf (tget {} x.handles (s.g a).toNat)).valid = true) :
    ∃ t y, exec (.reshPrio a b) s = .next t ∧ t.hereCtx = some y ∧ (handleOf (tget {} y.handles (s.g a).toNat)).prio = bitsOf (s.g b) 3 0 := by
  change ∃ t y, execReshPrio a b s = .next t ∧ _ ∧ _
  rw [execReshPrio, chkHandle_none hx hi hv]
  refine ⟨_, _, rfl, hereCtx_modCtx hx _, ?_⟩
  rw [tget_tset_same]
  exact prio_set _ _

end Sys2Proof.Machine

open Sys2Proof Sys2Proof.Machine

/-- Settles O21: `publish_passes`, `reshPrio_passes`, and `onRange_passes` for each op on a handle's range. -/
theorem publicationAndResidency : Obligations.PublicationAndResidency := by
  intro sc a b s x hx i h r
  refine ⟨fun hi hv => ⟨s.pubReq sc a, publish_passes hx hi hv, rfl, rfl, rfl, rfl, rfl⟩, fun hi hv => ?_⟩
  have hrun (f : Nat → State → State) : s.onRange a f = .next (f r.1 r.2) := onRange_passes hx hi hv f
  have hid : r.2.hereCtxId = s.hereCtxId := rangeOf_hereCtxId _ _ _
  refine ⟨?_, ?_, reshPrio_passes hx hi hv, hrun fun i t => t.evict i false, hrun fun i t => t.evict i true,
    hrun fun i t => (t.promoteRange i).pumpResidency⟩
  · rw [← hid]
    exact hrun fun i t => t.modRange i fun y =>
      if y.pins.contains t.hereCtxId then y else { y with pins := y.pins ++ [t.hereCtxId], pendingEvict := none }
  · rw [← hid]
    exact hrun fun i t => (t.modRange i fun y => { y with pins := y.pins.filter (· ≠ t.hereCtxId) }).evictPending i

end

section
/-! PROOF. Leases requested, renewed and released (13 R250, 23 R379, R380, log entry 82). -/

namespace Sys2Proof.Machine

open Sys2Proof

/-! ## The leases of a context after a request (R380) -/

/-- The lease that a request enters, not granted yet. -/
def Lease.asks (c : Cap) (off : Nat) (gb : Word) : Lease :=
  { cap := c, off := off, object := c.object, addr := c.addr off, opnd := gb, granted := none, expiry := 0, asked := 1 }

/-- The leases of a context once a lease is requested: those with its object, offset and range are renewed in place, or it is entered. -/
def leasesAsked (known : Bool) (c : Cap) (off : Nat) (gb : Word) (ls : List Lease) : List Lease :=
  if known then ls.map (fun l => if l.same c.object off gb then { l with asked := l.asked + 1 } else l) else ls ++ [Lease.asks c off gb]

theorem asks_same (c : Cap) (off : Nat) (gb : Word) : (Lease.asks c off gb).same c.object off gb = true := by
  simp [Lease.same, Lease.asks]

/-- The list holds the lease, requested. -/
theorem leasesAsked_holds (c : Cap) (off : Nat) (gb : Word) (ls : List Lease) :
    ∃ l ∈ leasesAsked (ls.any (fun l => l.same c.object off gb)) c off gb ls, l.same c.object off gb = true ∧ 0 < l.asked := by
  unfold leasesAsked
  split
  · rename_i h
    obtain ⟨l, hl, hs⟩ := List.any_eq_true.1 h
    exact ⟨{ l with asked := l.asked + 1 }, List.mem_map.2 ⟨l, hl, if_pos hs⟩, hs, Nat.succ_pos _⟩
  · exact ⟨_, List.mem_append_right _ (List.mem_singleton_self _), asks_same c off gb, Nat.one_pos⟩

theorem leasesAsked_length (known : Bool) (c : Cap) (off : Nat) (gb : Word) (ls : List Lease) :
    (leasesAsked known c off gb ls).length = ls.length + (if known then 0 else 1) := by
  unfold leasesAsked
  split
  · exact List.length_map _
  · exact List.length_append

/-! ## The ops (R250) -/

/-- A table that a lease enters has room, which one known already does not need. -/
theorem known_or_room {known : Bool} {full : Prop} [Decidable full] (h : known = true ∨ ¬full) : (!known && decide full) = false := by
  obtain rfl | h := h
  · rfl
  · rw [decide_eq_false h, Bool.and_false]

section
variable {k : BitVec 4} {a b : Reg} {s : State} {y : Context} (hy : s.hereCtx = some y) (hf : s.pool.fenced = false)
include hy

theorem myLeases_eq : s.myLeases = y.leases := by rw [State.myLeases, hy]

include hf

/-- The state once the context's leases are those after a request, which is sent with the offset of element 0. -/
theorem lease_passes (hrange : bitsOf (s.g b) 63 48 ≠ 0 ∧ bitsOf (s.g b) 23 16 ≠ 0)
    (hcap : CapOk (s.k k.toNat) (s.g a).toNat (bitsOf (s.g b) 47 24 * (bitsOf (s.g b) 63 48 - 1) + bitsOf (s.g b) 23 16) 4)
    (hkind : (s.k k.toNat).kind = 0) (hclock : s.clock.state ≠ 2)
    (hroom : y.leases.any (fun l => l.same (s.k k.toNat).object (s.g a).toNat (s.g b)) = true ∨
      (y.leases.length < 64 ∧ ((s.ctxs.map (fun p => p.2.leases)).flatten).length < 4096)) :
    let c := s.k k.toNat
    let off := (s.g a).toNat
    let s1 := s.modCtx s.hereCtxId (fun z =>
      { z with leases := leasesAsked (y.leases.any (fun l => l.same c.object off (s.g b))) c off (s.g b) z.leases })
    exec (.lease k a b) s = .next (s1.addReq
      { s1.newReq kLease 4 c.object (c.addr off) 0 (.lease s1.hereCtxId) with arg0 := s.g b, arg1 := wordN off }).pumpPool := by
  intro c off s1
  have hfull : decide (bitsOf (s.g b) 63 48 = 0 ∨ bitsOf (s.g b) 23 16 = 0) = false := decide_eq_false (not_or.2 hrange)
  have hmine := known_or_room (hroom.imp_right fun h => Nat.not_le.2 h.1)
  have hall := known_or_room (hroom.imp_right fun h => Nat.not_le.2 h.2)
  change execLease k a b s = _
  rw [execLease, myLeases_eq hy, hf, hfull, capCheck_none hcap hkind, beq_eq_false_iff_ne.2 hclock, hmine, hall]
  rfl

/-- A lease that the context holds or has requested is released at its address. -/
theorem lrel_held {l : Lease} (hl : y.leases.find? (fun l => l.same (s.k k.toNat).object (s.g a).toNat (s.g b)) = some l) :
    let c := s.k k.toNat
    let off := (s.g a).toNat
    let s1 := (s.modCtx s.hereCtxId (fun z => { z with leases := z.leases.filter (fun m => !m.same c.object off (s.g b)) })).unwant
      s.hereCtxId c.object off (s.g b)
    exec (.lrel k a b) s = .next (s1.addReq { s1.newReq kRelease 4 c.object l.addr 0 .none with arg0 := s.g b }).pumpPool := by
  intro c off s1
  change execLrel k a b s = _
  simp only [execLrel, myLeases_eq hy, hl, hf]
  rfl

omit hf

theorem lrel_unheld (hl : y.leases.any (fun l => l.same (s.k k.toNat).object (s.g a).toNat (s.g b)) = false) :
    exec (.lrel k a b) s = .next s := by
  have hnone := List.find?_eq_none.2 (List.any_eq_false.1 hl)
  change execLrel k a b s = _
  rw [execLrel, myLeases_eq hy, hnone]

end

end Sys2Proof.Machine

open Sys2Proof Sys2Proof.Machine

/-- Settles O25: `lease_passes` with what `leasesAsked` makes of the context's leases, `lrel_held` and `lrel_unheld`. -/
theorem leaseResults : Obligations.LeaseResults := by
  intro k a b s y hy hf c off x gb count width known
  refine ⟨fun hc hw hcap hkind hclock hroom => ⟨_, leasesAsked known c off gb, lease_passes hy hf ⟨hc, hw⟩ hcap hkind hclock hroom, rfl, rfl, rfl, rfl,
    leasesAsked_holds _ _ _ _, leasesAsked_length _ _ _ _ _⟩, ?_⟩
  intro others
  refine ⟨fun hk => ?_, lrel_unheld hy⟩
  obtain ⟨l, hl⟩ := Option.isSome_iff_exists.1 (List.find?_isSome.2 (List.any_eq_true.1 hk))
  have hsame : l.same c.object off gb = true := List.find?_some (p := fun l : Lease => l.same c.object off gb) hl
  exact ⟨_, others, lrel_held hy hf hl, rfl, rfl, rfl, ⟨l, List.mem_of_find?_eq_some hl, hsame, rfl⟩, rfl⟩

end

section
/-! PROOF. Values and answers that come from the pool, retransmission, the ends of leases, and promotions that complete (13 R225, R242, 23 R369, R370, R379). -/

namespace Sys2Proof.Machine

open Sys2Proof

/-! ## Responses and retransmission (R369, R370) -/

theorem respond_matched {s : State} {rsp : PoolRsp} {r : PoolReq} (hf : s.pool.fenced = false) (hm : s.matching rsp = some r)
    (hs : rsp.status.toNat ≤ 4) : s.respond rsp = s.answer r rsp 0 := by
  rw [State.respond, hf, hm]
  exact if_neg (Nat.not_lt.2 hs)

theorem respond_unmatched {s : State} {rsp : PoolRsp} (hf : s.pool.fenced = false) (hm : s.matching rsp = none) :
    s.respond rsp = s.countError rsp.port := by
  rw [State.respond, hf, hm]
  rfl

section
variable {n : Nat} {r : PoolReq} {s : State} (hf : s.pool.fenced = false) (hr : s.pool.reqs.find? (fun r => r.id == n) = some r)
  (hsent : r.sends ≠ 0) (hdue : r.lastSend + 20000 ≤ s.now)
include hf hr hsent hdue

/-- What a retransmission in its time does: the request is sent again, or counts as answered with status 1. -/
theorem execPoolRetransmit_due : execPoolRetransmit n s =
    if r.sends < 8 then
      let again : PoolReq := { r with sends := r.sends + 1, lastSend := s.now }
      .next { s with pool := { s.pool with reqs := s.pool.reqs.map (fun x => if x.id = n then again else x) }, outbox := s.outbox ++ [.pool again] }
    else .next (s.answer r { kind := r.kind, status := 1, pkg := r.pkg, object := r.object, seq := r.seq, value := 0,
                             addr := BitVec.ofNat 48 r.addr, bytes := [], port := r.port } 5) := by
  have hgo : ¬(r.sends = 0 ∨ s.now < r.lastSend + 20000 ∨ s.pool.fenced = true) := by
    simp [hsent, hf, hdue]
  rw [execPoolRetransmit, hr]
  exact if_neg hgo

theorem retransmit_again (h8 : r.sends < 8) : ∃ p, exec (.poolRetransmit n) s = .next p ∧
    p.outbox = s.outbox ++ [.pool { r with sends := r.sends + 1, lastSend := s.now }] ∧ p.pool.seq = s.pool.seq :=
  ⟨_, (execPoolRetransmit_due hf hr hsent hdue).trans (if_pos h8), rfl, rfl⟩

theorem retransmit_over (h8 : 8 ≤ r.sends) : ∃ p : PoolRsp, p.status = 1 ∧ exec (.poolRetransmit n) s = .next (s.answer r p 5) :=
  ⟨_, rfl, (execPoolRetransmit_due hf hr hsent hdue).trans (if_neg (Nat.not_lt.2 h8))⟩

end

/-! ## The end of a lease (R379, R380) -/

theorem leaseExpiry_ends {s : State} {i j : Nat} {x : Context} {l : Lease} (hx : look s.ctxs i = some x) (hl : x.leases[j]? = some l)
    (hg : l.granted.isSome = true) (he : l.expiry ≤ s.now + 1000) :
    ∃ t y, exec (.leaseExpiry i j) s = .next t ∧ look t.ctxs i = some y ∧
      y.leases = x.leases.take j ++ l.ended.toList ++ x.leases.drop (j + 1) := by
  change ∃ t y, execLeaseExpiry i j s = .next t ∧ _
  rw [execLeaseExpiry, hx, Option.bind_some, hl]
  refine ⟨_, _, if_pos ⟨hg, he⟩, (look_modCtx _ _ _ _).trans ((if_pos rfl).trans (congrArg (Option.map _) hx)), rfl⟩

/-! ## Promotions that complete (13 R225) -/

theorem setAt_eq_set {V : Type} (l : List V) (n : Nat) (v : V) : setAt l n v = l.set n v := by
  induction l generalizing n with
  | nil => rfl
  | cons x r ih => cases n with
    | zero => rfl
    | succ n => exact congrArg (x :: ·) (ih n)

section
variable {s : State} {n : Nat} {r : RangeRec} (hr : s.pool.ranges[n]? = some r)
include hr

theorem modRange_eq (f : RangeRec → RangeRec) : s.modRange n f = { s with pool := { s.pool with ranges := s.pool.ranges.set n (f r) } } := by
  rw [State.modRange, hr, ← setAt_eq_set]

theorem range_modRange (f : RangeRec → RangeRec) : (s.modRange n f).pool.ranges[n]? = some (f r) := by
  obtain ⟨hlt, -⟩ := List.getElem?_eq_some_iff.1 hr
  rw [modRange_eq hr]
  exact List.getElem?_set_self hlt

/-- Nothing is evicted where no eviction is pending. -/
theorem evictPending_none (hp : r.pendingEvict = none) : s.evictPending n = s := by
  rw [State.evictPending, State.range, hr]
  dsimp only
  rw [hp]

/-- A range that a valid handle names stays as it is (R388). -/
theorem dropUnnamed_named (hh : (s.handlesOf r).isEmpty = false) : s.dropUnnamed.pool.ranges[n]? = some r := by
  change (s.pool.ranges.map _)[n]? = _
  rw [List.getElem?_map, hr]
  exact congrArg some (if_neg (by rw [hh]; simp))

theorem promotionComplete_makesResident (hp : r.promoting = true) (hw : r.waiting = false) (hl : r.left = 0) (he : r.pendingEvict = none)
    (hh : (s.handlesOf r).isEmpty = false) : ∃ t, exec (.promotionComplete n) s = .next t ∧
      t.pool.ranges[n]? = some { r with promoting := false, resident := true, demoted := false, promotedAt := s.fresh } := by
  have hgo : (r.promoting && !r.waiting && decide (r.left = 0)) = true := by rw [hp, hw, hl]; rfl
  have hset := range_modRange hr (fun x => { x with promoting := false, resident := true, demoted := false, promotedAt := s.fresh })
  have hctxs : (s.modRange n (fun x => { x with promoting := false, resident := true, demoted := false, promotedAt := s.fresh })).ctxs = s.ctxs := by
    rw [modRange_eq hr]
  change ∃ t, execPromotionComplete n s = .next t ∧ _
  rw [execPromotionComplete, State.range, hr]
  refine ⟨_, if_pos hgo, ?_⟩
  rw [evictPending_none (s := State.tick1 _) hset he]
  refine dropUnnamed_named (s := State.tick1 _) hset ?_
  rw [State.handlesOf, tick1_ctxs, hctxs]
  exact hh

end

/-! ## Values of return streams (R242) -/

theorem landSlot_eq_map (slot : Nat) (v : Word) (l : List QSlot) :
    landSlot slot v l = l.map (fun x => if x.id = slot then { x with val := some v } else x) := by
  induction l with
  | nil => rfl
  | cons x r ih => rw [landSlot, ih, List.map_cons]

theorem streamSlotLand_lands {s : State} {n : Nat} {a : Arrival} (ha : s.arrivals.find? (fun a => a.id == n) = some a) (hd : a.due ≤ s.cycle) :
    ∃ t, exec (.streamSlotLand n) s = .next t ∧ (∀ x ∈ t.arrivals, x.id ≠ n) ∧
      (t.core a.cl a.core).e.stream a.q = ((s.core a.cl a.core).e.stream a.q).map (fun x =>
        if x.id = a.slot then { x with val := some a.value } else x) := by
  change ∃ t, execStreamSlotLand n s = .next t ∧ _
  rw [execStreamSlotLand, ha]
  refine ⟨_, if_pos hd, fun x hx => ?_, ?_⟩
  · rw [modE_arrivals] at hx
    simpa using (List.mem_filter.1 hx).2
  · rw [e_modE_same, landSlot_eq_map]
    exact tget_tset_same _ _ _ _

theorem poolEvents : PoolEvents := by
  intro rsp n i j s hf
  refine ⟨fun r hm hs => ?_, fun hm => ?_, fun r hr hsent hdue => ⟨retransmit_again hf hr hsent hdue, retransmit_over hf hr hsent hdue⟩,
    fun x l hx hl hg he => ?_, fun r hr hp hw hl he hh => promotionComplete_makesResident hr hp hw hl he hh,
    fun a ha hd => streamSlotLand_lands ha hd⟩
  · have hans : execPoolResponse rsp s = .next (s.answer r rsp 0) := congrArg Host.Outcome.next (respond_matched hf hm hs)
    exact ⟨hans, fun hk h0 => (if_pos ⟨hk, h0⟩).trans hans⟩
  · exact congrArg Host.Outcome.next (respond_unmatched hf hm)
  · obtain ⟨t, y, ht, hy, hls⟩ := leaseExpiry_ends hx hl hg he
    refine ⟨t, y, ht, hy, fun h0 => ?_, fun h0 => ?_⟩
    · rw [hls, Lease.ended, if_pos h0, Option.toList_none, List.append_nil, List.eraseIdx_eq_take_drop_succ]
    · obtain ⟨hlt, -⟩ := List.getElem?_eq_some_iff.1 hl
      rw [hls, Lease.ended, if_neg h0, Option.toList_some, List.append_assoc, List.singleton_append,
        ← (List.set_eq_take_append_cons_drop.trans (if_pos hlt))]
      exact List.getElem?_set_self hlt

end Sys2Proof.Machine
end

section
/-! PROOF. Fenced state: what entering it leaves, and the answers that enter it (23 R378, R385, log entry 52), and the settlement of the pool's answers. -/

namespace Sys2Proof.Machine

open Sys2Proof

/-! ## Entering (R385) -/

section
variable {s : State} (hf : s.pool.fenced = false)
include hf

theorem enterFenced_pool : s.enterFenced.pool =
    { s.pool with fenced := true, reqs := [], ranges := s.pool.ranges.map RangeRec.clear, lines := [] } := by
  rw [State.enterFenced, hf]; rfl

theorem enterFenced_emptied : PoolEmptied s.enterFenced := by
  rw [State.enterFenced, hf]
  exact ⟨rfl, rfl, rfl, List.forall_mem_map.2 fun _ _ => rfl, List.forall_mem_map.2 fun _ _ => rfl⟩

/-- Of a pget only lines that the pool has served go on (R378). -/
theorem enterFenced_pget {x : Xfer} (hx : x ∈ s.enterFenced.xfers) (hk : x.kind = .pget) : x.lines ≠ [] ∧ ∀ l ∈ x.lines, l.isPool = false := by
  have hxs : s.enterFenced.xfers = (s.xfers.map Xfer.fence).filter (fun t => t.kind != .pget || !t.lines.isEmpty) := by
    rw [State.enterFenced, hf]; rfl
  rw [hxs, List.mem_filter, hk] at hx
  obtain ⟨hx, hne⟩ := hx
  obtain ⟨t, -, rfl⟩ := List.mem_map.1 hx
  refine ⟨by simpa using hne, fun l hl => ?_⟩
  have hkind : t.fence.kind = t.kind := by unfold Xfer.fence; split <;> rfl
  rw [hkind] at hk
  simp only [Xfer.fence, hk, List.mem_filter] at hl
  simpa using hl.2

theorem enterFenced_ranges {r : RangeRec} (hr : r ∈ s.enterFenced.pool.ranges) : r.resident = false ∧ r.promoting = false ∧ r.waiting = false := by
  rw [enterFenced_pool hf] at hr
  obtain ⟨x, -, rfl⟩ := List.mem_map.1 hr
  exact ⟨rfl, rfl, rfl⟩

theorem enterFenced_outbox : s.enterFenced.outbox = s.outbox ++ [.report "fenced" s.pool.fence] := by
  rw [State.enterFenced, hf]
  exact congrArg (fun v => s.outbox ++ [OutMsg.report "fenced" v]) (BitVec.ofNat_toNat _ _)

end

/-! ## No residency traffic in fenced state (R388) -/

/-- A promotion neither begins nor goes on in fenced state where none waits for room. -/
theorem promoteStep_fenced {s : State} (hf : s.pool.fenced = true) (hw : ∀ r ∈ s.pool.ranges, r.waiting = false) (i : Nat) : s.promoteStep i = s := by
  unfold State.promoteStep
  split
  · rfl
  · rename_i r hr
    rw [hw r (List.mem_of_getElem? hr), hf]
    simp

theorem pumpResidency_fenced {s : State} (hf : s.pool.fenced = true) (hreqs : s.pool.reqs = []) (hw : ∀ r ∈ s.pool.ranges, r.waiting = false) :
    s.pumpResidency = s := by
  rw [State.pumpResidency, List.foldl_fixed' (promoteStep_fenced hf hw), State.pumpPool, hreqs]
  rfl

/-! ## An answer of status 1 (R378) -/

theorem postFault_pool (s : State) (ctx c k : Nat) (sec : Bool) (r : TrapRec) : (s.postFault ctx c k sec r).pool = s.pool := by
  unfold State.postFault State.modEOf
  split <;> rfl

theorem engineFault_pool (s : State) (c n ctx : Nat) (r : TrapRec) (a : Nat) : (s.engineFault c n ctx r a).pool = s.pool := by
  unfold State.engineFault
  dsimp only
  split
  · rfl
  · exact postFault_pool _ _ _ _ _ _

theorem xferFault_pool (s : State) (t : Xfer) (r : TrapRec) (a : Nat) : (s.xferFault t r a).pool = s.pool := by
  unfold State.xferFault
  split
  · exact engineFault_pool _ _ _ _ _ _
  · exact postFault_pool _ _ _ _ _ _
  · exact postFault_pool _ _ _ _ _ _

/-- A fault reaches sequencers and engines, and nothing of the pool side. -/
theorem poolFault_pool (s : State) (r : PoolReq) (ws : List (Nat × Bool × Nat × Nat)) (f : TrapRec) : (s.poolFault r ws f).pool = s.pool := by
  unfold State.poolFault
  split
  · split
    · rfl
    · split
      · rfl
      · exact xferFault_pool _ _ _ _
  · exact foldl_keeps State.pool (fun t w => postFault_pool _ _ _ _ _ _) _ _
  · split
    · exact postFault_pool _ _ _ _ _ _
    · rfl

theorem modRange_fenced (s : State) (i : Nat) (f : RangeRec → RangeRec) : (s.modRange i f).pool.fenced = s.pool.fenced := by
  unfold State.modRange
  split <;> rfl

theorem modCtx_pool (s : State) (n : Nat) (f : Context → Context) : (s.modCtx n f).pool = s.pool := by
  obtain ⟨l, hl⟩ := modCtx_onlyCtxs s n f
  rw [hl]

theorem poolRefused_fenced (s : State) (r : PoolReq) : (s.poolRefused r).pool.fenced = s.pool.fenced := by
  unfold State.poolRefused
  split
  · exact congrArg PoolSide.fenced (modCtx_pool _ _ _)
  · exact modRange_fenced _ _ _
  · dsimp only
    split <;> rfl
  · rfl

/-- The answer retires its request and raises its fault, then the package enters fenced state. -/
theorem answer_fences {s : State} {r : PoolReq} {rsp : PoolRsp} (j : Nat) (hf : s.pool.fenced = false) (h1 : rsp.status = 1) :
    ∃ u : State, u.pool.fenced = false ∧ s.answer r rsp j = u.enterFenced.pumpResidency := by
  unfold State.answer
  rw [h1]
  refine ⟨_, ?_, rfl⟩
  split
  · exact (poolRefused_fenced _ _).trans hf
  · exact (congrArg PoolSide.fenced (poolFault_pool _ _ _ _)).trans ((poolRefused_fenced _ _).trans hf)

theorem answer_emptied {s : State} {r : PoolReq} {rsp : PoolRsp} (j : Nat) (hf : s.pool.fenced = false) (h1 : rsp.status = 1) :
    PoolEmptied (s.answer r rsp j) := by
  obtain ⟨u, hu, he⟩ := answer_fences (r := r) j hf h1
  obtain ⟨hfenced, hreqs, -⟩ := enterFenced_emptied hu
  rw [he, pumpResidency_fenced hfenced hreqs fun r hr => (enterFenced_ranges hu hr).2.2]
  exact enterFenced_emptied hu

theorem fencedState : FencedState := by
  intro s
  refine ⟨fun h => if_pos h, fun hf => ⟨enterFenced_emptied hf, fun x hx hk => enterFenced_pget hf hx hk, fun r hr => ?_, enterFenced_outbox hf,
    enterFenced_mem s⟩, fun r rsp j hf h1 => ⟨answer_fences j hf h1, answer_emptied j hf h1⟩, fun r rsp hf hm h1 => ?_⟩
  · obtain ⟨h1, h2, -⟩ := enterFenced_ranges hf hr
    exact ⟨h1, h2⟩
  · refine ⟨s.answer r rsp 0, congrArg Host.Outcome.next (respond_matched hf hm ?_), answer_emptied 0 hf h1⟩
    rw [h1]
    decide

end Sys2Proof.Machine

open Sys2Proof Sys2Proof.Machine

/-- Settles O26: `poolEvents` and `fencedState`, its two parts. -/
theorem poolAnswers : Obligations.PoolAnswers := ⟨poolEvents, fencedState⟩

end

section
/-! PROOF. Accumulator views spilled to scratch and brought back, and loads of the microprogram store (13 R213, R215, 19 R337 to R339). -/

namespace Sys2Proof.Machine

open Sys2Proof

/-! ## Lists of numbered parts -/

/-- Numbers from a on, beside as many parts; what follows the parts has no number. -/
theorem zip_span {A : Type} (a r : Nat) (f : Nat → A) (m : List A) :
    (span a r).zip ((List.range r).map f ++ m) = (List.range r).map (fun i => (a + i, f i)) := by
  have hspan : span a r = (List.range r).map (fun i => a + i) := by simpa using map_span (fun i => i) a r
  rw [hspan, ← List.append_nil ((List.range r).map fun i => a + i), List.zip_append (by simp), List.zip_map', List.zip_nil_left, List.append_nil]

/-- Rows of c parts each, as one list of numbered parts. -/
theorem flatMap_range_map {A : Type} (r c : Nat) (f : Nat → Nat → A) :
    (List.range r).flatMap (fun i => (List.range c).map (f i)) = (List.range (r * c)).map (fun e => f (e / c) (e % c)) := by
  induction r with
  | zero => simp
  | succ r ih =>
    rw [List.range_succ, List.flatMap_append, ih, Nat.succ_mul, List.range_add, List.map_append, List.map_map, List.flatMap_singleton]
    congr 1
    refine List.map_congr_left fun j hj => ?_
    have hc : j < c := List.mem_range.1 hj
    rw [Function.comp_apply, Nat.add_comm, Nat.add_mul_div_right _ _ (by omega), Nat.div_eq_of_lt hc, Nat.zero_add, Nat.add_mul_mod_self_right,
      Nat.mod_eq_of_lt hc]

theorem append_zeros {l : List Byte} {n : Nat} (h : l.length ≤ n) :
    l ++ List.replicate (n - l.length) 0 = (List.range n).map (fun i => l.getD i 0) := by
  refine List.ext_getElem (by simp [h]) fun i h1 h2 => ?_
  rw [List.getElem_append, List.getElem_map, List.getElem_range]
  split
  · rw [List.getD_eq_getElem _ _ ‹_›]
  · rw [List.getElem_replicate, List.getD_eq_default _ _ (Nat.le_of_not_lt ‹_›)]

/-! ## Nibbles (R337) -/

theorem nibbles_length (l : List (BitVec 4)) : (nibbles l).length = (l.length + 1) / 2 := by
  induction l using nibbles.induct with
  | case1 => rfl
  | case2 a => simp [nibbles]
  | case3 a b r ih =>
    rw [nibbles, List.length_cons, ih, List.length_cons, List.length_cons]
    omega

theorem nibbles_getD (l : List (BitVec 4)) (i : Nat) :
    (nibbles l).getD i 0 = BitVec.ofNat 8 ((l.getD (2 * i) 0).toNat + 16 * (l.getD (2 * i + 1) 0).toNat) := by
  have hpair (a b : BitVec 4) : b ++ a = BitVec.ofNat 8 (a.toNat + 16 * b.toNat) := by
    refine BitVec.eq_of_toNat_eq ?_
    rw [Encoding.append_toNat, BitVec.toNat_ofNat, Nat.mod_eq_of_lt (by have := a.isLt; have := b.isLt; omega)]
    omega
  induction l using nibbles.induct generalizing i with
  | case1 => rfl
  | case2 a =>
    cases i with
    | zero => exact hpair a 0
    | succ i => rfl
  | case3 a b r ih =>
    cases i with
    | zero => exact hpair a b
    | succ i => exact ih i

/-! ## The layout of a spill in scratch (R337) -/

section
variable (s : State) (v : BitVec 2) (b : Reg)

/-- The bytes of a row of an accumulator view. -/
def State.accRb : Nat := (s.accView v).rb (s.viewWidth (s.accView v))

/-- Scratch offset and arena offset of each row of a spill. -/
def State.accRows : List (Nat × Nat) := (List.range (s.accView v).rows.toNat).map (fun i =>
  (bitsOf (s.g b) 21 0 + 64 * bitsOf (s.g b) 63 48 * i, (s.accView v).row i))

/-- The elements of an accumulator view. -/
def State.accElems : Nat := (s.accView v).rows.toNat * (s.accView v).cols.toNat

/-- The side-storage word of element e of an accumulator view, row by row. -/
def State.sideWord (e : Nat) : Nat :=
  let w := s.accView v
  (w.row (e / w.cols.toNat) + e % w.cols.toNat * s.viewWidth w / 8) / 4

/-- The side area of a spill: its offset, and its length in whole lines. -/
def State.sideAt : Nat := bitsOf (s.g b) 21 0 + 64 * bitsOf (s.g b) 63 48 * (s.accView v).rows.toNat
def State.sideLen : Nat := 64 * (((s.accElems v + 1) / 2 + 63) / 64)

theorem macPieces_eq : s.macPieces v b = (s.accRows v b).map (fun y => (y.1, s.accRb v)) ++ [(s.sideAt v b, s.sideLen v)] := by
  simp only [State.macPieces, State.accRows, map_span, List.map_map, Nat.zero_add]
  exact congrArg (fun n => _ ++ [(s.sideAt v b, n)]) (Nat.mul_comm _ _)

theorem macPieces_side : (s.macPieces v b).getLastD (0, 0) = (s.sideAt v b, s.sideLen v) := by rw [macPieces_eq, List.getLastD_concat]

theorem elemWords_eq : elemWords (s.accView v) (s.viewWidth (s.accView v)) = (List.range (s.accElems v)).map (s.sideWord v) := by
  simp only [elemWords, map_span, ← List.flatMap_def, Nat.zero_add]
  exact flatMap_range_map _ _ _

/-- What is made of each row of a spill. -/
theorem accRows_zip {A : Type} (f : Nat × Nat × Nat → A) : ((span 0 (s.accView v).rows.toNat).zip (s.macPieces v b)).map f =
    (List.range (s.accView v).rows.toNat).map (fun i => f (i, bitsOf (s.g b) 21 0 + 64 * bitsOf (s.g b) 63 48 * i, s.accRb v)) := by
  rw [macPieces_eq, State.accRows, List.map_map, zip_span, List.map_map]
  simp only [Nat.zero_add, Function.comp_def]

/-- The bytes of the side area: two nibbles to a byte, then zeros to its end. -/
theorem sideBytes_eq (f : Nat → BitVec 4) :
    let bs := nibbles ((elemWords (s.accView v) (s.viewWidth (s.accView v))).map f)
    let nib (e : Nat) : Nat := if e < s.accElems v then (f (s.sideWord v e)).toNat else 0
    bs ++ List.replicate (s.sideLen v - bs.length) 0 =
      (List.range (s.sideLen v)).map (fun i => BitVec.ofNat 8 (nib (2 * i) + 16 * nib (2 * i + 1))) := by
  intro bs nib
  have hbs : bs = nibbles ((List.range (s.accElems v)).map (fun e => f (s.sideWord v e))) := by
    rw [show bs = nibbles _ from rfl, elemWords_eq, List.map_map]
    rfl
  have hnib (e : Nat) : (((List.range (s.accElems v)).map (fun e => f (s.sideWord v e))).getD e 0).toNat = nib e := by
    change _ = if e < s.accElems v then _ else _
    split
    · rw [List.getD_eq_getElem _ _ (by simpa using ‹_›), List.getElem_map, List.getElem_range]
    · rw [List.getD_eq_default _ _ (by simpa using Nat.le_of_not_lt ‹_›)]
      rfl
  have hlen : bs.length ≤ s.sideLen v := by
    rw [hbs, nibbles_length, List.length_map, List.length_range, State.sideLen]
    omega
  rw [append_zeros hlen]
  refine List.map_congr_left fun i _ => ?_
  rw [hbs, nibbles_getD, hnib, hnib]

/-- The nibbles of the side area as scratch holds them, each with its word of side storage. -/
theorem sideNibs_eq :
    ((span 0 (elemWords (s.accView v) (s.viewWidth (s.accView v))).length).zip (elemWords (s.accView v) (s.viewWidth (s.accView v)))).map
      (fun p => (p.2, (((s.scr (s.sideAt v b) (s.sideLen v)).getD (p.1 / 2) 0 >>> (4 * (p.1 % 2))).truncate 4 : BitVec 4))) =
    (List.range (s.accElems v)).map (fun e => (s.sideWord v e,
      ((tget 0 s.hereCl.scratch (s.sideAt v b + e / 2)) >>> (4 * (e % 2))).extractLsb' 0 4)) := by
  rw [elemWords_eq, List.length_map, List.length_range, ← List.append_nil ((List.range _).map _), zip_span, List.map_map]
  refine List.map_congr_left fun e he => Prod.ext rfl ?_
  have hlt : e / 2 < s.sideLen v := by
    have hn : e < s.accElems v := List.mem_range.1 he
    rw [State.sideLen]
    omega
  rw [Function.comp_apply, Nat.zero_add, List.getD_eq_getElem?_getD, State.scr, readB_get _ _ _ _ hlt, Option.getD_some]
  ext i hi
  simp

end

/-! ## Spill and refill (R337, R338) -/

section
variable {s : State} {v : BitVec 2} {b : Reg}

theorem chkMac_none (hv : s.chkView (s.accView v) = none) (hp : ∀ p ∈ s.macPieces v b, ScratchOk p.1 p.2 64) : s.chkMac v b = none := by
  have hr : (s.macPieces v b).find? (fun p => decide (0x400000 < p.1 + p.2)) = none := List.find?_eq_none.2 fun p h => by simpa using (hp p h).1
  have ha : (s.macPieces v b).find? (fun p => decide (p.1 % 64 ≠ 0)) = none := List.find?_eq_none.2 fun p h => by simpa using (hp p h).2
  rw [State.chkMac, hv, hr, ha]
  rfl

/-- What holds of the pieces of a spill: of each row, and of the side area. -/
theorem forall_macPieces {P : Nat × Nat → Prop} :
    (∀ p ∈ s.macPieces v b, P p) ↔ (∀ y ∈ s.accRows v b, P (y.1, s.accRb v)) ∧ P (s.sideAt v b, s.sideLen v) := by
  rw [macPieces_eq, List.forall_mem_append, List.forall_mem_map, List.forall_mem_singleton]

theorem macst_passes (hc : s.chkMac v b = none) (hr : ∀ y ∈ s.accRows v b, s.chkArena y.2 (s.accRb v) = none) :
    let bs := nibbles ((elemWords (s.accView v) (s.viewWidth (s.accView v))).map (fun x => tget 0 s.here.side x))
    exec (.macst v b) s = .next (s.landAt (4 + s.cur.wbeats)
      ((s.accRows v b).flatMap (fun y => cells y.1 (readB s.here.arena y.2 (s.accRb v))) ++
        cells (s.sideAt v b) (bs ++ List.replicate (s.sideLen v - bs.length) 0))) := by
  intro bs
  have hall : firstTrap (s.chkMac v b :: (span 0 (s.accView v).rows.toNat).map (fun i => s.chkArena ((s.accView v).row i) (s.accRb v))) = none := by
    rw [hc, firstTrap_none, map_span]
    refine firstTrap_eq_none.2 (List.forall_mem_map.2 fun i hi => ?_)
    rw [Nat.zero_add]
    exact hr _ (List.mem_map_of_mem hi)
  change execMacst v b s = _
  rw [State.accRb] at hall
  rw [execMacst, hall, checked_none, accRows_zip, macPieces_side, State.accRows, List.flatMap_map, List.flatMap_def]
  rfl

theorem macld_passes (hc : s.chkMac v b = none) (hs : ∀ p ∈ s.macPieces v b, SealsOk s p.1 p.2) :
    exec (.macld v b) s = .next ((s.readLines false ((s.accRows v b).map (fun y => (y.1, s.accRb v)) ++ [(s.sideAt v b, s.sideLen v)])).pend
      (8 + s.cur.beats)
      [s.arenaW ((s.accRows v b).flatMap (fun y => cells y.2 (s.scr y.1 (s.accRb v)))),
       .side ((List.range (s.accElems v)).map (fun e => (s.sideWord v e,
         ((tget 0 s.hereCl.scratch (s.sideAt v b + e / 2)) >>> (4 * (e % 2))).extractLsb' 0 4)))] 0
      ((s.accRows v b).map (fun y => .arena y.1 y.2 (s.accRb v)) ++
        [.nibs (s.sideAt v b) ((List.range (s.accElems v)).map (s.sideWord v))])) := by
  change execMacld v b s = _
  rw [execMacld, hc, chkSeals_none hs, firstTrap_none, firstTrap_none, firstTrap_nil, checked_none]
  simp only [macPieces_side, accRows_zip, sideNibs_eq]
  rw [macPieces_eq, elemWords_eq, State.accRows, List.map_map, List.map_map, List.flatMap_map, List.flatMap_def]
  rfl

end

/-! ## The microprogram store (R339) -/

/-- A word that decodes, and whose loop does not end before it begins, is accepted. -/
theorem badMicro_false {n : Nat} {w : BitVec 32} {j : Instr} (hj : decodeMicro w = some j) (hl : ∀ l f c, j = .uloop l f c → n < l.toNat) :
    badMicro n w = false := by
  unfold badMicro
  rw [hj]
  split
  · cases ‹some j = none›
  · rename_i last f c he
    exact decide_eq_false (Nat.not_lt.2 (hl last f c (Option.some.inj he)))
  · rfl

theorem scrWords_eq (s : State) (a n : Nat) : s.scrWords a n = (List.range n).map (fun i => BitVec.ofNat 32 (natOf (s.scr (a + 4 * i) 4))) := by
  rw [State.scrWords, map_span]
  simp only [Nat.zero_add]

section
variable {d a b : Reg} {s : State}

theorem words_good (h : ∀ i u, (s.scrWords (s.g a).toNat (s.g b).toNat)[i]? = some u →
      ∃ j, decodeMicro u = some j ∧ ∀ l f c, j = .uloop l f c → (s.g d).toNat + i < l.toNat) :
    ((span (s.g d).toNat (s.scrWords (s.g a).toNat (s.g b).toNat).length).zip (s.scrWords (s.g a).toNat (s.g b).toNat)).any
      (fun p => badMicro p.1 p.2) = false := by
  rw [scrWords_eq] at h ⊢
  rw [List.length_map, List.length_range, ← List.append_nil ((List.range _).map _), zip_span]
  refine List.any_eq_false.2 (List.forall_mem_map.2 fun i hi => ?_)
  obtain ⟨j, hj, hl⟩ := h i _ (by rw [List.getElem?_map, List.getElem?_range (List.mem_range.1 hi)]; rfl)
  rw [badMicro_false hj hl]
  decide

theorem mload_passes (hm : s.e.mode = true) (hidle : s.here.run = none ∧ s.here.call = none ∧ s.here.wait = none)
    (hk : (s.g b).toNat ≠ 0) (hmax : (s.g b).toNat ≤ 16384) (hfit : (s.g d).toNat + (s.g b).toNat ≤ 16384)
    (hx : ScratchOk (s.g a).toNat (4 * (s.g b).toNat) 4) (he : EccOk s (s.g a).toNat (4 * (s.g b).toNat))
    (hw : ((span (s.g d).toNat (s.scrWords (s.g a).toNat (s.g b).toNat).length).zip (s.scrWords (s.g a).toNat (s.g b).toNat)).any
      (fun p => badMicro p.1 p.2) = false) :
    exec (.mload d a b) s = .next (((s.readLines false [((s.g a).toNat, 4 * (s.g b).toNat)]).pend (4 + s.cur.beats)
      [.store (s.g d).toNat (s.scrWords (s.g a).toNat (s.g b).toNat)] 0 [.words (s.g a).toNat (s.g d).toNat (s.g b).toNat]).modHere
        (fun y => { y with mloadUntil := s.cycle + (4 + s.cur.beats) })) := by
  obtain ⟨hrun, hcall, hwait⟩ := hidle
  have hpriv : s.chkPriv = none := by rw [State.chkPriv, hm]; rfl
  have hunit : (s.here.unitRuns || s.here.wait.isSome) = false := by rw [Core.unitRuns, hrun, hcall, hwait]; rfl
  have hlen : decide ((s.g b).toNat = 0 ∨ 16384 < (s.g b).toNat ∨ 16384 < (s.g d).toNat + (s.g b).toNat) = false := decide_eq_false (by omega)
  change execMload d a b s = _
  simp only [execMload, if_pos hmax, hpriv, hunit, hlen, chkScratch_none hx, chkEcc_none he, hw, trapIf_false, firstTrap_none, firstTrap_nil, checked_none]

theorem mload_refused (hm : s.e.mode = false) : exec (.mload d a b) s = .next (s.raise (s.illegal 23)) := by
  change execMload d a b s = _
  rw [execMload, chkPriv_task hm]
  rfl

end

/-- A result in flight that takes bytes of scratch changes its core's results in flight alone. -/
theorem here_pend_srcs (s : State) (n : Nat) (ws : List PWrite) (fl : Fl) (srcs : List Src) :
    (s.pend n ws fl srcs).here = { s.here with pending := s.here.pending ++
      [{ id := s.fresh, land := s.cycle + n, issued := s.cycle, sec := s.cur.sec, slot := s.cur.slot, pc := s.cur.pc,
         writes := ws, flags := fl, srcs := srcs }] } := by
  simp [State.pend]

end Sys2Proof.Machine

open Sys2Proof Sys2Proof.Machine

/-- Settles O35: `macst_passes` with the bytes of the side area by `sideBytes_eq`, `macld_passes`, `mload_passes` and `mload_refused`. -/
theorem spillsAndStores : Obligations.SpillsAndStores := by
  intro v d a b s w t rb base p rows n sn sa word nib side x k ws
  refine ⟨fun hbad hfits hrows hside => ?_, fun hm hrun hcall hwait hk hmax hfit hx he hw => ?_, fun hm => mload_refused hm⟩
  · have hc : s.chkMac v b = none := chkMac_none (chkView_none hbad hfits) (forall_macPieces.2 ⟨hrows, hside⟩)
    refine ⟨fun hr => ?_, fun hr hs => macld_passes hc (forall_macPieces.2 ⟨hr, hs⟩)⟩
    have h := macst_passes hc fun y hy => (chkArena_eq_none _ _ _).2 (hr y hy)
    dsimp only at h
    rw [sideBytes_eq] at h
    exact h
  · refine ⟨_, mload_passes hm ⟨hrun, hcall, hwait⟩ hk hmax hfit hx he (words_good hw), ?_, ?_⟩
    · rw [here_modHere, Nat.add_assoc]
    · rw [here_modHere, here_pend_srcs, Nat.add_assoc]
      refine ⟨_, congrArg (fun y => Core.pending y ++ _) (readLines_core _ _ _ _ _), rfl, rfl⟩

end
